-- ==== Sys2Proof/Word.lean ====
section
/-! DEFINITION. The words of the Mladura 4X: 32-bit registers, register groups, bytes and little-endian byte order (R1, R25). -/

namespace Sys2Proof

/-- A register of the thread's window, and an instruction word (R11, R20). -/
abbrev Word := BitVec 32

/-- A register pair: the named register holds bits 31:0 (R25). -/
abbrev DWord := BitVec 64

/-- A register quadruple, a handle or a barrier object (R25, R244, R327). -/
abbrev QWord := BitVec 128

/-- One location of the ordering model (R212). -/
abbrev Byte := BitVec 8

/-- An admin command packet, a kernel header or a tensor record: 512 bits, little-endian (R47, R61, R300). -/
abbrev Packet := BitVec 512

/-- The field hi:lo of a value, as an unsigned integer (R1, R6). -/
def bits (n hi lo : Nat) : Nat := (n >>> lo) % 2 ^ (hi - lo + 1)

/-- The two's complement reading of the low n bits of a value (R6). -/
def sextInt (n w : Nat) : Int :=
  let v := n % 2 ^ w
  if v < 2 ^ (w - 1) then (v : Int) else (v : Int) - (2 ^ w : Nat)

/-- The n bytes of a value, the least significant first (R1). -/
def bytesOf : Nat → Nat → List Byte
  | 0, _ => []
  | k + 1, v => BitVec.ofNat 8 v :: bytesOf k (v / 256)

/-- The value of a list of bytes, the least significant first (R1). -/
def ofBytes : List Byte → Nat
  | [] => 0
  | b :: bs => b.toNat + 256 * ofBytes bs

/-- The two's complement value of w bits of an exact integer (R6). -/
def wrapInt (w : Nat) (i : Int) : BitVec w := BitVec.ofInt w i

end Sys2Proof
end

