-- ==== Sys2Proof/Config.lean ====
section
/-! DEFINITION. What the spec leaves to the device, and its fixed counts. A constant without a body is a free value: nothing in Lean
can evaluate it, and a statement about it holds for every value. -/

namespace Sys2Proof.Config

/-- Which of the values that R35 allows a stale read returns: any number, taken modulo their count. -/
opaque staleChoice : Nat → Nat

/-- The 48-bit seal of a handle: a keyed MAC over its bits 79:36 and 29:0 and the context (R328). Arguments: a name of the context's
sealing key, the context number, the sealed bits. -/
opaque sealHandle : Nat → Nat → Nat → BitVec 48

/-- The 64-bit seal of a tensor record over its bits 447:0 and the context number (R301). -/
opaque sealRecord : Nat → Nat → Nat → BitVec 64

/-- The unwrapping of a key blob (R67): the session's key, the nonce, the ciphertext and the tag give the key pair, or none where the
GCM tag does not check. -/
opaque unwrapKey : Nat → BitVec 96 → BitVec 512 → BitVec 128 → Option (BitVec 512)

/-- What the Afhel root answers to an SPDM request, beside the measurements the spec gives (R68). -/
opaque spdmAnswer : Nat → Nat → BitVec 384

/-- Measurements of the hub firmware, the compute-die firmware and the configuration of the two links (R68). -/
opaque firmware : Nat → BitVec 384

/-- The digest of a context's measured-kernel table with its prot bit (R68): descriptor, length and digest of each entry, in load order. -/
opaque tableDigest : List (Nat × Nat × BitVec 384) → Bool → BitVec 384

/-- The functions of R184 that the spec bounds and does not fix: a code for each input code (R185). -/
opaque frcp : Word → Word
opaque frsq : Word → Word
opaque fexp2 : Word → Word
opaque flog2 : Word → Word
opaque fsin : Word → Word
opaque fcos : Word → Word

/-- The current in mA that an idle core draws (R345, R347): the spec gives no number. -/
opaque idleCurrent : Nat → Nat

/-- Whether a tie between zero and the smallest normal of a KIND 0x0 entry without subnormals goes to zero: both are even, and R173 says no
more (log entry 171). Arguments: EW, FW and BIAS. -/
opaque tieToZero : Nat → Nat → Int → Bool

/-- The A56 code of the value of an infinite element under a zero scale, by their signs (R177, log entry 172). -/
opaque infTimesZero : Bool → Bool → Nat

/-- The Device Serial Number of the module's functions (R360, R361). -/
opaque serialNumber : BitVec 64

/-- Values the spec does not state, by a number that the state supplies. -/
opaque freeValue : Nat → Nat

/-- Counts of R7, R11, R231, R233, R276, R286, R362. -/
def numCores : Nat := 384
def numStacks : Nat := 192
def numClusters : Nat := 64
def numDies : Nat := 4
def numFns : Nat := 64
def returnSlots : Nat := 64
def furrowQueue : Nat := 128
def copyQueue : Nat := 32
def kickRoom : Nat := 4
def matQueue : Nat := 16
def maxOutstanding : Nat := 16
def maxTracks : Nat := 64

/-- Installed frames of each die's tiers (R385). -/
def nearFrames : Nat := 785472
def granaryFrames : Nat := 3145728

/-- Thermal design power in watts (R17). -/
def tdp : Nat := 2400

end Sys2Proof.Config
end

