-- ==== Sys2Proof/Machine/Cipher.lean ====
section
/-! DEFINITION. The two public algorithms that the spec names: SHA-384 (R55, R67) and AES-XTS-256 (R66, R322). The spec gives their names
and not their steps; these are those of FIPS 180-4, FIPS 197 and IEEE 1619 (log entries 63 and 133). -/

namespace Sys2Proof.Machine

/-! ## SHA-384 -/

/-- Round constants of SHA-384: the first 64 fraction bits of the cube roots of the primes. -/
def shaK0 : List (BitVec 64) :=
  [0x428A2F98D728AE22, 0x7137449123EF65CD, 0xB5C0FBCFEC4D3B2F, 0xE9B5DBA58189DBBC,
   0x3956C25BF348B538, 0x59F111F1B605D019, 0x923F82A4AF194F9B, 0xAB1C5ED5DA6D8118,
   0xD807AA98A3030242, 0x12835B0145706FBE, 0x243185BE4EE4B28C, 0x550C7DC3D5FFB4E2,
   0x72BE5D74F27B896F, 0x80DEB1FE3B1696B1, 0x9BDC06A725C71235, 0xC19BF174CF692694]

/-- Round constants of SHA-384: the first 64 fraction bits of the cube roots of the primes. -/
def shaK1 : List (BitVec 64) :=
  [0xE49B69C19EF14AD2, 0xEFBE4786384F25E3, 0x0FC19DC68B8CD5B5, 0x240CA1CC77AC9C65,
   0x2DE92C6F592B0275, 0x4A7484AA6EA6E483, 0x5CB0A9DCBD41FBD4, 0x76F988DA831153B5,
   0x983E5152EE66DFAB, 0xA831C66D2DB43210, 0xB00327C898FB213F, 0xBF597FC7BEEF0EE4,
   0xC6E00BF33DA88FC2, 0xD5A79147930AA725, 0x06CA6351E003826F, 0x142929670A0E6E70]

/-- Round constants of SHA-384: the first 64 fraction bits of the cube roots of the primes. -/
def shaK2 : List (BitVec 64) :=
  [0x27B70A8546D22FFC, 0x2E1B21385C26C926, 0x4D2C6DFC5AC42AED, 0x53380D139D95B3DF,
   0x650A73548BAF63DE, 0x766A0ABB3C77B2A8, 0x81C2C92E47EDAEE6, 0x92722C851482353B,
   0xA2BFE8A14CF10364, 0xA81A664BBC423001, 0xC24B8B70D0F89791, 0xC76C51A30654BE30,
   0xD192E819D6EF5218, 0xD69906245565A910, 0xF40E35855771202A, 0x106AA07032BBD1B8]

/-- Round constants of SHA-384: the first 64 fraction bits of the cube roots of the primes. -/
def shaK3 : List (BitVec 64) :=
  [0x19A4C116B8D2D0C8, 0x1E376C085141AB53, 0x2748774CDF8EEB99, 0x34B0BCB5E19B48A8,
   0x391C0CB3C5C95A63, 0x4ED8AA4AE3418ACB, 0x5B9CCA4F7763E373, 0x682E6FF3D6B2B8A3,
   0x748F82EE5DEFB2FC, 0x78A5636F43172F60, 0x84C87814A1F0AB72, 0x8CC702081A6439EC,
   0x90BEFFFA23631E28, 0xA4506CEBDE82BDE9, 0xBEF9A3F7B2C67915, 0xC67178F2E372532B]

/-- Round constants of SHA-384: the first 64 fraction bits of the cube roots of the primes. -/
def shaK4 : List (BitVec 64) :=
  [0xCA273ECEEA26619C, 0xD186B8C721C0C207, 0xEADA7DD6CDE0EB1E, 0xF57D4F7FEE6ED178,
   0x06F067AA72176FBA, 0x0A637DC5A2C898A6, 0x113F9804BEF90DAE, 0x1B710B35131C471B,
   0x28DB77F523047D84, 0x32CAAB7B40C72493, 0x3C9EBE0A15C9BEBC, 0x431D67C49C100D4C,
   0x4CC5D4BECB3E42B6, 0x597F299CFC657E2A, 0x5FCB6FAB3AD6FAEC, 0x6C44198C4A475817]

def shaK : List (BitVec 64) := shaK0 ++ shaK1 ++ shaK2 ++ shaK3 ++ shaK4

/-- The eight words a hash starts from. -/
def shaInit : List (BitVec 64) :=
  [0xCBBB9D5DC1059ED8, 0x629A292A367CD507, 0x9159015A3070DD17, 0x152FECD8F70E5939,
   0x67332667FFC00B31, 0x8EB44A8768581511, 0xDB0C2E0D64F98FA7, 0x47B5481DBEFA4FA4]

/-- Bytes as a number, the first the most significant. -/
def ofBytesBE (bs : List Byte) : Nat := bs.foldl (fun n b => n * 256 + b.toNat) 0

/-- The message padded to whole blocks: a one bit, zeros, and its length in bits in 128 bits. -/
def shaPad (m : List Byte) : List Byte :=
  m ++ [0x80] ++ List.replicate ((239 - m.length % 128) % 128) 0 ++ (bytesOf 16 (8 * m.length)).reverse

/-- The words of the schedule, latest first, from the 16 of a block. -/
def shaWords : Nat → List (BitVec 64) → List (BitVec 64)
  | 0, ws => ws
  | n + 1, ws =>
    let w (i : Nat) : BitVec 64 := ws.getD (i - 1) 0
    let s0 := (w 15).rotateRight 1 ^^^ (w 15).rotateRight 8 ^^^ (w 15) >>> 7
    let s1 := (w 2).rotateRight 19 ^^^ (w 2).rotateRight 61 ^^^ (w 2) >>> 6
    shaWords n ((w 16 + s0 + w 7 + s1) :: ws)

/-- One round on the working words a to h. -/
def shaRound (v : List (BitVec 64)) (kw : BitVec 64 × BitVec 64) : List (BitVec 64) :=
  match v with
  | [a, b, c, d, e, f, g, h] =>
    let t1 := h + (e.rotateRight 14 ^^^ e.rotateRight 18 ^^^ e.rotateRight 41) + ((e &&& f) ^^^ (~~~e &&& g)) + kw.1 + kw.2
    let t2 := (a.rotateRight 28 ^^^ a.rotateRight 34 ^^^ a.rotateRight 39) + ((a &&& b) ^^^ (a &&& c) ^^^ (b &&& c))
    [t1 + t2, a, b, c, d + t1, e, f, g]
  | _ => v

def shaBlock (h : List (BitVec 64)) (block : List Byte) : List (BitVec 64) :=
  let ws := (List.range 16).map fun i => BitVec.ofNat 64 (ofBytesBE ((block.drop (8 * i)).take 8))
  List.zipWith (· + ·) h ((shaK.zip (shaWords 64 ws.reverse).reverse).foldl shaRound h)

def shaBlocks : Nat → List (BitVec 64) → List Byte → List (BitVec 64)
  | 0, h, _ => h
  | n + 1, h, m => shaBlocks n (shaBlock h (m.take 128)) (m.drop 128)

/-- SHA-384 of a byte string; the digest's bytes stand in memory order, the first in bits 7:0. -/
def sha384 (m : List Byte) : BitVec 384 :=
  let p := shaPad m
  let h := shaBlocks (p.length / 128) shaInit p
  .ofNat 384 (ofBytes ((h.take 6).flatMap fun w => (bytesOf 8 w.toNat).reverse))

/-! ## AES-256 -/

/-- A product in the field of AES, of two polynomials of degree below 8. -/
def aesMul : Nat → Nat → Nat → Nat
  | 0, _, _ => 0
  | k + 1, a, b => (if b % 2 = 1 then a else 0) ^^^ aesMul k (if 128 ≤ a then (2 * a) ^^^ 0x11B else 2 * a) (b / 2)

/-- The inverse in that field, 0 for 0: the power 254. -/
def aesInv (a : Nat) : Nat :=
  let m := aesMul 8
  let a2 := m a a
  let a4 := m a2 a2
  let a8 := m a4 a4
  let a16 := m a8 a8
  let a32 := m a16 a16
  let a64 := m a32 a32
  m (m a64 a64) (m a64 (m a32 (m a16 (m a8 (m a4 a2)))))

def rotByte (a n : Nat) : Nat := (a * 2 ^ n + a / 2 ^ (8 - n)) % 256

/-- The substitution of a byte and its inverse. -/
def aesSub (a : Nat) : Nat :=
  let i := aesInv a
  i ^^^ rotByte i 1 ^^^ rotByte i 2 ^^^ rotByte i 3 ^^^ rotByte i 4 ^^^ 0x63
def aesUnsub (a : Nat) : Nat := aesInv (rotByte a 1 ^^^ rotByte a 3 ^^^ rotByte a 6 ^^^ 0x05)

/-- The four-byte words of the key schedule, latest first, from the eight of the key. -/
def aesWords : Nat → Nat → List (List Nat) → List (List Nat)
  | 0, _, ws => ws
  | n + 1, i, ws =>
    let last := ws.headD []
    let t := if i % 8 = 0 then
        (((last.drop 1 ++ last.take 1).map aesSub).zip [2 ^ (i / 8 - 1), 0, 0, 0]).map fun p => p.1 ^^^ p.2
      else if i % 8 = 4 then last.map aesSub else last
    aesWords n (i + 1) (((ws.getD 7 []).zip t).map (fun p => p.1 ^^^ p.2) :: ws)

/-- The fifteen round keys of a 32-byte key. -/
def aesKeys (key : List Nat) : List (List Nat) :=
  let ws := (aesWords 52 8 ((List.range 8).map fun i => (key.drop (4 * i)).take 4).reverse).reverse
  (List.range 15).map fun r => ((ws.drop (4 * r)).take 4).flatten

def xorList (a b : List Nat) : List Nat := List.zipWith (· ^^^ ·) a b

/-- The rows of a state, columns of four bytes, shifted left by their number; `back` shifts them right. -/
def aesShift (back : Bool) (st : List Nat) : List Nat :=
  (List.range 16).map fun i => st.getD ((if back then i + 16 * 4 - 4 * (i % 4) else i + 4 * (i % 4)) % 16 / 4 * 4 + i % 4) 0

/-- The columns multiplied by the polynomial with these coefficients. -/
def aesMix (m : List Nat) (st : List Nat) : List Nat :=
  (List.range 16).map fun i =>
    ((List.range 4).map fun j => aesMul 8 (st.getD (i / 4 * 4 + j) 0) (m.getD ((j + 4 - i % 4) % 4) 0)).foldl (· ^^^ ·) 0

/-- Encryption of one 16-byte block. -/
def aesEnc (keys : List (List Nat)) (b : List Nat) : List Nat :=
  let st := (List.range 13).foldl (fun st r => xorList (aesMix [2, 3, 1, 1] (aesShift false (st.map aesSub))) (keys.getD (r + 1) []))
    (xorList b (keys.getD 0 []))
  xorList (aesShift false (st.map aesSub)) (keys.getD 14 [])

/-- Decryption of one 16-byte block. -/
def aesDec (keys : List (List Nat)) (b : List Nat) : List Nat :=
  let st := (List.range 13).foldl (fun st r =>
      aesMix [14, 11, 13, 9] (xorList ((aesShift true st).map aesUnsub) (keys.getD (13 - r) [])))
    (xorList b (keys.getD 14 []))
  xorList ((aesShift true st).map aesUnsub) (keys.getD 0 [])

/-! ## AES-XTS-256 on a sector -/

def natBytes (n v : Nat) : List Nat := (bytesOf n v).map (·.toNat)

/-- The tweak of the next block: doubled in the field of 2^128, its bytes read with the first the least significant. -/
def xtsDouble (t : Nat) : Nat := if 2 ^ 127 ≤ t then (2 * t) % 2 ^ 128 ^^^ 0x87 else 2 * t

/-- The four tweaks of a sector, from the tweak of its address. -/
def xtsTweaks (pair : BitVec 512) (tweak : Nat) : List (List Nat) :=
  let t0 := ofBytes ((aesEnc (aesKeys (natBytes 32 (pair.toNat / 2 ^ 256))) (natBytes 16 tweak)).map (BitVec.ofNat 8 ·))
  [t0, xtsDouble t0, xtsDouble (xtsDouble t0), xtsDouble (xtsDouble (xtsDouble t0))].map (natBytes 16)

/-- A 64-byte sector through AES-XTS under a key pair, its first 32 bytes the data key (R66, R322); the tweak is the sector's number. -/
def xts (dec : Bool) (pair : BitVec 512) (tweak : Nat) (data : List Byte) : List Byte :=
  let keys := aesKeys (natBytes 32 (pair.toNat % 2 ^ 256))
  ((xtsTweaks pair tweak).zipIdx.flatMap fun p =>
    let b := xorList ((data.drop (16 * p.2)).take 16 |>.map (·.toNat)) p.1
    xorList (if dec then aesDec keys b else aesEnc keys b) p.1).map (BitVec.ofNat 8 ·)

/-- What data encrypted under one pair reads as under another (R322). -/
def crossRead (old new : BitVec 512) (tweak : Nat) (data : List Byte) : List Byte :=
  if old = new then data else xts true new tweak (xts false old tweak data)

end Sys2Proof.Machine
end

