-- ==== Sys2Proof/Syntax.lean ====
section
/-! DEFINITION. The 290 steps of spec/opcode_table.json: 193 instruction words, each with its switch marker first, and 97 steps of
the other agents of the package, which have no word. Operands of an instruction are its word's fields (R22, R28 to R31); operands of
another step are what its agent or its environment supplies. -/

namespace Sys2Proof

/-- What an SPDM request asks of the Afhel root (R68). -/
inductive SpdmReq
  | certificate
  | challenge
  | measurement (index : Nat)
  | keyExchange
  deriving DecidableEq, Repr

/-- The TDISP state of a function's device interface (R364, R365). -/
inductive TdiState
  | configUnlocked
  | configLocked
  | run
  | error
  deriving DecidableEq, Repr

/-- The fields of a fabric flit that a receiver acts on, and whether its CRC holds after correction (R368).
Type: 0 idle, 1 data, 2 replay request, 3 training. `refused` is what the payload answers of an access that the peer refused (R367): the
sequence number of the flit that carried it, and which of its elements it is. -/
structure Flit where
  type : Nat
  seq : Nat
  ack : Nat
  crcOk : Bool
  refused : Option (Nat × Nat) := none
  credit : Nat := 0
  deriving DecidableEq, Repr

/-- An arriving access of a peer package (R366, R367). -/
structure PeerAccess where
  link : Nat
  win : Nat
  offset : Nat
  write : Bool
  tag : Nat
  data : List (BitVec 8)
  len : Nat
  deriving DecidableEq, Repr

/-- One constructor per row of the table. -/
inductive Instr
  /-- ADD (R147): Writes the 32-bit sum of W[a] and W[b] to W[d]. -/
  | add (s : Bool) (d : BitVec 7) (a : BitVec 7) (b : BitVec 7)
  /-- SUB (R147): Writes the 32-bit difference W[a] minus W[b] to W[d]. -/
  | sub (s : Bool) (d : BitVec 7) (a : BitVec 7) (b : BitVec 7)
  /-- MUL (R147): Writes the low 32 bits of the product W[a] times W[b]. -/
  | mul (s : Bool) (d : BitVec 7) (a : BitVec 7) (b : BitVec 7)
  /-- MULH (R147): Writes the high 32 bits of the signed product. -/
  | mulh (s : Bool) (d : BitVec 7) (a : BitVec 7) (b : BitVec 7)
  /-- MULHU (R147): Writes the high 32 bits of the unsigned product. -/
  | mulhu (s : Bool) (d : BitVec 7) (a : BitVec 7) (b : BitVec 7)
  /-- MAD (R147): Writes W[d] plus W[a] times W[b], reduced to 32 bits. -/
  | mad (s : Bool) (d : BitVec 7) (a : BitVec 7) (b : BitVec 7)
  /-- AND (R147): Writes the bitwise AND of W[a] and W[b]. -/
  | and (s : Bool) (d : BitVec 7) (a : BitVec 7) (b : BitVec 7)
  /-- OR (R147): Writes the bitwise OR of W[a] and W[b]. -/
  | or (s : Bool) (d : BitVec 7) (a : BitVec 7) (b : BitVec 7)
  /-- XOR (R147): Writes the bitwise XOR of W[a] and W[b]. -/
  | xor (s : Bool) (d : BitVec 7) (a : BitVec 7) (b : BitVec 7)
  /-- ANDN (R147): Writes W[a] AND NOT W[b]. -/
  | andn (s : Bool) (d : BitVec 7) (a : BitVec 7) (b : BitVec 7)
  /-- SHL (R147): Shifts W[a] left by bits 4:0 of W[b]. -/
  | shl (s : Bool) (d : BitVec 7) (a : BitVec 7) (b : BitVec 7)
  /-- SHR (R147): Shifts W[a] right logically by bits 4:0 of W[b]. -/
  | shr (s : Bool) (d : BitVec 7) (a : BitVec 7) (b : BitVec 7)
  /-- SRA (R147): Shifts W[a] right arithmetically by bits 4:0 of W[b]. -/
  | sra (s : Bool) (d : BitVec 7) (a : BitVec 7) (b : BitVec 7)
  /-- ROT (R147): Rotates W[a] toward the MSB by bits 4:0 of W[b]. -/
  | rot (s : Bool) (d : BitVec 7) (a : BitVec 7) (b : BitVec 7)
  /-- MIN (R147): Writes the signed minimum of W[a] and W[b]. -/
  | min (s : Bool) (d : BitVec 7) (a : BitVec 7) (b : BitVec 7)
  /-- MAX (R147): Writes the signed maximum of W[a] and W[b]. -/
  | max (s : Bool) (d : BitVec 7) (a : BitVec 7) (b : BitVec 7)
  /-- MINU (R147): Writes the unsigned minimum of W[a] and W[b]. -/
  | minu (s : Bool) (d : BitVec 7) (a : BitVec 7) (b : BitVec 7)
  /-- MAXU (R147): Writes the unsigned maximum of W[a] and W[b]. -/
  | maxu (s : Bool) (d : BitVec 7) (a : BitVec 7) (b : BitVec 7)
  /-- SEQ (R147): Writes 1 if W[a] equals W[b], else 0. -/
  | seq (s : Bool) (d : BitVec 7) (a : BitVec 7) (b : BitVec 7)
  /-- SNE (R147): Writes 1 if W[a] differs from W[b], else 0. -/
  | sne (s : Bool) (d : BitVec 7) (a : BitVec 7) (b : BitVec 7)
  /-- SLT (R147): Writes 1 if W[a] is less than W[b] read signed. -/
  | slt (s : Bool) (d : BitVec 7) (a : BitVec 7) (b : BitVec 7)
  /-- SLTU (R147): Writes 1 if W[a] is less than W[b] read unsigned. -/
  | sltu (s : Bool) (d : BitVec 7) (a : BitVec 7) (b : BitVec 7)
  /-- SEL (R147): Writes W[a] if W[d] is nonzero, else W[b]. -/
  | sel (s : Bool) (d : BitVec 7) (a : BitVec 7) (b : BitVec 7)
  /-- CLZ (R147): Writes the count of leading zero bits of W[a]. -/
  | clz (s : Bool) (d : BitVec 7) (a : BitVec 7)
  /-- POPC (R147): Writes the count of one bits of W[a]. -/
  | popc (s : Bool) (d : BitVec 7) (a : BitVec 7)
  /-- BREV (R147): Writes W[a] with its bit order reversed. -/
  | brev (s : Bool) (d : BitVec 7) (a : BitVec 7)
  /-- DIVU (R148): Writes the unsigned quotient with variable latency; division by zero gives all ones. -/
  | divu (s : Bool) (d : BitVec 7) (a : BitVec 7) (b : BitVec 7)
  /-- REMU (R148): Writes the unsigned remainder with variable latency. -/
  | remu (s : Bool) (d : BitVec 7) (a : BitVec 7) (b : BitVec 7)
  /-- SHLI (R152): Shifts W[a] left by an immediate count. -/
  | shli (s : Bool) (d : BitVec 7) (a : BitVec 7) (n : BitVec 5)
  /-- SHRI (R152): Shifts W[a] right logically by an immediate count. -/
  | shri (s : Bool) (d : BitVec 7) (a : BitVec 7) (n : BitVec 5)
  /-- SRAI (R152): Shifts W[a] right arithmetically by an immediate count. -/
  | srai (s : Bool) (d : BitVec 7) (a : BitVec 7) (n : BitVec 5)
  /-- ROTI (R152): Rotates W[a] by an immediate count. -/
  | roti (s : Bool) (d : BitVec 7) (a : BitVec 7) (n : BitVec 5)
  /-- BFE (R152): Extracts a bit field of W[a] under the control word in W[b]. -/
  | bfe (s : Bool) (d : BitVec 7) (a : BitVec 7) (b : BitVec 7)
  /-- BFI (R152): Inserts bits of W[a] into W[d] under the control word in W[b]. -/
  | bfi (s : Bool) (d : BitVec 7) (a : BitVec 7) (b : BitVec 7)
  /-- ADD64 (R153): Adds two register pairs as 64-bit values. -/
  | add64 (s : Bool) (d : BitVec 7) (a : BitVec 7) (b : BitVec 7)
  /-- SUB64 (R153): Subtracts two register pairs as 64-bit values. -/
  | sub64 (s : Bool) (d : BitVec 7) (a : BitVec 7) (b : BitVec 7)
  /-- SHL64 (R153): Shifts a 64-bit pair left by bits 5:0 of W[b]. -/
  | shl64 (s : Bool) (d : BitVec 7) (a : BitVec 7) (b : BitVec 7)
  /-- SHR64 (R153): Shifts a 64-bit pair right logically by bits 5:0 of W[b]. -/
  | shr64 (s : Bool) (d : BitVec 7) (a : BitVec 7) (b : BitVec 7)
  /-- MUL64 (R153): Writes the low 64 bits of the product of two pairs. -/
  | mul64 (s : Bool) (d : BitVec 7) (a : BitVec 7) (b : BitVec 7)
  /-- PTR (R154): Builds a tagged pointer pair from an offset and a control word. -/
  | ptr (s : Bool) (d : BitVec 7) (a : BitVec 7) (b : BitVec 7)
  /-- PTRSP (R154): Writes the space field of a tagged pointer pair. -/
  | ptrsp (s : Bool) (d : BitVec 7) (a : BitVec 7)
  /-- PTRRK (R154): Writes the cluster and core rank fields of a tagged pointer pair. -/
  | ptrrk (s : Bool) (d : BitVec 7) (a : BitVec 7)
  /-- PTROF (R154): Writes offset bits 31:0 of a tagged pointer pair. -/
  | ptrof (s : Bool) (d : BitVec 7) (a : BitVec 7)
  /-- ADD_H2 (R155): Adds packed 16-bit halves independently. -/
  | addH2 (s : Bool) (d : BitVec 7) (a : BitVec 7) (b : BitVec 7)
  /-- SUB_H2 (R155): Subtracts packed 16-bit halves independently. -/
  | subH2 (s : Bool) (d : BitVec 7) (a : BitVec 7) (b : BitVec 7)
  /-- MAX_H2 (R155): Writes the signed maximum of each 16-bit half. -/
  | maxH2 (s : Bool) (d : BitVec 7) (a : BitVec 7) (b : BitVec 7)
  /-- MIN_H2 (R155): Writes the signed minimum of each 16-bit half. -/
  | minH2 (s : Bool) (d : BitVec 7) (a : BitVec 7) (b : BitVec 7)
  /-- MAXU_H2 (R155): Writes the unsigned maximum of each 16-bit half. -/
  | maxuH2 (s : Bool) (d : BitVec 7) (a : BitVec 7) (b : BitVec 7)
  /-- MINU_H2 (R155): Writes the unsigned minimum of each 16-bit half. -/
  | minuH2 (s : Bool) (d : BitVec 7) (a : BitVec 7) (b : BitVec 7)
  /-- PACK_H2 (R155): Packs the low halves of W[a] and W[b] into W[d]. -/
  | packH2 (s : Bool) (d : BitVec 7) (a : BitVec 7) (b : BitVec 7)
  /-- ACS_H2 (R156): Performs one add-compare-select butterfly, writing metrics and decision bits to a pair. -/
  | acsH2 (s : Bool) (d : BitVec 7) (a : BitVec 7) (b : BitVec 7)
  /-- ADDI (R149): Adds a sign-extended 12-bit immediate to W[a]. -/
  | addi (s : Bool) (d : BitVec 7) (a : BitVec 7) (i : BitVec 12)
  /-- ANDI (R149): ANDs W[a] with a zero-extended immediate. -/
  | andi (s : Bool) (d : BitVec 7) (a : BitVec 7) (i : BitVec 12)
  /-- ORI (R149): ORs W[a] with a zero-extended immediate. -/
  | ori (s : Bool) (d : BitVec 7) (a : BitVec 7) (i : BitVec 12)
  /-- XORI (R149): XORs W[a] with a zero-extended immediate. -/
  | xori (s : Bool) (d : BitVec 7) (a : BitVec 7) (i : BitVec 12)
  /-- SLTI (R149): Writes 1 if W[a] is less than the signed immediate. -/
  | slti (s : Bool) (d : BitVec 7) (a : BitVec 7) (i : BitVec 12)
  /-- SLTIU (R149): Writes 1 if W[a] is less than the unsigned immediate. -/
  | sltiu (s : Bool) (d : BitVec 7) (a : BitVec 7) (i : BitVec 12)
  /-- MOVHI (R150): Places a 19-bit immediate in bits 31:13 of W[d]. -/
  | movhi (s : Bool) (d : BitVec 7) (i : BitVec 19)
  /-- BCC (R157): Branches by a word offset when the condition on W[a] holds. -/
  | bcc (s : Bool) (c : BitVec 3) (a : BitVec 7) (i : BitVec 12)
  /-- JMP (R158): Jumps by a signed 19-bit word offset. -/
  | jmp (s : Bool) (i : BitVec 19)
  /-- CALL (R160): Pushes a call frame on the spill stack and jumps by a word offset. -/
  | call (s : Bool) (i : BitVec 19)
  /-- JMPR (R160): Jumps to the code offset held in W[a]. -/
  | jmpr (s : Bool) (a : BitVec 7)
  /-- CALLR (R160): Pushes a call frame and jumps to the offset in W[a]. -/
  | callr (s : Bool) (a : BitVec 7)
  /-- RET (R160): Pops a call frame, restoring window base and program counter. -/
  | ret (s : Bool)
  /-- EXIT (R144): Ends the thread, publishing its stores and retiring the group if it is the last. -/
  | exit (s : Bool)
  /-- YIELD (R143): Restarts the thread's readiness time for the picker. -/
  | yield (s : Bool)
  /-- NOP (R158): Advances the program counter and does nothing else. -/
  | nop (s : Bool)
  /-- WINB (R141): Moves the thread's window base, relatively or absolutely. -/
  | winb (s : Bool) (x : BitVec 1) (a : BitVec 7) (b : BitVec 7)
  /-- ELECT (R139): Elects the lowest lane of a furrow collective or of each furrow in the sheaf. -/
  | elect (s : Bool) (d : BitVec 7) (a : BitVec 7)
  /-- FSYNC (R138): Waits at a furrow rendezvous keyed by a lane mask. -/
  | fsync (s : Bool) (a : BitVec 7)
  /-- FSHFL (R140): Exchanges W[a] between member lanes of a furrow rendezvous. -/
  | fshfl (s : Bool) (d : BitVec 7) (a : BitVec 7) (b : BitVec 7)
  /-- FBALLOT (R140): Gathers a predicate mask over member lanes of a furrow rendezvous. -/
  | fballot (s : Bool) (d : BitVec 7) (a : BitVec 7)
  /-- POLL (R142): Tests a condition and backs the thread off on failure. -/
  | poll (s : Bool) (d : BitVec 7) (a : BitVec 7)
  /-- LD (R206): Loads 1 to 16 bytes through a tagged pointer into registers. -/
  | ld (s : Bool) (d : BitVec 7) (a : BitVec 7) (z : BitVec 3) (o : BitVec 9)
  /-- ST (R206): Stores 1 to 16 bytes through a tagged pointer. -/
  | st (s : Bool) (d : BitVec 7) (a : BitVec 7) (z : BitVec 3) (o : BitVec 9)
  /-- LDF (R209): Loads and decodes one formatted scratch element to FP32. -/
  | ldf (s : Bool) (d : BitVec 7) (a : BitVec 7) (b : BitVec 7)
  /-- STF (R209): Encodes an FP32 value and stores one formatted scratch element. -/
  | stf (s : Bool) (d : BitVec 7) (a : BitVec 7) (b : BitVec 7)
  /-- LDS (R211): Loads a word from the spill stack relative to SP. -/
  | lds (s : Bool) (d : BitVec 7) (a : BitVec 7) (o : BitVec 7)
  /-- STS (R211): Stores a word to the spill stack relative to SP. -/
  | sts (s : Bool) (d : BitVec 7) (a : BitVec 7) (o : BitVec 7)
  /-- FADD (R182): Adds two FP32 values. -/
  | fadd (s : Bool) (d : BitVec 7) (a : BitVec 7) (b : BitVec 7)
  /-- FSUB (R182): Subtracts two FP32 values. -/
  | fsub (s : Bool) (d : BitVec 7) (a : BitVec 7) (b : BitVec 7)
  /-- FMUL (R182): Multiplies two FP32 values. -/
  | fmul (s : Bool) (d : BitVec 7) (a : BitVec 7) (b : BitVec 7)
  /-- FFMA (R182): Computes W[d] plus W[a] times W[b] with one rounding. -/
  | ffma (s : Bool) (d : BitVec 7) (a : BitVec 7) (b : BitVec 7)
  /-- FMIN (R183): Writes the smaller of two FP32 values. -/
  | fmin (s : Bool) (d : BitVec 7) (a : BitVec 7) (b : BitVec 7)
  /-- FMAX (R183): Writes the larger of two FP32 values. -/
  | fmax (s : Bool) (d : BitVec 7) (a : BitVec 7) (b : BitVec 7)
  /-- FABS (R183): Clears the sign bit of W[a]. -/
  | fabs (s : Bool) (d : BitVec 7) (a : BitVec 7)
  /-- FNEG (R183): Inverts the sign bit of W[a]. -/
  | fneg (s : Bool) (d : BitVec 7) (a : BitVec 7)
  /-- FCMP (R183): Writes a one-hot FP32 comparison result. -/
  | fcmp (s : Bool) (d : BitVec 7) (a : BitVec 7) (b : BitVec 7)
  /-- FSEL (R183): Selects W[a] or W[b] by the sign of W[d]. -/
  | fsel (s : Bool) (d : BitVec 7) (a : BitVec 7) (b : BitVec 7)
  /-- FRCP (R184): Writes the reciprocal of W[a] with variable latency. -/
  | frcp (s : Bool) (d : BitVec 7) (a : BitVec 7)
  /-- FRSQ (R184): Writes the reciprocal square root of W[a]. -/
  | frsq (s : Bool) (d : BitVec 7) (a : BitVec 7)
  /-- FSQRT (R184): Writes the correctly rounded square root of W[a]. -/
  | fsqrt (s : Bool) (d : BitVec 7) (a : BitVec 7)
  /-- FEXP2 (R184): Writes 2 to the power W[a]. -/
  | fexp2 (s : Bool) (d : BitVec 7) (a : BitVec 7)
  /-- FLOG2 (R184): Writes the base-2 logarithm of W[a]. -/
  | flog2 (s : Bool) (d : BitVec 7) (a : BitVec 7)
  /-- FSIN (R184): Writes the sine of W[a] in radians. -/
  | fsin (s : Bool) (d : BitVec 7) (a : BitVec 7)
  /-- FCOS (R184): Writes the cosine of W[a] in radians. -/
  | fcos (s : Bool) (d : BitVec 7) (a : BitVec 7)
  /-- FDIV (R184): Writes the correctly rounded quotient W[a] / W[b]. -/
  | fdiv (s : Bool) (d : BitVec 7) (a : BitVec 7) (b : BitVec 7)
  /-- HADD2_B (R186): Adds packed BF16 halves. -/
  | hadd2B (s : Bool) (d : BitVec 7) (a : BitVec 7) (b : BitVec 7)
  /-- HMUL2_B (R186): Multiplies packed BF16 halves. -/
  | hmul2B (s : Bool) (d : BitVec 7) (a : BitVec 7) (b : BitVec 7)
  /-- HFMA2_B (R186): Fused multiply-add on packed BF16 halves. -/
  | hfma2B (s : Bool) (d : BitVec 7) (a : BitVec 7) (b : BitVec 7)
  /-- HADD2_F (R186): Adds packed FP16 halves. -/
  | hadd2F (s : Bool) (d : BitVec 7) (a : BitVec 7) (b : BitVec 7)
  /-- HMUL2_F (R186): Multiplies packed FP16 halves. -/
  | hmul2F (s : Bool) (d : BitVec 7) (a : BitVec 7) (b : BitVec 7)
  /-- HFMA2_F (R186): Fused multiply-add on packed FP16 halves. -/
  | hfma2F (s : Bool) (d : BitVec 7) (a : BitVec 7) (b : BitVec 7)
  /-- CVTI (R187): Converts between FP32 and signed 32-bit integers under a rounding code. -/
  | cvti (s : Bool) (d : BitVec 7) (a : BitVec 7) (v : BitVec 1) (r : BitVec 3)
  /-- CVTU (R187): Converts between FP32 and unsigned 32-bit integers under a rounding code. -/
  | cvtu (s : Bool) (d : BitVec 7) (a : BitVec 7) (v : BitVec 1) (r : BitVec 3)
  /-- CVTA (R188): Converts between A56 register pairs and FP32. -/
  | cvta (s : Bool) (d : BitVec 7) (a : BitVec 7) (v : BitVec 1)
  /-- CVTF (R190): Decodes a code of a format entry at a lane position to FP32. -/
  | cvtf (s : Bool) (d : BitVec 7) (a : BitVec 7) (e : BitVec 6) (p : BitVec 3)
  /-- CVTN (R190): Rounds FP32 to a format entry and writes the code at a lane position. -/
  | cvtn (s : Bool) (d : BitVec 7) (a : BitVec 7) (e : BitVec 6) (r : BitVec 3) (p : BitVec 3)
  /-- FMTSET (R192): Sends a new descriptor for a programmable format entry to the hub and parks until installed. -/
  | fmtset (s : Bool) (a : BitVec 7) (b : BitVec 7)
  /-- FMTGET (R194): Reads a format table entry into a pair. -/
  | fmtget (s : Bool) (d : BitVec 7) (a : BitVec 7)
  /-- FMTGET_ST (R194): Reads NSTAT and clears the masked flags in one step. -/
  | fmtgetSt (s : Bool) (d : BitVec 7) (c : BitVec 5)
  /-- FMTCHK (R195): Tests a descriptor for well-formedness and optionally compares it with an entry. -/
  | fmtchk (s : Bool) (d : BitVec 7) (a : BitVec 7) (x : BitVec 1) (e : BitVec 6)
  /-- AADD (R237): Atomically adds at the home and returns the old value. -/
  | aadd (s : Bool) (d : BitVec 7) (a : BitVec 7) (n : BitVec 1) (r : BitVec 2) (c : BitVec 4)
  /-- AAND (R237): Atomically ANDs at the home. -/
  | aand (s : Bool) (d : BitVec 7) (a : BitVec 7) (n : BitVec 1) (r : BitVec 2) (c : BitVec 4)
  /-- AOR (R237): Atomically ORs at the home. -/
  | aor (s : Bool) (d : BitVec 7) (a : BitVec 7) (n : BitVec 1) (r : BitVec 2) (c : BitVec 4)
  /-- AXOR (R237): Atomically XORs at the home. -/
  | axor (s : Bool) (d : BitVec 7) (a : BitVec 7) (n : BitVec 1) (r : BitVec 2) (c : BitVec 4)
  /-- AMIN (R237): Atomic signed minimum at the home. -/
  | amin (s : Bool) (d : BitVec 7) (a : BitVec 7) (n : BitVec 1) (r : BitVec 2) (c : BitVec 4)
  /-- AMAX (R237): Atomic signed maximum at the home. -/
  | amax (s : Bool) (d : BitVec 7) (a : BitVec 7) (n : BitVec 1) (r : BitVec 2) (c : BitVec 4)
  /-- AMINU (R237): Atomic unsigned minimum at the home. -/
  | aminu (s : Bool) (d : BitVec 7) (a : BitVec 7) (n : BitVec 1) (r : BitVec 2) (c : BitVec 4)
  /-- AMAXU (R237): Atomic unsigned maximum at the home. -/
  | amaxu (s : Bool) (d : BitVec 7) (a : BitVec 7) (n : BitVec 1) (r : BitVec 2) (c : BitVec 4)
  /-- AXCHG (R237): Atomic exchange at the home. -/
  | axchg (s : Bool) (d : BitVec 7) (a : BitVec 7) (n : BitVec 1) (r : BitVec 2) (c : BitVec 4)
  /-- ACAS (R237): 32-bit compare-and-swap at the home. -/
  | acas (s : Bool) (d : BitVec 7) (a : BitVec 7) (n : BitVec 1) (r : BitVec 2) (c : BitVec 4)
  /-- ACAS64 (R237): 64-bit compare-and-swap at the home. -/
  | acas64 (s : Bool) (d : BitVec 7) (a : BitVec 7) (n : BitVec 1) (r : BitVec 2) (c : BitVec 4)
  /-- ACAS128 (R237): 128-bit compare-and-swap over a register octet at the home. -/
  | acas128 (s : Bool) (d : BitVec 7) (a : BitVec 7) (n : BitVec 1) (r : BitVec 2) (c : BitVec 4)
  /-- AFADD (R239): Atomic FP32 add at the home. -/
  | afadd (s : Bool) (d : BitVec 7) (a : BitVec 7) (n : BitVec 1) (r : BitVec 2) (c : BitVec 4)
  /-- AFADD_B2 (R239): Atomic add of two BF16 halves at the home. -/
  | afaddB2 (s : Bool) (d : BitVec 7) (a : BitVec 7) (n : BitVec 1) (r : BitVec 2) (c : BitVec 4)
  /-- ALD (R237): Single-copy atomic load of 4, 8 or 16 bytes. -/
  | ald (s : Bool) (d : BitVec 7) (a : BitVec 7) (z : BitVec 2) (r : BitVec 2) (c : BitVec 4)
  /-- AST (R237): Single-copy atomic store of 4, 8 or 16 bytes. -/
  | ast (s : Bool) (d : BitVec 7) (a : BitVec 7) (z : BitVec 2) (r : BitVec 2) (c : BitVec 4)
  /-- PHASE (R226): Publishes, refreshes, or both, at a scope. -/
  | phase (s : Bool) (c : BitVec 4) (k : BitVec 2)
  /-- FENCE (R227): Acquire, release or full fence at a scope. -/
  | fence (s : Bool) (c : BitVec 4) (k : BitVec 2)
  /-- QFENCE (R228): Places a joint ordering marker in the named engine queues. -/
  | qfence (s : Bool) (m : BitVec 6)
  /-- MONW (R229): Waits until a location at its home meets a condition, then acquires. -/
  | monw (s : Bool) (d : BitVec 7) (a : BitVec 7) (c : BitVec 4) (k : BitVec 2) (w : BitVec 1)
  /-- BARINIT (R243): Sets the member furrow mask of a named barrier. -/
  | barinit (s : Bool) (a : BitVec 7) (b : BitVec 4)
  /-- BARINIT_M (R246): Initialises a barrier object in memory with an expected count. -/
  | barinitM (s : Bool) (d : BitVec 7) (a : BitVec 7)
  /-- BARARR (R243): Arrives at a named barrier without waiting. -/
  | bararr (s : Bool) (b : BitVec 4)
  /-- BARARR_M (R259): Publishes and arrives at a barrier object. -/
  | bararrM (s : Bool) (a : BitVec 7)
  /-- BARWAIT (R259): Waits while the thread's arrived bit on a named barrier is set. -/
  | barwait (s : Bool) (b : BitVec 4)
  /-- BARWAIT_M (R259): Waits while a barrier object's phase equals a parity. -/
  | barwaitM (s : Bool) (d : BitVec 7) (a : BitVec 7)
  /-- BARSYNC (R259): Arrives at a named barrier and waits for the phase. -/
  | barsync (s : Bool) (b : BitVec 4)
  /-- BARSYNC_M (R259): Arrives at a barrier object and waits for the phase. -/
  | barsyncM (s : Bool) (a : BitVec 7)
  /-- BAREXP_M (R259): Adds expected bytes to a barrier object and arrives in one step. -/
  | barexpM (s : Bool) (d : BitVec 7) (a : BitVec 7)
  /-- GBAR (R247): Arrives at the launch-wide barrier and waits for release. -/
  | gbar (s : Bool)
  /-- CHINIT (R250): Binds a ring to a channel and opens it. -/
  | chinit (s : Bool) (a : BitVec 7) (h : BitVec 3)
  /-- CHPUSH (R261): Reserves a position, copies an entry into it and publishes it. -/
  | chpush (s : Bool) (a : BitVec 7) (h : BitVec 3)
  /-- CHPOP (R261): Waits for a visible position and copies its entry out. -/
  | chpop (s : Bool) (d : BitVec 7) (a : BitVec 7) (h : BitVec 3)
  /-- CHRES (R261): Reserves a channel position and returns its slot pointer. -/
  | chres (s : Bool) (d : BitVec 7) (h : BitVec 3)
  /-- CHPUB (R261): Publishes a reserved channel slot. -/
  | chpub (s : Bool) (a : BitVec 7) (h : BitVec 3)
  /-- CHPOLL (R261): Pops an entry if one is visible, otherwise fails as a poll. -/
  | chpoll (s : Bool) (d : BitVec 7) (a : BitVec 7) (h : BitVec 3)
  /-- CKICK (R279): Places a kick of a copy request list in a copy queue's kick register. -/
  | ckick (s : Bool) (q : BitVec 2) (a : BitVec 7) (n : BitVec 7)
  /-- CTAGW_ANY (R280): Waits until any masked copy tag is set. -/
  | ctagwAny (s : Bool) (a : BitVec 7) (h : BitVec 1)
  /-- CTAGW_ALL (R280): Waits until every masked copy tag is set. -/
  | ctagwAll (s : Bool) (a : BitVec 7) (h : BitVec 1)
  /-- CTAGFF (R280): Writes the index of the lowest set masked copy tag. -/
  | ctagff (s : Bool) (d : BitVec 7) (a : BitVec 7) (h : BitVec 1)
  /-- CTAGCLR (R280): Clears masked copy tags. -/
  | ctagclr (s : Bool) (a : BitVec 7) (h : BitVec 1)
  /-- CSTAT (R281): Reads the group's copy queue status. -/
  | cstat (s : Bool) (d : BitVec 7) (q : BitVec 2)
  /-- MZERO (R296): Queues zeroing of an accumulator with exact zero checksums. -/
  | mzero (s : Bool) (c : BitVec 2)
  /-- MMA_P (R289): Queues a paired matrix multiply-accumulate with per-block rounding. -/
  | mmaP (s : Bool) (h : BitVec 1) (c : BitVec 2) (x : BitVec 5) (y : BitVec 5)
  /-- MMA_C (R290): Queues a paired matrix multiply-accumulate with one rounding per cell. -/
  | mmaC (s : Bool) (h : BitVec 1) (c : BitVec 2) (x : BitVec 5) (y : BitVec 5)
  /-- MRD (R296): Reads one accumulator element as an A56 code. -/
  | mrd (s : Bool) (d : BitVec 7) (a : BitVec 7) (c : BitVec 2)
  /-- MWR (R296): Writes one accumulator element from an A56 code. -/
  | mwr (s : Bool) (d : BitVec 7) (a : BitVec 7) (c : BitVec 2)
  /-- MSTORE (R295): Stores an accumulator, rounded to an entry, through a tagged pointer. -/
  | mstore (s : Bool) (r : BitVec 3) (c : BitVec 2) (a : BitVec 7) (e : BitVec 6)
  /-- MSTORE_S (R295): Stores a slot's 32 KiB of codes unchanged through a tagged pointer. -/
  | mstoreS (s : Bool) (x : BitVec 5) (a : BitVec 7)
  /-- MQNT (R294): Quantises a quarter of an accumulator into a slot with block scales. -/
  | mqnt (s : Bool) (r : BitVec 3) (c : BitVec 2) (a : BitVec 7) (q : BitVec 2) (x : BitVec 5)
  /-- HAD (R293): Applies a Hadamard transform to a slot in place. -/
  | had (s : Bool) (p : BitVec 1) (r : BitVec 3) (n : BitVec 2) (x : BitVec 5)
  /-- MCHK (R299): Compares an accumulator's cells with its checksums. -/
  | mchk (s : Bool) (d : BitVec 7) (c : BitVec 2)
  /-- MWAIT (R297): Counts as outstanding until every earlier M entry is performed. -/
  | mwait (s : Bool)
  /-- SCLAIM (R282): Claims tile slots or accumulators for the group. -/
  | sclaim (s : Bool) (d : BitVec 7) (k : BitVec 2) (n : BitVec 6)
  /-- SREL (R307): Releases held slots or accumulators. -/
  | srel (s : Bool) (k : BitVec 2) (a : BitVec 7) (n : BitVec 6)
  /-- MLD (R302): Queues a tile load through a sealed tensor record into slots. -/
  | mld (s : Bool) (m : BitVec 2) (x : BitVec 5) (a : BitVec 7) (c : BitVec 1) (g : BitVec 6)
  /-- SINFO (R307): Reads a slot's or accumulator's metadata. -/
  | sinfo (s : Bool) (d : BitVec 7) (a : BitVec 7) (k : BitVec 2)
  /-- HNEW (R336): Creates a tensor at the home cluster and returns its full-weight handle. -/
  | hnew (s : Bool) (d : BitVec 7) (a : BitVec 7)
  /-- HSPLIT (R338): Divides a handle's weight between two handles. -/
  | hsplit (s : Bool) (d : BitVec 7) (a : BitVec 7) (m : BitVec 6)
  /-- HDROP (R339): Clears a handle and queues the post of its weight to the home. -/
  | hdrop (s : Bool) (a : BitVec 7)
  /-- HREC (R340): Queues the making of a sealed tensor record from a handle and template. -/
  | hrec (s : Bool) (d : BitVec 7) (a : BitVec 7) (t : BitVec 7)
  /-- HINFO (R341): Reads a tensor entry's generation, state and outstanding weight. -/
  | hinfo (s : Bool) (d : BitVec 7) (a : BitVec 7)
  /-- HBIND (R337): Queues binding of a tensor's finaliser to a bin and user word. -/
  | hbind (s : Bool) (d : BitVec 7) (a : BitVec 7) (b : BitVec 7)
  /-- PCLS (R355): Sets the group's performance class. -/
  | pcls (s : Bool) (c : BitVec 2)
  /-- BURN (R356): Sets the group's burn level. -/
  | burn (s : Bool) (l : BitVec 3)
  /-- BALIDLE (R357): Waits while the stack-mate draws less current than this core. -/
  | balidle (s : Bool)
  /-- YKRD (R358): Reads the stack's Yoke state. -/
  | ykrd (s : Bool) (d : BitVec 7)
  /-- PERMITS (R358): Reads the die's clock and boost permit state. -/
  | permits (s : Bool) (d : BitVec 7)
  /-- SYSRD (R77): Reads a selected thread or placement value. -/
  | sysrd (s : Bool) (d : BitVec 7) (b : BitVec 7)
  /-- SYSWR (R77): Writes SP or USERTAG. -/
  | syswr (s : Bool) (a : BitVec 7) (b : BitVec 7)
  /-- TRAP (R78): Raises USER_TRAP with an argument and code. -/
  | trap (s : Bool) (a : BitVec 7) (b : BitVec 7)
  /-- ERRRD (R80): Reads one word of the sticky error register at the hub. -/
  | errrd (s : Bool) (d : BitVec 7) (b : BitVec 7)
  /-- CLKRD (R81): Reads the die's raw cycle counter. -/
  | clkrd (s : Bool) (d : BitVec 7)
  /-- CLKRD_NOM (R81): Reads the integer part of the die's nominal counter. -/
  | clkrdNom (s : Bool) (d : BitVec 7)
  /-- REFRD (R81): Reads the package reference timer. -/
  | refrd (s : Bool) (d : BitVec 7)
  /-- MONCFG (R82): Claims and configures a cluster monitor unit. -/
  | moncfg (s : Bool) (d : BitVec 7) (a : BitVec 7) (u : BitVec 3)
  /-- MONRD (R83): Reads a result item of a monitor unit. -/
  | monrd (s : Bool) (d : BitVec 7) (a : BitVec 7) (u : BitVec 3)
  /-- BRK (R79): With debug set, records a break and halts the group. -/
  | brk (s : Bool) (b : BitVec 7)
  /-- NREC (R102): Posts node records to a work-graph bin. -/
  | nrec (s : Bool) (d : BitVec 7) (a : BitVec 7) (n : BitVec 7)
  /-- BINFLUSH (R103): Fires a work-graph bin. -/
  | binflush (s : Bool) (a : BitVec 7)
  /-- ENQ (R104): Places a launch packet in a device-fed queue. -/
  | enq (s : Bool) (d : BitVec 7) (a : BitVec 7)
  /-- CREATE (R61): Creates a context from a create packet. -/
  | create (fn : Nat) (pkt : Packet)
  /-- LOADKERNEL (R58): The Afhel root measures a kernel and enters it in the measured-kernel table. -/
  | loadkernel (fn : Nat) (pkt : Packet)
  /-- ACTIVATE (R58): Activates a context or resumes its BRK-halted groups. -/
  | activate (fn : Nat) (pkt : Packet)
  /-- QUIESCE (R58): Stops picking packets and node launches of a context. -/
  | quiesce (fn : Nat) (pkt : Packet)
  /-- SUSPEND (R59): Pre-empts every group of a context and saves its format table. -/
  | suspend (fn : Nat) (pkt : Packet)
  /-- SNAPPOOL (R110): Replaces a context's snapshot frame pool. -/
  | snappool (fn : Nat) (pkt : Packet)
  /-- DESTROY (R60): Tears a context down in order. -/
  | destroy (fn : Nat) (pkt : Packet)
  /-- CLEARERR (R58): Clears a context's sticky error register. -/
  | clearerr (fn : Nat) (pkt : Packet)
  /-- IMPORTKEY (R67): Unwraps a key into a key slot and binds it to contexts and measurements. -/
  | importkey (fn : Nat) (pkt : Packet)
  /-- SETHEADLAND (R62): Replaces a context's Headland threshold exponent. -/
  | setheadland (fn : Nat) (pkt : Packet)
  /-- DROPKEY (R66): Begins zeroizing a key slot. -/
  | dropkey (fn : Nat) (pkt : Packet)
  /-- QOPEN (R85): Opens a launch queue for a context. -/
  | qopen (fn : Nat) (pkt : Packet)
  /-- QCLOSE (R85): Closes a launch queue. -/
  | qclose (fn : Nat) (pkt : Packet)
  /-- QSTOP (R85): Stops a queue's packet reading. -/
  | qstop (fn : Nat) (pkt : Packet)
  /-- QSTART (R85): Resumes a stopped queue. -/
  | qstart (fn : Nat) (pkt : Packet)
  /-- PREEMPT (R130): Pre-empts every group on a core and holds it out of placement. -/
  | preempt (fn : Nat) (pkt : Packet)
  /-- PAGEHOLD (R316): Holds or releases a range of virtual pages against leasing. -/
  | pagehold (fn : Nat) (pkt : Packet)
  /-- TAGSET (R320): Retags a physical range sector by sector. -/
  | tagset (fn : Nat) (pkt : Packet)
  /-- NOTIFYRING (R323): Places the driver's notification ring. -/
  | notifyring (fn : Nat) (pkt : Packet)
  /-- HOTCFG (R325): Sets hotness thresholds, epoch and corrected-error notification period. -/
  | hotcfg (fn : Nat) (pkt : Packet)
  /-- HANDLEAREA (R330): Places a context's handle area. -/
  | handlearea (fn : Nat) (pkt : Packet)
  /-- PWRCFG (R353): Sets the power floor and die clock ceilings. -/
  | pwrcfg (fn : Nat) (pkt : Packet)
  /-- PEERWIN (R367): Sets a peer window of this package. -/
  | peerwin (fn : Nat) (pkt : Packet)
  /-- LINKCFG (R369): Configures and enables or disables a fabric link. -/
  | linkcfg (fn : Nat) (pkt : Packet)
  /-- START_UP_COMPLETE (R19): Bridge and controller training and firmware measurement finish, ending Request Retry Status. -/
  | startUpComplete (ok : Bool)
  /-- CONFIGURATION_REQUEST (R19): The PCIe physical function answers a configuration request, with Request Retry Status during start-up. -/
  | configurationRequest (aer : Bool)
  /-- FUNCTION_LEVEL_RESET (R362): Resets a function's registers and destroys its contexts. -/
  | functionLevelReset (fn : Nat)
  /-- ADMTAIL (R362): A write offers admin commands to the device under the doorbell rule. -/
  | admtail (fn : Nat) (v : Nat)
  /-- BAR0_REGISTER_WRITE (R362): A write to a function register without behaviour of its own. -/
  | bar0RegisterWrite (fn : Nat) (off : Nat) (v : Nat)
  /-- DOORBELL (R87): A doorbell write accepts packets of a host-fed queue or counts a bad write. -/
  | doorbell (fn : Nat) (q : Nat) (v : Nat)
  /-- SPDM_REQUEST (R68): The Afhel root answers an SPDM request over DOE. -/
  | spdmRequest (fn : Nat) (req : SpdmReq)
  /-- TDI_STATE_CHANGE (R365): A TDI leaving RUN or a stream losing its keys destroys protected contexts and suspends the rest. -/
  | tdiStateChange (fn : Nat) (tdi : TdiState) (keyed : Bool)
  /-- PCIE_LINK_DOWN (R361): Host engine traffic moves wholly to the remaining PCIe link. -/
  | pcieLinkDown (n : Nat)
  /-- RACK_CAP_MESSAGE (R352): An MCTP cap message is applied if newer, otherwise ignored. -/
  | rackCapMessage (msg : BitVec 64)
  /-- DEPENDENCE_REREAD (R90): Signals of an ineligible head packet are read again every 16 µs. -/
  | dependenceReread (q : Nat)
  /-- DEADLINE_MISSED (R93): The reference timer passes an undispatched packet's deadline. -/
  | deadlineMissed (q : Nat)
  /-- HANG (R75): The Headland count reaches 2^hlog and writes a HANG record and wait-for graph. -/
  | hang (ctx : Nat)
  /-- YOKE_SAMPLE (R345): The Yoke samples currents every 16 ns and moves the stack's state. -/
  | yokeSample (stack : Nat) (lower : Nat) (upper : Nat)
  /-- YOKE_THROTTLE_STEP (R346): Once per µs a throttled stack lowers or raises a mate's ratio. -/
  | yokeThrottleStep (stack : Nat)
  /-- POWER_PERIOD (R351): Each 10 µs the module adjusts per-cluster outstanding copy byte limits. -/
  | powerPeriod (watts : Nat)
  /-- MONITOR_SAMPLE (R82): A monitor unit takes a mid-rail sample every 64 cluster cycles. -/
  | monitorSample (cl : Nat) (u : Nat)
  /-- PAGEHOLD_DRAINED (R316): A hold completes once every page in its range has pin count 0. -/
  | pageholdDrained (fn : Nat)
  /-- LINK_TRAINED (R369): A fabric link finishes training and goes Up or Degraded. -/
  | linkTrained (n : Nat) (lanes : Nat) (domain : Nat) (pkg : Nat)
  /-- LINK_TRAINING_RETRY (R369): After 100 ms of failed training the link reports and retries. -/
  | linkTrainingRetry (n : Nat)
  /-- FLIT_RECEIVE (R368): A fabric flit is received, checked and acknowledged or answered with a replay request. -/
  | flitReceive (n : Nat) (flit : Flit)
  /-- LANE_LOSS (R369): A lost lane or thrice-failed flit puts the link in Recovering. -/
  | laneLoss (n : Nat)
  /-- LINK_TIMEOUT (R369): A Recovering link's timeout passes and it is Fenced. -/
  | linkTimeout (n : Nat)
  /-- PEER_ACCESS (R367): An arriving peer access is translated and checked through a window, or refused. -/
  | peerAccess (acc : PeerAccess)
  /-- PCIE_LINK_UP (R361): A PCIe link trains, in flit mode or failing to Detect, and host engine traffic is spread over both links again. -/
  | pcieLinkUp (n : Nat) (flit : Bool)
  /-- SCRUB (R318): The memory controller scrubs a sector, corrects or classifies it, and posts a notification on failure. -/
  | scrub (pa : Nat)
  /-- RELOCK_END (R349): A 2.5 µs relock ends and the die's clocks and counters resume. -/
  | relockEnd (die : Nat)
  /-- BOOST_FALL_STEP (R350): After 1 µs at 2.2 GHz a falling cluster relocks to its new frequency. -/
  | boostFallStep (die : Nat)
  /-- CLOCK_BOUNDARY (R349): At each 5,000-tick boundary the die charges permits, computes frequencies and may relock. -/
  | clockBoundary (die : Nat)
  /-- PERMIT_REFILL (R350): The boost pool gains a permit for each 25 µs without boost. -/
  | permitRefill (die : Nat)
  /-- LEAF_REREAD (R108): An invalid covered leaf is reread every 16 µs during Leasing. -/
  | leafReread (l : Nat)
  /-- PAGE_REQUEST_REPOST (R323): A page request is posted again every 1,024 µs while the page stays Unmapped. -/
  | pageRequestRepost (l : Nat)
  /-- MARKING_RESUME (R111): A launch waiting in Marking reserves frames once enough are free. -/
  | markingResume (l : Nat)
  /-- PLACEMENT_PREEMPT (R97): After 16 µs unplaced, lower-band groups are pre-empted to make room. -/
  | placementPreempt (l : Nat)
  /-- PLACEMENT_RESERVE (R96): After 64 µs unplaced, freed resources are held for the waiting launch. -/
  | placementReserve (l : Nat)
  /-- GROUP_SAVE_COMPLETE (R132): A halted group's save completes and its quota is released. -/
  | groupSaveComplete (g : Nat)
  /-- SLOT_LAZY_SAVE (R133): Held slots and accumulators of a Saved group are written to its record after the drain. -/
  | slotLazySave (g : Nat)
  /-- PREEMPT_HOLD_EXPIRY (R130): A PREEMPT hold time ends and the core returns to placement. -/
  | preemptHoldExpiry (core : Nat)
  /-- LAUNCH_DRAINED (R114): Every engine operation of a draining launch is performed or discarded. -/
  | launchDrained (l : Nat)
  /-- LAUNCH_FINISH (R115): A launch releases pins, charges, frames and scratch, then its signal is updated. -/
  | launchFinish (l : Nat)
  /-- ROLLBACK_COMPLETE (R116): Marked pages are restored and the launch returns to Marking. -/
  | rollbackComplete (l : Nat)
  /-- SNAPSHOT_PAGE_COPY (R112): A marked page is copied to its reserved frame before the first engine write. -/
  | snapshotPageCopy (l : Nat) (page : Nat)
  /-- BIN_TIMER (R99): A bin's timer fires its filling buffer. -/
  | binTimer (ctx : Nat) (bin : Nat)
  /-- RESULT_WRITEBACK (R35): A variable-latency result is written and a parked thread may become Ready. -/
  | resultWriteback (g : Nat) (t : Nat) (id : Nat)
  /-- BACKOFF_EXPIRY (R142): A backed-off thread becomes Ready after 2^level slice cycles. -/
  | backoffExpiry (g : Nat) (t : Nat)
  /-- MONW_TIMEOUT (R229): A MONW rereads its location after 64 µs of waiting. -/
  | monwTimeout (g : Nat) (t : Nat)
  /-- SERVICE_MESSAGE_ACCEPT (R231): A service furrow's queue accepts a message from a port. -/
  | serviceMessageAccept (cl : Nat)
  /-- SERVICE_FURROW_PERFORM (R232): A service furrow performs up to 32 requests in a cluster cycle. -/
  | serviceFurrowPerform (cl : Nat)
  /-- DRILL_FETCH (R267): The Drill fetches and checks a copy request and queues or refuses it. -/
  | drillFetch (core : Nat) (q : Nat)
  /-- COPY_ELEMENT (R268): The copy engine performs and checks one element. -/
  | copyElement (core : Nat) (q : Nat)
  /-- TRANSPOSER_BLOCK (R270): A 64 × 64 block of a transposing copy lands together. -/
  | transposerBlock (core : Nat) (q : Nat)
  /-- REDUCTION_ELEMENT (R271): A reduction element is combined at the destination's home. -/
  | reductionElement (core : Nat) (q : Nat)
  /-- COPY_COMPLETE (R275): A request's last byte lands, its stamp is written, then its tag is set. -/
  | copyComplete (core : Nat) (q : Nat)
  /-- M_ENTRY_PERFORM (R286): A matrix entry in M is performed on the stack's paired arrays. -/
  | mEntryPerform (stack : Nat)
  /-- HARROW_MLD (R302): The Harrow reads and checks a record and fills slots for an MLD. -/
  | harrowMld (cl : Nat)
  /-- HNEW_AT_HOME (R336): The home takes a Free tensor entry, latches the image and retags the span. -/
  | hnewAtHome (cl : Nat)
  /-- HREC_AT_TARGET (R340): The target checks the handle and writes a sealed record. -/
  | hrecAtTarget (core : Nat)
  /-- HBIND_AT_HOME (R337): A tensor's finaliser bin and user word are bound at the home. -/
  | hbindAtHome (core : Nat)
  /-- HANDLE_POST_APPLY (R333): A posted handle's weight is applied at its target entry or cell. -/
  | handlePostApply (src : Nat)
  /-- CELL_CREATE (R338): The creation of an indirection cell reaches its service furrow. -/
  | cellCreate (cl : Nat)
  /-- TENSOR_RETAG_COMPLETE (R331): A dying tensor's span is retagged, its generation advances and its finaliser record is posted. -/
  | tensorRetagComplete (ctx : Nat) (cl : Nat) (idx : Nat)
  /-- FMTSET_INSTALL (R193): The die format units install a new descriptor and the FMTSET completes. -/
  | fmtsetInstall (ctx : Nat)
  /-- BALIDLE_TIMEOUT (R357): A BALIDLE wait ends after 64 µs. -/
  | balidleTimeout (g : Nat) (t : Nat)
  /-- KEY_ZEROIZE_COMPLETE (R66): A zeroizing key slot is cleared once its engine operations end. -/
  | keyZeroizeComplete (slot : Nat)
  /-- TEARDOWN_COMPLETE (R58): A closing context's teardown completes and its number is released. -/
  | teardownComplete (ctx : Nat)
  /-- FUNDAMENTAL_RESET (R19): Brings the module up from reset in order. -/
  | fundamentalReset
  /-- CAP_EXPIRY (R352): An expired cap sets the budget halfway to the floor. -/
  | capExpiry
  /-- CAP_FLOOR_STEP (R352): 1 ms after expiry the budget becomes the floor. -/
  | capFloorStep
  /-- DISPATCH_PICK (R92): The dispatcher picks one eligible packet or node launch and consumes it. -/
  | dispatchPick
  /-- GROUP_PLACE (R96): The partitioning controller places or resumes a group when it fits. -/
  | groupPlace
  /-- SLEW_GRANT (R248): The slew limiter grants releases to up to 8 clusters per 32-tick window. -/
  | slewGrant
  /-- HOTNESS_EPOCH (R324): At each epoch every hotness counter halves and residuals clear. -/
  | hotnessEpoch
  /-- ILLEGAL_INSTRUCTION (R33): A thread issues a word that is an illegal instruction, or fetches beyond codebytes, and its groups end with ILLEGAL_OP. -/
  | illegalInstruction
  deriving DecidableEq, Repr

end Sys2Proof
end

