-- ==== Sys2Proof/Machine/State.lean ====
section
/-! DEFINITION. The state of the module as plain data: every piece of state the spec names, and the model's own schedule of turns. -/

namespace Sys2Proof.Machine

/-! ## Sparse tables: a unit that a table does not list holds the table's default -/

/-- The entry of key k, or the default. -/
def tget {α : Type} (d : α) : List (Nat × α) → Nat → α
  | [], _ => d
  | (i, a) :: r, k => if i = k then a else tget d r k

/-- The table with entry k replaced, keys ascending. -/
def tset {α : Type} : List (Nat × α) → Nat → α → List (Nat × α)
  | [], k, v => [(k, v)]
  | (i, a) :: r, k, v =>
    if i = k then (k, v) :: r
    else if k < i then (k, v) :: (i, a) :: r
    else (i, a) :: tset r k v

/-! ## Contexts, regions, keys -/

/-- R57. -/
inductive CtxState
  | free | opened | active | quiescing | suspended | closing
  deriving DecidableEq, Repr

/-- The effective values of a launch's region chain, latched at dispatch (R63 to R65). -/
structure Region where
  addr : Nat := 0
  save : Nat := 0
  ring : Nat := 0
  ringlog : Nat := 6
  replaylim : Nat := 0
  band : Nat := 0
  deadlinePol : Nat := 0
  gslots : Nat := 0
  regs : Nat := 0
  gmem : Nat := 0
  slots : Nat := 0
  scratch : Nat := 0
  copyshare : Nat := 0
  policy : Nat := 0
  checked : Bool := false
  keyslot : Nat := 0
  /-- each block of the chain, from the launch's own to the root, with its effective budgets
  (gslots, regs, gmem, slots, scratch) -/
  chain : List (Nat × Nat × Nat × Nat × Nat × Nat) := []
  deriving DecidableEq, Repr

/-- An entry of a context's measured-kernel table (R58, R68). -/
structure Measured where
  desc : Nat
  len : Nat
  digest : BitVec 384
  deriving DecidableEq, Repr

/-- A PAGEHOLD range (R316). -/
structure Hold where
  va : Nat
  pages : Nat
  deriving DecidableEq, Repr

/-- R99. -/
inductive BinState
  | empty | collecting | held
  deriving DecidableEq, Repr

/-- A work-graph bin (R98, R99). -/
structure Bin where
  desc : Nat
  idx : Nat
  kernel : Nat
  count : Nat
  timer : Nat
  region : Region
  queue : Nat
  state : BinState := .empty
  /-- records of the filling buffer, in arrival order, 32 bytes each -/
  records : List (List (BitVec 8)) := []
  /-- the reference-timer value at which the first record entered the filling buffer -/
  firstAt : Nat := 0
  /-- the cause that held the buffer (R100) -/
  heldCause : Nat := 0
  /-- the other buffer belongs to a node launch that has not ended -/
  otherBusy : Bool := false
  /-- the filling buffer is the second of the two in the save area (R98) -/
  second : Bool := false
  /-- finaliser records refused and waiting at the hub, in arrival order, each with the launch that its acceptance escapes (R99, R113, R380) -/
  waiting : List (Option Nat × List (BitVec 8)) := []
  deriving DecidableEq, Repr

/-- A node launch that is ready and not yet picked (R98 to R100). -/
structure NodeReady where
  bin : Nat
  cause : Nat
  records : List (List (BitVec 8))
  /-- the records stand in the bin's second buffer (R98) -/
  second : Bool := false
  deriving DecidableEq, Repr

/-- The state of a tensor entry (R331). -/
inductive EntState
  | free | live | dying | retired
  deriving DecidableEq, Repr

/-- A tensor entry at its home (R330, R331, R337). -/
structure Tensor where
  state : EntState := .free
  gen : Nat := 0
  returned : Nat := 0
  image : Packet := 0
  bin : Option Nat := none
  user : Word := 0
  /-- the entry fails its integrity check since software altered it (R330) -/
  altered : Bool := false
  /-- launch of the post applied last: the bin's acceptance of the node record is its escape event (R113, R380) -/
  last : Option Nat := none
  deriving DecidableEq, Repr

/-- An indirection cell (R332). `reserved` holds the core for whose next split it is kept; `creator` the launch that
created it. -/
structure Cell where
  live : Bool := false
  /-- created at a core, and its creation has not reached the service furrow yet (R338) -/
  pending : Bool := false
  gen : Nat := 0
  returned : Nat := 0
  kept : QWord := 0
  reserved : Option Nat := none
  creator : Nat := 0
  posted : Bool := false
  altered : Bool := false
  /-- it has failed its integrity check, and is dead for every later use (R330) -/
  dead : Bool := false
  deriving DecidableEq, Repr

/-- One context (R56 to R62, R73, R74, R110, R330). -/
structure Ctx where
  state : CtxState := .free
  fn : Nat := 0
  rootrcb : Nat := 0
  ptroot : Nat := 0
  scratchtab : Nat := 0
  hangbuf : Nat := 0
  savebase : Nat := 0
  keyslot : Nat := 0
  /-- name of the sealing key that CREATE derived (R328) -/
  sealKey : Nat := 0
  hlog : Nat := 30
  prot : Bool := false
  debug : Bool := false
  stale : Bool := false
  /-- entries 16 to 63 of the format table, index 0 for entry 16 (R163) -/
  fmt : List (BitVec 64) := []
  kernels : List Measured := []
  /-- first byte and length of every DESC section ever measured: their pages stay without write permission (R68) -/
  measured : List (Nat × Nat) := []
  sticky : BitVec 128 := 0
  headland : Nat := 0
  seq : Nat := 0
  holds : List Hold := []
  snapPool : List Nat := []
  snapBusy : List Nat := []
  harea : Option (Nat × Nat × Nat) := none
  usedHnew : Bool := false
  bins : List Bin := []
  nodeReady : List NodeReady := []
  tensors : List (Nat × Tensor) := []
  cells : List (Nat × Cell) := []
  deriving DecidableEq, Repr

/-- The states of R66's table: its text speaks of four, and its table, which gives their events, has these three (log entry 139). -/
inductive KeyState
  | empty | loaded | zeroizing
  deriving DecidableEq, Repr

/-- A key slot (R62, R66, R67). -/
structure KeySlot where
  state : KeyState := .empty
  fn : Nat := 0
  ctxmask : BitVec 64 := 0
  approved : List (BitVec 384) := []
  key : BitVec 512 := 0
  deriving DecidableEq, Repr

/-! ## Functions, admin rings, queues -/

/-- An admin command that has been read and has not completed (R130, R316). -/
inductive Pending
  | suspend (ctx : Nat)
  | preempt (core hold : Nat)
  | pagehold (ctx va pages : Nat)
  deriving DecidableEq, Repr

/-- One PCIe function: its BAR0 registers and its stream (R362, R364). -/
structure Fn where
  admring : BitVec 64 := 0
  admlog : Nat := 0
  admcpl : BitVec 64 := 0
  admtail : Nat := 0
  admhead : Nat := 0
  admvec : Nat := 0
  pending : Option Pending := none
  keyed : Bool := false
  tdi : TdiState := .configUnlocked
  sessions : Nat := 0
  deriving DecidableEq, Repr

/-- R85. -/
inductive QState
  | closed | running | stopped
  deriving DecidableEq, Repr

/-- A launch queue: the device's own copy of its control block fields (R84 to R87). -/
structure Queue where
  state : QState := .closed
  ctx : Nat := 0
  ring : Nat := 0
  ctl : Nat := 0
  vector : Nat := 0
  qlog : Nat := 0
  devmode : Bool := false
  read : Nat := 0
  write : Nat := 0
  picked : Nat := 0
  missed : Nat := 0
  baddoor : Nat := 0
  /-- the head packet, once read and checked, with the dependences already met (R89, R90) -/
  head : Option (BitVec 1024) := none
  met : List Nat := []
  headMissed : Bool := false
  /-- reference-timer value of the last reading of the head's signals (R90) -/
  readAt : Nat := 0
  /-- name of this opening: a launch of an earlier opening of the number is none of this queue's (R85, R90) -/
  opening : Nat := 0
  deriving DecidableEq, Repr

/-! ## Kernel headers and launches -/

/-- A channel entry of a kernel header (R48). -/
structure ChanDecl where
  size : Nat
  depth : Nat
  allow : Nat
  deriving DecidableEq, Repr

/-- The fields of a kernel header that a launch uses (R47). -/
structure Header where
  regs : Nat := 8
  furrows : Nat := 1
  nbar : Nat := 0
  chans : List ChanDecl := []
  slots : Nat := 0
  producer : Option Nat := none
  free : Bool := false
  gmem : Nat := 0
  spill : Nat := 0
  scratch : Nat := 0
  args : Nat := 0
  codebytes : Nat := 4
  codeoff : Nat := 64
  nbin : Nat := 0
  nrec : Nat := 0
  templates : List Packet := []
  deriving DecidableEq, Repr

/-- A lease of a launch: class 0 read, 1 write, 2 external-write (R107). -/
structure Lease where
  cls : Nat
  base : Nat
  len : Nat
  deriving DecidableEq, Repr

/-- A page of a launch's shadow (R312), its marking and its snapshot (R111, R112). -/
structure ShadowPage where
  page : Nat
  leaf : BitVec 64
  marked : Bool := false
  /-- an engine write has reached the page and waits for its copy (R112) -/
  wanted : Bool := false
  frame : Nat := 0
  copied : Bool := false
  deriving DecidableEq, Repr

/-- R105. -/
inductive LState
  | leasing | marking | placing | running | draining | rollingBack | finished | gone
  deriving DecidableEq, Repr

/-- The scratch of a launch on one die: its frames and their latched attributes (R200, R201). -/
structure ScratchDie where
  frames : List Nat := []
  attrs : List (BitVec 64) := []
  deriving DecidableEq, Repr

/-- What a fault reports (R71). -/
structure FaultInfo where
  code : Nat
  kind : Nat := 0
  d0 : Nat := 0
  d1 : Nat := 0
  pc : Int := 0
  lanes : Nat := 0
  furrow : Nat := 0
  core : Nat := 0x1FF
  usertag : Nat := 0
  /-- reference timer at detection, where the record is written later -/
  time : Option Nat := none
  launch : Option Nat := none
  group : Option Nat := none
  /-- the queue of a packet that has no launch (R89, R93) -/
  queue : Nat := 0
  /-- sector that a rollback for ECC_UNCORR reads again (R116) -/
  sector : Option Nat := none
  deriving DecidableEq, Repr

/-- Resources of a core: group slots, register units, KiB of group memory, tile slots, furrows (R95). -/
structure Use where
  groups : Nat := 0
  regs : Nat := 0
  gmem : Nat := 0
  slots : Nat := 0
  furrows : Nat := 0
  deriving DecidableEq, Repr

/-- One launch, from its pick to its signal update (R92, R105 to R117). -/
structure Launch where
  ctx : Nat := 0
  queue : Nat := 0
  /-- the opening of that queue from which it was picked (R85) -/
  opening : Nat := 0
  seq : Nat := 0
  packet : BitVec 1024 := 0
  node : Option Nat := none
  desc : Nat := 0
  hdr : Header := {}
  region : Region := {}
  digest : BitVec 384 := 0
  /-- physical frame addresses of the descriptor's pages, and its offset in the first -/
  codeFrames : List Nat := []
  codeBase : Nat := 0
  const : List (BitVec 8) := []
  gx : Nat := 1
  gy : Nat := 1
  gz : Nat := 1
  deadline : Nat := 2 ^ 64 - 1
  donesig : Nat := 0
  irq : Bool := false
  leases : List Lease := []
  shadow : List ShadowPage := []
  state : LState := .leasing
  ended : Bool := false
  replayable : Bool := false
  escaped : Bool := false
  replays : Nat := 0
  scratch : List (Nat × ScratchDie) := []
  nextLin : Nat := 0
  gbarGen : Nat := 0
  dispatched : Bool := false
  missed : Bool := false
  pickedAt : Nat := 0
  /-- reference-timer value since which a group of the launch has fitted nowhere (R96, R97) -/
  waitingSince : Option Nat := none
  /-- resources freed since then are held for it: the stamp, and what was in use on each core (R96) -/
  reserved : Option (Nat × List (Nat × Use)) := none
  /-- sector to be reread by a rollback for ECC_UNCORR (R116) -/
  rereadSector : Option Nat := none
  /-- the record of a fault whose action the reread decides (R116) -/
  heldFault : Option FaultInfo := none
  /-- covered pages that were found Unmapped, with the time of the last page request for each (R323) -/
  asked : List (Nat × Nat) := []
  /-- reference-timer value of the last leaf reread (R108) -/
  leafReadAt : Nat := 0
  deriving DecidableEq, Repr

/-! ## Threads and groups -/

/-- A thread's name: the position of its group in State.groups and its thread index (R123). -/
structure TRef where
  g : Nat
  t : Nat
  deriving DecidableEq, Repr

/-- What a Waiting thread waits for (R74, R119, R229, R242 to R253, R280, R357). -/
inductive Wait
  | collective (mask : Word) (minor : Nat)
  | namedBar (b : Nat)
  | object (ptr : DWord) (addr : Nat) (parity : Bool) (polled : Bool)
  | gbar
  | chanRes (ch : Nat) (d : BitVec 7) (stamp : Nat)
  | chanPush (ch : Nat) (src : DWord) (stamp : Nat)
  | chanPop (ch : Nat) (dst : DWord) (d : BitVec 7) (stamp : Nat)
  | tags (all : Bool) (hi : Nat) (mask : Word)
  | monw (ptr : DWord) (addr size : Nat) (expect : Nat) (cond : Nat) (scope : Nat) (since : Nat)
  | balidle (since : Nat)
  /-- records that a bin has refused, offered again at each expiry (R102) -/
  | nrec (bin : Nat) (records : List (List (BitVec 8)))
  deriving DecidableEq, Repr

/-- R119. BackedOff holds the slice-cycle count at which it ends, and what is repeated then. -/
inductive Status
  | ready
  | parked
  | waiting (w : Wait)
  | backedOff (due : Nat) (poll : Option Wait)
  | exited
  deriving DecidableEq, Repr

/-- Where a variable-latency result comes from: still awaited, or the words it will write (R35). -/
inductive ResVal
  | awaited
  | have (ws : List Word)
  /-- a word of the context's sticky error register, read when it is performed at the hub (R80) -/
  | sticky (sel : Nat)
  deriving DecidableEq, Repr

/-- One outstanding variable-latency result (R34, R35, R121). `regs` are allocated register numbers; a register discarded
under R25 is none. `slot` is set while the result holds a lane of a return slot (R233). -/
structure Outst where
  id : Nat
  regs : List (Option Nat)
  val : ResVal
  seq : Nat
  slot : Option Nat := none
  deriving DecidableEq, Repr

/-- The values a read of a register may return while the outstanding result `id` to it is (R35): what it held when the result issued, and what
has been written to it since; with the program-order number of the last write that has reached it. A register has one for each outstanding
result, the oldest first, which allows the most. -/
structure Cand where
  id : Nat
  reg : Nat
  vals : List Word
  last : Nat
  deriving DecidableEq, Repr

/-- A status that a thread record may be altered to (R132): one of R119, or none of them. -/
inductive Altered
  | status (st : Status)
  | unknown
  deriving DecidableEq, Repr

/-- How far an earlier store or atomic must have gone before a later effect becomes visible (R217): performed at its home, or
(level die) in the die copy when its home is on another die. -/
structure Need where
  id : Nat
  home : Bool
  deriving DecidableEq, Repr

/-- A refresh that waits until earlier atomics of the thread have taken their values (R218, R219). -/
structure Pend where
  scope : Nat
  reqs : List Nat
  /-- publish that must complete first (PHASE.pubref, FENCE.ar) -/
  needs : List Need
  deriving DecidableEq, Repr

/-- One thread (R119 to R121). -/
structure Thread where
  status : Status := .ready
  /-- halted, keeping its status as its prior state -/
  halted : Bool := false
  pc : Int := 0
  regs : List Word := []
  base : Nat := 0
  sp : Word := 0
  usertag : Word := 0
  nstat : BitVec 5 := 0
  level : Nat := 0
  /-- the last issued instruction carried S, so that the thread parks once it is not waiting (R34) -/
  marked : Bool := false
  readyAt : Nat := 0
  outs : List Outst := []
  cands : List Cand := []
  seq : Nat := 0
  /-- what later stores, atomics and engine entries of the thread wait for (R217) -/
  after : List Need := []
  /-- what later engine entries read after: the last engine publish (R222) -/
  engAfter : List Need := []
  pend : List Pend := []
  /-- writes of other threads that the thread has observed, or that are ordered before its last refresh, and that are not performed yet (R217,
  R220) -/
  seen : List Nat := []
  /-- locations on other dies whose values the thread has taken at their homes, by an atomic or a MONW: address and bytes (R217) -/
  obs : List (Nat × Nat) := []
  /-- the thread has observed the completion of an engine entry, whose writes its next publish covers (R217) -/
  obsEng : Bool := false
  /-- its save record holds a wait state that is none of R119 (R132) -/
  badWait : Bool := false
  /-- atomics issued and not yet performed, with their addresses and sizes -/
  atoms : List (Nat × Nat × Nat) := []
  /-- cluster cycle at which the present wait began (R82) -/
  waitAt : Nat := 0
  /-- the channel of its last failing poll, if that was a CHPOLL (R255) -/
  pollCh : Option Nat := none
  deriving DecidableEq, Repr

/-- A named barrier: member furrows and arrived threads, one bit each (R242). -/
structure NBar where
  members : Nat := 0
  arrived : Nat := 0
  deriving DecidableEq, Repr

/-- R251. -/
inductive PosState
  | reserved | published
  deriving DecidableEq, Repr

/-- A channel of a group (R250, R251): positions from pop to res are listed by state; those below vis are Visible. -/
structure Chan where
  opened : Bool := false
  ring : DWord := 0
  res : Nat := 0
  vis : Nat := 0
  pop : Nat := 0
  pos : List (Nat × PosState) := []
  deriving DecidableEq, Repr

/-- An open furrow rendezvous: arrived lanes with their value and source-lane operands and the result they await (R137). -/
structure Rdv where
  furrow : Nat
  mask : Word
  minor : Nat
  arrived : List (Nat × Word × Word × Nat) := []
  deriving DecidableEq, Repr

/-- R118. -/
inductive GState
  | resident | halting | saved | retired | stopped
  deriving DecidableEq, Repr

/-- Metadata of a slot (R284). -/
structure SlotMeta where
  fmt : Nat := 14
  geom : Nat := 0
  sfmt : Nat := 0
  scslot : Nat := 0
  hsize : Nat := 0
  sums : Nat := 0
  src : Bool := false
  /-- the MLD whose record has yet to install metadata, if it is the slot's last writer (R284) -/
  pending : Option Nat := none
  deriving DecidableEq, Repr

/-- A tile slot of a Saved group that was written to its record (R133, R283): on the group's core or its mate, with its metadata and its
bytes by offset. -/
structure SavedSlot where
  mate : Bool
  idx : Nat
  md : SlotMeta
  data : List Host.Cell
  deriving DecidableEq, Repr

/-- One group that has been placed (R118, R122, R132). -/
structure Group where
  launch : Nat := 0
  lin : Nat := 0
  /-- attempt of the launch that placed it: the replays before it (R116) -/
  attempt : Nat := 0
  core : Nat := 0
  state : GState := .resident
  threads : List Thread := []
  cls : Nat := 1
  clsAt : Nat := 0
  burn : Nat := 0
  /-- base of its block of the core's group memory (R198) -/
  gbase : Nat := 0
  resumes : Nat := 0
  bars : List NBar := []
  chans : List Chan := []
  rdvs : List Rdv := []
  /-- copy tag bitmap (R273) -/
  tags : BitVec 64 := 0
  /-- requests completed on each of C0 to C3 since placement (R281) -/
  done : List Nat := [0, 0, 0, 0]
  /-- threads that have arrived at the launch-wide barrier in the generation in progress (R247) -/
  gbar : Nat := 0
  /-- released at the launch-wide barrier while Saved (R248) -/
  gbarFreed : Bool := false
  /-- halted by BRK until ACTIVATE (R79) -/
  brk : Bool := false
  /-- offset of the save record in the region's save area, while Saved (R132) -/
  record : Option Nat := none
  recordLen : Nat := 0
  /-- offset of the spill backing in the save area (R203) -/
  spillAt : Option Nat := none
  /-- stamp of its last placement -/
  placedAt : Nat := 0
  /-- contents of group memory as they were saved (R132), which a record that cannot be read back leaves -/
  savedGmem : List Host.Cell := []
  /-- slots and accumulators in the record (R283) -/
  savedSlots : List SavedSlot := []
  /-- accumulators in the record: index and cells -/
  savedAcc : List (Nat × List (Nat × Nat)) := []
  /-- what other groups need of what it holds while Saved (R133): own slots 0 to 31, slots on the mate 32 to 63, accumulators from 64 -/
  displace : List Nat := []
  deriving DecidableEq, Repr

/-! ## Ordering -/

/-- A byte stored by a lane and not yet performed at its home (R213, R214). `nib` 1 or 2 stores only the low or high nibble
(R210). `fwd` is the order in which it entered the die copy. -/
structure SEntry where
  id : Nat
  core : Nat
  thr : TRef
  addr : Nat
  val : Byte
  nib : Nat := 0
  after : List Nat := []
  fwd : Option Nat := none
  /-- in the die copy when its core last refreshed at die scope or wider: later loads of the core fetch it or a later one from there (R218, R220) -/
  shared : Bool := false
  deriving DecidableEq, Repr

/-- Snapshot values of a core's view, or values of a die copy (R213): the nibbles of one byte that `mask` names (R212), 1 low and 2 high;
`src` are the stores they came from, where those are not performed. -/
structure Snap where
  addr : Nat
  val : Byte
  mask : Nat := 3
  src : List Nat := []
  deriving DecidableEq, Repr

/-- The view of a core (R213, R218). `pkg` says that a refresh at package scope or wider has been made; `fetched` holds the locations of
other dies fetched since the last one, and `near` those of them that a narrower refresh lets come from the die copy again. -/
structure View where
  snaps : List Snap := []
  pkg : Bool := false
  fetched : List Nat := []
  near : List Nat := []
  deriving DecidableEq, Repr

/-- What a request asks of a service furrow (R230, R237, R245). -/
inductive Req
  | atom (op size : Nat) (operand : Nat)
  deriving DecidableEq, Repr

/-- One request of a message (R231). `out` names the outstanding result it writes. -/
structure Request where
  id : Nat
  thr : TRef
  lane : Nat
  addr : Nat
  ptr : DWord
  pc : Int
  req : Req
  out : Option Nat := none
  needs : List Need := []
  after : List Nat := []
  /-- the acquire's scope, if the atomic acquires (R219) -/
  acq : Option Nat := none
  /-- cluster cycle of its issue, for the monitors (R82) -/
  at0 : Nat := 0
  /-- accepted at its home before the group whose memory it reaches began to halt (R241) -/
  spared : Bool := false
  /-- stamp of the placement in which another group's memory was named (R240) -/
  placed : Option Nat := none
  deriving DecidableEq, Repr

/-- A message: the requests one sheaf's instruction sends to one service furrow (R231). -/
structure Msg where
  sheaf : Nat
  cl : Nat
  port : Nat
  reqs : List Request
  /-- 16-byte units on which some of its requests have been performed (R232) -/
  part : List Nat := []
  deriving DecidableEq, Repr

/-! ## Engines -/

/-- What an engine entry carries of its issuer. -/
structure Issuer where
  launch : Nat := 0
  thr : TRef := { g := 0, t := 0 }
  core : Nat := 0
  pc : Int := 0
  lane : Nat := 0
  /-- engine publishes that must complete before its sources are read (R222) -/
  needs : List Need := []
  /-- entries issued before the group's halt that must be performed first (R223), and publishes of later accesses -/
  after : List Need := []
  resumes : Nat := 0
  deriving DecidableEq, Repr

/-- A fetched copy request (R263, R267) with its progress. -/
structure Copy where
  req : BitVec 1024
  ptr : DWord
  sdesc : BitVec 64
  ddesc : BitVec 64
  keyslot : Option Nat := none
  atag : Nat := 0
  tensor : Option (Nat × Nat) := none
  started : Option Nat := none
  next : Nat := 0
  counted : Nat := 0
  landed : Nat := 0
  stamped : Bool := false
  barRec : Bool := false
  /-- elements of a peer source that have been asked for, and those answered with their codes (R366, R368) -/
  asked : List Nat := []
  got : List (Nat × Nat) := []
  deriving DecidableEq, Repr

/-- One element that a tile load has read (R302): the cores that take it, its position in the slot, its code, and the scale code of the block
that it begins. -/
structure TilePut where
  cores : List Nat
  pos : Nat
  code : Nat
  scale : Option Nat := none
  deriving DecidableEq, Repr

/-- An MLD in C3 (R302). -/
structure Mld where
  mode : Nat
  slot : Nat
  ck : Bool
  tag : Nat
  record : Nat
  row0 : Nat
  k0 : Nat
  outer : Nat
  /-- the context's format table as the issuing die's unit held it at issue (R193) -/
  fmts : List (BitVec 64) := []
  /-- once it has begun: the metadata of its record, and the elements it has read and not yet written (R304) -/
  tile : Option (SlotMeta × List TilePut) := none
  deriving DecidableEq, Repr

/-- A slot operand as an entry latches it at issue (R284): its metadata and descriptors. -/
structure SlotLatch where
  md : SlotMeta := {}
  ed : BitVec 64 := 0
  sd : BitVec 64 := 0
  deriving DecidableEq, Repr

/-- A matrix entry (R286). -/
inductive MOp
  | mzero (acc : Nat)
  | mma (chained : Bool) (had : Bool) (acc a b : Nat) (al bl : SlotLatch)
  | mrd (acc x : Nat) (out : Nat)
  | mwr (acc x : Nat) (val : Nat)
  | mstore (acc : Nat) (rnd : Nat) (e : Nat) (desc : BitVec 64) (ptr : DWord)
  | mstoreS (slot : Nat) (ptr : DWord)
  | mqnt (acc : Nat) (rnd : Nat) (q slot : Nat) (lat : SlotLatch)
  | had (pair : Bool) (rnd n slot : Nat) (lat latM : SlotLatch)
  | mchk (acc : Nat) (out : Nat)
  deriving DecidableEq, Repr

/-- A tensor or cell operation in queue H (R337, R339). -/
inductive HOp
  | post (h : QWord)
  | bind (h : QWord) (bin : Nat) (user : Word)
  deriving DecidableEq, Repr

/-- What stands in an engine queue. -/
inductive Work
  | copy (c : Copy)
  | mld (m : Mld)
  | hrec (h : QWord) (tmpl off : Nat) (out : Nat)
  | mat (m : MOp)
  | hand (h : HOp)
  /-- a joint marker, and the kicks that stood in the named queues' kick registers at its issue: it goes once they are fetched (R224 b) -/
  | marker (id mask : Nat) (kicks : List Nat)
  /-- an MWAIT in M: the result that ends when every entry before it has (R297) -/
  | mwait (out : Nat)
  deriving DecidableEq, Repr

/-- One entry of an engine queue (R222, R228, R276, R286). -/
structure Entry where
  id : Nat
  iss : Issuer
  work : Work
  /-- its place in its thread's order: of a copy, its kick's (R339) -/
  ord : Nat := 0
  /-- the entry carries a tensor record (R339) -/
  record : Bool := false
  begun : Bool := false
  /-- cluster cycle at which it entered the queue (R82) -/
  at0 : Nat := 0
  deriving DecidableEq, Repr

/-- A kick in a kick register (R276, R279). -/
structure Kick where
  id : Nat := 0
  iss : Issuer
  ptr : DWord
  n : Nat
  fetched : Nat := 0
  deriving DecidableEq, Repr

/-- A tracked program counter of a core's picker (R126, R127). -/
structure Track where
  launch : Nat
  pc : Int
  lastPick : Nat
  allocAt : Nat
  /-- its last pick stalled (R127) -/
  stalled : Bool := false
  deriving DecidableEq, Repr

/-- An operation on its way from a service furrow to the hub or back: an HNEW (R336). -/
structure HnewReq where
  id : Nat
  iss : Issuer
  ctx : Nat
  image : Packet
  out : Nat
  deriving DecidableEq, Repr

/-- The owner of a slot or accumulator (R282, R283): a group, or a group that is releasing it once its entries end. -/
structure Holder where
  g : Nat
  releasing : Bool := false
  deriving DecidableEq, Repr

/-- A tile slot (R282 to R285). Its 32 KiB stand in memory; sums are the exact checksum sums of R298, as fractions. -/
structure Slot where
  holder : Option Holder := none
  md : SlotMeta := {}
  sums : List (Int × Nat) := []
  deriving DecidableEq, Repr

/-- One core (R7, R11, R126, R233, R276). -/
structure Core where
  tracks : List Track := []
  /-- counters that wait for an entry, by launch and counter, in the order in which their first thread became Ready there (R126) -/
  want : List (Nat × Int) := []
  pickNo : Nat := 0
  view : View := {}
  /-- return slots in use, each with the number of lane results left in it (R233) -/
  retSlots : List (Nat × Nat) := []
  copyQ : List (List Entry) := [[], [], [], []]
  kicks : List (List Kick) := [[], [], [], []]
  hq : List Entry := []
  slots : List (Nat × Slot) := []
  k : Nat := 8
  /-- slice cycles before the present ratio, and cluster pulses at its start (R348) -/
  sliceBase : Nat := 0
  pulseBase : Nat := 0
  /-- the last copy queue that was served (R276) -/
  served : Nat := 3
  /-- kept out of placement by a PREEMPT in progress, and by holds until a time (R130) -/
  out : Bool := false
  outUntil : Option Nat := none
  deriving DecidableEq, Repr

/-- The state of an accumulator's checksums (R298). -/
inductive ChkState
  | absent | exact | inexact | indeterminate
  deriving DecidableEq, Repr

/-- An accumulator: nonzero A56 codes by index, and its checksum row and column (R287, R298). -/
structure Acc where
  holder : Option Holder := none
  cells : List (Nat × Nat) := []
  chk : ChkState := .absent
  modeP : Bool := false
  row : List Nat := []
  col : List Nat := []
  rowAbs : List (Int × Nat) := []
  colAbs : List (Int × Nat) := []
  deriving DecidableEq, Repr

/-- R346. -/
inductive Yoke
  | balanced | shunting | throttled | tripped
  deriving DecidableEq, Repr

/-- One stack (R7, R286, R345 to R347). Budget in ns of shunting. -/
structure Stack where
  mq : List Entry := []
  accs : List Acc := [{}, {}, {}, {}]
  yoke : Yoke := .balanced
  lower : Nat := 0
  upper : Nat := 0
  budget : Nat := 20000
  /-- quarter nanoseconds of refill carried -/
  refill : Nat := 0
  lastSample : Nat := 0
  /-- since when |m| has been at or above the trip level, and at or below the continuous limit -/
  tripSince : Option Nat := none
  calmSince : Option Nat := none
  lastStep : Nat := 0
  deriving DecidableEq, Repr

/-- A monitor unit (R82, R83). -/
structure Monitor where
  ctx : Option Nat := none
  source : Nat := 0
  cores : Nat := 0
  enable : Bool := false
  min : Nat := 0
  max : Nat := 0
  count : Nat := 0
  hist : List Nat := []
  /-- cluster cycle of the latest mid-rail sample -/
  sampledAt : Nat := 0
  /-- cluster cycle of the MONCFG that claimed it, with the threads and registers that its statuses went to (R83) -/
  setAt : Option (Nat × List (TRef × Nat)) := none
  deriving DecidableEq, Repr

/-- One cluster (R7, R231, R245, R350). -/
structure Cluster where
  ports : List (List Msg) := []
  queue : List Msg := []
  /-- 16-byte units that a 128-bit request performed in the last cluster cycle still occupies (R232) -/
  busy : List Nat := []
  nextPort : Nat := 0
  monitors : List Monitor := List.replicate 8 {}
  /-- class latched at the last boundary, and the time it became boost (R349, R350) -/
  cls : Nat := 1
  claimAt : Option Nat := none
  mhz : Nat := 20
  boost : Bool := false
  /-- it held a group at the last boundary (R348) -/
  held : Bool := false
  /-- a fall from boost (R350): 1 waits for 2.2 GHz, 2 runs at 2.2 GHz until fallAt, 3 waits for its new frequency; 0 none -/
  fall : Nat := 0
  fallAt : Nat := 0
  /-- cluster cycles before the last relock (R82) -/
  cycBase : Nat := 0
  hnews : List HnewReq := []
  /-- cells whose creation is on its way: context and key (R338) -/
  cellsDue : List (Nat × Nat) := []
  deriving DecidableEq, Repr

/-- One die (R7, R348 to R350). `f` in 100 MHz units. -/
structure Die where
  f : Nat := 20
  /-- reference-timer value at which the relock in progress ends -/
  relock : Option Nat := none
  /-- what that relock installs: f_die and the frequencies of the die's clusters -/
  goal : Nat × List Nat := (20, [])
  raw : Nat := 0
  /-- tenths of a generator pulse carried -/
  rawFrac : Nat := 0
  /-- generator pulses since the last relock -/
  pulses : Nat := 0
  /-- nominal accumulator, 16.16 fixed point -/
  nominal : Nat := 0
  pool : Nat := 64
  refillAt : Nat := 0
  ceiling : Nat := 24
  ceilingNext : Option Nat := none
  copies : List Snap := []
  fwdNo : Nat := 0
  /-- scratch frames in use (R200) -/
  frames : List Nat := []
  lastBoundary : Nat := 0
  corrected : Nat := 0
  deriving DecidableEq, Repr

/-! ## Memory controllers, links, power, hub -/

/-- The code word of a written sector (R317, R387): folded tag, key slot and address, and the number of its data bits in
error (R318). Key slot 64 stands for none yet. -/
structure Sector where
  tag : Nat
  key : Nat
  addr : Nat
  errors : Nat := 0
  /-- the key pair its data is encrypted under (R322) -/
  pair : BitVec 512 := 0
  deriving DecidableEq, Repr

/-- Sectors that a handle area covers (R330): written by the device under the key slot of the area's context, which holds for each that no later
write or tag has given a code word of its own. -/
structure Area where
  first : Nat
  count : Nat
  key : Nat
  pair : BitVec 512
  deriving DecidableEq, Repr

/-- A hotness counter of a frame and class, its residual, and whether it has posted since it was last below (R324, R325). -/
structure Hot where
  counter : Nat := 0
  residual : Nat := 0
  posted : Bool := false
  deriving DecidableEq, Repr

/-- R369. -/
inductive LinkState
  | down | training | up | degraded | recovering | fenced
  deriving DecidableEq, Repr

/-- A data flit that has been sent and not acknowledged: its sequence number, the request and the linear indices of the elements it
carries; the index equal to the element count is the stamp (R368). `read` marks requests for elements of a peer source; `credit` is
what it returns of the receive credits. -/
structure Tx where
  seq : Nat
  entry : Nat
  elems : List Nat
  /-- the window at the peer that the elements lie in (R366) -/
  win : Nat := 0
  read : Bool := false
  credit : Nat := 0
  deriving DecidableEq, Repr

/-- One fabric link (R368, R369). -/
structure Link where
  state : LinkState := .down
  domain : Nat := 0
  pkg : Nat := 0
  timeout : Nat := 10
  peer : Option Nat := none
  lanes : Nat := 0
  since : Nat := 0
  txSeq : Nat := 0
  rxSeq : Nat := 0
  /-- the replay buffer, oldest first -/
  replay : List Tx := []
  /-- the flit last asked for again, and how often (R369) -/
  failSeq : Nat := 0
  failures : Nat := 0
  /-- flits sent again (R368) -/
  resent : Nat := 0
  replaysSent : Nat := 0
  reports : Nat := 0
  /-- receive credits held for the far end, and those to be returned to it (R368) -/
  credit : Nat := 0
  owed : Nat := 0
  deriving DecidableEq, Repr

/-- A peer window (R367). -/
structure Window where
  base : Nat := 0
  pages : Nat := 0
  ctx : Nat := 0
  write : Bool := false
  deriving DecidableEq, Repr

/-- A cluster release queued at the slew limiter (R248). -/
structure Grant where
  launch : Nat
  cl : Nat
  threads : List TRef
  deriving DecidableEq, Repr

/-- The rack cap (R352). Stage 0: none received, 1: in force, 2: halfway, 3: floor. -/
structure Cap where
  stage : Nat := 0
  cap : Nat := 2400
  seq : Nat := 0
  due : Nat := 0
  deriving DecidableEq, Repr

/-- Where the module stands in its start-up (R19). -/
inductive Phase
  | starting | up | failed
  deriving DecidableEq, Repr

/-- A format descriptor on its way to the die format units (R193). -/
structure FmtReq where
  ctx : Nat
  entry : Nat
  desc : BitVec 64
  out : TRef × Nat
  /-- kicks of the context whose requests the Drill had not all fetched when it reached the units: none before it does -/
  kicks : List Nat
  /-- the dies whose units have installed it -/
  done : List Nat := []
  deriving DecidableEq, Repr

/-- An entry of an engine TLB (R312, R313): the launch, the first page and log2 size of the run group, the leaf's page and the leaf. -/
structure TlbEntry where
  launch : Nat
  first : Nat
  run : Nat
  page : Nat
  leaf : BitVec 64
  deriving DecidableEq, Repr

/-- What the hub has yet to do because a home's die was in a relock (R349): a record, with its launch as it stood and its linear index,
space given back to a save area, a notification, or a doorbell. -/
inductive Owed
  | record (ctx : Nat) (f : FaultInfo) (la : Launch) (action lin : Nat) (ring : Option (Nat × Nat))
  | free (ctx save n : Nat)
  | post (kind addr info ctx : Nat)
  | door (fn q v : Nat)
  deriving DecidableEq, Repr

/-- The registers of configuration space that the spec names (R360, R361): the serial number and the link status of a PCIe link's function. -/
inductive CfgReg
  | serial | linkStatus
  deriving DecidableEq, Repr

/-- What moves next: the model's own schedule. -/
inductive Turn
  /-- a step of an agent that has no word -/
  | event (i : Instr)
  /-- one pick of a core -/
  | issue (core : Nat)
  /-- the command processor reads the next admin command of a function (R362) -/
  | admin (fn : Nat)
  /-- a retired store goes one step on its way home (R213, R214): its position among the stores -/
  | drain (n : Nat)
  /-- a message reaches its input port (R230, R231): its position among the messages on their way -/
  | arrive (n : Nat)
  /-- reference-timer ticks pass (R15) -/
  | elapse (ticks : Nat)
  /-- the host writes its own memory, or system software reads or writes main memory under a key slot and a tag (R324 class 4) -/
  | hostWrite (addr : Nat) (bytes : List (BitVec 8))
  | mainRead (pa n key tag : Nat)
  | mainWrite (pa : Nat) (bytes : List (BitVec 8)) (key tag : Nat)
  /-- bits of a sector's stored data flip, or it comes to hold the code word of another sector's address (R318) -/
  | bitError (pa n : Nat)
  | misplace (pa other : Nat)
  /-- software alters the parts of a save record whose layout only the device knows (R132): a thread's state and the values of its outstanding
  writes by name; its other parts stand in memory, where it writes them -/
  | alterThread (g t : Nat) (pc : Int) (base level : Nat) (sp tag : Word) (st : Altered) (outs : List (Nat × List Word))
  /-- and those of the group: named barriers, channels, rendezvous -/
  | alterGroup (g : Nat) (bars : List NBar) (chans : List Chan) (rdvs : List Rdv)
  /-- system software reads a register of a function's BAR0 over a PCIe link (R361, R362) -/
  | barRead (link fn off : Nat)
  /-- system software reads a register of configuration space: of the physical function over link 0, of link 1's one function over link 1 -/
  | cfgRead (link : Nat) (r : CfgReg)
  /-- checked issue meets a difference in these lanes of the core's next sheaf (R129) -/
  | mismatch (core : Nat) (lanes : Nat)
  deriving DecidableEq, Repr

/-- The whole module. -/
structure State where
  /-- sheaf being executed: its threads in ascending thread order (R125) -/
  sheaf : List TRef := []
  /-- lanes that a checked sheaf saw differ (R129); 0 for none -/
  differ : Nat := 0
  /-- name of the present sheaf: its messages and its return slot carry it (R231, R233) -/
  sheafId : Nat := 0
  turns : List Turn := []
  /-- turns taken since the schedule ran out -/
  turnNo : Nat := 0
  /-- the model's supply of fresh names and free values -/
  fresh : Nat := 0
  phase : Phase := .starting
  refTimer : Nat := 0
  mem : List Host.Cell := []
  sectors : List (Nat × Sector) := []
  /-- handle areas placed since reset, the latest first (R330, R387) -/
  areas : List Area := []
  hot : List (Nat × Hot) := []
  ctxs : List (Nat × Ctx) := []
  keys : List (Nat × KeySlot) := []
  fns : List (Nat × Fn) := []
  queues : List (Nat × Queue) := []
  launches : List Launch := []
  groups : List Group := []
  cores : List (Nat × Core) := []
  stackTbl : List (Nat × Stack) := []
  clusters : List (Nat × Cluster) := []
  dies : List (Nat × Die) := []
  links : List (Nat × Link) := []
  windows : List (Nat × Window) := []
  pcieUp : List Nat := []
  /-- link status registers (R360): link, rate code of the standard (1 for 2.5 to 7 for 128 GT/s), lanes -/
  pcieStatus : List (Nat × Nat × Nat) := []
  stores : List SEntry := []
  /-- messages on their way to the input ports of service furrows -/
  outbox : List Msg := []
  /-- requests to service furrows that have not been performed -/
  reqs : List Nat := []
  grants : List Grant := []
  /-- granted to clusters of a relocking die: their threads become Ready after the relock (R248) -/
  granted : List Grant := []
  grantWindow : Nat := 0
  grantCount : Nat := 0
  fmtReqs : List FmtReq := []
  /-- the engine TLBs, by unit (R302, R312) -/
  tlbs : List (Nat × List TlbEntry) := []
  /-- writes of the hub that wait for a relock, in order (R349) -/
  owed : List Owed := []
  /-- an access of the present step met a home on a relocking die: the step is not taken (R349) -/
  hubWaits : Bool := false
  /-- weights of drained cells that the hub posts: context and handle (R332) -/
  hubPosts : List (Nat × QWord) := []
  /-- the notification ring: its address and the log of its size -/
  notify : Option (Nat × Nat) := none
  notifyProduced : Nat := 0
  notifyLost : Nat := 0
  thresh : List Nat := [0, 0, 0, 0, 0, 0, 0, 0]
  epoch : Nat := 1000
  epochAt : Nat := 0
  corr : Nat := 0
  cap : Cap := {}
  budget : Nat := 2400
  floor : Nat := 1320
  copyLimit : Nat := 4194304
  /-- end of the last power period (R351) -/
  powerAt : Nat := 0
  lastPick : Option Nat := none
  /-- MSI-X vectors raised: function and vector, oldest first (R72, R91, R362) -/
  vectors : List (Nat × Nat) := []
  /-- answers given to configuration requests: true for Request Retry Status (R19) -/
  cfgAnswers : List Bool := []
  /-- answers of the Afhel root to SPDM requests (R68) -/
  spdmAnswers : List (Nat × BitVec 384) := []
  /-- reports made through the management bus (R19, R360, R369) -/
  mgmt : List Nat := []
  /-- values read from BAR0 registers (R362) -/
  barAnswers : List Nat := []
  /-- values read from configuration space (R360, R361) -/
  cfgReads : List Nat := []
  /-- peer accesses answered: false for refused (R367), with data read -/
  peerAnswers : List (Bool × List (BitVec 8)) := []
  /-- measurement of the hub firmware recorded (R19, R68) -/
  measured : Bool := false
  deriving DecidableEq, Repr

/-- Why the machine stops with a fault. None of these is reached by the 290 steps: the spec's own faults are records and
actions, that is next states. -/
inductive Fault
  /-- Never raised: kept so that the type has a named member. Safe. -/
  | stuck
  deriving DecidableEq, Repr

/-- Why the machine has no meaning for a step. -/
inductive Refusal
  /-- An arm of exec that has no meaning yet. Safe: no claim can be made through it. -/
  | notModelled (mnemonic : String)
  deriving DecidableEq, Repr

/-- The module right after fundamental reset (R19, R362): the reference timer at zero, every cluster fallow at nominal, every
slice at k = 8, every Yoke Balanced, pools at 64 permits, no context, every queue empty, every link Down. -/
def State.reset : State := {}

end Sys2Proof.Machine
end

