-- ==== Sys2Proof/Machine/Ops.lean ====
section
/-! DEFINITION. The named operations over the state: units by rank, threads and groups, bytes of memory, checked main memory, walks,
report rings, and taking a fault (R69 to R73) as one operation. -/

namespace Sys2Proof.Machine

abbrev Out := Host.Outcome State Fault Refusal

/-! ## Units by rank -/

def State.core (s : State) (c : Nat) : Core := tget {} s.cores c
def State.stack (s : State) (k : Nat) : Stack := tget {} s.stackTbl k
def State.cluster (s : State) (c : Nat) : Cluster := tget {} s.clusters c
def State.die (s : State) (d : Nat) : Die := tget {} s.dies d
def State.ctx (s : State) (x : Nat) : Ctx := tget {} s.ctxs x
def State.queue (s : State) (q : Nat) : Queue := tget {} s.queues q
def State.fn (s : State) (f : Nat) : Fn := tget {} s.fns f
def State.key (s : State) (k : Nat) : KeySlot := tget {} s.keys k
def State.link (s : State) (n : Nat) : Link := tget {} s.links n
def State.launch (s : State) (l : Nat) : Launch := s.launches.getD l {}
def State.group (s : State) (g : Nat) : Group := s.groups.getD g {}
def State.thread (s : State) (r : TRef) : Thread := (s.group r.g).threads.getD r.t { status := .exited }

def State.setCore (s : State) (c : Nat) (x : Core) : State := { s with cores := tset s.cores c x }
def State.setStack (s : State) (k : Nat) (x : Stack) : State := { s with stackTbl := tset s.stackTbl k x }
def State.setCluster (s : State) (c : Nat) (x : Cluster) : State := { s with clusters := tset s.clusters c x }
def State.setDie (s : State) (d : Nat) (x : Die) : State := { s with dies := tset s.dies d x }
def State.setCtx (s : State) (c : Nat) (x : Ctx) : State := { s with ctxs := tset s.ctxs c x }
def State.setQueue (s : State) (q : Nat) (x : Queue) : State := { s with queues := tset s.queues q x }
def State.setFn (s : State) (f : Nat) (x : Fn) : State := { s with fns := tset s.fns f x }
def State.setKey (s : State) (k : Nat) (x : KeySlot) : State := { s with keys := tset s.keys k x }
def State.setLink (s : State) (n : Nat) (x : Link) : State := { s with links := tset s.links n x }
def State.modLaunch (s : State) (l : Nat) (f : Launch → Launch) : State := { s with launches := s.launches.modify l f }
def State.modGroup (s : State) (g : Nat) (f : Group → Group) : State := { s with groups := s.groups.modify g f }
def State.modThread (s : State) (r : TRef) (f : Thread → Thread) : State :=
  s.modGroup r.g fun g => { g with threads := g.threads.modify r.t f }
def State.setMem (s : State) (m : List Host.Cell) : State := { s with mem := m }

/-- A name or stamp never used before. -/
def State.tick (s : State) : State := { s with fresh := s.fresh + 1 }

/-! ## Ranks (R8) -/

def clusterOf (core : Nat) : Nat := core / 6
def dieOfCore (core : Nat) : Nat := core / 96
def stackOf (core : Nat) : Nat := core / 2
def mateOf (core : Nat) : Nat := if core % 2 = 0 then core + 1 else core - 1
def dieOfCluster (cl : Nat) : Nat := cl / 16

/-- The context, launch and core of a group. -/
def State.launchOf (s : State) (g : Nat) : Launch := s.launch (s.group g).launch
def State.ctxOf (s : State) (g : Nat) : Nat := (s.launchOf g).ctx

/-! ## Bytes of memory, at flat addresses: main memory first, then host memory, scratch, group memory, slots and spill -/

def hostBase : Nat := 2 ^ 60
def scratchBase : Nat := 2 ^ 62
def gmemBase : Nat := 2 ^ 63
def slotBase : Nat := 2 ^ 64
def spillBase : Nat := 2 ^ 65

def scratchAddr (die frame off : Nat) : Nat := scratchBase + (die * 2048 + frame) * 65536 + off
/-- Group memory of a core, wide enough for a block of its own for every group. -/
def gmemStride : Nat := 2 ^ 54

def gmemAddr (core off : Nat) : Nat := gmemBase + core * gmemStride + off
def slotAddr (core slot off : Nat) : Nat := slotBase + core * 1048576 + slot * 32768 + off
def spillAddr (g t off : Nat) : Nat := spillBase + g * 134217728 + t * 131072 + off

/-- What the memory list holds at an address; an unlisted byte reads as zero (R115, R198, R203, R387). -/
def memRd : List Host.Cell → Nat → Byte
  | [], _ => 0
  | (b, v) :: r, a => if b = a then v else memRd r a

/-- One byte written, in the canonical form: addresses rising, no zero byte listed. -/
def memWr : List Host.Cell → Nat → Byte → List Host.Cell
  | [], a, v => if v = 0 then [] else [(a, v)]
  | (b, w) :: r, a, v =>
    if b < a then (b, w) :: memWr r a v
    else if b = a then (if v = 0 then r else (a, v) :: r)
    else if v = 0 then (b, w) :: r
    else (a, v) :: (b, w) :: r

/-- The canonical form of memory above a bound. -/
def memSorted : Nat → List Host.Cell → Bool
  | _, [] => true
  | lo, (b, v) :: r => decide (lo ≤ b) && decide (v ≠ 0) && memSorted (b + 1) r

/-- Memory is in its canonical form. -/
def Memory.wf (m : List Host.Cell) : Bool := memSorted 0 m

def memWrs : List Host.Cell → Nat → List Byte → List Host.Cell
  | m, _, [] => m
  | m, a, b :: bs => memWrs (memWr m a b) (a + 1) bs

def memRds (m : List Host.Cell) : Nat → Nat → List Byte
  | _, 0 => []
  | a, n + 1 => memRd m a :: memRds m (a + 1) n

/-- Every byte from lo up to hi becomes zero. -/
def memClear (m : List Host.Cell) (lo hi : Nat) : List Host.Cell := m.filter fun c => decide (c.1 < lo) || decide (hi ≤ c.1)

def State.rd (s : State) (a : Nat) : Byte := memRd s.mem a
def State.rds (s : State) (a n : Nat) : List Byte := memRds s.mem a n
def State.rdNat (s : State) (a n : Nat) : Nat := ofBytes (memRds s.mem a n)
def State.wr (s : State) (a : Nat) (v : Byte) : State := s.setMem (memWr s.mem a v)
def State.wrs (s : State) (a : Nat) (bs : List Byte) : State := s.setMem (memWrs s.mem a bs)
def State.clear (s : State) (lo hi : Nat) : State := s.setMem (memClear s.mem lo hi)

/-- The die whose generator an address's home stands under, if it has one (R212, R349). -/
def homeDie (a : Nat) : Option Nat :=
  if a < 2 ^ 52 then some (a / 2 ^ 48 % 4)
  else if a < scratchBase then none
  else if a < gmemBase then some ((a - scratchBase) / 134217728)
  else if a < slotBase then some ((a - gmemBase) / gmemStride / 96)
  else none

/-- The cluster whose service furrow owns an address of scratch or group memory (R200, R230); 128 frames to a slice. -/
def homeCluster (a : Nat) : Nat :=
  if a < gmemBase then (a - scratchBase) / 134217728 * 16 + (a - scratchBase) % 134217728 / 8388608
  else (a - gmemBase) / gmemStride / 6

/-- The die's generator is running (R349). -/
def State.runs (s : State) (d : Nat) : Bool := (s.die d).relock.isNone

/-- An access of the hub at an address: where its home's die is in a relock, the step that makes it waits (R349). -/
def State.meet (s : State) (a : Nat) : State := if (homeDie a).all s.runs then s else { s with hubWaits := true }

/-- A step that the hub takes whole, or not at all while one of its accesses waits for a relock (R349). -/
def hubStep (f : State → State) (s : State) : State :=
  let t := f s
  if t.hubWaits && !s.hubWaits then s else t

/-! ## Main memory: frames, sectors and the memory code (R309, R317 to R319, R387) -/

/-- An installed frame (R309, R385). -/
def frameOk (fr : Nat) : Bool :=
  let tier := fr / 2 ^ 34
  let idx := fr % 2 ^ 32
  (decide (tier = 0) && decide (idx < Config.nearFrames)) || (decide (tier = 1) && decide (idx < Config.granaryFrames))

/-- A failed check of the memory code (R318). -/
inductive MemFail
  | misdirect | tagMismatch | eccUncorr
  deriving DecidableEq, Repr

def MemFail.code : MemFail → Nat
  | .misdirect => 0x12 | .tagMismatch => 0x0F | .eccUncorr => 0x11

/-- The class that a kind 0x4 notification names (R323). -/
def MemFail.cls : MemFail → Nat
  | .misdirect => 2 | .tagMismatch => 3 | .eccUncorr => 4

/-- R319. -/
def tagMatch (stored presented : Nat) : Bool :=
  decide (stored = 0) || (decide (stored ≠ 15) && decide (stored = presented))

def sectorOf? (l : List (Nat × Sector)) (n : Nat) : Option Sector :=
  match l with
  | [] => none
  | (i, x) :: r => if i = n then some x else sectorOf? r n

def Area.has (a : Area) (n : Nat) : Bool := decide (a.first ≤ n) && decide (n < a.first + a.count)

/-- The code word that a handle area gave a sector (R330). -/
def areaSector (l : List Area) (n : Nat) : Option Sector :=
  (l.find? fun a => a.has n).map fun a => { tag := 0, key := a.key, addr := n, pair := a.pair }

/-- The code word of a sector: none where it is unwritten (R387). -/
def State.sector (s : State) (n : Nat) : Option Sector := (sectorOf? s.sectors n).orElse fun _ => areaSector s.areas n

/-- The key slot of a sector that has a tag and that nothing has written under a key slot yet: any key slot passes, and the first
write sets it (R320, R326, R387). -/
def noKey : Nat := 64

/-- The class of a check of one sector: none where the access is performed (R318). -/
def State.sectorCheck (s : State) (n key tag : Nat) : Option MemFail :=
  match s.sector n with
  | none => none
  | some x =>
    let addrOk := decide (x.addr = n) && (decide (x.key = key) || decide (x.key = noKey))
    if x.errors = 0 then
      if !addrOk then some .misdirect else if tagMatch x.tag tag then none else some .tagMismatch
    else if x.errors = 1 then (if addrOk && tagMatch x.tag tag then none else some .eccUncorr)
    else some .eccUncorr

/-- The sectors that n bytes from a physical address touch. -/
def sectorsOf (pa n : Nat) : List Nat := (List.range ((pa + n + 63) / 64 - pa / 64)).map (· + pa / 64)

/-- The first sector of a range whose check fails, with its class. -/
def State.firstFail (s : State) (key tag : Nat) : List Nat → Option (MemFail × Nat)
  | [] => none
  | n :: r => match s.sectorCheck n key tag with
    | some f => some (f, n)
    | none => s.firstFail key tag r

/-- A physical address lies in an installed frame. -/
def physOk (pa : Nat) : Bool := decide (pa < 2 ^ 52) && frameOk (pa / 65536)

/-- A sector comes to hold its data under the pair that a key slot holds now: data encrypted under another pair reads through that slot as
the two ciphers make it (R322). -/
def State.underPair (s : State) (key n : Nat) : State :=
  match s.sector n with
  | none => s
  | some x =>
    if x.key = noKey ∨ x.pair = (s.key key).key then s
    else { (s.wrs (n * 64) (crossRead x.pair (s.key key).key n (s.rds (n * 64) 64))) with
           sectors := tset s.sectors n { x with pair := (s.key key).key } }

def State.underPairs (s : State) (key : Nat) : List Nat → State
  | [] => s
  | n :: r => (s.underPair key n).underPairs key r

/-- The first write of an unwritten sector encodes it under tag 0x0, the writer's key slot and its pair (R322, R387); that of a sector with no
key slot yet gives it the writer's. -/
def State.encodeSectors (s : State) (key : Nat) : List Nat → State
  | [] => s
  | n :: r =>
    match s.sector n with
    | some x =>
      if x.key = noKey then { s with sectors := tset s.sectors n { x with key := key, pair := (s.key key).key } }.encodeSectors key r
      else (s.underPair key n).encodeSectors key r
    | none => { s with sectors := tset s.sectors n { tag := 0, key := key, addr := n, pair := (s.key key).key } }.encodeSectors key r

/-- The first write of the device's own to an unwritten sector encodes it under tag 0x0 and no key slot; any other keeps its code word, so that
software reads it under the slot that it wrote it under (R323, R387, log entry 65). -/
def State.ownSectors (s : State) : List Nat → State
  | [] => s
  | n :: r => match s.sector n with
    | some _ => s.ownSectors r
    | none => { s with sectors := tset s.sectors n { tag := 0, key := noKey, addr := n } }.ownSectors r

/-- A write of the device's own at a physical address, under no key slot (R323). -/
def State.ownWr (s : State) (pa : Nat) (bs : List Byte) : State := (s.ownSectors (sectorsOf pa bs.length)).wrs pa bs

/-- MSI-X vectors of a function (R360). -/
def vectorLimit (fn : Nat) : Nat := if fn = 0 then 2048 else 32

/-- A vector of a function is raised (R72, R91, R362); a number beyond those the function has raises none (log entry 150). -/
def State.raise (s : State) (fn v : Nat) : State := if v < vectorLimit fn then { s with vectors := s.vectors ++ [(fn, v)] } else s

/-- One entry of the driver's notification ring (R323), under the counts of R72; a ring whose home's die is in a relock takes it after that
(R349). -/
def State.post (s : State) (kind addr info ctx : Nat) : State :=
  match s.notify with
  | none => { s with notifyLost := s.notifyLost + 1 }
  | some (cb, lg) =>
    if !(homeDie cb).all s.runs then { s with owed := s.owed ++ [.post kind addr info ctx] } else
    let produced := s.notifyProduced
    let consumed := s.rdNat (cb + 8) 8
    if produced = consumed + 2 ^ lg then
      let s := { s with notifyLost := s.notifyLost + 1 }
      s.ownWr (cb + 16) (bytesOf 8 s.notifyLost)
    else
      let e := addr * 2 ^ 192 + info % 2 ^ 64 * 2 ^ 128 + produced % 2 ^ 32 * 2 ^ 96 + kind * 2 ^ 88 + ctx * 2 ^ 82
        + (produced / 2 ^ lg) % 2
      let s := s.ownWr (cb + 64 + 32 * (produced % 2 ^ lg)) (bytesOf 32 e)
      let s := { s with notifyProduced := produced + 1 }
      let s := s.ownWr cb (bytesOf 8 (produced + 1))
      if produced = consumed then s.raise 0 (s.rdNat (cb + 24) 2) else s

/-- A single-bit error found in one of these sectors is corrected and counted (R318, R325). The spec counts for each controller and does not
map a die's frames to its controllers, so one count stands for a die (log entry 136). -/
def State.correct (s : State) : List Nat → State
  | [] => s
  | n :: r =>
    match s.sector n with
    | some x =>
      if x.errors = 1 then
        let d := n * 64 / 2 ^ 48 % 4
        let di := s.die d
        let s := { s with sectors := tset s.sectors n { x with errors := 0 } }
        let s := s.setDie d { di with corrected := di.corrected + 1 }
        let s := if s.corr ≠ 0 ∧ (di.corrected + 1) % s.corr = 0 then s.post 3 (n * 64) (di.corrected + 1) 0x3F else s
        s.correct r
      else s.correct r
    | none => s.correct r

/-- A checked read of main memory, decrypted under the key slot's pair (R322). A failure names its class and sector address. -/
def State.mainRd (s : State) (pa n key tag : Nat) : Except (MemFail × Nat) (State × List Byte) :=
  if !(physOk pa && physOk (pa + n - 1)) then .error (.misdirect, pa / 64 * 64)
  else match s.firstFail key tag (sectorsOf pa n) with
    | some (f, x) => .error (f, x * 64)
    | none => .ok (s.correct (sectorsOf pa n), (s.underPairs key (sectorsOf pa n)).rds pa n)

/-- A cell of a handle area that no step has changed: each core of a cluster has one of its cells reserved, the lowest for the lowest core
(R332). Cells of a cluster c are keyed 65,536 c + index. -/
def freshCell (k : Nat) : Cell := if k % 65536 < 6 then { reserved := some (6 * (k / 65536) + k % 65536) } else {}

/-- Software's write over entries of a context's handle area: each entry touched fails its integrity check from then on (R330). Entries of a
cluster c stand at 128-byte steps, its tensor entries first. -/
def Ctx.overwrite (x : Ctx) (pa n : Nat) : Ctx :=
  match x.harea with
  | none => x
  | some (base, ntens, ncell) =>
    let per := ntens + ncell
    if pa + n ≤ base ∨ base + 8192 * per ≤ pa then x
    else
      let lo := (pa - base) / 128
      let hits := (List.range ((pa + n - base + 127) / 128 - lo)).map (· + lo)
      hits.foldl (fun (x : Ctx) i =>
        let c := i / per
        let k := i % per
        if 64 ≤ c then x
        else if k < ntens then
          { x with tensors := tset x.tensors (c * 2 ^ 24 + k) { tget ({} : Tensor) x.tensors (c * 2 ^ 24 + k) with altered := true } }
        else { x with cells := tset x.cells (c * 65536 + (k - ntens)) { tget (freshCell (c * 65536 + (k - ntens))) x.cells (c * 65536 + (k - ntens)) with altered := true } }) x

def State.overwrite (s : State) (pa n : Nat) : State :=
  { s with ctxs := s.ctxs.map fun (p : Nat × Ctx) => (p.1, p.2.overwrite pa n) }

/-- A checked write of main memory (R317). -/
def State.mainWr (s : State) (pa : Nat) (bs : List Byte) (key tag : Nat) : Except (MemFail × Nat) State :=
  if !(physOk pa && physOk (pa + bs.length - 1)) then .error (.misdirect, pa / 64 * 64)
  else match s.firstFail key tag (sectorsOf pa bs.length) with
    | some (f, x) => .error (f, x * 64)
    | none => .ok ((((s.correct (sectorsOf pa bs.length)).encodeSectors key (sectorsOf pa bs.length)).wrs pa bs).overwrite pa bs.length)

/-- The key slot a sector was written under, for structures that a command names by physical address. -/
def State.keyAt (s : State) (pa : Nat) : Nat := ((s.sector (pa / 64)).map (·.key)).getD 0

/-- A read of a structure named by physical address, under tag 0. -/
def State.physRd (s : State) (pa n : Nat) : Except (MemFail × Nat) (State × List Byte) := s.mainRd pa n (s.keyAt pa) 0

/-- One sector's traffic counts for its frame and requester class (R324, R325). -/
def State.touch (s : State) (cls n : Nat) : State :=
  let k := n * 64 / 65536 * 8 + cls
  let h := tget {} s.hot k
  if h.residual + 1 < 64 then { s with hot := tset s.hot k { h with residual := h.residual + 1 } }
  else
    let c := min (h.counter + 1) 255
    let th := s.thresh.getD cls 0
    let hit := decide (th ≠ 0) && decide (h.counter < th) && decide (th ≤ c) && !h.posted
    let s := { s with hot := tset s.hot k { counter := c, residual := 0, posted := h.posted || hit } }
    if hit then s.post 2 (n * 64 / 65536 * 65536) (c + cls * 256) 0x3F else s

def State.touches (s : State) (cls : Nat) : List Nat → State
  | [] => s
  | n :: r => (s.touch cls n).touches cls r

/-! ## Translation (R310 to R313) -/

/-- A walk of a context's tree: the leaf, or none for an invalid page (R310). One that fails leaves what its reads before did: the sectors they
corrected (R318). -/
def State.walk (s : State) (x : Ctx) (va : Nat) : Except (State × MemFail × Nat) (State × Option (BitVec 64)) := do
  let step (s : State) (node lvl : Nat) : Except (State × MemFail × Nat) (State × Nat) :=
    match (s.meet node).mainRd (node + 8 * bits va (27 + 12 * lvl) (16 + 12 * lvl)) 8 x.keyslot 0 with
    | .ok (s, bs) => .ok (s, ofBytes bs)
    | .error f => .error (s.meet node, f)
  let (s, e3) ← step s x.ptroot 3
  if bits e3 63 63 = 0 then return (s, none)
  let (s, e2) ← step s (bits e3 51 15 * 32768) 2
  if bits e2 63 63 = 0 then return (s, none)
  let (s, e1) ← step s (bits e2 51 15 * 32768) 1
  if bits e1 63 63 = 0 then return (s, none)
  let (s, e0) ← step s (bits e1 51 15 * 32768) 0
  if bits e0 63 63 = 0 then return (s, none)
  return (s, some (.ofNat 64 e0))

def leafFrame (l : BitVec 64) : Nat := bits l.toNat 35 0
def leafKey (l : BitVec 64) : Nat := bits l.toNat 55 50
def leafFmt (l : BitVec 64) : Nat := bits l.toNat 49 44
def leafGeom (l : BitVec 64) : Nat := bits l.toNat 43 42
def leafRun (l : BitVec 64) : Nat := bits l.toNat 61 58
def leafWrite (l : BitVec 64) : Bool := bits l.toNat 57 57 = 1

/-- Runs of bytes that stay in one page: address and length. -/
def pageChunks : Nat → Nat → Nat → List (Nat × Nat)
  | 0, _, _ => []
  | fuel + 1, va, n =>
    if n = 0 then [] else
      let k := min n (65536 - va % 65536)
      (va, k) :: pageChunks fuel (va + k) (n - k)

/-- A read of the hub at a context's virtual address, tag 0 and the leaf's key slot (R72, R86, R88): none where it is unmapped or
fails under R318. -/
def State.virtRd (s : State) (x : Ctx) (va n : Nat) : Option (State × List Byte) :=
  let rec go : List (Nat × Nat) → State → List Byte → Option (State × List Byte)
    | [], s, acc => some (s, acc)
    | (a, k) :: r, s, acc =>
      match s.walk x a with
      | .ok (s, some leaf) =>
        match (s.meet (leafFrame leaf * 65536)).mainRd (leafFrame leaf * 65536 + a % 65536) k (leafKey leaf) 0 with
        | .ok (s, bs) => go r s (acc ++ bs)
        | .error _ => none
      | _ => none
  go (pageChunks (n / 65536 + 2) va n) s []

/-- A write of the hub at a context's virtual address. -/
def State.virtWr (s : State) (x : Ctx) (va : Nat) (bs : List Byte) : Option State :=
  let rec go : List (Nat × Nat) → State → List Byte → Option State
    | [], s, _ => some s
    | (a, k) :: r, s, bs =>
      match s.walk x a with
      | .ok (s, some leaf) =>
        match (s.meet (leafFrame leaf * 65536)).mainWr (leafFrame leaf * 65536 + a % 65536) (bs.take k) (leafKey leaf) 0 with
        | .ok s => go r s (bs.drop k)
        | .error _ => none
      | _ => none
  go (pageChunks (bs.length / 65536 + 2) va bs.length) s bs

/-- The notification of a failed memory check that an access of the hub at a virtual address meets, if it meets one: its walk or its data
(R318). -/
def State.virtNote (s : State) (c va n : Nat) : State :=
  let x := s.ctx c
  let rec go : List (Nat × Nat) → State → State
    | [], s => s
    | (a, k) :: r, s =>
      match s.walk x a with
      | .error (t, f) => t.post 4 f.2 f.1.cls c
      | .ok (t, none) => t
      | .ok (t, some leaf) =>
        match (t.meet (leafFrame leaf * 65536)).mainRd (leafFrame leaf * 65536 + a % 65536) k (leafKey leaf) 0 with
        | .error f => t.post 4 f.2 f.1.cls c
        | .ok (t, _) => go r t
  go (pageChunks (n / 65536 + 2) va n) s

/-- A write of the hub that is lost where it cannot be made, with the notification that its failure posts (R318). -/
def State.virtPut (s : State) (c va : Nat) (bs : List Byte) : State := (s.virtWr (s.ctx c) va bs).getD (s.virtNote c va bs.length)

/-! ## Threads becoming Ready, parking and ending -/

/-- A thread that has stopped waiting: Parked if its last instruction carried S and results are outstanding, Ready otherwise
(R34, R119). -/
def Thread.release (th : Thread) (stamp : Nat) : Thread :=
  if th.marked && !th.outs.isEmpty then { th with status := .parked } else { th with status := .ready, readyAt := stamp }

/-- A thread leaves a waiting state, at a moment that a stamp names: the Headland counter of its context resets (R74). -/
def State.wakeAt (s : State) (n : Nat) (r : TRef) : State :=
  let x := s.ctxOf r.g
  let s := s.setCtx x { s.ctx x with headland := 0 }
  s.modThread r fun th => match th.status with
    | .exited => th
    | _ => th.release n

def State.wakesAt (s : State) (n : Nat) : List TRef → State
  | [] => s
  | r :: rs => (s.wakeAt n r).wakesAt n rs

/-- Threads leave a waiting state at one moment (R124). -/
def State.wakes (s : State) (rs : List TRef) : State := s.tick.wakesAt s.fresh rs

def State.wake (s : State) (r : TRef) : State := s.tick.wakeAt s.fresh r

/-- The threads of a group, by name. -/
def State.refs (s : State) (g : Nat) : List TRef := (List.range (s.group g).threads.length).map (TRef.mk g ·)

/-- The groups of a launch's present attempt, by number. -/
def State.groupsOf (s : State) (l : Nat) : List Nat :=
  (List.range s.groups.length).filter fun g => (s.group g).launch = l && (s.group g).attempt = (s.launch l).replays

def Launch.total (l : Launch) : Nat := l.gx * l.gy * l.gz

/-! ## Entries, and releasing slots and accumulators -/

/-- Places that QFENCE and MWAIT hold in a queue are no entries (R228, R297). -/
def isMarker : Work → Bool
  | .marker _ _ _ => true
  | .mwait _ => true
  | _ => false

/-- Places left in a queue of n; markers take none (R228, R276, R286). -/
def roomLeft (q : List Entry) (n : Nat) : Nat := n - (q.filter fun e => !isMarker e.work).length

/-- The cores whose slot a slot descriptor names (R264). -/
def slotCores (core desc : Nat) : List Nat :=
  if bits desc 22 22 = 1 then [core, mateOf core] else if bits desc 21 21 = 1 then [mateOf core] else [core]

/-- The cores that an MLD's mode writes (R302). -/
def mldCores (core mode : Nat) : List Nat :=
  if mode = 0 then [core] else if mode = 3 then [mateOf core] else [core, mateOf core]

/-- An entry names slot i of core c (R283). -/
def Entry.namesSlot (e : Entry) (c i : Nat) : Bool :=
  let both := decide (c = e.iss.core) || decide (c = mateOf e.iss.core)
  match e.work with
  | .copy x => decide (bits x.req.toNat 127 126 = 2) && decide (bits x.req.toNat 724 720 = i) &&
      (slotCores e.iss.core (bits x.req.toNat 767 704)).contains c
  | .mld m => decide (m.slot = i) && (mldCores e.iss.core m.mode).contains c
  | .mat (.mma _ _ _ a b _ _) => (decide (a = i) || decide (b = i)) && both
  | .mat (.mstoreS k _) => decide (k = i) && decide (c = e.iss.core)
  | .mat (.mqnt _ _ _ k _) => decide (k = i) && both
  | .mat (.had pair _ _ k _ _) => decide (k = i) && (if pair then both else decide (c = e.iss.core))
  | _ => false

/-- An entry of the stack's queue names accumulator n (R283). -/
def Entry.namesAcc (e : Entry) (n : Nat) : Bool :=
  match e.work with
  | .mat (.mzero a) | .mat (.mma _ _ a _ _ _ _) | .mat (.mrd a _ _) | .mat (.mwr a _ _) | .mat (.mstore a _ _ _ _)
  | .mat (.mqnt a _ _ _ _) | .mat (.mchk a _) => decide (a = n)
  | _ => false

/-- The entries that may name the slots and accumulators of a core's stack. -/
def State.stackEntries (s : State) (c : Nat) : List Entry :=
  (s.core c).copyQ.flatten ++ (s.core (mateOf c)).copyQ.flatten ++ (s.stack (stackOf c)).mq

/-- A kick of a group stands in the kick registers of a core. -/
def Core.kicksOf (x : Core) (g : Nat) : Bool := x.kicks.any fun q => q.any fun k => k.iss.thr.g = g

/-- Slots and accumulators being released become Free once no entry names them (R283) and the kicks of their group, whose requests may
name them, have been fetched (R277). -/
def State.settleMat (s : State) (c : Nat) : State :=
  let es := s.stackEntries c
  let kick (h : Option Holder) : Bool := h.any fun h => (s.core c).kicksOf h.g || (s.core (mateOf c)).kicksOf h.g
  let one (s : State) (c : Nat) : State :=
    let x := s.core c
    s.setCore c { x with slots := x.slots.map fun p =>
      if (p.2.holder.map (·.releasing)).getD false && !kick p.2.holder && !es.any fun e => e.namesSlot c p.1 then (p.1, {}) else p }
  let s := one (one s c) (mateOf c)
  let k := s.stack (stackOf c)
  s.setStack (stackOf c) { k with accs := k.accs.zipIdx.map fun p =>
    if (p.1.holder.map (·.releasing)).getD false && !es.any fun e => e.namesAcc p.2 then {} else p.1 }

/-! ## Markers (R228, R297) -/

/-- An awaited result takes its value. -/
def State.fulfil (s : State) (r : TRef) (id : Nat) (ws : List Word) : State :=
  s.modThread r fun th => { th with outs := th.outs.map fun o => if o.id = id then { o with val := .have ws } else o }

/-- The queues of a core and its stack: 0 to 3 C0 to C3, 4 M, 5 H. -/
def State.engineQueue (s : State) (c q : Nat) : List Entry :=
  if q = 4 then (s.stack (stackOf c)).mq else if q = 5 then (s.core c).hq else (s.core c).copyQ.getD q []

def State.setEngineQueue (s : State) (c q : Nat) (l : List Entry) : State :=
  if q = 4 then s.setStack (stackOf c) { s.stack (stackOf c) with mq := l }
  else if q = 5 then s.setCore c { s.core c with hq := l }
  else s.setCore c { s.core c with copyQ := (s.core c).copyQ.set q l }

def maskQueues (m : Nat) : List Nat := (List.range 6).filter m.testBit

/-- The marker at the head of a queue, if one stands there: its name, mask, core and kicks. -/
def headMarker (l : List Entry) : Option (Nat × Nat × Nat × List Nat) :=
  match l with
  | e :: _ => match e.work with
    | .marker id m ks => some (id, m, e.iss.core, ks)
    | _ => none
  | [] => none

/-- A kick stands in a kick register of a core. -/
def Core.holdsKick (x : Core) (k : Nat) : Bool := x.kicks.any fun q => q.any fun y => y.id = k

/-- Places left in C3 for an MLD or HREC (R279). While a joint marker there waits for the requests of kicks before it, the places are theirs
(R224 b, log entry 151). -/
def State.roomC3 (s : State) (c : Nat) : Nat :=
  let x := s.core c
  let q := x.copyQ.getD 3 []
  if q.any (fun e => match e.work with
    | .marker _ _ ks => ks.any x.holdsKick
    | _ => false) then 0 else roomLeft q Config.copyQueue

/-- A marker that stands at the head of every queue it names goes, once its kicks are fetched: every entry before it has been performed. -/
def State.popMarker (s : State) (c q : Nat) : Option State :=
  match headMarker (s.engineQueue c q) with
  | none => none
  | some (id, m, owner, ks) =>
    let qs := maskQueues m
    if (qs.all fun k => (headMarker (s.engineQueue owner k)).map (·.1) = some id) && !ks.any (s.core owner).holdsKick then
      some (qs.foldl (fun s k => s.setEngineQueue owner k ((s.engineQueue owner k).drop 1)) s)
    else none

def State.popMarkers (s : State) (c : Nat) : List Nat → Option State
  | [] => none
  | q :: qs => match s.popMarker c q with
    | some t => some t
    | none => s.popMarkers c qs

/-- An MWAIT at the head of M ends: its result can be written, and its thread observes what stood before it (R217, R297). -/
def State.popWait (s : State) (c : Nat) : Option State :=
  match s.engineQueue c 4 with
  | e :: _ => match e.work with
    | .mwait out =>
      some (((s.setEngineQueue c 4 ((s.engineQueue c 4).drop 1)).fulfil e.iss.thr out []).modThread e.iss.thr fun th => { th with obsEng := true })
    | _ => none
  | [] => none

/-- All markers of a core's queues that can go. -/
def State.settleMarkers (s : State) (c : Nat) : Nat → State
  | 0 => s
  | n + 1 => match s.popWait c with
    | some t => t.settleMarkers c n
    | none => match s.popMarkers c [0, 1, 2, 3, 4, 5] with
      | some t => t.settleMarkers c n
      | none => s

def State.markersIn (s : State) (c : Nat) : Nat := ((List.range 6).map fun q => ((s.engineQueue c q).filter fun e => isMarker e.work).length).sum

/-- After an entry of a core's or its stack's queue has ended. -/
def State.queuesMoved (s : State) (c : Nat) : State :=
  let s := s.settleMarkers c (s.markersIn c)
  (s.settleMarkers (mateOf c) (s.markersIn (mateOf c))).settleMat c

def State.allMoved (s : State) : List Nat → State
  | [] => s
  | c :: cs => (s.queuesMoved c).allMoved cs

def relHolder (g : Nat) : Option Holder → Option Holder
  | some h => if h.g = g then some { h with releasing := true } else some h
  | none => none

/-- The slots and accumulators of a group become Free once every entry that names them has ended (R144, R283). -/
def State.releaseMat (s : State) (g : Nat) : State :=
  let c := (s.group g).core
  let rel (s : State) (c : Nat) : State :=
    let x := s.core c
    s.setCore c { x with slots := x.slots.map fun (i, sl) => (i, { sl with holder := relHolder g sl.holder }) }
  let s := rel (rel s c) (mateOf c)
  let k := s.stack (stackOf c)
  let s := s.setStack (stackOf c) { k with accs := k.accs.map fun a => { a with holder := relHolder g a.holder } }
  s.settleMat c

/-- The bytes in use of a save area fall by n. -/
def State.areaFree (s : State) (ctx save n : Nat) : State :=
  match s.virtRd (s.ctx ctx) (save + 8) 8 with
  | some (s, bs) => s.virtPut ctx (save + 8) (bytesOf 8 (ofBytes bs - n))
  | none => s.virtNote ctx (save + 8) 8

/-- What the hub does at once, or owes where its access waits for a relock or for what it already owes (R349). -/
def State.orOwe (s : State) (o : Owed) (f : State → State) : State :=
  if !s.owed.isEmpty then { s with owed := s.owed ++ [o] }
  else
    let t := f { s with hubWaits := false }
    if t.hubWaits then { s with owed := [o] } else { t with hubWaits := s.hubWaits }

/-- Space of the region's save area given back: the bytes in use, which the device writes (R132, R203). -/
def State.saveFree (s : State) (l : Launch) (n : Nat) : State :=
  s.orOwe (.free l.ctx l.region.save n) fun s => s.areaFree l.ctx l.region.save n

def units64K (n : Nat) : Nat := (n + 65535) / 65536 * 65536

/-- Bytes of spill backing a group takes (R203). -/
def spillBytes (h : Header) : Nat := units64K (h.spill * 32 * h.furrows)

/-- What a group gives back when it retires or stops: spill backing, record, slots, burn level (R118, R203, R356). -/
def State.freeGroup (s : State) (g : Nat) : State :=
  let gr := s.group g
  let l := s.launch gr.launch
  let s := s.releaseMat g
  let s := if gr.spillAt.isSome then s.saveFree l (spillBytes l.hdr) else s
  let s := if gr.record.isSome then s.saveFree l gr.recordLen else s
  s.modGroup g fun gr => { gr with spillAt := none, record := none, burn := 0, chans := [], bars := [], rdvs := [], gbar := gr.gbar }

/-- A launch whose every group has retired or stopped starts draining (R106). -/
def State.drainCheck (s : State) (l : Nat) : State :=
  let la := s.launch l
  let placed := s.groupsOf l
  if (la.state = .placing ∨ la.state = .running) ∧ la.nextLin = la.total ∧
      placed.all (fun g => (s.group g).state = .retired || (s.group g).state = .stopped) then
    s.modLaunch l fun la => { la with state := .draining }
  else s

/-- A lane result of a return slot has been written or discarded; the slot is free once none is left (R233, R241). -/
def State.slotLane (s : State) (c k : Nat) : State :=
  let x := s.core c
  s.setCore c { x with retSlots := (x.retSlots.map fun p => if p.1 = k then (p.1, p.2 - 1) else p).filter fun p => decide (p.2 ≠ 0) }

/-- Lanes of return slots that discarded or saved results held (R233, R241). -/
def State.freeSlotLanes (s : State) (c : Nat) : List Outst → State
  | [] => s
  | o :: os =>
    match o.slot with
    | none => s.freeSlotLanes c os
    | some k => (s.slotLane c k).freeSlotLanes c os

/-- A thread waits (R74): at a barrier, a channel, on copy tags, in MONW, or polling with a failing result, also between two polls. -/
def Thread.waits (th : Thread) : Bool :=
  match th.status with
  | .waiting _ => true
  | .backedOff _ _ => true
  | .ready => decide (th.level ≠ 0)
  | _ => false

/-- Threads of a group that leave a waiting state reset the Headland counter of its context (R74). -/
def State.leaveWaits (s : State) (g : Nat) (left : Thread → Bool) : State :=
  if (s.group g).threads.any left then
    let c := s.ctxOf g
    s.setCtx c { s.ctx c with headland := 0 }
  else s

/-- Every thread of the group stops (R69, R118): it exits, its results are discarded with their places in return slots (R241), and the group's
kicks that are not fetched are dropped (R277). -/
def State.stopGroup (s : State) (g : Nat) : State :=
  let gr := s.group g
  if gr.state = .retired ∨ gr.state = .stopped then s else
    let s := (s.leaveWaits g Thread.waits).freeSlotLanes gr.core (gr.threads.flatMap (·.outs))
    let s := s.freeGroup g
    let s := s.modGroup g fun gr => { gr with state := .stopped, brk := false,
                                              threads := gr.threads.map fun th => { th with status := .exited, halted := false, outs := [] } }
    let x := s.core gr.core
    let s := s.setCore gr.core { x with kicks := x.kicks.map fun q => q.filter fun k => k.iss.thr.g ≠ g }
    (s.queuesMoved gr.core).drainCheck gr.launch

def State.stopGroups (s : State) : List Nat → State
  | [] => s
  | g :: gs => (s.stopGroup g).stopGroups gs

def keepEntry (l : Nat) (e : Entry) : Bool := isMarker e.work || e.begun || decide (e.iss.launch ≠ l)

/-- Disposing of a launch's engine operations (R114): queued entries of C0 to C3 and M are discarded; those of H are performed at an
end and discarded for a replay. Discarded entries count as performed for the markers they stood before (R228). -/
def State.dispose (s : State) (l : Nat) (replay : Bool) : State :=
  let s : State := { s with
    cores := s.cores.map fun (c, x) => (c, { x with
      copyQ := x.copyQ.map fun q => q.filter (keepEntry l)
      kicks := x.kicks.map fun q => q.filter fun k => k.iss.launch ≠ l
      hq := if replay then x.hq.filter (keepEntry l) else x.hq })
    stackTbl := s.stackTbl.map fun (k, x) => (k, { x with mq := x.mq.filter (keepEntry l) }) }
  s.allMoved (s.cores.map (·.1))

/-- Action 0x2: every group of the launch stops and it drains (R69, R106). -/
def State.endLaunch (s : State) (l : Nat) : State :=
  let la := s.launch l
  if (la.state = .draining ∧ la.ended) ∨ la.state = .rollingBack ∨ la.state = .finished ∨ la.state = .gone then s else
    let s := s.modLaunch l fun la => { la with state := .draining, ended := true }
    let gs := s.groupsOf l
    (s.stopGroups gs).dispose l false

/-- Action 0x3 taken: every group stops and the launch rolls back (R106, R116). Where a sector is to be read again, the entries of H wait for
what that decides, since a launch that ends has its handle posts performed (R114). -/
def State.rollback (s : State) (l : Nat) (sector : Option Nat) : State :=
  let s := s.modLaunch l fun la => { la with state := .rollingBack, rereadSector := sector }
  let gs := s.groupsOf l
  (s.stopGroups gs).dispose l (s.launch l).heldFault.isNone

/-! ## Faults: record, sticky register and action (R69 to R73) -/

/-- The minimum action of a code (R69). -/
def minAction (code : Nat) : Nat :=
  if code ≤ 0x0D ∨ code = 0x13 ∨ code = 0x14 ∨ code = 0x16 ∨ code = 0x1B ∨ code = 0x17 ∨ code = 0x19 then 1
  else if code = 0x0E ∨ code = 0x0F ∨ code = 0x11 ∨ code = 0x12 then 2
  else 0

/-- Replay allowed for a code (R69). -/
def mayReplay (code : Nat) : Bool := [0x17, 0x19, 0x0F, 0x11, 0x12, 0x18, 0x1A].contains code

/-- The action a fault takes against a launch (R69). -/
def actionOf (l : Launch) (code : Nat) : Nat :=
  if code = 0x1D then 0
  else
    let p := bits l.region.policy (2 * code + 1) (2 * code)
    if p = 3 then
      if mayReplay code && l.replayable && !l.escaped && decide (l.replays < l.region.replaylim) then 3 else 2
    else max p (minAction code)

/-- A fault counted in the sticky error register of its context (R73). -/
def sticky (r : BitVec 128) (code : Nat) (pc : Int) (seq : Nat) : BitVec 128 :=
  let n := r.toNat
  let cnt := bits n 95 80
  let first := if cnt = 0 then (seq % 2 ^ 32) * 2 ^ 96 + code * 2 ^ 64 + (wrapInt 32 pc).toNat * 2 ^ 32
    else bits n 127 96 * 2 ^ 96 + bits n 71 64 * 2 ^ 64 + bits n 63 32 * 2 ^ 32
  let flags := bits n 31 0 ||| 2 ^ code
  .ofNat 128 (first + min (cnt + 1) 0xFFFF * 2 ^ 80 + flags)

/-- The report ring of a context's root region: address and size (R63, R72). -/
def State.rootRing (s : State) (x : Ctx) : Option (State × Nat × Nat) :=
  match s.virtRd x x.rootrcb 64 with
  | some (s, bs) => let n := ofBytes bs; some (s, bits n 191 128, bits n 199 192)
  | none => none

/-- The 512 bits of a record, with its sequence number and lap (R71). -/
def recordBits (s : State) (f : FaultInfo) (la : Launch) (ctx action seq lap lin : Nat) : Nat :=
  f.time.getD s.refTimer % 2 ^ 64 * 2 ^ 448 + f.d1 % 2 ^ 64 * 2 ^ 384 + f.d0 % 2 ^ 64 * 2 ^ 320 + la.seq % 2 ^ 64 * 2 ^ 256
    + f.usertag % 2 ^ 32 * 2 ^ 224 + f.lanes % 2 ^ 32 * 2 ^ 192 + (wrapInt 32 f.pc).toNat * 2 ^ 160 + lin % 2 ^ 32 * 2 ^ 128
    + seq % 2 ^ 32 * 2 ^ 96 + f.core * 2 ^ 87 + f.furrow * 2 ^ 82 + f.code * 2 ^ 56 + action * 2 ^ 54 + ctx * 2 ^ 48
    + f.kind * 2 ^ 40 + la.replays * 2 ^ 32 + la.queue * 2 ^ 16 + lap

/-- A record offered to a ring (R72): the state after, and whether a record was lost. -/
def State.ringWrite (s : State) (ring lg : Nat) (f : FaultInfo) (la : Launch) (ctx action lin : Nat) : State × Bool :=
  let x := s.ctx ctx
  match s.virtRd x ring 64 with
  | none => (s.virtNote ctx ring 64, true)
  | some (s, bs) =>
    let n := ofBytes bs
    let produced := bits n 63 0
    let consumed := bits n 127 64
    let lost := bits n 191 128
    if produced - consumed = 2 ^ lg ∧ consumed ≤ produced then
      (s.virtPut ctx (ring + 16) (bytesOf 8 (lost + 1)), true)
    else
      let r := recordBits s f la ctx action produced ((produced / 2 ^ lg) % 2) lin
      match s.virtWr x (ring + 64 + 64 * (produced % 2 ^ lg)) (bytesOf 64 r) with
      | none => (s.virtNote ctx (ring + 64 + 64 * (produced % 2 ^ lg)) 64, true)
      | some s =>
        match s.virtWr x ring (bytesOf 8 (produced + 1)) with
        | none => (s.virtNote ctx ring 8, true)
        | some s => (if produced = consumed then s.raise x.fn (bits n 207 192) else s, false)

/-- A record goes to a ring, that of the context's root region where none is named: the state after, and a lost one marked in the sticky
register (R71 to R73). -/
def State.toRing (s : State) (ctx : Nat) (f : FaultInfo) (la : Launch) (action lin : Nat) (ring : Option (Nat × Nat)) : State :=
  let (s, lost) := match ring with
    | some (r, lg) => s.ringWrite r lg f la ctx action lin
    | none => match s.rootRing (s.ctx ctx) with
      | some (s, r, lg) => s.ringWrite r lg f la ctx action lin
      | none => (s.virtNote ctx (s.ctx ctx).rootrcb 64, true)
  let x := s.ctx ctx
  if lost then s.setCtx ctx { x with sticky := x.sticky ||| (BitVec.ofNat 128 (2 ^ 31)) } else s

/-- One record and its mark in the sticky register (R71 to R73). A record that belongs to no launch goes to the ring of the context's root
region, one of kind 0x4 too, for which the spec names no ring (log entry 143). A ring whose home's die is in a relock takes it after that
(R349). -/
def State.record (s : State) (ctx : Nat) (f : FaultInfo) (action : Nat) (ring : Option (Nat × Nat)) : State :=
  let la : Launch := match f.launch with
    | some l => s.launch l
    | none => { queue := f.queue }
  let lin := match f.group with
    | some g => (s.group g).lin
    | none => 0
  let f : FaultInfo := { f with time := some (f.time.getD s.refTimer) }
  let x := s.ctx ctx
  let s := s.setCtx ctx { x with sticky := sticky x.sticky f.code f.pc la.seq }
  s.orOwe (.record ctx f la action lin ring) fun s => s.toRing ctx f la action lin ring

/-- TAKING A FAULT, the one shared operation: the record goes to the ring of the launch's effective region, the sticky register is
marked, and the action follows (R69, R71 to R73), unless one is under way already, when the record still names its own (R117, log entry 152). A thread's fault that stops its group is
recorded for the group (R71). The record of a replay for ECC_UNCORR waits for the sector's reread, which decides its action (R116). -/
def State.takeFault (s : State) (ctx : Nat) (f : FaultInfo) : State :=
  match f.launch with
  | none => s.record ctx f 0 none
  | some l =>
    let la := s.launch l
    let act := actionOf la f.code
    let f : FaultInfo := if f.kind = 0 ∧ act ≠ 0 then { f with kind := 1 } else f
    let late : Bool := (la.state = .draining && la.ended) || la.state = .rollingBack || la.state = .finished || la.state = .gone
    if act = 3 ∧ f.code = 0x11 ∧ !late then
      (s.modLaunch l fun la => { la with heldFault := some { f with time := some s.refTimer } }).rollback l f.sector
    else
      let s := s.record ctx f act (some (la.region.ring, la.region.ringlog))
      if act = 0 then s
      else if act = 1 then
        match f.group with
        | some g => s.stopGroup g
        | none => s
      else if late then s
      else if act = 2 then s.endLaunch l
      else s.rollback l f.sector

/-- A fault that ends a launch before any group of it is placed: one record of kind 0x2, then Finished, ended (R49, R65, R106). -/
def State.failLaunch (s : State) (l : Nat) (code d0 d1 : Nat) : State :=
  let la := s.launch l
  let ring := if la.region.chain.isEmpty then none else some (la.region.ring, la.region.ringlog)
  let s := s.record la.ctx { code := code, kind := 2, d0 := d0, d1 := d1, launch := some l } 2 ring
  s.modLaunch l fun la => { la with state := .finished, ended := true }

/-- A fault of an engine entry: kind 0x3, against the launch, and the issuing group if it is still resident (R246, R268, R342). -/
def State.engineFault (s : State) (i : Issuer) (code d0 d1 : Nat) (sector : Option Nat := none) : State :=
  let gr := s.group i.thr.g
  let live := gr.state = .resident || gr.state = .halting
  s.takeFault (s.launch i.launch).ctx
    { code := code, kind := 3, d0 := d0, d1 := d1, pc := i.pc, lanes := 2 ^ (i.thr.t % 32), furrow := i.thr.t / 32, core := i.core,
      usertag := (s.thread i.thr).usertag.toNat, launch := some i.launch, group := if live then some i.thr.g else none, sector := sector }

/-! ## Outstanding results (R34, R35, R121) -/

/-- A result written into the registers fixed at its issue: a register that a later write of the thread has reached keeps it. -/
def Thread.land (th : Thread) (o : Outst) (ws : List Word) : Thread :=
  let rec go : List (Option Nat × Word) → List Word → List Cand → List Word × List Cand
    | [], rs, cs => (rs, cs)
    | (none, _) :: r, rs, cs => go r rs cs
    | (some i, w) :: r, rs, cs =>
      match cs.find? (fun c => c.reg = i) with
      | some c =>
        if c.last < o.seq then
          go r (rs.set i w) (cs.map fun c => if c.reg = i then { c with vals := c.vals ++ [w], last := o.seq } else c)
        else go r rs cs
      | none => go r (rs.set i w) cs
  let (rs, cs) := go (o.regs.zip ws) th.regs th.cands
  { th with regs := rs, outs := th.outs.filter fun p => p.id ≠ o.id, cands := cs.filter fun c => c.id ≠ o.id }

/-- A free choice among the values R35 allows for one register: those that its oldest outstanding result allows. -/
def Thread.rawReg (th : Thread) (i : Nat) (n : Nat) : Word :=
  match th.cands.find? (fun c => c.reg = i) with
  | some c => c.vals.getD (Config.staleChoice n % c.vals.length) (th.regs.getD i 0)
  | none => th.regs.getD i 0

end Sys2Proof.Machine
end

