-- ==== Sys2Proof/Machine/View.lean ====
section
/-! DEFINITION. Phase consistency: views, die copies, retired stores, publish and refresh (R212 to R219), and the one place where a
write reaches a home and wakes those who watch it (R229). -/

namespace Sys2Proof.Machine

/-! ## What has become visible -/

/-- An atomic of the thread on some of these bytes has not been performed: its later accesses of them wait (R224, note c). -/
def State.ownAtom (s : State) (r : TRef) (a n : Nat) : Bool :=
  (s.thread r).atoms.any fun p => decide (p.2.1 < a + n) && decide (a < p.2.1 + p.2.2) && s.reqs.contains p.1

/-- A store of the thread to some of these bytes, or an atomic on them, has not been performed at their home: its next operation there waits
(R215, R245). -/
def State.ownPending (s : State) (r : TRef) (a n : Nat) : Bool :=
  s.ownAtom r a n || s.stores.any fun e => decide (e.thr = r) && decide (a ≤ e.addr) && decide (e.addr < a + n)

/-- A store has gone as far as a publish needs (R217), or an atomic has been performed. -/
def State.needMet (s : State) (n : Need) : Bool :=
  match s.stores.find? (fun e => e.id = n.id) with
  | some e => !n.home && e.fwd.isSome
  | none => !s.reqs.contains n.id

def State.needsMet (s : State) (ns : List Need) : Bool := ns.all s.needMet

/-- The needs not met yet. -/
def State.unmet (s : State) (ns : List Need) : List Need := ns.filter fun n => !s.needMet n

/-- What a publish at a scope by a thread waits for: its stores, the writes it has observed and its atomics (R217). -/
def State.publishNeeds (s : State) (r : TRef) (scope : Nat) : List Need :=
  let th := s.thread r
  let own := (s.stores.filter fun e => e.thr = r).map (·.id)
  let atoms := th.atoms.map fun a => Need.mk a.1 true
  let stores := if scope < 4 then [] else (own ++ th.seen).map fun i => Need.mk i (decide (7 ≤ scope))
  s.unmet (th.after ++ stores ++ atoms)

/-- An engine publish is a publish at package scope or wider, or at engine scope (R222). -/
def enginePublish (scope : Nat) : Bool := decide (7 ≤ scope)

/-- The nibbles that a store writes: 1 low, 2 high, 3 both (R210, R212). -/
def nibMask (nib : Nat) : Nat := if nib = 0 then 3 else nib

/-- Nibbles of a byte that stores in a die copy hold for their homes (R213). -/
def State.forwarded (s : State) (d a : Nat) : Nat :=
  s.stores.foldl (fun m e => if e.addr = a && dieOfCore e.core = d && e.fwd.isSome then m ||| nibMask e.nib else m) 0

/-- Values of a die copy that are no longer returned, but for stores on their way to their homes: later fetches go there. -/
def State.dropCopies (s : State) (d : Nat) (p : Nat → Bool) : State :=
  let di := s.die d
  if di.copies.isEmpty then s
  else s.setDie d { di with copies := di.copies.filterMap fun x =>
    if !(p x.addr) then some x
    else
      let m := x.mask &&& s.forwarded d x.addr
      if m = 0 then none else some { x with mask := m } }

/-- What a thread has observed and its die copy may not hold is made visible to its die (R217, R220): locations read at their homes, the writes of
engine entries seen to be complete, and whatever a package refresh of its core has ordered before it and nobody there has fetched since. -/
def State.shareSeen (s : State) (r : TRef) : State :=
  let th := s.thread r
  let c := (s.group r.g).core
  let v := (s.core c).view
  let old (a : Nat) : Bool :=
    th.obsEng || (v.pkg && !v.fetched.contains a) || th.obs.any fun o => decide (o.1 ≤ a) && decide (a < o.1 + o.2)
  if th.obsEng || v.pkg || !th.obs.isEmpty then (s.dropCopies (dieOfCore c) old).modThread r fun th => { th with obs := [], obsEng := false } else s

/-- A publish at a scope (R217): later stores, atomics and engine entries of the thread wait for what it needs. -/
def State.publish (s : State) (r : TRef) (scope : Nat) : State :=
  let ns := s.publishNeeds r scope
  let s := if scope < 4 then s else s.shareSeen r
  s.modThread r fun th => { th with after := ns, engAfter := if enginePublish scope then ns else th.engAfter }

/-- A publish of the thread is not complete: its next store has to wait (R213, R217). -/
def State.publishing (s : State) (r : TRef) : Bool := !s.needsMet (s.thread r).after

/-- The effect of a refresh on the view of a core (R218). Its own stores that stand in the die copy are found there from then on, with what the
copy has taken after them (R220). -/
def State.refreshView (s : State) (c scope : Nat) : State :=
  if scope < 4 then s else
    let x := s.core c
    { s.setCore c { x with view := if 7 ≤ scope then { pkg := true } else { x.view with snaps := [], near := x.view.fetched } } with
      stores := s.stores.map fun e => if e.core = c ∧ e.fwd.isSome then { e with shared := true } else e }

/-- A store of another thread that a release may have ordered before a refresh on a core: one of the core, or one in its die's copy (R217, R220). -/
def State.nearStores (s : State) (r : TRef) (c : Nat) : List Nat :=
  (s.stores.filter fun e => decide (e.thr ≠ r) && (decide (e.core = c) || (e.fwd.isSome && decide (dieOfCore e.core = dieOfCore c)))).map (·.id)

/-- The writes that a thread's next publish covers grow by some pending stores (R217). -/
def State.sees (s : State) (r : TRef) (ids : List Nat) : State :=
  if ids.isEmpty then s
  else s.modThread r fun th => { th with seen := ids ++ th.seen.filter fun i => !ids.contains i && s.stores.any fun e => e.id = i }

/-- A thread's refresh acts (R218): on the view of its core; and what is ordered before it is covered by the thread's later publishes (R220).
Stores that no synchronisation orders are covered too, which only a data race could tell (log entry 162). -/
def State.refreshNow (s : State) (r : TRef) (scope : Nat) : State :=
  let c := (s.group r.g).core
  (s.refreshView c scope).sees r (s.nearStores r c)

/-- A refresh at a scope (R218): at once where every earlier atomic of the thread has taken its value and `needs` are met, otherwise
held for the thread's next access. -/
def State.refresh (s : State) (r : TRef) (scope : Nat) (needs : List Need) : State :=
  let th := s.thread r
  let reqs := (th.atoms.map (·.1)).filter s.reqs.contains
  if th.pend.isEmpty ∧ reqs = [] ∧ s.needsMet needs then s.refreshNow r scope
  else s.modThread r fun th => { th with pend := th.pend ++ [{ scope := scope, reqs := reqs, needs := needs }] }

/-- The refreshes of a thread that can act, in order (R218). -/
def State.settle (s : State) (r : TRef) : State :=
  let rec go : List Pend → State → State
    | [], s => s.modThread r fun th => { th with pend := [] }
    | p :: ps, s =>
      if p.reqs.all (fun i => !s.reqs.contains i) && s.needsMet p.needs then go ps (s.refreshNow r p.scope)
      else s.modThread r fun th => { th with pend := p :: ps }
  match (s.thread r).pend with
  | [] => s
  | ps => go ps s

/-! ## Writes at a home -/

/-- The condition of a MONW (R229): 0 unsigned at least, 1 equal, 2 not equal. -/
def monwHolds (cond value expect : Nat) : Bool :=
  if cond = 0 then decide (expect ≤ value) else if cond = 1 then decide (value = expect) else decide (value ≠ expect)

/-- The thread has observed a completion, or a value at its home, that its next publish covers (R217). -/
def State.observe (s : State) (r : TRef) : State := s.modThread r fun th => { th with obsEng := true }

/-- A waiting MONW rereads its location at the home (R229), at a moment that a stamp names; if the condition holds its thread is released with
a refresh. -/
def State.monwRead (s : State) (n : Nat) (r : TRef) : State :=
  match (s.thread r).status with
  | .waiting (.monw _ a k e c sc _) =>
    if monwHolds c (s.rdNat a k) e && !(s.thread r).halted then ((s.wakeAt n r).observe r).refresh r sc [] else s
  | _ => s

/-- The threads waiting in MONW on a location of these bytes (R229). -/
def State.watchers (s : State) (a n : Nat) : List TRef :=
  (List.range s.groups.length).flatMap fun g =>
    (s.refs g).filter fun r => match (s.thread r).status with
      | .waiting (.monw _ b m _ _ _ _) => decide (a < b + m) && decide (b < a + n)
      | _ => false

def State.monwGo (s : State) (n : Nat) : List TRef → State
  | [] => s
  | r :: rs => (s.monwRead n r).monwGo n rs

/-- Threads that one write wakes reread at one moment (R124, R229). -/
def State.monwReads (s : State) : List TRef → State
  | [] => s
  | rs => s.tick.monwGo s.fresh rs

/-- Bytes written at their home, waking those who watch them (R214, R229). -/
def State.homeWr (s : State) (a : Nat) (bs : List Byte) : State :=
  let s := s.wrs a bs
  s.monwReads (s.watchers a bs.length)

/-- A byte with a nibble of it replaced: 0 the whole byte, 1 bits 3:0, 2 bits 7:4 (R208, R210). -/
def mergeNib (old new : Byte) (nib : Nat) : Byte :=
  if nib = 0 then new
  else if nib = 1 then (old &&& 0xF0) ||| (new &&& 0x0F)
  else (old &&& 0x0F) ||| (new &&& 0xF0)

/-- A byte with the nibbles of a mask replaced. -/
def mergeMask (old new : Byte) (mask : Nat) : Byte :=
  if mask = 0 then old else mergeNib old new (if mask = 3 then 0 else mask)

/-! ## Lane loads and stores through a view (R213) -/

/-- An address of the core's own group memory, read in place (R213). -/
def ownGmem (c a : Nat) : Bool := decide (gmemBase + c * gmemStride ≤ a) && decide (a < gmemBase + (c + 1) * gmemStride)

def snapOf (l : List Snap) (a : Nat) : Snap := (l.find? fun x => x.addr = a).getD { addr := a, val := 0, mask := 0 }
def snapPut (l : List Snap) (x : Snap) : List Snap := l.filter (fun y => y.addr ≠ x.addr) ++ if x.mask = 0 then [] else [x]

/-- Snapshot values taken over others of the same byte. -/
def Snap.over (new old : Snap) : Snap :=
  { addr := new.addr, val := mergeMask old.val new.val new.mask, mask := old.mask ||| new.mask, src := new.src ++ old.src }

/-- The nibbles of a byte that a core's view does not hold: neither a retired store, unless it is found in the die copy, nor a snapshot value
(R213). -/
def State.viewLacks (s : State) (c a : Nat) : Nat :=
  let held := s.stores.foldl (fun m e => if e.core = c && e.addr = a && !e.shared then m ||| nibMask e.nib else m) (snapOf (s.core c).view.snaps a).mask
  3 ^^^ (held &&& 3)

/-- Of some nibbles of a byte, those whose fetch for a core goes to the home (R213, R218): all where the home is on the core's die; otherwise those
that the die copy lacks, or, since a package refresh that no narrower one followed, all but stores on their way. -/
def State.viaHome (s : State) (c a need : Nat) : Nat :=
  let d := dieOfCore c
  let v := (s.core c).view
  if homeDie a = some d then need
  else
    let fresh := if v.pkg && !v.near.contains a then 0 else (snapOf (s.die d).copies a).mask
    need &&& (3 ^^^ ((fresh ||| s.forwarded d a) &&& 3))

/-- The nibbles that a view lacks fetched for a core: from the home on its own die, otherwise from the die copy or the home, which updates the die
copy (R213, R218). -/
def State.fetch (s : State) (c a need : Nat) : State × Snap :=
  let d := dieOfCore c
  let x := s.core c
  let take (s : State) (fetched : List Nat) (v : Snap) : State × Snap :=
    let v := v.over (snapOf x.view.snaps a)
    (s.setCore c { x with view := { x.view with snaps := snapPut x.view.snaps v, fetched := fetched } }, v)
  if homeDie a = some d then take s x.view.fetched { addr := a, val := s.rd a, mask := need }
  else
    let di := s.die d
    let cur := snapOf di.copies a
    if s.viaHome c a need = 0 then take s x.view.fetched { cur with mask := cur.mask &&& need }
    else
      let keep := cur.mask &&& s.forwarded d a
      let cur : Snap := { cur with val := mergeMask (s.rd a) cur.val keep, mask := 3, src := if keep = 0 then [] else cur.src }
      take (s.setDie d { di with copies := snapPut di.copies cur }) (a :: x.view.fetched) { cur with mask := need }

/-- One byte as a thread's load sees it: the retired stores of its core over snapshot values (R213). -/
def State.viewByte (s : State) (c : Nat) (r : TRef) (a : Nat) : State × Byte :=
  let es := s.stores.filter fun e => e.core = c && e.addr = a && !e.shared
  let need := s.viewLacks c a
  let (s, base) : State × Snap :=
    if ownGmem c a then (s, { addr := a, val := s.rd a })
    else if need = 0 then (s, snapOf (s.core c).view.snaps a)
    else s.fetch c a need
  let val := es.foldl (fun v e => mergeNib v e.val e.nib) base.val
  (s.sees r ((es.filter fun e => e.thr ≠ r).map (·.id) ++ base.src), val)

/-- A load of n bytes waits: one of them has to be fetched from a home whose die is in a relock (R349). -/
def State.loadWaits (s : State) (c a n : Nat) : Bool :=
  (List.range n).any fun i =>
    !(homeDie (a + i)).all s.runs && !ownGmem c (a + i) && decide (s.viaHome c (a + i) (s.viewLacks c (a + i)) ≠ 0)

def State.viewBytes (s : State) (c : Nat) (r : TRef) (a : Nat) : Nat → State × List Byte
  | 0 => (s, [])
  | n + 1 =>
    let (s, b) := s.viewByte c r a
    let (s, bs) := s.viewBytes c r (a + 1) n
    (s, b :: bs)

/-- A 16-byte unit on which a message has been performed in part, or a 128-bit request is still at work: no other write falls there (R232). -/
def State.unitBusy (s : State) (a : Nat) : Bool :=
  decide (scratchBase ≤ a) && decide (a < slotBase) &&
    (let c := s.cluster (homeCluster a)
     c.busy.contains (a / 16) || c.queue.any fun m => m.part.contains (a / 16) && m.reqs.any fun q => q.addr / 16 = a / 16)

/-- A store of one byte (or nibble) by a thread (R213, R214): performed in place in its core's own group memory, otherwise retired on
its way to its home, later than the atomics of the thread on that byte. -/
def State.storeByte (s : State) (c : Nat) (r : TRef) (a : Nat) (v : Byte) (nib : Nat) : State :=
  let th := s.thread r
  let atoms := (th.atoms.filter fun p => p.2.1 ≤ a && a < p.2.1 + p.2.2 && s.reqs.contains p.1).map (·.1)
  let held := s.stores.any fun e => e.core = c && e.addr = a
  if ownGmem c a && atoms.isEmpty && !held && !s.unitBusy a then s.homeWr a [mergeNib (s.rd a) v nib]
  else
    let x := s.core c
    let old := snapOf x.view.snaps a
    let s := s.setCore c { x with view := { x.view with
      snaps := snapPut x.view.snaps { old with mask := old.mask &&& (3 ^^^ nibMask nib) } } }
    { s.tick with stores := s.stores ++ [{ id := s.fresh, core := c, thr := r, addr := a, val := v, nib := nib, after := atoms }] }

def State.storeBytes (s : State) (c : Nat) (r : TRef) (a : Nat) : List Byte → State
  | [] => s
  | b :: bs => (s.storeByte c r a b 0).storeBytes c r (a + 1) bs

/-- Two stores write one location (R212). -/
def SEntry.meets (e b : SEntry) : Bool := decide (e.addr = b.addr) && decide (nibMask e.nib &&& nibMask b.nib ≠ 0)

/-- A retired store goes one step (R213, R214): into the die copy where its home is on another die, and then to its home; stores to one
location keep their order, and nothing is performed at a home on a relocking die (R349). -/
def State.drain (s : State) (n : Nat) : State :=
  match s.stores[n]? with
  | none => s
  | some e =>
    let d := dieOfCore e.core
    let before := s.stores.take n
    let home := homeDie e.addr
    if e.after.any s.reqs.contains then s
    else if home ≠ some d ∧ e.fwd.isNone then
      if before.any (fun b => b.core = e.core && e.meets b && b.fwd.isNone) then s else
        let di := s.die d
        let old := snapOf di.copies e.addr
        let new : Snap := { addr := e.addr, val := e.val, mask := nibMask e.nib, src := [e.id] }
        let old : Snap := { old with src := old.src.filter fun i => s.stores.any fun b => b.id = i }
        let di := { di with fwdNo := di.fwdNo + 1, copies := snapPut di.copies (new.over old) }
        { s.setDie d di with stores := s.stores.set n { e with fwd := some di.fwdNo } }
    else
      let ahead := if home = some d then before.any fun b => b.core = e.core && e.meets b
        else s.stores.any fun b => e.meets b && dieOfCore b.core = d && b.id ≠ e.id &&
          (match b.fwd, e.fwd with | some i, some j => decide (i < j) | _, _ => false)
      if ahead || !(home.all s.runs) || s.unitBusy e.addr then s
      else { s with stores := s.stores.eraseIdx n }.homeWr e.addr [mergeNib (s.rd e.addr) e.val e.nib]

end Sys2Proof.Machine
end

