-- ==== Sys2Proof/Machine/Operands.lean ====
section
/-! DEFINITION. Operands: window registers and groups (R24 to R26), stale reads (R35), outstanding results (R121), the frame of every
lane instruction over a sheaf (R33, R34, R125, R129), and tagged pointers with their checks (R196 to R204). -/

namespace Sys2Proof.Machine

/-! ## Registers -/

/-- A register field and how many registers its group has. -/
structure RegField where
  v : BitVec 7
  n : Nat := 1
  deriving DecidableEq, Repr

/-- Every register of a group lies in the thread's allocation; field 0 always does (R26). -/
def Thread.inBounds (th : Thread) (f : RegField) : Bool := f.v = 0 || decide (th.base + f.v.toNat + f.n ≤ th.regs.length)

/-- A register of the window, read at issue: field 0 reads as zero (R24); while a write to it is outstanding, one of the values
R35 allows. -/
def State.reg (s : State) (r : TRef) (v : BitVec 7) (k : Nat := 0) : Word :=
  if v = 0 then 0
  else let th := s.thread r; th.rawReg (th.base + v.toNat + k) (s.fresh * 512 + th.base + v.toNat + k)

/-- A register group of n registers, as one value (R25). -/
def State.regGroup (s : State) (r : TRef) (v : BitVec 7) : Nat → Nat
  | 0 => 0
  | n + 1 => s.regGroup r v n + (s.reg r v n).toNat * 2 ^ (32 * n)

def State.pair (s : State) (r : TRef) (v : BitVec 7) : DWord := .ofNat 64 (s.regGroup r v 2)
def State.quad (s : State) (r : TRef) (v : BitVec 7) : QWord := .ofNat 128 (s.regGroup r v 4)

/-- A fixed-latency write of an allocated register; a result outstanding to it no longer reaches it (R35). -/
def Thread.put (th : Thread) (i : Nat) (w : Word) : Thread :=
  { th with
    regs := th.regs.set i w
    seq := th.seq + 1
    cands := th.cands.map fun c => if c.reg = i then { c with vals := c.vals ++ [w], last := th.seq + 1 } else c }

def Thread.puts (th : Thread) (i : Nat) : List Word → Thread
  | [] => th
  | w :: ws => (th.put i w).puts (i + 1) ws

/-- A fixed-latency write of a register group: field 0 ignores it (R24, R25). -/
def State.setRegs (s : State) (r : TRef) (v : BitVec 7) (ws : List Word) : State :=
  if v = 0 then s else s.modThread r fun th => th.puts (th.base + v.toNat) ws

def State.setReg (s : State) (r : TRef) (v : BitVec 7) (w : Word) : State := s.setRegs r v [w]

/-- The words of a value, the least significant first (R25). -/
def wordsOf : Nat → Nat → List Word
  | 0, _ => []
  | k + 1, v => BitVec.ofNat 32 v :: wordsOf k (v / 2 ^ 32)

/-- The allocated registers a group names, none where the write is discarded (R24, R25). -/
def Thread.regNums (th : Thread) (f : RegField) : List (Option Nat) :=
  if f.v = 0 then List.replicate f.n none else (List.range f.n).map fun k => some (th.base + f.v.toNat + k)

/-- What a read of a register may return once a result to it has issued (R35): until a later write, only what it holds. -/
def Thread.candFor (th : Thread) (id i : Nat) : Cand :=
  { id := id, reg := i, vals := [th.regs.getD i 0], last := ((th.cands.find? fun c => c.reg = i).map (·.last)).getD 0 }

/-- A variable-latency result becomes outstanding (R35, R121): its registers are fixed now, and each read of them until it is written
may still return what they hold. The result is named by the state's next fresh name. -/
def State.issueOut (s : State) (r : TRef) (f : RegField) (val : ResVal) (slot : Option Nat := none) : State :=
  s.tick.modThread r fun th =>
    let regs := th.regNums f
    { th with
      seq := th.seq + 1
      cands := th.cands ++ (regs.filterMap (·)).map (th.candFor s.fresh)
      outs := th.outs ++ [{ id := s.fresh, regs := regs, val := val, seq := th.seq + 1, slot := slot }] }

/-- A variable-latency result whose value is known at issue. -/
def State.issueVal (s : State) (r : TRef) (v : BitVec 7) (n : Nat) (val : Nat) : State :=
  s.issueOut r { v := v, n := n } (.have (wordsOf n val))

/-- A variable-latency result is written (R35, R121): a Parked thread with nothing left outstanding becomes Ready (R34, R119). -/
def State.landOut (s : State) (r : TRef) (id : Nat) : State :=
  match (s.thread r).outs.find? (fun o => o.id = id) with
  | none => s
  | some o =>
    let ws := match o.val with
      | .awaited => none
      | .have ws => some ws
      | .sticky k => some [.ofNat 32 (bits (s.ctx (s.ctxOf r.g)).sticky.toNat (32 * k + 31) (32 * k))]
    match ws with
    | none => s
    | some ws =>
      let n := s.fresh
      let s := s.tick.modThread r fun th =>
        let th := th.land o ws
        if th.status = .parked && th.outs.isEmpty then { th with status := .ready, readyAt := n } else th
      match o.slot with
      | some k => s.slotLane (s.group r.g).core k
      | none => s

/-! ## The frame of a lane instruction -/

/-- What one lane of an instruction does: completes, goes to another counter, stays Ready at the instruction (R279, R286), backs off to
repeat it (R338), or faults with a code and two details. -/
inductive LaneRes
  | done (s : State)
  | jump (s : State) (pc : Int)
  | stay (s : State)
  | again (s : State)
  | fault (code d0 d1 : Nat)
  /-- a fault whose record names lanes of its own (R137) -/
  | faultMask (code d0 d1 mask : Nat)
  /-- the instruction takes its effect and also raises a fault, at its own address (R137) -/
  | doneFault (s : State) (code d0 d1 furrow mask : Nat)

/-- How an instruction uses registers and memory: its marker, the groups it reads and writes, whether it takes an outstanding result,
whether it is an access that a refresh holds (R226), and whether it takes a return slot (R233). -/
structure Form where
  sw : Bool
  reads : List RegField := []
  writes : List RegField := []
  var : Bool := false
  access : Bool := false
  slot : Bool := false

/-- The instruction has issued (R34): the counter moves, and under S the thread parks unless nothing is outstanding. -/
def Thread.issued (th : Thread) (sw : Bool) (pc : Int) : Thread :=
  let th := { th with pc := pc, marked := sw }
  match th.status with
  | .ready => if sw && !th.outs.isEmpty then { th with status := .parked } else th
  | _ => th

/-- A register of these groups has a variable-latency write outstanding (R35). -/
def Thread.staleRead (th : Thread) (fs : List RegField) : Bool :=
  fs.any fun f => (th.regNums f).any fun i => match i with
    | some i => th.cands.any fun c => c.reg = i
    | none => false

/-- A lane that may issue: Ready, not halted, in a Resident group (R119, R124). -/
def State.canIssue (s : State) (r : TRef) : Bool :=
  let th := s.thread r
  decide (th.status = .ready) && !th.halted && decide ((s.group r.g).state = .resident)

/-- A lane's fault, before its group's record is written. -/
structure LaneFault where
  r : TRef
  code : Nat
  d0 : Nat
  d1 : Nat
  lanes : Option (Nat × Nat) := none
  deriving DecidableEq, Repr

/-- One lane: the decode checks in their order (R33), the limit of R121, STALE (R35), then the instruction's own effect. -/
def runLane (f : Form) (body : State → TRef → LaneRes) (s : State) (r : TRef) : State × Option LaneFault :=
  if !s.canIssue r then (s, none)
  else if !((f.reads ++ f.writes).all (s.thread r).inBounds) then (s, some { r := r, code := 0x02, d0 := 0, d1 := 0 })
  else
    let s := if f.access then s.settle r else s
    let th := s.thread r
    if f.access && !th.pend.isEmpty then (s, none)
    else if f.var && decide (Config.maxOutstanding ≤ th.outs.length) then (s.modThread r fun th => { th with status := .parked }, none)
    else if (s.ctx (s.ctxOf r.g)).stale && th.staleRead f.reads then (s, some { r := r, code := 0x1B, d0 := 0, d1 := 0 })
    else match body s r with
      | .done s' => (s'.tick.modThread r (·.issued f.sw (th.pc + 4)), none)
      | .jump s' pc => (s'.tick.modThread r (·.issued f.sw pc), none)
      | .stay s' => (s', none)
      | .again s' => (s'.tick, none)
      | .fault c d0 d1 => (s, some { r := r, code := c, d0 := d0, d1 := d1 })
      | .faultMask c d0 d1 m => (s, some { r := r, code := c, d0 := d0, d1 := d1, lanes := some (r.t / 32, m) })
      | .doneFault s' c d0 d1 fu m => (s'.tick, some { r := r, code := c, d0 := d0, d1 := d1, lanes := some (fu, m) })

/-- The lanes of a sheaf in ascending thread order, and the faults they raise (R125). -/
def runLanes (f : Form) (body : State → TRef → LaneRes) : List TRef → State → List LaneFault → State × List LaneFault
  | [], s, fs => (s, fs)
  | r :: rs, s, fs =>
    let (s, e) := runLane f body s r
    runLanes f body rs s (fs ++ e.toList)

/-- The mask of the furrow lanes of some threads. -/
def laneMask (g furrow : Nat) (rs : List TRef) : Nat :=
  rs.foldl (fun m r => if r.g = g ∧ r.t / 32 = furrow then m ||| 2 ^ (r.t % 32) else m) 0

/-- The faults of a sheaf, one record and one action per group, with the lowest faulting lane's details (R69, R71). -/
def raiseFaults (all : List LaneFault) : List LaneFault → List Nat → State → State
  | [], _, s => s
  | e :: es, done, s =>
    if done.contains e.r.g then raiseFaults all es done s
    else
      let gr := s.group e.r.g
      let th := s.thread e.r
      let (fu, m) := e.lanes.getD (e.r.t / 32, laneMask e.r.g (e.r.t / 32) (all.map (·.r)))
      let s' := s.takeFault (s.launch gr.launch).ctx
        { code := e.code, d0 := e.d0, d1 := e.d1, pc := th.pc, lanes := m, furrow := fu, core := gr.core, usertag := th.usertag.toNat,
          launch := some gr.launch, group := some e.r.g }
      raiseFaults all es (e.r.g :: done) s'

/-- Every group with a thread in a checked sheaf whose passes differed raises CHECK_MISMATCH (R129). The record of a group names the furrow of its
first lane that differed, and the lanes that differed in that furrow (log entry 175). -/
def raiseMismatch (lanes : Nat) (rs : List TRef) (s : State) : State :=
  let hit := (rs.zipIdx.filter fun p => lanes.testBit p.2).map (·.1)
  let fs := rs.map fun r => ({ r := r, code := 0x17, d0 := 0, d1 := 0 } : LaneFault)
  let rec go : List LaneFault → List Nat → State → State
    | [], _, s => s
    | e :: es, done, s =>
      if done.contains e.r.g then go es done s
      else
        let gr := s.group e.r.g
        let mine := hit.filter fun h => h.g = e.r.g
        let fur := (mine.head?.getD e.r).t / 32
        go es (e.r.g :: done) (s.takeFault (s.launch gr.launch).ctx
          { code := 0x17, pc := (s.thread e.r).pc, lanes := laneMask e.r.g fur mine, furrow := fur, core := gr.core,
            usertag := (s.thread e.r).usertag.toNat, launch := some gr.launch, group := some e.r.g })
  go fs [] s

/-- The core of a sheaf. -/
def State.sheafCore (s : State) : Nat := match s.sheaf with
  | r :: _ => (s.group r.g).core
  | [] => 0

/-- An instruction issued for the present sheaf: nothing where a checked sheaf differed (R129) or no return slot is free (R233);
otherwise each lane in turn, then the faults. -/
def runSheaf (f : Form) (body : State → TRef → LaneRes) (s : State) : Out :=
  if s.differ ≠ 0 then .next (raiseMismatch s.differ s.sheaf { s with differ := 0 })
  else if f.slot && decide (Config.returnSlots ≤ (s.core s.sheafCore).retSlots.length) then .next s
  else
    let s := { s.tick with sheafId := s.fresh }
    let (s, fs) := runLanes f body s.sheaf s []
    .next (raiseFaults fs fs [] s)

/-! ## Tagged pointers (R196, R197) -/

/-- Where an access goes: a location of memory, or a byte of the code or the constants of the launch. -/
inductive Place
  | loc (a : Nat)
  | priv (a : Nat)
  | code (off : Nat)
  | const (off : Nat)
  deriving DecidableEq, Repr

def ptrSpace (p : DWord) : Nat := bits p.toNat 63 60
def ptrCluster (p : DWord) : Nat := bits p.toNat 59 53
def ptrCoreIdx (p : DWord) : Nat := bits p.toNat 52 50
def ptrOff (p : DWord) : Nat := bits p.toNat 49 0

/-- Spaces of the table of R196. -/
def spaceKnown (sp : Nat) : Bool := [1, 2, 4, 6, 8].contains sp

/-- Steps 1 to 3 of R197. -/
def spaceCheck (p : DWord) : Option (Nat × Nat) :=
  let sp := ptrSpace p
  if sp = 0 then some (0x07, 0)
  else if !spaceKnown sp then some (0x08, 1)
  else if ((sp = 2 ∨ sp = 4) ∧ 64 ≤ ptrCluster p) ∨ (sp = 2 ∧ 6 ≤ ptrCoreIdx p) then some (0x08, 2)
  else none

/-- A group of a launch, by linear index, that is Resident on a core (R199). -/
def State.residentOn (s : State) (l lin core : Nat) : Option Nat :=
  (s.groupsOf l).find? fun g => (s.group g).lin = lin && (s.group g).core = core && (s.group g).state = .resident

/-- The frame of a launch's scratch page on a die (R200). -/
def State.scratchFrame (s : State) (l die page : Nat) : Option Nat := (tget {} (s.launch l).scratch die).frames[page]?

/-- Steps 7 to 10 of R197 for `len` bytes at an exact address of a space. -/
def State.bound (s : State) (r : TRef) (p : DWord) (addr : Int) (len : Nat) : Except (Nat × Nat) Place :=
  let g := s.group r.g
  let l := s.launch g.launch
  let out := decide (addr < 0) || decide ((2 ^ 50 : Nat) ≤ addr.toNat)
  let a := addr.toNat
  match ptrSpace p with
  | 1 => if out || decide (l.hdr.spill < a + len) then .error (0x05, 1) else .ok (.priv (spillAddr r.g r.t a))
  | 2 =>
    if out then .error (0x05, 0)
    else
      let sel := a / 524288
      let b := a % 524288
      if sel = 0 then
        if l.hdr.gmem < b + len then .error (0x05, 0) else .ok (.loc (gmemAddr g.core (g.gbase + b)))
      else
        let c := ptrCluster p * 6 + ptrCoreIdx p
        if clusterOf c ≠ clusterOf g.core then .error (0x05, 2)
        else match s.residentOn g.launch (sel - 1) c with
          | none => .error (0x05, 2)
          | some h => if l.hdr.gmem < b + len then .error (0x05, 0) else .ok (.loc (gmemAddr c ((s.group h).gbase + b)))
  | 4 =>
    let d := ptrCluster p / 16
    if out then .error (0x06, d)
    else match s.scratchFrame g.launch d (a / 65536), s.scratchFrame g.launch d ((a + len - 1) / 65536) with
      | some fr, some _ => .ok (.loc (scratchAddr d fr (a % 65536)))
      | _, _ => .error (0x06, d)
  | 6 => if out || decide (l.hdr.codebytes < a + len) then .error (0x08, 5) else .ok (.code a)
  | 8 => if out || decide (l.const.length < a + len) then .error (0x08, 5) else .ok (.const a)
  | _ => .error (0x08, 1)

/-- The checks of R197 in their order, for `len` bytes at the pointer's offset plus a displacement, aligned to `size`. -/
def State.resolveN (s : State) (r : TRef) (p : DWord) (disp : Int) (size len : Nat) (store : Bool) : Except (Nat × Nat) Place :=
  match spaceCheck p with
  | some e => .error e
  | none =>
    if store && (ptrSpace p = 6 || ptrSpace p = 8) then .error (0x08, 3)
    else
      let addr : Int := ptrOff p + disp
      if addr % size ≠ 0 then .error (0x09, size) else s.bound r p addr len

/-- An access of `size` bytes, naturally aligned. -/
def State.resolve (s : State) (r : TRef) (p : DWord) (disp : Int) (size : Nat) (store : Bool) : Except (Nat × Nat) Place :=
  s.resolveN r p disp size size store

/-- The checks of an atomic, MONW or barrier object (R229, R230, R238, R259): steps 1 to 9 of R197, then only spaces 0x2 and 0x4. -/
def State.resolveAtom (s : State) (r : TRef) (p : DWord) (size : Nat) : Except (Nat × Nat) Nat :=
  match spaceCheck p with
  | some e => .error e
  | none =>
    if ptrOff p % size ≠ 0 then .error (0x09, size)
    else if ptrSpace p = 6 ∨ ptrSpace p = 8 then .error (0x08, 6)
    else match s.bound r p (ptrOff p) size with
      | .error e => .error e
      | .ok (.loc a) => .ok a
      | .ok _ => .error (0x08, 6)

/-- A byte of the launch's code (R44, R204). -/
def State.codeByte (s : State) (l : Launch) (off : Nat) : Byte :=
  let p := l.codeBase + l.hdr.codeoff + off
  s.rd (l.codeFrames.getD (p / 65536) 0 + p % 65536)

/-- The bytes from an address of a launch's scratch, page by page: each page stands in a frame of its own (R200). Any other address is one
run. -/
def State.spans (s : State) (l a n : Nat) : List (Nat × Nat) :=
  if a < scratchBase ∨ gmemBase ≤ a then [(a, n)]
  else
    let d := (a - scratchBase) / 134217728
    let fs := (tget {} (s.launch l).scratch d).frames
    let va := fs.idxOf ((a - scratchBase) % 134217728 / 65536) * 65536 + a % 65536
    (pageChunks (n / 65536 + 2) va n).map fun p => (scratchAddr d (fs.getD (p.1 / 65536) 0) (p.1 % 65536), p.2)

/-- A lane load at a place waits: for a relock (R349), or for an atomic of the thread on its bytes (R224, note c). -/
def State.placeWaits (s : State) (r : TRef) (p : Place) (n : Nat) : Bool :=
  match p with
  | .loc a => s.loadWaits (s.group r.g).core a n || s.ownAtom r a n
  | _ => false

/-- A lane load of n bytes at a place (R206). -/
def State.loadAt (s : State) (r : TRef) (p : Place) (n : Nat) : State × List Byte :=
  let g := s.group r.g
  let l := s.launch g.launch
  match p with
  | .loc a => s.viewBytes g.core r a n
  | .priv a => (s, s.rds a n)
  | .code o => (s, (List.range n).map fun i => s.codeByte l (o + i))
  | .const o => (s, (List.range n).map fun i => l.const.getD (o + i) 0)

/-- A lane store of bytes at a place (R206); code and constants cannot be written (R204). -/
def State.storeAt (s : State) (r : TRef) (p : Place) (bs : List Byte) : State :=
  match p with
  | .loc a => s.storeBytes (s.group r.g).core r a bs
  | .priv a => s.wrs a bs
  | _ => s

def State.spansWait (s : State) (r : TRef) : List (Nat × Nat) → Bool
  | [] => false
  | p :: ps => s.placeWaits r (.loc p.1) p.2 || s.spansWait r ps

/-- A lane load of many bytes waits, as one of its pieces does. -/
def State.spanWaits (s : State) (r : TRef) (p : Place) (n : Nat) : Bool :=
  match p with
  | .loc a => s.spansWait r (s.spans (s.group r.g).launch a n)
  | _ => false

def State.viewSpans (s : State) (c : Nat) (r : TRef) : List (Nat × Nat) → State × List Byte
  | [] => (s, [])
  | p :: ps =>
    let (s, b) := s.viewBytes c r p.1 p.2
    let (s, bs) := s.viewSpans c r ps
    (s, b ++ bs)

/-- A lane load of many bytes, which may lie in more than one page (R102, R104, R200, R261). -/
def State.loadSpan (s : State) (r : TRef) (p : Place) (n : Nat) : State × List Byte :=
  match p with
  | .loc a => s.viewSpans (s.group r.g).core r (s.spans (s.group r.g).launch a n)
  | _ => s.loadAt r p n

def State.storeSpans (s : State) (c : Nat) (r : TRef) : List (Nat × Nat) → List Byte → State
  | [], _ => s
  | p :: ps, bs => (s.storeBytes c r p.1 (bs.take p.2)).storeSpans c r ps (bs.drop p.2)

/-- A lane store of many bytes, page by page (R200, R261). -/
def State.storeSpan (s : State) (r : TRef) (p : Place) (bs : List Byte) : State :=
  match p with
  | .loc a => s.storeSpans (s.group r.g).core r (s.spans (s.group r.g).launch a bs.length) bs
  | _ => s.storeAt r p bs

/-- The lane is BackedOff at its level (R142): 2^level slice cycles of its core, counted by `due`. -/
def State.sliceCount (s : State) (c : Nat) : Nat :=
  let x := s.core c
  let cl := s.cluster (clusterOf c)
  let d := s.die (dieOfCore c)
  let kept := d.pulses * cl.mhz / (if d.f = 0 then 1 else d.f)
  x.sliceBase + (kept - x.pulseBase) * x.k / 8

def State.backOff (s : State) (r : TRef) (poll : Option Wait) : State :=
  let due := s.sliceCount (s.group r.g).core
  s.modThread r fun th =>
    let lv := min (th.level + 1) 7
    { th with level := lv, status := .backedOff (due + 2 ^ lv) poll, pollCh := none }

end Sys2Proof.Machine
end

