-- ==== Sys2Proof/Machine/Integer.lean ====
section
/-! DEFINITION. INT, INTX, the immediate forms and MOVHI (R145 to R156). -/

namespace Sys2Proof.Machine

/-! ## Values (R147, R152 to R156) -/

def shiftCount (y : Word) : Nat := y.toNat % 32

def opMulh (x y : Word) : Word := wrapInt 32 (x.toInt * y.toInt / 2 ^ 32)
def opMulhu (x y : Word) : Word := .ofNat 32 (x.toNat * y.toNat / 2 ^ 32)
def opShl (x : Word) (c : Nat) : Word := .ofNat 32 (x.toNat * 2 ^ c)
def opShr (x : Word) (c : Nat) : Word := .ofNat 32 (x.toNat / 2 ^ c)
def opSra (x : Word) (c : Nat) : Word := wrapInt 32 (x.toInt / 2 ^ c)
def opRot (x : Word) (c : Nat) : Word := if c = 0 then x else opShl x c ||| opShr x (32 - c)
def boolWord (b : Bool) : Word := if b then 1 else 0
def sMin (x y : BitVec n) : BitVec n := if x.toInt ≤ y.toInt then x else y
def sMax (x y : BitVec n) : BitVec n := if x.toInt ≤ y.toInt then y else x
def uMin (x y : BitVec n) : BitVec n := if x.toNat ≤ y.toNat then x else y
def uMax (x y : BitVec n) : BitVec n := if x.toNat ≤ y.toNat then y else x

/-- The number of zero bits above the highest one bit among the low n bits (R147). -/
def clzFrom (x : Nat) : Nat → Nat
  | 0 => 0
  | n + 1 => if x.testBit n then 0 else 1 + clzFrom x n

def popFrom (x : Nat) : Nat → Nat
  | 0 => 0
  | n + 1 => (if x.testBit n then 1 else 0) + popFrom x n

def revFrom (x : Nat) : Nat → Nat
  | 0 => 0
  | n + 1 => (if x.testBit n then 2 ^ (31 - n) else 0) + revFrom x n

def opClz (x : Word) : Word := .ofNat 32 (clzFrom x.toNat 32)
def opPopc (x : Word) : Word := .ofNat 32 (popFrom x.toNat 32)
def opBrev (x : Word) : Word := .ofNat 32 (revFrom x.toNat 32)

/-- R148: a zero divisor gives all ones and the dividend, and no fault. -/
def opDivu (x y : Word) : Word := if y = 0 then 0xFFFFFFFF else .ofNat 32 (x.toNat / y.toNat)
def opRemu (x y : Word) : Word := if y = 0 then x else .ofNat 32 (x.toNat % y.toNat)

/-- R152: a field never runs past bit 31. -/
def fieldPos (c : Word) : Nat := bits c.toNat 4 0
def fieldWidth (c : Word) : Nat := min (bits c.toNat 13 8) (32 - fieldPos c)

def opBfe (x c : Word) : Word :=
  let w := fieldWidth c
  let f := x.toNat / 2 ^ fieldPos c % 2 ^ w
  if w = 0 then 0
  else if bits c.toNat 16 16 = 1 then wrapInt 32 (sextInt f w) else .ofNat 32 f

def opBfi (z x c : Word) : Word :=
  let mask : Word := .ofNat 32 ((2 ^ fieldWidth c - 1) * 2 ^ fieldPos c)
  (z &&& ~~~mask) ||| (opShl x (fieldPos c) &&& mask)

/-- One operation on each 16-bit half (R155). -/
def halves (f : BitVec 16 → BitVec 16 → BitVec 16) (x y : Word) : Word :=
  let lo := f (x.setWidth 16) (y.setWidth 16)
  let hi := f ((x >>> 16).setWidth 16) ((y >>> 16).setWidth 16)
  hi ++ lo

def opPackH2 (x y : Word) : Word := (y.setWidth 16) ++ (x.setWidth 16)

/-- R156: larger is better, compared modulo 2^16, and a tie keeps the first. -/
def acsChoose (first second : BitVec 16) : BitVec 16 × Nat :=
  if 0 < (second - first).toInt then (second, 1) else (first, 0)

def opAcs (x y : Word) : List Word :=
  let m0 := x.setWidth 16
  let m1 := (x >>> 16).setWidth 16
  let b0 := y.setWidth 16
  let b1 := (y >>> 16).setWidth 16
  let lo := acsChoose (m0 + b0) (m1 + b1)
  let hi := acsChoose (m0 + b1) (m1 + b0)
  [hi.1 ++ lo.1, .ofNat 32 (lo.2 + 2 * hi.2)]

/-- R154: the pointer's high word. -/
def ptrHigh (own : Nat) (c : Word) : Word :=
  let rank := if bits c.toNat 31 31 = 1 then own else bits c.toNat 9 0
  .ofNat 32 (bits c.toNat 19 16 * 2 ^ 28 + rank * 2 ^ 18)

/-! ## Shapes -/

def f1 (v : BitVec 7) : RegField := { v := v }
def f2 (v : BitVec 7) : RegField := { v := v, n := 2 }
def f4 (v : BitVec 7) : RegField := { v := v, n := 4 }

/-- A fixed-latency result of two registers. -/
def fixed2 (g : Word → Word → Word) (sw : Bool) (d a b : BitVec 7) (s : State) : Out :=
  runSheaf { sw := sw, reads := [f1 a, f1 b], writes := [f1 d] } (fun s r => .done (s.setReg r d (g (s.reg r a) (s.reg r b)))) s

/-- A fixed-latency result of D, A and B. -/
def fixed3 (g : Word → Word → Word → Word) (sw : Bool) (d a b : BitVec 7) (s : State) : Out :=
  runSheaf { sw := sw, reads := [f1 d, f1 a, f1 b], writes := [f1 d] }
    (fun s r => .done (s.setReg r d (g (s.reg r d) (s.reg r a) (s.reg r b)))) s

/-- A fixed-latency result of one register. -/
def fixed1 (g : Word → Word) (sw : Bool) (d a : BitVec 7) (s : State) : Out :=
  runSheaf { sw := sw, reads := [f1 a], writes := [f1 d] } (fun s r => .done (s.setReg r d (g (s.reg r a)))) s

/-- A fixed-latency pair of two pairs (R153). -/
def fixedPair (g : Nat → Nat → Nat) (sw : Bool) (d a b : BitVec 7) (s : State) : Out :=
  runSheaf { sw := sw, reads := [f2 a, f2 b], writes := [f2 d] }
    (fun s r => .done (s.setRegs r d (wordsOf 2 (g (s.regGroup r a 2) (s.regGroup r b 2) % 2 ^ 64)))) s

/-- A fixed-latency pair of a pair and a count (R153). -/
def fixedShift (g : Nat → Nat → Nat) (sw : Bool) (d a b : BitVec 7) (s : State) : Out :=
  runSheaf { sw := sw, reads := [f2 a, f1 b], writes := [f2 d] }
    (fun s r => .done (s.setRegs r d (wordsOf 2 (g (s.regGroup r a 2) ((s.reg r b).toNat % 64) % 2 ^ 64)))) s

/-- A variable-latency result of two registers (R148). -/
def var2 (g : Word → Word → Word) (sw : Bool) (d a b : BitVec 7) (s : State) : Out :=
  runSheaf { sw := sw, reads := [f1 a, f1 b], writes := [f1 d], var := true }
    (fun s r => .done (s.issueVal r d 1 (g (s.reg r a) (s.reg r b)).toNat)) s

/-- A field of a pointer pair (R154). -/
def ptrField (hi lo : Nat) (sw : Bool) (d a : BitVec 7) (s : State) : Out :=
  runSheaf { sw := sw, reads := [f2 a], writes := [f1 d] }
    (fun s r => .done (s.setReg r d (.ofNat 32 (bits (s.regGroup r a 2) hi lo)))) s

/-! ## INT (R147, R148) -/

def execAdd (sw : Bool) (d a b : BitVec 7) (s : State) : Out := fixed2 (· + ·) sw d a b s
def execSub (sw : Bool) (d a b : BitVec 7) (s : State) : Out := fixed2 (· - ·) sw d a b s
def execMul (sw : Bool) (d a b : BitVec 7) (s : State) : Out := fixed2 (· * ·) sw d a b s
def execMulh (sw : Bool) (d a b : BitVec 7) (s : State) : Out := fixed2 opMulh sw d a b s
def execMulhu (sw : Bool) (d a b : BitVec 7) (s : State) : Out := fixed2 opMulhu sw d a b s
def execMad (sw : Bool) (d a b : BitVec 7) (s : State) : Out := fixed3 (fun z x y => z + x * y) sw d a b s
def execAnd (sw : Bool) (d a b : BitVec 7) (s : State) : Out := fixed2 (· &&& ·) sw d a b s
def execOr (sw : Bool) (d a b : BitVec 7) (s : State) : Out := fixed2 (· ||| ·) sw d a b s
def execXor (sw : Bool) (d a b : BitVec 7) (s : State) : Out := fixed2 (· ^^^ ·) sw d a b s
def execAndn (sw : Bool) (d a b : BitVec 7) (s : State) : Out := fixed2 (fun x y => x &&& ~~~y) sw d a b s
def execShl (sw : Bool) (d a b : BitVec 7) (s : State) : Out := fixed2 (fun x y => opShl x (shiftCount y)) sw d a b s
def execShr (sw : Bool) (d a b : BitVec 7) (s : State) : Out := fixed2 (fun x y => opShr x (shiftCount y)) sw d a b s
def execSra (sw : Bool) (d a b : BitVec 7) (s : State) : Out := fixed2 (fun x y => opSra x (shiftCount y)) sw d a b s
def execRot (sw : Bool) (d a b : BitVec 7) (s : State) : Out := fixed2 (fun x y => opRot x (shiftCount y)) sw d a b s
def execMin (sw : Bool) (d a b : BitVec 7) (s : State) : Out := fixed2 sMin sw d a b s
def execMax (sw : Bool) (d a b : BitVec 7) (s : State) : Out := fixed2 sMax sw d a b s
def execMinu (sw : Bool) (d a b : BitVec 7) (s : State) : Out := fixed2 uMin sw d a b s
def execMaxu (sw : Bool) (d a b : BitVec 7) (s : State) : Out := fixed2 uMax sw d a b s
def execSeq (sw : Bool) (d a b : BitVec 7) (s : State) : Out := fixed2 (fun x y => boolWord (x == y)) sw d a b s
def execSne (sw : Bool) (d a b : BitVec 7) (s : State) : Out := fixed2 (fun x y => boolWord (x != y)) sw d a b s
def execSlt (sw : Bool) (d a b : BitVec 7) (s : State) : Out := fixed2 (fun x y => boolWord (decide (x.toInt < y.toInt))) sw d a b s
def execSltu (sw : Bool) (d a b : BitVec 7) (s : State) : Out := fixed2 (fun x y => boolWord (decide (x.toNat < y.toNat))) sw d a b s
def execSel (sw : Bool) (d a b : BitVec 7) (s : State) : Out := fixed3 (fun z x y => if z ≠ 0 then x else y) sw d a b s
def execClz (sw : Bool) (d a : BitVec 7) (s : State) : Out := fixed1 opClz sw d a s
def execPopc (sw : Bool) (d a : BitVec 7) (s : State) : Out := fixed1 opPopc sw d a s
def execBrev (sw : Bool) (d a : BitVec 7) (s : State) : Out := fixed1 opBrev sw d a s
def execDivu (sw : Bool) (d a b : BitVec 7) (s : State) : Out := var2 opDivu sw d a b s
def execRemu (sw : Bool) (d a b : BitVec 7) (s : State) : Out := var2 opRemu sw d a b s

/-! ## INTX (R152 to R156) -/

def execShli (sw : Bool) (d a : BitVec 7) (n : BitVec 5) (s : State) : Out := fixed1 (fun x => opShl x n.toNat) sw d a s
def execShri (sw : Bool) (d a : BitVec 7) (n : BitVec 5) (s : State) : Out := fixed1 (fun x => opShr x n.toNat) sw d a s
def execSrai (sw : Bool) (d a : BitVec 7) (n : BitVec 5) (s : State) : Out := fixed1 (fun x => opSra x n.toNat) sw d a s
def execRoti (sw : Bool) (d a : BitVec 7) (n : BitVec 5) (s : State) : Out := fixed1 (fun x => opRot x n.toNat) sw d a s
def execBfe (sw : Bool) (d a b : BitVec 7) (s : State) : Out := fixed2 opBfe sw d a b s
def execBfi (sw : Bool) (d a b : BitVec 7) (s : State) : Out := fixed3 opBfi sw d a b s
def execAdd64 (sw : Bool) (d a b : BitVec 7) (s : State) : Out := fixedPair (fun x y => x + y) sw d a b s
def execSub64 (sw : Bool) (d a b : BitVec 7) (s : State) : Out := fixedPair (fun x y => x + 2 ^ 64 - y) sw d a b s
def execShl64 (sw : Bool) (d a b : BitVec 7) (s : State) : Out := fixedShift (fun x c => x * 2 ^ c) sw d a b s
def execShr64 (sw : Bool) (d a b : BitVec 7) (s : State) : Out := fixedShift (fun x c => x / 2 ^ c) sw d a b s
def execMul64 (sw : Bool) (d a b : BitVec 7) (s : State) : Out := fixedPair (fun x y => x * y) sw d a b s

/-- PTR (R154): with self set, the rank is the issuing core's own cluster × 8 + core index. -/
def execPtr (sw : Bool) (d a b : BitVec 7) (s : State) : Out :=
  runSheaf { sw := sw, reads := [f1 a, f1 b], writes := [f2 d] }
    (fun s r =>
      let c := (s.group r.g).core
      .done (s.setRegs r d [s.reg r a, ptrHigh (clusterOf c * 8 + c % 6) (s.reg r b)])) s

def execPtrsp (sw : Bool) (d a : BitVec 7) (s : State) : Out := ptrField 63 60 sw d a s
def execPtrrk (sw : Bool) (d a : BitVec 7) (s : State) : Out := ptrField 59 50 sw d a s
def execPtrof (sw : Bool) (d a : BitVec 7) (s : State) : Out := ptrField 31 0 sw d a s
def execAddH2 (sw : Bool) (d a b : BitVec 7) (s : State) : Out := fixed2 (halves (· + ·)) sw d a b s
def execSubH2 (sw : Bool) (d a b : BitVec 7) (s : State) : Out := fixed2 (halves (· - ·)) sw d a b s
def execMaxH2 (sw : Bool) (d a b : BitVec 7) (s : State) : Out := fixed2 (halves sMax) sw d a b s
def execMinH2 (sw : Bool) (d a b : BitVec 7) (s : State) : Out := fixed2 (halves sMin) sw d a b s
def execMaxuH2 (sw : Bool) (d a b : BitVec 7) (s : State) : Out := fixed2 (halves uMax) sw d a b s
def execMinuH2 (sw : Bool) (d a b : BitVec 7) (s : State) : Out := fixed2 (halves uMin) sw d a b s
def execPackH2 (sw : Bool) (d a b : BitVec 7) (s : State) : Out := fixed2 opPackH2 sw d a b s

def execAcsH2 (sw : Bool) (d a b : BitVec 7) (s : State) : Out :=
  runSheaf { sw := sw, reads := [f1 a, f1 b], writes := [f2 d] } (fun s r => .done (s.setRegs r d (opAcs (s.reg r a) (s.reg r b)))) s

/-! ## Immediate forms and MOVHI (R23, R149, R150) -/

def execAddi (sw : Bool) (d a : BitVec 7) (i : BitVec 12) (s : State) : Out := fixed1 (fun x => x + i.signExtend 32) sw d a s
def execAndi (sw : Bool) (d a : BitVec 7) (i : BitVec 12) (s : State) : Out := fixed1 (fun x => x &&& i.setWidth 32) sw d a s
def execOri (sw : Bool) (d a : BitVec 7) (i : BitVec 12) (s : State) : Out := fixed1 (fun x => x ||| i.setWidth 32) sw d a s
def execXori (sw : Bool) (d a : BitVec 7) (i : BitVec 12) (s : State) : Out := fixed1 (fun x => x ^^^ i.setWidth 32) sw d a s
def execSlti (sw : Bool) (d a : BitVec 7) (i : BitVec 12) (s : State) : Out :=
  fixed1 (fun x => boolWord (decide (x.toInt < i.toInt))) sw d a s
def execSltiu (sw : Bool) (d a : BitVec 7) (i : BitVec 12) (s : State) : Out :=
  fixed1 (fun x => boolWord (decide (x.toNat < i.toNat))) sw d a s

def execMovhi (sw : Bool) (d : BitVec 7) (i : BitVec 19) (s : State) : Out :=
  runSheaf { sw := sw, writes := [f1 d] } (fun s r => .done (s.setReg r d (i ++ 0#13))) s

end Sys2Proof.Machine
end

