-- ==== Sys2Proof/Machine/Barrier.lean ====
section
/-! DEFINITION. Barriers (R242 to R249, R254, R257 to R259): named barriers, barrier objects in memory, the launch-wide barrier and the
slew limiter's queue; and the monitor events of R82. -/

namespace Sys2Proof.Machine

/-! ## Monitor events (R82, R83) -/

/-- Cycles of a cluster's clock (R348). -/
def State.cycles (s : State) (cl : Nat) : Nat :=
  let c := s.cluster cl
  let d := s.die (dieOfCluster cl)
  c.cycBase + d.pulses * c.mhz / (if d.f = 0 then 1 else d.f)

/-- The histogram bin of a value (R83). -/
def histBin (v : Nat) : Nat := if v < 2 then 0 else min (Nat.log2 v) 15

def satInc (n : Nat) : Nat := min (n + 1) (2 ^ 32 - 1)

/-- A unit counts one value (R82, R83). -/
def Monitor.count1 (m : Monitor) (v : Nat) : Monitor :=
  let h := if m.hist.isEmpty then List.replicate 16 0 else m.hist
  { m with
    min := if m.count = 0 then v else Nat.min m.min v
    max := if m.count = 0 then v else Nat.max m.max v
    count := satInc m.count
    hist := h.modify (histBin v) satInc }

/-- An event of a context on a core reaches the units of its cluster that count such events (R82). -/
def State.monitor (s : State) (core ctx source v : Nat) : State :=
  let cl := clusterOf core
  let c := s.cluster cl
  if c.monitors.any (fun m => m.enable && m.ctx = some ctx && m.source = source) then
    s.setCluster cl { c with monitors := c.monitors.map fun m =>
      if m.enable && m.ctx = some ctx && m.source = source && (m.cores = 0 || m.cores.testBit (core % 6)) then m.count1 v else m }
  else s

/-- The wait of a thread begins (R119). -/
def State.waitOn (s : State) (r : TRef) (w : Wait) : State :=
  let at0 := s.cycles (clusterOf (s.group r.g).core)
  s.modThread r fun th => { th with status := .waiting w, waitAt := at0 }

/-- A thread leaves a barrier, at a moment that a stamp names: its wait is counted by the monitors, it has observed what completed the barrier,
and it refreshes (R82, R217, R249). -/
def State.leaveAt (s : State) (n : Nat) (r : TRef) (scope : Nat) : State :=
  let c := (s.group r.g).core
  let t := s.cycles (clusterOf c) - (s.thread r).waitAt
  let s := (s.wakeAt n r).monitor c (s.ctxOf r.g) 4 t
  (if 7 ≤ scope then s.observe r else s).refresh r scope []

def State.leaveAll (s : State) (n scope : Nat) : List TRef → State
  | [] => s
  | r :: rs => (s.leaveAt n r scope).leaveAll n scope rs

def State.leaveBarrier (s : State) (r : TRef) (scope : Nat) : State := s.tick.leaveAt s.fresh r scope

/-- Threads that one completion releases become Ready at one moment (R124). -/
def State.leaveBarriers (s : State) (scope : Nat) (rs : List TRef) : State :=
  if rs.isEmpty then s else s.tick.leaveAll s.fresh scope rs

/-! ## Named barriers (R242, R243) -/

/-- The members of the phase in progress that have not arrived: unexited threads of member furrows (R242). -/
def Group.missing (g : Group) (b : NBar) : List Nat :=
  (List.range g.threads.length).filter fun t =>
    b.members.testBit (t / 32) && decide ((g.threads.getD t {}).status ≠ .exited) && !b.arrived.testBit t

/-- The phase completes at the first moment when every member has arrived (R242): every waiter becomes Ready. -/
def State.namedCheck (s : State) (g b : Nat) : State :=
  let gr := s.group g
  match gr.bars[b]? with
  | none => s
  | some nb =>
    if nb.arrived ≠ 0 ∧ gr.missing nb = [] then
      let ws := (s.refs g).filter fun r => (s.thread r).status = .waiting (.namedBar b)
      let s := s.modGroup g fun gr => { gr with bars := gr.bars.set b { nb with arrived := 0 } }
      s.leaveBarriers 2 ws
    else s

def State.namedChecks (s : State) (g : Nat) : List Nat → State
  | [] => s
  | b :: bs => (s.namedCheck g b).namedChecks g bs

/-- An arrival at a named barrier (R243): refused with the detail of R254, or counted. The thread waits while its bit is set. -/
def State.arriveNamed (s : State) (r : TRef) (b : Nat) (wait : Bool) : LaneRes :=
  match (s.group r.g).bars[b]? with
  | none => .fault 0x04 b 0
  | some nb =>
    if !nb.members.testBit (r.t / 32) then .fault 0x04 b 7
    else if nb.arrived.testBit r.t then .fault 0x04 b 6
    else if s.publishNeeds r 2 ≠ [] then .stay s
    else
      let s := s.publish r 2
      let s := s.modGroup r.g fun gr => { gr with bars := gr.bars.set b { nb with arrived := nb.arrived ||| 2 ^ r.t } }
      let s := if wait then s.waitOn r (.namedBar b) else s
      .done (s.namedCheck r.g b)

/-! ## Barrier objects in memory (R244 to R246) -/

structure Obj where
  phase : Nat
  expected : Nat
  arrivals : Nat
  pending : Int
  deriving DecidableEq, Repr

def Obj.ofNat (n : Nat) : Obj := { phase := bits n 88 88, expected := bits n 87 72, arrivals := bits n 71 56, pending := sextInt n 56 }

def Obj.toNat (o : Obj) (high : Nat) : Nat :=
  high * 2 ^ 89 + o.phase * 2 ^ 88 + o.expected * 2 ^ 72 + o.arrivals * 2 ^ 56 + (wrapInt 56 o.pending).toNat

def State.obj (s : State) (a : Nat) : Obj := .ofNat (s.rdNat a 16)

/-- The completion test of R244, applied after every step. -/
def Obj.complete (o : Obj) : Obj :=
  if o.expected ≠ 0 ∧ o.arrivals = 0 ∧ o.pending = 0 then { o with phase := 1 - o.phase, arrivals := o.expected } else o

/-- The threads waiting on an object (R245), those that poll it left out. -/
def State.objWaiters (s : State) (a : Nat) : List TRef :=
  (List.range s.groups.length).flatMap fun g =>
    (s.refs g).filter fun r => match (s.thread r).status with
      | .waiting (.object _ b _ _) => decide (a = b)
      | _ => false

/-- An object written back at its home: threads whose phase is over become Ready (R244). -/
def State.putObj (s : State) (a : Nat) (o : Obj) : State :=
  let o := o.complete
  let s := s.homeWr a (bytesOf 16 (o.toNat (s.rdNat a 16 / 2 ^ 89)))
  let ws := (s.objWaiters a).filter fun r => match (s.thread r).status with
    | .waiting (.object _ _ par _) => decide ((if par then 1 else 0) ≠ o.phase) && !(s.thread r).halted
    | _ => false
  s.leaveBarriers 7 ws

/-- What a step at an object's home asks (R246). -/
inductive ObjStep
  | init (n : Nat)
  | arrive (bytes : Nat)
  deriving DecidableEq, Repr

/-- One step at the home (R246): the object after it, or the detail1 of its refusal. -/
def State.objStep (s : State) (a : Nat) : ObjStep → Except Nat State
  | .init n =>
    if (s.obj a).expected ≠ 0 ∧ s.objWaiters a ≠ [] then .error 3
    else .ok (s.homeWr a (bytesOf 16 ({ phase := 0, expected := n, arrivals := n, pending := 0 : Obj }.toNat 0)))
  | .arrive b =>
    let o := s.obj a
    if o.expected = 0 ∨ o.arrivals = 0 ∨ (2 ^ 55 - 1 : Int) < o.pending + b then .error 5
    else .ok (s.putObj a { o with arrivals := o.arrivals - 1, pending := o.pending + b })

/-- Landed bytes counted against an object (R246): whether a BAR_BOUND record is due. -/
def State.objCount (s : State) (a c : Nat) : State × Bool :=
  let o := s.obj a
  if o.expected = 0 then (s, true)
  else if o.pending - c < -(2 ^ 55 : Int) then (s.putObj a { o with pending := -(2 ^ 55 : Int) }, true)
  else (s.putObj a { o with pending := o.pending - c }, false)

/-- The cluster's tracking entries in use: objects homed there with a waiter (R245), those at addresses that are given up left out. -/
def State.objEntriesBut (s : State) (cl : Nat) (up : Nat → Bool) : Nat :=
  let addrs := (List.range s.groups.length).flatMap fun g =>
    (s.refs g).filterMap fun r => match (s.thread r).status with
      | .waiting (.object _ b _ _) => if homeCluster b = cl ∧ up b = false then some b else none
      | _ => none
  addrs.eraseDups.length

def State.objEntries (s : State) (cl : Nat) : Nat := s.objEntriesBut cl fun _ => false

/-- A wait on an object (R245, R259): none where its phase is over, with the refresh of R249; a poll where every tracking entry of its
cluster is held by another object. -/
def State.waitObj (s : State) (r : TRef) (ptr : DWord) (a : Nat) (par : Nat) : State :=
  if (s.obj a).phase ≠ par then (s.observe r).refresh r 7 []
  else if s.objWaiters a = [] ∧ 64 ≤ s.objEntries (homeCluster a) then
    let at0 := s.cycles (clusterOf (s.group r.g).core)
    (s.modThread r fun th => { th with waitAt := at0 }).backOff r (some (.object ptr a (par = 1) true))
  else s.waitOn r (.object ptr a (par = 1) false)

/-- Checks of the object forms at issue (R259): the object's address. -/
def State.objAddr (s : State) (r : TRef) (v : BitVec 7) : Except LaneRes (DWord × Nat) :=
  let p := s.pair r v
  match s.resolveAtom r p 16 with
  | .ok a => .ok (p, a)
  | .error (c, d1) => .error (.fault c p.toNat d1)

/-- A step can be performed at the home of an address: its die is not relocking (R349), and no message is half performed there (R232). -/
def State.reach (s : State) (a : Nat) : Bool := (homeDie a).all s.runs && !s.unitBusy a

/-! ## The launch-wide barrier (R247, R248) -/

/-- A group counts as arrived (R247). -/
def State.gbarArrived (s : State) (g : Nat) : Bool :=
  let gr := s.group g
  match gr.state with
  | .retired => true
  | .resident | .saved =>
    (List.range gr.threads.length).all fun t => (gr.threads.getD t {}).status = .exited || gr.gbar.testBit t
  | _ => false

/-- The clusters that hold released threads, in cyclic rank order from (8 × generation) mod 64 (R248). -/
def grantOrder (gen : Nat) (has : Nat → Bool) : List Nat :=
  ((List.range 64).map fun i => (8 * gen + i) % 64).filter has

/-- A generation completes when every group of the launch counts as arrived (R247): its clusters queue at the slew limiter, and Saved
groups are released when they are placed again. -/
def State.gbarCheck (s : State) (l : Nat) : State :=
  let la := s.launch l
  let gs := s.groupsOf l
  let any := gs.any fun g => (s.group g).gbar ≠ 0
  if any ∧ la.nextLin = la.total ∧ gs.all s.gbarArrived then
    let waiting (g : Nat) : List TRef := (s.refs g).filter fun r => (s.thread r).status = .waiting .gbar
    let inCl (c : Nat) : List TRef := (gs.filter fun g => (s.group g).state = .resident && clusterOf (s.group g).core = c).flatMap waiting
    let grants := (grantOrder la.gbarGen fun c => !(inCl c).isEmpty).map fun c => Grant.mk l c (inCl c)
    let s := { s with grants := s.grants ++ grants }
    let clearOne (i : Nat) (gr : Group) : Group :=
      if gs.contains i then { gr with gbar := 0, gbarFreed := gr.gbarFreed || decide (gr.state = .saved && gr.gbar ≠ 0) } else gr
    let s := { s with groups := s.groups.zipIdx.map fun (p : Group × Nat) => clearOne p.2 p.1 }
    s.modLaunch l fun la => { la with gbarGen := la.gbarGen + 1 }
  else s

/-- The threads of a granted release that still wait become Ready (R248). -/
def State.freeGrant (s : State) (g : Grant) : State := s.leaveBarriers 7 (g.threads.filter fun r => (s.thread r).status = .waiting .gbar)

def State.freeGrants (s : State) : List Grant → State
  | [] => s
  | g :: gs => (s.freeGrant g).freeGrants gs

/-- SLEW_GRANT (R248): at most 8 cluster releases in each aligned window of 32 ticks; the first in the queue is granted. A grant to a
cluster on a relocking die is spent, and its threads become Ready after the relock. -/
def execSlewGrant (s : State) : Out :=
  .next <|
    let w := s.refTimer / 32
    let s := if s.grantWindow = w then s else { s with grantWindow := w, grantCount := 0 }
    match s.grants with
    | [] => s
    | g :: gs =>
      if 8 ≤ s.grantCount then s
      else
        let s := { s with grants := gs, grantCount := s.grantCount + 1 }
        if s.runs (dieOfCluster g.cl) then s.freeGrant g else { s with granted := s.granted ++ [g] }

/-! ## BAR instructions (R259) -/

/-- BARINIT (R243): a mask of furrows of the group, while no thread has arrived. -/
def execBarinit (sw : Bool) (a : BitVec 7) (b : BitVec 4) (s : State) : Out :=
  runSheaf { sw := sw, reads := [f1 a] } (fun s r =>
    let gr := s.group r.g
    let m := (s.reg r a).toNat
    match gr.bars[b.toNat]? with
    | none => .fault 0x04 b.toNat 0
    | some nb =>
      if m = 0 ∨ 2 ^ (s.launch gr.launch).hdr.furrows ≤ m then .fault 0x04 b.toNat 5
      else if nb.arrived ≠ 0 then .fault 0x04 b.toNat 3
      else .done (s.modGroup r.g fun gr => { gr with bars := gr.bars.set b.toNat { members := m, arrived := 0 } })) s

def execBararr (sw : Bool) (b : BitVec 4) (s : State) : Out :=
  runSheaf { sw := sw, access := true } (fun s r => s.arriveNamed r b.toNat false) s

def execBarsync (sw : Bool) (b : BitVec 4) (s : State) : Out :=
  runSheaf { sw := sw, access := true } (fun s r => s.arriveNamed r b.toNat true) s

/-- BARWAIT (R259): a thread that has not arrived returns at once; a successful wait refreshes at group scope (R249). -/
def execBarwait (sw : Bool) (b : BitVec 4) (s : State) : Out :=
  runSheaf { sw := sw, access := true } (fun s r =>
    match (s.group r.g).bars[b.toNat]? with
    | none => .fault 0x04 b.toNat 0
    | some nb => if nb.arrived.testBit r.t then .done (s.waitOn r (.namedBar b.toNat)) else .done (s.refresh r 2 [])) s

/-- BARINIT.m (R246, R259): one step at the home, after the thread's own atomics on those bytes and stores to them (R215, R245). -/
def execBarinitM (sw : Bool) (d a : BitVec 7) (s : State) : Out :=
  runSheaf { sw := sw, reads := [f1 d, f2 a], access := true } (fun s r =>
    match s.objAddr r a with
    | .error e => e
    | .ok (p, x) =>
      let n := (s.reg r d).toNat
      if n = 0 ∨ 65535 < n then .fault 0x04 p.toNat 5
      else if !s.reach x ∨ s.ownPending r x 16 then .stay s
      else match s.objStep x (.init n) with
        | .ok s => .done s
        | .error d1 => .fault 0x04 p.toNat d1) s

/-- An arrival on an object, adding bytes (R246, R249, R259): the publish at package scope is complete before the step. -/
def objArrive (bytes : State → TRef → Nat) (wait : Bool) (a : BitVec 7) (s : State) (r : TRef) : LaneRes :=
  match s.objAddr r a with
  | .error e => e
  | .ok (p, x) =>
    let b := bytes s r
    if 2 ^ 55 - 1 < b then .fault 0x04 p.toNat 5
    else if !s.reach x ∨ s.publishNeeds r 7 ≠ [] then .stay s
    else
      let par := (s.obj x).phase
      match s.objStep x (.arrive b) with
      | .ok s' =>
        let s' := s'.publish r 7
        .done (if wait then s'.waitObj r p x par else s')
      | .error d1 => .fault 0x04 p.toNat d1

def execBararrM (sw : Bool) (a : BitVec 7) (s : State) : Out :=
  runSheaf { sw := sw, reads := [f2 a], access := true } (objArrive (fun _ _ => 0) false a) s

def execBarsyncM (sw : Bool) (a : BitVec 7) (s : State) : Out :=
  runSheaf { sw := sw, reads := [f2 a], access := true } (objArrive (fun _ _ => 0) true a) s

def execBarexpM (sw : Bool) (d a : BitVec 7) (s : State) : Out :=
  runSheaf { sw := sw, reads := [f2 d, f2 a], access := true } (objArrive (fun s r => s.regGroup r d 2) false a) s

/-- BARWAIT.m (R259): the phase is read at the home, after the thread's own accesses to the object (R245), and compared as a parity; the refresh
of R249 follows. An Uninitialised object refuses it (R246). -/
def execBarwaitM (sw : Bool) (d a : BitVec 7) (s : State) : Out :=
  runSheaf { sw := sw, reads := [f1 d, f2 a], access := true } (fun s r =>
    match s.objAddr r a with
    | .error e => e
    | .ok (p, x) =>
      if !s.reach x ∨ s.ownPending r x 16 then .stay s
      else if (s.obj x).expected = 0 then .fault 0x04 p.toNat 5
      else .done (s.waitObj r p x ((s.reg r d).toNat % 2))) s

/-- GBAR (R247, R259): the publish at package scope is complete before the arrival counts. -/
def execGbar (sw : Bool) (s : State) : Out :=
  runSheaf { sw := sw, access := true } (fun s r =>
    if s.publishNeeds r 7 ≠ [] then .stay s
    else
      let s := s.publish r 7
      let s := s.modGroup r.g fun gr => { gr with gbar := gr.gbar ||| 2 ^ r.t }
      let s := s.waitOn r .gbar
      .done (s.gbarCheck (s.group r.g).launch)) s

end Sys2Proof.Machine
end

