-- ==== Sys2Proof/Machine/Control.lean ====
section
/-! DEFINITION. Branches, jumps, calls, and the thread and furrow instructions (R137 to R144, R157 to R160). -/

namespace Sys2Proof.Machine

/-! ## Branches, jumps and calls (R157 to R160) -/

/-- The condition of BCC (R157). -/
def bccTaken (c : BitVec 3) (x : Word) : Bool :=
  match c.toNat with
  | 0 => decide (x = 0)
  | 1 => decide (x ≠ 0)
  | 2 => decide (x.toInt < 0)
  | 3 => decide (0 ≤ x.toInt)
  | 4 => decide (0 < x.toInt)
  | 5 => decide (x.toInt ≤ 0)
  | 6 => decide (x.toNat % 2 = 1)
  | _ => decide (x.toNat % 2 = 0)

def execBcc (sw : Bool) (c : BitVec 3) (a : BitVec 7) (i : BitVec 12) (s : State) : Out :=
  runSheaf { sw := sw, reads := [f1 a] } (fun s r =>
    if bccTaken c (s.reg r a) then .jump s ((s.thread r).pc + 4 * i.toInt) else .done s) s

def execJmp (sw : Bool) (i : BitVec 19) (s : State) : Out :=
  runSheaf { sw := sw } (fun s r => .jump s ((s.thread r).pc + 4 * i.toInt)) s

def execJmpr (sw : Bool) (a : BitVec 7) (s : State) : Out :=
  runSheaf { sw := sw, reads := [f1 a] } (fun s r =>
    let t := s.reg r a
    if t.toNat % 4 ≠ 0 then .fault 0x09 t.toNat 4 else .jump s t.toNat) s

/-- The frame that a call pushes (R159): the return offset and the window base. -/
def callFrame (pc : Int) (base : Nat) : Nat := (wrapInt 32 (pc + 4)).toNat + base % 65536 * 2 ^ 32

/-- A call to a target (R160): the frame goes to the thread's spill stack below SP. -/
def callTo (s : State) (r : TRef) (t : Int) : LaneRes :=
  let th := s.thread r
  let spill := (s.launchOf r.g).hdr.spill
  let sp := th.sp.toNat
  if sp < 16 ∨ spill < sp then .fault 0x05 sp 1
  else
    let s := s.wrs (spillAddr r.g r.t (sp - 16)) (bytesOf 16 (callFrame th.pc th.base))
    .jump (s.modThread r fun th => { th with sp := .ofNat 32 (sp - 16) }) t

def execCall (sw : Bool) (i : BitVec 19) (s : State) : Out :=
  runSheaf { sw := sw } (fun s r => callTo s r ((s.thread r).pc + 4 * i.toInt)) s

def execCallr (sw : Bool) (a : BitVec 7) (s : State) : Out :=
  runSheaf { sw := sw, reads := [f1 a] } (fun s r =>
    let t := s.reg r a
    if t.toNat % 4 ≠ 0 then .fault 0x09 t.toNat 4 else callTo s r t.toNat) s

/-- RET (R160): the checks on the frame are made in its order, and a faulting return changes nothing. -/
def execRet (sw : Bool) (s : State) : Out :=
  runSheaf { sw := sw } (fun s r =>
    let th := s.thread r
    let sp := th.sp.toNat
    if (s.launchOf r.g).hdr.spill < sp + 16 then .fault 0x05 sp 1
    else
      let f := s.rdNat (spillAddr r.g r.t sp) 16
      let ret := bits f 31 0
      let wb := bits f 47 32
      if ret % 4 ≠ 0 then .fault 0x09 ret 4
      else if wb % 8 ≠ 0 ∨ th.regs.length < wb + 8 then .fault 0x03 wb 0
      else .jump (s.modThread r fun th => { th with sp := .ofNat 32 (sp + 16), base := wb }) ret) s

def execNop (sw : Bool) (s : State) : Out := runSheaf { sw := sw } (fun s _ => .done s) s

/-! ## Windows, polling and yielding (R141 to R143) -/

/-- WINB (R141): the sum is exact, and the step register is read through the window in force before the move. -/
def execWinb (sw : Bool) (x : BitVec 1) (a b : BitVec 7) (s : State) : Out :=
  runSheaf { sw := sw, reads := [f1 a] } (fun s r =>
    let th := s.thread r
    let step : Int := b.toInt + (s.reg r a).toInt
    let nb : Int := if x = 1 then 8 * step else th.base + 8 * step
    if nb < 0 ∨ (th.regs.length : Int) - 8 < nb then .fault 0x03 (wrapInt 64 nb).toNat 0
    else .done (s.modThread r fun th => { th with base := nb.toNat })) s

/-- A thread's polling has succeeded: its level clears, and a thread that polled leaves a waiting state (R74, R142). -/
def State.pollDone (s : State) (r : TRef) : State :=
  if (s.thread r).level = 0 then s
  else
    let x := s.ctxOf r.g
    (s.setCtx x { s.ctx x with headland := 0 }).modThread r fun th => { th with level := 0 }

/-- POLL (R142): a nonzero condition clears the back-off level, a zero one raises it and backs the thread off. -/
def execPoll (sw : Bool) (d a : BitVec 7) (s : State) : Out :=
  runSheaf { sw := sw, reads := [f1 a], writes := [f1 d], var := true } (fun s r =>
    if s.reg r a ≠ 0 then .done ((s.pollDone r).issueVal r d 1 0)
    else
      let s' := s.backOff r none
      .done (s'.issueVal r d 1 (s'.thread r).level)) s

/-- YIELD (R143): the thread's readiness time restarts at its issue, which is one moment for every lane of the sheaf (R124). -/
def execYield (sw : Bool) (s : State) : Out :=
  runSheaf { sw := sw } (fun s r => .done (s.modThread r fun th => { th with readyAt := s.sheafId })) s

/-! ## Furrow collectives (R137 to R140) -/

/-- What a completed rendezvous writes in a member (R138 to R140): minors 7 ELECT, 9 FSHFL, 10 FBALLOT. -/
def rdvResult (v : Rdv) (lane : Nat) : Word :=
  let valOf (l : Nat) : Word := ((v.arrived.find? fun m => m.1 = l).map (·.2.1)).getD 0
  let srcOf (l : Nat) : Word := ((v.arrived.find? fun m => m.1 = l).map (·.2.2.1)).getD 0
  if v.minor = 7 then (if (List.range lane).all fun l => !v.mask.toNat.testBit l then 1 else 0)
  else if v.minor = 9 then
    let src := (srcOf lane).toNat % 32
    if v.mask.toNat.testBit src then valOf src else valOf lane
  else
    .ofNat 32 (v.arrived.foldl (fun n m => if m.2.1 ≠ 0 then n ||| 2 ^ m.1 else n) 0)

/-- Every member takes its result and stops waiting; each is a publish and a refresh at furrow scope (R137). -/
def State.finishRdv (s : State) (g : Nat) (v : Rdv) (last : Nat) : State :=
  let n := s.fresh
  let rec go : List (Nat × Word × Word × Nat) → State → State
    | [], s => s
    | (l, _, _, out) :: ms, s =>
      let r : TRef := { g := g, t := 32 * v.furrow + l }
      let s := if v.minor = 8 then s else s.fulfil r out [rdvResult v l]
      let s := if l = last then s.refresh r 1 [] else s.leaveAt n r 1
      go ms s
  go v.arrived s.tick

/-- The lanes of a mask that have exited (R137). -/
def State.exitedIn (s : State) (g furrow : Nat) (mask : Word) : Bool :=
  (List.range 32).any fun l => mask.toNat.testBit l && decide ((s.thread { g := g, t := 32 * furrow + l }).status = .exited)

/-- A lane arrives at a collective (R137). The result named `out` is already outstanding where the minor writes one. -/
def State.joinRdv (s : State) (r : TRef) (mask : Word) (minor : Nat) (val src : Word) (out : Nat) : State :=
  let lane := r.t % 32
  let fur := r.t / 32
  let gr := s.group r.g
  let old := gr.rdvs.find? fun v => v.furrow = fur && v.mask = mask && v.minor = minor
  let v := old.getD { furrow := fur, mask := mask, minor := minor }
  let v := { v with arrived := v.arrived ++ [(lane, val, src, out)] }
  let rest := gr.rdvs.filter fun w => !(w.furrow = fur && w.mask = mask && w.minor = minor)
  let full := (List.range 32).all fun l => !mask.toNat.testBit l || v.arrived.any fun m => m.1 = l
  let s := s.publish r 1
  if full then (s.modGroup r.g fun gr => { gr with rdvs := rest }).finishRdv r.g v lane
  else (s.modGroup r.g fun gr => { gr with rdvs := rest ++ [v] }).waitOn r (.collective mask minor)

/-- The mask that SYNC_MASK reports at an arrival, if it is due (R137). -/
def State.maskClash (s : State) (r : TRef) (mask : Word) (minor : Nat) : Option Nat :=
  let fur := r.t / 32
  if !mask.toNat.testBit (r.t % 32) then some mask.toNat
  else
    let bad := (s.group r.g).rdvs.filter fun v => v.furrow = fur && decide (v.mask &&& mask ≠ 0) && !(v.mask = mask && v.minor = minor)
    if bad ≠ [] then some (bad.foldl (fun m v => m ||| v.mask.toNat) mask.toNat)
    else if s.exitedIn r.g fur mask then some mask.toNat
    else none

/-- A collective (R137 to R140): the lane's own checks, its result outstanding, then its arrival. -/
def collective (minor : Nat) (d : BitVec 7) (mask val src : State → TRef → Word) (s : State) (r : TRef) : LaneRes :=
  let m := mask s r
  match s.maskClash r m minor with
  | some u => .faultMask 0x0C 0 0 u
  | none =>
    if s.publishNeeds r 1 ≠ [] then .stay s
    else
      let v := val s r
      let x := src s r
      let out := s.fresh
      let s' := if minor = 8 then s else s.issueOut r (f1 d) .awaited
      .done (s'.joinRdv r m minor v x out)

/-- FSYNC (R138). -/
def execFsync (sw : Bool) (a : BitVec 7) (s : State) : Out :=
  runSheaf { sw := sw, reads := [f1 a], access := true } (collective 8 0 (fun s r => s.reg r a) (fun _ _ => 0) (fun _ _ => 0)) s

/-- FSHFL (R140): the mask is read from D at issue. -/
def execFshfl (sw : Bool) (d a b : BitVec 7) (s : State) : Out :=
  runSheaf { sw := sw, reads := [f1 d, f1 a, f1 b], writes := [f1 d], var := true, access := true }
    (collective 9 d (fun s r => s.reg r d) (fun s r => s.reg r a) (fun s r => s.reg r b)) s

/-- FBALLOT (R140). -/
def execFballot (sw : Bool) (d a : BitVec 7) (s : State) : Out :=
  runSheaf { sw := sw, reads := [f1 d, f1 a], writes := [f1 d], var := true, access := true }
    (collective 10 d (fun s r => s.reg r d) (fun s r => s.reg r a) (fun _ _ => 0)) s

/-- A lane of the sheaf that the sheaf form of ELECT sees before another: one that a seventeenth result parked did not issue (R121, R139). -/
def State.before (s : State) (r q : TRef) : Bool :=
  decide (q.g = r.g) && decide (q.t / 32 = r.t / 32) && decide (q.t % 32 < r.t % 32) && (s.canIssue q || decide ((s.thread q).pc ≠ (s.thread r).pc))

/-- ELECT (R139): the collective over W[a], or the sheaf form with A = 0, which does not wait. -/
def execElect (sw : Bool) (d a : BitVec 7) (s : State) : Out :=
  if a = 0 then
    runSheaf { sw := sw, writes := [f1 d], var := true } (fun s r =>
      let first := s.sheaf.all fun q => !s.before r q
      .done (s.issueVal r d 1 (if first then 1 else 0))) s
  else
    runSheaf { sw := sw, reads := [f1 a], writes := [f1 d], var := true, access := true }
      (collective 7 d (fun s r => s.reg r a) (fun _ _ => 0) (fun _ _ => 0)) s

/-! ## EXIT (R144) -/

/-- A group whose last thread has exited retires (R118, R144). -/
def State.retireCheck (s : State) (g : Nat) : State :=
  let gr := s.group g
  if gr.state = .resident ∧ gr.threads.all (fun th => decide (th.status = .exited)) then
    let s := s.freeGroup g
    let s := s.modGroup g fun gr => { gr with state := .retired }
    (s.drainCheck gr.launch).gbarCheck gr.launch
  else s

/-- EXIT (R144): a thread that polled leaves that wait (R74), outstanding results are discarded, the stores are published at package scope, and named barriers, GBAR and the group see
the thread gone; a rendezvous that names its lane raises SYNC_MASK, and the exit itself completes. -/
def execExit (sw : Bool) (s : State) : Out :=
  runSheaf { sw := sw } (fun s r =>
    let gr := s.group r.g
    let named := gr.rdvs.filter fun v => v.furrow = r.t / 32 && v.mask.toNat.testBit (r.t % 32)
    let s := s.publish r 7
    let s := if (s.thread r).level = 0 then s else s.setCtx (s.ctxOf r.g) { s.ctx (s.ctxOf r.g) with headland := 0 }
    let s := s.freeSlotLanes gr.core (s.thread r).outs
    let s := s.modThread r fun th => { th with status := .exited, outs := [], cands := [] }
    if named ≠ [] then .doneFault s 0x0C 0 0 (r.t / 32) (named.foldl (fun m v => m ||| v.mask.toNat) 0)
    else
      let s := s.namedChecks r.g (List.range gr.bars.length)
      let s := s.gbarCheck gr.launch
      .done (s.retireCheck r.g)) s

end Sys2Proof.Machine
end

