-- ==== Sys2Proof/Machine/Flags.lean ====
section
/-! DEFINITION. The flags of the numeric status word NSTAT (R176) and how an instruction sets them; they are sticky. -/

namespace Sys2Proof.Machine

/-- NSTAT bits 4:0: DZ, NV, OF, UF, NX. -/
abbrev Flg := BitVec 5

def flagNone : Flg := 0
def flagNX : Flg := 1
def flagUF : Flg := 2
def flagOF : Flg := 4
def flagNV : Flg := 8
def flagDZ : Flg := 16

/-- The flags of an instruction join the thread's NSTAT (R176). -/
def State.setFlags (s : State) (r : TRef) (f : Flg) : State := s.modThread r fun th => { th with nstat := th.nstat ||| f }

/-- FMTGET.st's clear: the flags in the mask leave NSTAT (R194). -/
def State.clearFlags (s : State) (r : TRef) (c : Flg) : State := s.modThread r fun th => { th with nstat := th.nstat &&& ~~~c }

/-- A flag that stands on a condition. -/
def flagIf (b : Bool) (f : Flg) : Flg := if b then f else 0

end Sys2Proof.Machine
end

