-- ==== Sys2Proof/Machine/Formats.lean ====
section
/-! DEFINITION. Number formats (R162 to R179): descriptors, the values of codes, the one rounding function rndE, and FMTCHK's tests. -/

namespace Sys2Proof.Machine

/-! ## Exact values (R6) -/

/-- An exact real with the sign of a zero, an infinity or NaN. A finite value is num / den, den positive. -/
inductive Val
  | nan
  | inf (neg : Bool)
  | fin (neg : Bool) (num den : Nat)
  deriving DecidableEq, Repr

/-- num / den × 2^e. -/
def scale2 (num den : Nat) (e : Int) : Nat × Nat :=
  if 0 ≤ e then (num * 2 ^ e.toNat, den) else (num, den * 2 ^ (-e).toNat)

/-- floor of num / den / 2^e. -/
def floorAt (num den : Nat) (e : Int) : Nat :=
  let p := scale2 num den (-e)
  p.1 / p.2

/-- floor of the base-2 logarithm of num / den, both positive. -/
def floorLog (num den : Nat) : Int :=
  let e : Int := (Nat.log2 num : Int) - Nat.log2 den
  if floorAt num den e = 0 then e - 1 else e

/-- An integer as a value. -/
def Val.ofInt (i : Int) : Val := .fin (decide (i < 0)) i.natAbs 1

/-! ## Descriptors (R164) -/

abbrev Desc := BitVec 64

def Desc.valid (d : Desc) : Bool := bits d.toNat 63 63 = 1
def Desc.kind (d : Desc) : Nat := bits d.toNat 62 60
def Desc.wcode (d : Desc) : Nat := bits d.toNat 59 57
def Desc.w (d : Desc) : Nat := [4, 6, 8, 12, 16, 32, 56].getD d.wcode 0
def Desc.sign (d : Desc) : Nat := bits d.toNat 56 56
def Desc.ew (d : Desc) : Nat := bits d.toNat 55 51
def Desc.fw (d : Desc) : Nat := bits d.toNat 50 45
/-- The bias; A56's follows from its exponent width (R165). -/
def Desc.bias (d : Desc) : Int := if d.kind = 4 then (2 : Int) ^ (d.ew - 1) - 1 else sextInt (bits d.toNat 44 36) 9
def Desc.subn (d : Desc) : Nat := bits d.toNat 35 35
def Desc.spec (d : Desc) : Nat := bits d.toNat 34 33
def Desc.ovf (d : Desc) : Nat := bits d.toNat 32 31
def Desc.defrnd (d : Desc) : Nat := bits d.toNat 30 28

/-- The fixed entries (R168). -/
def fixedEntries : List (BitVec 64) :=
  [0x8B42E7FA80000000, 0x892940FA80000000, 0x8940E7FA80000000, 0x8520607C00000000,
   0x852840FA80000000, 0x8110201800000000, 0xB44007F400000000, 0x9510802600000000,
   0xA500000000000000, 0xA400000000000000, 0xA100000000000000, 0xA000000000000000,
   0xA900000000000000, 0xCD55A00A80000000, 0x0000000000000000, 0xD400000000000000]

def dFP32 : Desc := 0x8B42E7FA80000000
def dA56 : Desc := 0xCD55A00A80000000
def dFP16 : Desc := 0x892940FA80000000
def dBF16 : Desc := 0x8940E7FA80000000

/-- Entry e of a context's table (R162). -/
def Ctx.entry (x : Ctx) (e : Nat) : Desc := if e < 16 then fixedEntries.getD e 0 else x.fmt.getD (e - 16) 0

/-- A programmable entry replaced. -/
def Ctx.setEntry (x : Ctx) (e : Nat) (d : Desc) : Ctx :=
  { x with fmt := (List.range 48).map fun i => if i + 16 = e then d else x.entry (i + 16) }

/-- A context as the format unit of a die holds its table: the entries of the FMTSETs that the unit has installed, those on their way to the
other units among them (R193). -/
def State.fmtCtx (s : State) (c die : Nat) : Ctx :=
  (s.fmtReqs.filter fun q => decide (q.ctx = c) && q.done.contains die).foldl (fun x q => x.setEntry q.entry q.desc) (s.ctx c)

/-- The table that an operation of a thread's core latches from (R193). -/
def State.tableOf (s : State) (r : TRef) : Ctx := s.fmtCtx (s.ctxOf r.g) (dieOfCore (s.group r.g).core)

/-! ## The values of codes (R165, R170) -/

/-- M8: exponent, fraction and fraction width of the magnitude bits of a code (R170). -/
def m8Fields (c : Nat) : Int × Nat × Nat :=
  if 0x40 ≤ c then ((bits c 5 4 : Int) - 2, bits c 3 0, 4)
  else if 0x20 ≤ c then ((if bits c 4 4 = 0 then 2 + (bits c 3 3 : Int) else -3 - (bits c 3 3 : Int)), bits c 2 0, 3)
  else if 0x10 ≤ c then ((if bits c 3 3 = 0 then 4 + (bits c 2 1 : Int) else -5 - (bits c 2 1 : Int)), bits c 0 0, 1)
  else if 0x08 ≤ c then ((if bits c 2 2 = 0 then 8 + (bits c 1 0 : Int) else -9 - (bits c 1 0 : Int)), 0, 0)
  else if 0x04 ≤ c then ((if bits c 1 1 = 0 then 12 + (bits c 0 0 : Int) else -13 - (bits c 0 0 : Int)), 0, 0)
  else if 0x02 ≤ c then ((if bits c 0 0 = 0 then 14 else -15), 0, 0)
  else (15, 0, 0)

/-- The fraction width of an exponent's band, and the code of an exponent and fraction (R170). -/
def m8Width (e : Int) : Nat := if -2 ≤ e ∧ e ≤ 1 then 4 else if -4 ≤ e ∧ e ≤ 3 then 3 else if -8 ≤ e ∧ e ≤ 7 then 1 else 0

def m8Code (e : Int) (f : Nat) : Nat :=
  let j (base : Int) : Nat := (if 0 ≤ e then e - base else -e - base).toNat
  if -2 ≤ e ∧ e ≤ 1 then 0x40 + (e + 2).toNat * 16 + f
  else if 2 ≤ e ∧ e ≤ 3 then 0x20 + j 2 * 8 + f
  else if -4 ≤ e ∧ e < 0 then 0x30 + j 3 * 8 + f
  else if 4 ≤ e ∧ e ≤ 7 then 0x10 + j 4 * 2 + f
  else if -8 ≤ e ∧ e < 0 then 0x18 + j 5 * 2 + f
  else if 8 ≤ e ∧ e ≤ 11 then 0x08 + j 8
  else if -12 ≤ e ∧ e < 0 then 0x0C + j 9
  else if 12 ≤ e ∧ e ≤ 13 then 0x04 + j 12
  else if -14 ≤ e ∧ e < 0 then 0x06 + j 13
  else if e = 14 then 0x02
  else if e = -15 then 0x03
  else 0x01

/-- The magnitude of exponent field ex and fraction fr of a float descriptor (R165). -/
def Desc.floatMag (d : Desc) (n : Nat) : Nat × Nat :=
  let ex := n / 2 ^ d.fw
  let fr := n % 2 ^ d.fw
  if ex = 0 then (if d.subn = 1 then scale2 fr 1 (1 - d.bias - d.fw) else (0, 1))
  else scale2 (2 ^ d.fw + fr) 1 (ex - d.bias - d.fw)

/-- The value of a code of an entry (R165). -/
def Desc.value (d : Desc) (code : Nat) : Val :=
  let c := code % 2 ^ d.w
  let s := decide (d.sign = 1) && decide (bits c (d.w - 1) (d.w - 1) = 1)
  let mag := c % 2 ^ (d.w - d.sign)
  match d.kind with
  | 1 =>
    if c % 128 = 0 then (if c = 0 then .fin false 0 1 else .nan)
    else
      let (e, f, fw) := m8Fields (c % 128)
      let m := scale2 (2 ^ fw + f) 1 (e - fw)
      .fin (decide (128 ≤ c)) m.1 m.2
  | 2 => .ofInt (if d.sign = 1 then sextInt c d.w else c)
  | 3 =>
    if d.spec = 2 ∧ c = 2 ^ d.w - 1 then .nan
    else let m := scale2 1 1 (c - d.bias); .fin false m.1 m.2
  | 5 => .nan
  | _ =>
    let ex := mag / 2 ^ d.fw % 2 ^ d.ew
    let fr := mag % 2 ^ d.fw
    if d.spec = 1 ∧ ex = 2 ^ d.ew - 1 then (if fr = 0 then .inf s else .nan)
    else if d.spec = 2 ∧ mag = 2 ^ (d.ew + d.fw) - 1 then .nan
    else if d.spec = 3 ∧ s ∧ mag = 0 then .nan
    else let m := d.floatMag mag; .fin s m.1 m.2

/-! ## Candidates (R173) -/

/-- A candidate of rounding: its magnitude, whether it is even, and its code without the sign. -/
structure Cand1 where
  num : Nat
  den : Nat
  even : Bool
  code : Int
  deriving DecidableEq, Repr

def Desc.candFloat (d : Desc) (n : Nat) : Cand1 :=
  let m := d.floatMag n
  { num := m.1, den := m.2, even := n % 2 = 0, code := n }

def candM8 (e : Int) (f : Nat) : Cand1 :=
  let fw := if e ≤ 15 then m8Width e else 0
  let m := scale2 (2 ^ fw + f) 1 (e - fw)
  { num := m.1, den := m.2, even := fw = 0 || decide (f % 2 = 0), code := m8Code e f }

def candZero : Cand1 := { num := 0, den := 1, even := true, code := 0 }
def candInt (n : Nat) : Cand1 := { num := n, den := 1, even := n % 2 = 0, code := n }

def Desc.candScale (d : Desc) (e : Int) : Cand1 :=
  let m := scale2 1 1 e
  { num := m.1, den := m.2, even := (e + d.bias) % 2 = 0, code := e + d.bias }

/-- The largest candidate not above a positive magnitude, and the next one. -/
def Desc.around (d : Desc) (num den : Nat) : Cand1 × Cand1 :=
  let e := floorLog num den
  match d.kind with
  | 1 =>
    if e < -15 then (candZero, candM8 (-15) 0)
    else
      let fw := if e ≤ 15 then m8Width e else 0
      let f := floorAt num den (e - fw) - 2 ^ fw
      (candM8 e f, if f + 1 = 2 ^ fw then candM8 (e + 1) 0 else candM8 e (f + 1))
  | 2 => let n := num / den; (candInt n, candInt (n + 1))
  | 3 => (d.candScale e, d.candScale (e + 1))
  | _ =>
    let n := if e < 1 - d.bias then (if d.subn = 1 then floorAt num den (1 - d.bias - d.fw) else 0)
      else (e + d.bias).toNat * 2 ^ d.fw + (floorAt num den (e - d.fw) - 2 ^ d.fw)
    if d.subn = 0 ∧ n = 0 then
      -- zero and the smallest normal, both even where there is a fraction field: R173 leaves their tie open (log entry 171)
      ({ d.candFloat 0 with even := decide (d.fw = 0) || Config.tieToZero d.ew d.fw d.bias }, d.candFloat (2 ^ d.fw))
    else (d.candFloat n, d.candFloat (n + 1))

/-- a / b < c / d, denominators positive. -/
def fracLt (a b c d : Nat) : Bool := decide (a * d < c * b)

/-- The magnitude chosen between two candidates (R173): rounding codes 0 to 5. -/
def choose (lo hi : Cand1) (neg : Bool) (num den mode h : Nat) : Cand1 :=
  -- x − lo against hi − x, over the common denominator
  let x := num * lo.den * hi.den
  let l := lo.num * den * hi.den
  let u := hi.num * den * lo.den
  let below := x - l
  let above := u - x
  match mode with
  | 0 => if below < above then lo else if above < below then hi else if lo.even then lo else hi
  | 1 => if below < above then lo else hi
  | 2 => lo
  | 3 => if neg then lo else hi
  | 4 => if neg then hi else lo
  | _ => if 2 ^ 16 ≤ below * 2 ^ 16 / (u - l) + h then hi else lo

/-! ## Results (R175, R176) -/

/-- The largest finite code without the sign. -/
def Desc.maxCode (d : Desc) : Nat :=
  match d.kind with
  | 1 => 0x01
  | 2 => 2 ^ (d.w - d.sign) - 1
  | 3 => if d.spec = 2 then 2 ^ d.w - 2 else 2 ^ d.w - 1
  | _ => if d.spec = 1 then (2 ^ d.ew - 1) * 2 ^ d.fw - 1
         else if d.spec = 2 then 2 ^ (d.ew + d.fw) - 2 else 2 ^ (d.ew + d.fw) - 1

/-- The magnitude of the entry's finite range on the side of a sign. -/
def Desc.limit (d : Desc) (neg : Bool) : Nat × Nat :=
  if neg && d.sign = 0 then (0, 1)
  else match d.kind with
    | 1 => (2 ^ 15, 1)
    | 2 => (if neg then 2 ^ (d.w - 1) else d.maxCode, 1)
    | 3 => scale2 1 1 (d.maxCode - d.bias)
    | _ => d.floatMag d.maxCode

def Desc.signBit (d : Desc) (neg : Bool) : Nat := if neg && d.sign = 1 then 2 ^ (d.w - 1) else 0

/-- The code of a finite magnitude with a sign. -/
def Desc.withSign (d : Desc) (neg : Bool) (m : Nat) : Nat :=
  if d.kind = 2 then (if neg then (2 ^ d.w - m % 2 ^ d.w) % 2 ^ d.w else m) else d.signBit neg + m

def Desc.hasInf (d : Desc) : Bool := (d.kind = 0 || d.kind = 4) && d.spec = 1
def Desc.hasNan (d : Desc) : Bool := decide (d.spec ≠ 0)
def Desc.infCode (d : Desc) (neg : Bool) : Nat := d.signBit neg + (2 ^ d.ew - 1) * 2 ^ d.fw

/-- The canonical NaN (R169, R175). -/
def Desc.nanCode (d : Desc) : Nat :=
  if d.kind = 3 then 2 ^ d.w - 1
  else match d.spec with
    | 1 => (2 ^ d.ew - 1) * 2 ^ d.fw + 2 ^ (d.fw - 1)
    | 2 => 2 ^ (d.ew + d.fw) - 1
    | _ => 2 ^ (d.w - 1)

/-- The largest finite value for x above the range, the least for x below it. -/
def Desc.saturated (d : Desc) (neg : Bool) : Nat :=
  if neg && d.sign = 0 then 0
  else if d.kind = 2 then (if neg then 2 ^ (d.w - 1) else d.maxCode)
  else d.signBit neg + d.maxCode

/-- An overflow (R175): none is FORMAT_RANGE. -/
def Desc.overflow (d : Desc) (neg : Bool) (mode : Nat) (f : Flg) : Option (Nat × Flg) :=
  let fl := flagOF ||| flagNX ||| f
  match d.ovf with
  | 0 => some (d.saturated neg, fl)
  | 1 =>
    if neg && d.sign = 0 then some (0, fl)
    else if mode = 2 ∨ (mode = 4 ∧ !neg) ∨ (mode = 3 ∧ neg) then some (d.saturated neg, fl)
    else some (d.infCode neg, fl)
  | 2 => some (d.nanCode, fl)
  | _ => none

/-- The smallest positive normal value of R176, and zero for integers, which never set UF. -/
def Desc.minNormal (d : Desc) : Nat × Nat :=
  match d.kind with
  | 1 => scale2 1 1 (-15)
  | 2 => (0, 1)
  | 3 => scale2 1 1 (-d.bias)
  | _ => scale2 1 1 (1 - d.bias)

/-- A zero result (R175). -/
def Desc.zeroRes (d : Desc) (neg : Bool) (f : Flg) : Nat × Flg :=
  if d.kind = 3 then (0, flagUF ||| flagNX)
  else if d.kind = 2 ∨ d.spec = 3 then (0, f)
  else (d.signBit neg, f)

/-- rndE (R173 to R176): the code and its flags, or none for FORMAT_RANGE. `mode` 6 is the entry's own. -/
def Desc.rnd (d : Desc) (mode h : Nat) (x : Val) : Option (Nat × Flg) :=
  let mode := if mode = 6 then d.defrnd else mode
  match x with
  | .nan => if d.hasNan then some (d.nanCode, 0) else if d.ovf = 3 then none else some (0, flagNV)
  | .inf neg =>
    if d.hasInf && !(neg && d.sign = 0) then some (d.infCode neg, 0) else d.overflow neg mode 0
  | .fin neg num den =>
    if num = 0 then some (d.zeroRes neg 0)
    else
      let (lo, hi) := d.around num den
      let exact := decide (lo.num * den = num * lo.den)
      let c := if exact then lo else choose lo hi neg num den mode h
      let small := fracLt num den d.minNormal.1 d.minNormal.2
      let f := flagIf (!exact) flagNX ||| flagIf (!exact && small) flagUF
      if c.num = 0 then some (d.zeroRes neg f)
      else
        let l := d.limit neg
        if fracLt l.1 l.2 c.num c.den then d.overflow neg mode (f ||| flagIf small flagUF)
        else if d.kind = 3 ∧ c.code < 0 then some (0, flagUF ||| flagNX)
        else some (d.withSign neg c.code.toNat, f)

/-- rnd32 and rndA56 (R172): neither can fault, for both entries have infinities. -/
def rnd32 (x : Val) : Word × Flg :=
  let p := (dFP32.rnd 0 0 x).getD (0, 0)
  (.ofNat 32 p.1, p.2)

def rndA56 (x : Val) : Nat := ((dA56.rnd 0 0 x).getD (0, 0)).1

def val32 (w : Word) : Val := dFP32.value w.toNat

/-! ## The stochastic value h (R174) -/

def rotl32 (x : Word) (n : Nat) : Word := opRot x n

def stoch (tid pc time index : Nat) : Nat :=
  let v : Word := .ofNat 32 tid ^^^ rotl32 (.ofNat 32 pc) 11 ^^^ rotl32 (.ofNat 32 time) 22 ^^^ .ofNat 32 (index * 0x00010001)
  let v := v * 0x9E3779B1
  let v := v ^^^ (v >>> 15)
  let v := v * 0x7FEB352D
  let v := v ^^^ (v >>> 13)
  bits v.toNat 31 16

/-- h for an instruction of a thread, at a reference time, for an element (R174). -/
def State.hOf (s : State) (r : TRef) (pc : Int) (time index : Nat) : Nat :=
  stoch ((s.group r.g).lin * 1024 + r.t) (wrapInt 32 pc).toNat time index

/-- h for a lane conversion (R174). -/
def State.laneH (s : State) (r : TRef) : Nat := s.hOf r (s.thread r).pc s.refTimer 0

/-! ## Well-formed descriptors (R166, R195) -/

/-- Every finite value exact in FP32 (R166), for kinds 0 and 3. -/
def Desc.fitsFP32 (d : Desc) : Bool :=
  if d.kind = 3 then
    decide (-149 ≤ -d.bias) && decide ((d.maxCode : Int) - d.bias ≤ 127)
  else
    let top : Int := if d.spec = 1 ∨ (d.spec = 2 ∧ d.fw = 0) then 2 ^ d.ew - 2 else 2 ^ d.ew - 1
    decide (top - d.bias ≤ 127) && decide (-149 ≤ 1 - d.bias - d.fw)

/-- The first failing condition (R195): 0 for a well-formed descriptor with VALID 1. -/
def Desc.check (d : Desc) : Nat :=
  let k := d.kind
  let w := d.w
  if !d.valid then 1
  else if bits d.toNat 27 0 ≠ 0 then 2
  else if 4 ≤ k then 3
  else if (k = 0 ∧ ¬ [4, 6, 8, 12, 16, 32].contains w) ∨ (k = 1 ∧ d.wcode ≠ 2) ∨ (k = 2 ∧ ¬ [4, 6, 8, 12, 16].contains w) ∨
      (k = 3 ∧ ¬ [4, 6, 8].contains w) then 4
  else if (k = 0 ∧ (d.ew = 0 ∨ 8 < d.ew ∨ d.sign + d.ew + d.fw ≠ w ∨ 23 < d.fw)) ∨
      (k = 2 ∧ (d.ew ≠ 0 ∨ d.fw ≠ 0 ∨ d.bias ≠ 0 ∨ d.subn ≠ 0)) ∨
      (k = 3 ∧ (d.sign ≠ 0 ∨ d.fw ≠ 0 ∨ d.subn ≠ 0 ∨ d.ew ≠ w)) then 5
  else if (k = 0 ∧ ((d.spec = 1 ∧ (d.ew < 2 ∨ d.fw < 1)) ∨ (d.spec = 3 ∧ d.sign = 0) ∨ (d.ovf = 1 ∧ d.spec ≠ 1) ∨
        (d.ovf = 2 ∧ d.spec = 0))) ∨
      (k = 1 ∧ (d.ovf = 1 ∨ d.ovf = 2)) ∨
      (k = 2 ∧ (d.spec ≠ 0 ∨ d.ovf = 1 ∨ d.ovf = 2)) ∨
      (k = 3 ∧ (d.spec = 1 ∨ d.spec = 3 ∨ d.ovf = 1 ∨ d.ovf = 2)) then 6
  else if (k = 0 ∨ k = 3) ∧ !d.fitsFP32 then 7
  else if 5 < d.defrnd then 8
  else if k = 1 ∧ (d.sign ≠ 1 ∨ d.ew ≠ 2 ∨ d.fw ≠ 4 ∨ d.bias ≠ 2 ∨ d.subn ≠ 0 ∨ d.spec ≠ 3) then 9
  else 0

/-- What a table stores for an offered descriptor (R163): zeros where VALID is 0, none where it is ill-formed. -/
def Desc.offered (d : Desc) : Option Desc := if !d.valid then some 0 else if d.check = 0 then some d else none

/-! ## Block-scaled values (R177) and arithmetic on exact values -/

def Val.neg : Val → Val
  | .nan => .nan
  | .inf n => .inf (!n)
  | .fin n a b => .fin (!n) a b

def Val.abs : Val → Val
  | .nan => .nan
  | .inf _ => .inf false
  | .fin _ a b => .fin false a b

def Val.isNeg : Val → Bool
  | .nan => false
  | .inf n => n
  | .fin n _ _ => n

def Val.isZero : Val → Bool
  | .fin _ a _ => a = 0
  | _ => false

/-- A sum and whether it is invalid: an exact zero of opposite signs is +0, of two −0 is −0 (R182). -/
def Val.add (x y : Val) : Val × Bool :=
  match x, y with
  | .nan, _ => (.nan, false)
  | _, .nan => (.nan, false)
  | .inf a, .inf b => if a = b then (.inf a, false) else (.nan, true)
  | .inf a, _ => (.inf a, false)
  | _, .inf b => (.inf b, false)
  | .fin n a b, .fin m c d =>
    -- over a common denominator
    let k : Nat × Nat × Nat := if b % d = 0 then (1, b / d, b) else if d % b = 0 then (d / b, 1, d) else (d, b, b * d)
    let p : Int := (if n then -1 else 1) * (a * k.1) + (if m then -1 else 1) * (c * k.2.1)
    (.fin (if p = 0 then n && m else decide (p < 0)) p.natAbs k.2.2, false)

/-- A product and whether it is invalid. -/
def Val.mul (x y : Val) : Val × Bool :=
  match x, y with
  | .nan, _ => (.nan, false)
  | _, .nan => (.nan, false)
  | .inf a, .inf b => (.inf (a != b), false)
  | .inf a, .fin n c _ => if c = 0 then (.nan, true) else (.inf (a != n), false)
  | .fin n c _, .inf b => if c = 0 then (.nan, true) else (.inf (n != b), false)
  | .fin n a b, .fin m c d => (.fin (n != m) (a * c) (b * d), false)

/-- z + x × y, exactly (R182): 0 × ∞ is invalid with any z. -/
def Val.fma (z x y : Val) : Val × Bool :=
  let (p, iv) := x.mul y
  if iv then (.nan, true) else z.add p

/-- Comparison of two values that are not NaN: less, equal. -/
def Val.lt (x y : Val) : Bool :=
  match x, y with
  | .nan, _ => false
  | _, .nan => false
  | .inf a, .inf b => a && !b
  | .inf a, _ => a
  | _, .inf b => !b
  | .fin n a b, .fin m c d =>
    decide ((if n then -1 else 1 : Int) * (a * d) < (if m then -1 else 1 : Int) * (c * b))

def Val.isNan : Val → Bool
  | .nan => true
  | _ => false

def Val.eqv (x y : Val) : Bool := !x.isNan && !y.isNan && !x.lt y && !y.lt x

/-- An element under its block's scale (R177): a NaN of either gives NaN, and so does an infinite scale with a zero element. An infinite element
under a zero scale has no stated value (log entry 172). -/
def Val.scaled (x sc : Val) : Val :=
  match x with
  | .inf n => if sc.isZero then dA56.value (Config.infTimesZero n sc.isNeg % 2 ^ 56) else (x.mul sc).1
  | _ => (x.mul sc).1

end Sys2Proof.Machine
end

