-- ==== Sys2Proof/Machine/Float.lean ====
section
/-! DEFINITION. FP, CVT and FMT (R180 to R195): FP32 and packed arithmetic, the bounded functions, conversions of any entry's codes, and
the instructions of the format table with its ordered installs. -/

namespace Sys2Proof.Machine

/-! ## FP32 arithmetic (R182, R183) -/

/-- An exact result rounded once, with NV where the operation is invalid. -/
def roundOp (d : Desc) (v : Val × Bool) : Nat × Flg :=
  let p := (d.rnd 0 0 v.1).getD (0, 0)
  (p.1, p.2 ||| flagIf v.2 flagNV)

def word32 (p : Nat × Flg) : Word × Flg := (.ofNat 32 p.1, p.2)

def opFadd (x y : Word) : Word × Flg := word32 (roundOp dFP32 ((val32 x).add (val32 y)))
def opFsub (x y : Word) : Word × Flg := word32 (roundOp dFP32 ((val32 x).add (val32 y).neg))
def opFmul (x y : Word) : Word × Flg := word32 (roundOp dFP32 ((val32 x).mul (val32 y)))
def opFfma (z x y : Word) : Word × Flg := word32 (roundOp dFP32 ((val32 z).fma (val32 x) (val32 y)))

def nan32 : Word := 0x7FC00000

/-- The smaller or larger of two values: a NaN gives way, and −0 is smaller than +0 (R183). -/
def fpick (larger : Bool) (x y : Word) : Word :=
  let a := val32 x
  let b := val32 y
  if a.isNan then (if b.isNan then nan32 else y)
  else if b.isNan then x
  else
    let least := if a.lt b then x else if b.lt a then y else if x.msb then x else y
    let most := if a.lt b then y else if b.lt a then x else if x.msb then y else x
    if larger then most else least

def opFcmp (x y : Word) : Word :=
  let a := val32 x
  let b := val32 y
  if a.isNan || b.isNan then 8 else if a.lt b then 1 else if b.lt a then 4 else 2

def opFsel (z x y : Word) : Word :=
  let v := val32 z
  if !v.isNan && !v.lt (.fin false 0 1) then x else y

/-- A fixed-latency float result of two registers. -/
def flt2 (g : Word → Word → Word × Flg) (sw : Bool) (d a b : BitVec 7) (s : State) : Out :=
  runSheaf { sw := sw, reads := [f1 a, f1 b], writes := [f1 d] }
    (fun s r =>
      let p := g (s.reg r a) (s.reg r b)
      .done ((s.setReg r d p.1).setFlags r p.2)) s

/-- A fixed-latency float result of D, A and B. -/
def flt3 (g : Word → Word → Word → Word × Flg) (sw : Bool) (d a b : BitVec 7) (s : State) : Out :=
  runSheaf { sw := sw, reads := [f1 d, f1 a, f1 b], writes := [f1 d] }
    (fun s r =>
      let p := g (s.reg r d) (s.reg r a) (s.reg r b)
      .done ((s.setReg r d p.1).setFlags r p.2)) s

/-- A variable-latency float result (R184, R185). -/
def fltVar1 (g : Word → Word × Flg) (sw : Bool) (d a : BitVec 7) (s : State) : Out :=
  runSheaf { sw := sw, reads := [f1 a], writes := [f1 d], var := true }
    (fun s r =>
      let p := g (s.reg r a)
      .done ((s.issueVal r d 1 p.1.toNat).setFlags r p.2)) s

def execFadd (sw : Bool) (d a b : BitVec 7) (s : State) : Out := flt2 opFadd sw d a b s
def execFsub (sw : Bool) (d a b : BitVec 7) (s : State) : Out := flt2 opFsub sw d a b s
def execFmul (sw : Bool) (d a b : BitVec 7) (s : State) : Out := flt2 opFmul sw d a b s
def execFfma (sw : Bool) (d a b : BitVec 7) (s : State) : Out := flt3 opFfma sw d a b s
def execFmin (sw : Bool) (d a b : BitVec 7) (s : State) : Out := fixed2 (fpick false) sw d a b s
def execFmax (sw : Bool) (d a b : BitVec 7) (s : State) : Out := fixed2 (fpick true) sw d a b s
def execFabs (sw : Bool) (d a : BitVec 7) (s : State) : Out := fixed1 (fun x => x &&& 0x7FFFFFFF) sw d a s
def execFneg (sw : Bool) (d a : BitVec 7) (s : State) : Out := fixed1 (fun x => x ^^^ 0x80000000) sw d a s
def execFcmp (sw : Bool) (d a b : BitVec 7) (s : State) : Out := fixed2 opFcmp sw d a b s
def execFsel (sw : Bool) (d a b : BitVec 7) (s : State) : Out := fixed3 opFsel sw d a b s

/-! ## The functions of R184

The spec bounds these and does not fix them. A free candidate of Config is delivered where it lies within the bound; otherwise the
correctly rounded value is. Enclosures of the exact values are computed in fixed point. -/

/-- |c − num / den| ≤ tn / td for a finite FP32 code. -/
def within (c : Word) (num : Int) (den tn td : Nat) : Bool :=
  match val32 c with
  | .fin n a b =>
    let x : Int := if n then -a else a
    decide ((x * den - num * b).natAbs * td ≤ tn * (b * den))
  | _ => false

/-- The FP32 spacing at an exact magnitude (R184). -/
def spacing (num den : Nat) : Nat × Nat := scale2 1 1 (max (floorLog num den) (-126) - 23)

/-- The flags of an approximated function (R176, R180, R184): UF where the exact value is below the smallest normal and the result inexact, and
where the result is subnormal or zero. -/
def fnFlags (c : Word) (exact tiny : Bool) : Flg :=
  let mag := c.toNat % 2 ^ 31
  flagIf (!exact) flagNX ||| flagIf ((tiny && !exact) || decide (mag < 0x00800000)) flagUF ||| flagIf (decide (mag = 0x7F800000)) flagOF

/-- A magnitude below the smallest normal value of FP32 (R176). -/
def tiny32 (num den : Nat) : Bool := decide (num * 2 ^ 126 < den)

/-- A code whose value is exactly num / den. -/
def isExactly (c : Word) (num : Int) (den : Nat) : Bool := within c num den 0 1

def valOf (num : Int) (den : Nat) : Val := .fin (decide (num < 0)) num.natAbs den

/-- The candidate where it is within `k` spacings of the value num / den, otherwise the value rounded. -/
def bounded (cand : Word) (num : Int) (den k : Nat) : Word :=
  let sp := spacing num.natAbs den
  if within cand num den (k * sp.1) sp.2 then cand else (rnd32 (valOf num den)).1

def signWord (n : Bool) : Word := if n then 0x80000000 else 0
def infWord (n : Bool) : Word := if n then 0xFF800000 else 0x7F800000

def opFrcp (x : Word) : Word × Flg :=
  match val32 x with
  | .nan => (nan32, 0)
  | .inf n => (signWord n, 0)
  | .fin n a b =>
    if a = 0 then (infWord n, flagDZ)
    else
      let num : Int := if n then -b else b
      let c := bounded (Config.frcp x) num a 1
      (c, fnFlags c (isExactly c num a) (tiny32 b a))

/-- The square root of a / b to 300 binary places: exact, or with a half unit that stands for the rest. -/
def sqrtVal (a b : Nat) : Nat × Nat :=
  let n := a * b * 2 ^ 600
  let q := Nat.sqrt n
  if q * q = n then (q, b * 2 ^ 300) else (2 * q + 1, b * 2 ^ 301)

def opFrsq (x : Word) : Word × Flg :=
  match val32 x with
  | .nan => (nan32, 0)
  | .inf n => if n then (nan32, flagNV) else (0, 0)
  | .fin n a b =>
    if a = 0 then (infWord n, flagDZ)
    else if n then (nan32, flagNV)
    else
      let q := sqrtVal b a
      let c := bounded (Config.frsq x) q.1 q.2 1
      (c, fnFlags c (match val32 c with
        | .fin _ u v => decide (u * u * a = v * v * b)
        | _ => false) false)

def opFsqrt (x : Word) : Word × Flg :=
  match val32 x with
  | .nan => (nan32, 0)
  | .inf n => if n then (nan32, flagNV) else (infWord false, 0)
  | .fin n a b =>
    if a = 0 then (x, 0)
    else if n then (nan32, flagNV)
    else let q := sqrtVal a b; rnd32 (.fin false q.1 q.2)

/-- ln 2 and 2π in fixed point. -/
def ln2Fix : Nat := 0xB17217F7D1CF79ABC9E3B39803F2F6AF
def twoPiFix : Nat :=
  0x6487ED5110B4611A62633145C06E0E68948127044533E63A0105DF531D89CD9128A5043CC71A026EF7CA8CD9E69D218D8

/-- The first terms of e^y, y in 128-bit fixed point. -/
def expSeries (y : Nat) : Nat → Nat → Nat → Nat
  | 0, _, _ => 0
  | k + 1, n, t => t + expSeries y k (n + 1) (t * y / (2 ^ 128 * (n + 1)))

/-- Two fractions over one denominator between which 2^(num / den) lies, far closer together than the spacing: the numerators and the
denominator. An argument too close to 0 for the series is enclosed by 1 and its neighbour. -/
def exp2Val (num : Int) (den : Nat) : Nat × Nat × Nat :=
  if num.natAbs * 2 ^ 100 < den then (if num < 0 then (2 ^ 100 - 1, 2 ^ 100, 2 ^ 100) else (2 ^ 100, 2 ^ 100 + 1, 2 ^ 100))
  else
    let i : Int := num / den
    let f := ((num - i * den) * 2 ^ 128 / den).toNat
    let v := expSeries (f * ln2Fix / 2 ^ 128) 40 0 (2 ^ 128)
    ((scale2 v (2 ^ 128) i).1, (scale2 (v + 2 ^ 16) (2 ^ 128) i).1, (scale2 v (2 ^ 128) i).2)

def opFexp2 (x : Word) : Word × Flg :=
  match val32 x with
  | .nan => (nan32, 0)
  | .inf n => (if n then 0 else infWord false, 0)
  | .fin n a b =>
    let num : Int := if n then -a else a
    let tiny := n && decide (126 * b < a)
    if !n && decide (128 * b ≤ a) then (infWord false, flagOF ||| flagNX)
    else if a % b = 0 ∧ -149 ≤ num / b then
      let p := scale2 1 1 (num / b)
      let c := (rnd32 (.fin false p.1 p.2)).1
      (c, fnFlags c true tiny)
    else if n && decide (200 * b < a) then
      -- positive and below every spacing: two units either side of zero, but for −2 units
      let cand := Config.fexp2 x
      let c := if within cand 0 1 2 (2 ^ 149) && cand != 0x80000002 then cand else 0
      (c, fnFlags c false tiny)
    else
      let p := exp2Val num b
      let sp := spacing p.1 p.2.2
      let cand := Config.fexp2 x
      let ok (v : Nat) : Bool := within cand v p.2.2 (2 * sp.1) sp.2
      let c := if ok p.1 && ok p.2.1 then cand else (rnd32 (.fin false p.1 p.2.2)).1
      (c, fnFlags c false tiny)

/-- The first terms of atanh z, z in 128-bit fixed point. -/
def atanhSeries (z2 : Nat) : Nat → Nat → Nat → Nat
  | 0, _, _ => 0
  | k + 1, n, t => t / n + atanhSeries z2 k (n + 2) (t * z2 / 2 ^ 128)

/-- log2(a / b) over 2^128. -/
def log2Val (a b : Nat) : Int :=
  let e := floorLog a b
  let m := scale2 a b (-e)
  let z := (m.1 - m.2) * 2 ^ 128 / (m.1 + m.2)
  e * 2 ^ 128 + (2 * atanhSeries (z * z / 2 ^ 128) 80 1 z * 2 ^ 128 / ln2Fix : Nat)

def opFlog2 (x : Word) : Word × Flg :=
  match val32 x with
  | .nan => (nan32, 0)
  | .inf n => if n then (nan32, flagNV) else (infWord false, 0)
  | .fin n a b =>
    if a = 0 then (infWord true, flagDZ)
    else if n then (nan32, flagNV)
    else
      let e := floorLog a b
      let m := scale2 a b (-e)
      if m.1 = m.2 then rnd32 (Val.ofInt e)
      else
        let c := bounded (Config.flog2 x) (log2Val a b) (2 ^ 128) 2
        (c, fnFlags c false false)

/-- The first terms of the alternating series of sine (n odd) or cosine (n even), r in 384-bit fixed point. -/
def trigSeries (r2 : Nat) : Nat → Nat → Int → Int
  | 0, _, _ => 0
  | k + 1, n, t => t + trigSeries r2 k (n + 2) (-(t * r2 / ((2 ^ 384 * ((n + 1) * (n + 2)) : Nat) : Int)))

/-- Sine or cosine of num / den over 2^384, the argument reduced by 2π. -/
def trigVal (cosine : Bool) (num : Int) (den : Nat) : Int :=
  let r : Nat := Int.toNat (num * 2 ^ 384 / (den : Int) % (twoPiFix : Int))
  let r2 : Nat := r * r / 2 ^ 384
  if cosine then trigSeries r2 60 0 (2 ^ 384) else trigSeries r2 60 1 (r : Int)

def opTrig (cosine : Bool) (x : Word) : Word × Flg :=
  match val32 x with
  | .nan => (nan32, 0)
  | .inf _ => (nan32, flagNV)
  | .fin n a b =>
    if a = 0 then (if cosine then 0x3F800000 else x, 0)
    else
      let v := if n && !cosine then -trigVal false a b else trigVal cosine a b
      let cand := if cosine then Config.fcos x else Config.fsin x
      let c := if within cand v (2 ^ 384) 1 (2 ^ 22) then cand else (rnd32 (valOf v (2 ^ 384))).1
      (c, fnFlags c false (tiny32 v.natAbs (2 ^ 384)))

def opFdiv (x y : Word) : Word × Flg :=
  match val32 x, val32 y with
  | .nan, _ => (nan32, 0)
  | _, .nan => (nan32, 0)
  | .inf _, .inf _ => (nan32, flagNV)
  | .inf n, .fin m _ _ => (infWord (n != m), 0)
  | .fin n _ _, .inf m => (signWord (n != m), 0)
  | .fin n a b, .fin m c d =>
    if c = 0 then (if a = 0 then (nan32, flagNV) else (infWord (n != m), flagDZ))
    else
      let p := rnd32 (.fin (n != m) (a * d) (b * c))
      let mag := p.1.toNat % 2 ^ 31
      (p.1, p.2 ||| flagIf (decide (a ≠ 0) && decide (mag < 0x00800000)) flagUF)

def execFrcp (sw : Bool) (d a : BitVec 7) (s : State) : Out := fltVar1 opFrcp sw d a s
def execFrsq (sw : Bool) (d a : BitVec 7) (s : State) : Out := fltVar1 opFrsq sw d a s
def execFsqrt (sw : Bool) (d a : BitVec 7) (s : State) : Out := fltVar1 opFsqrt sw d a s
def execFexp2 (sw : Bool) (d a : BitVec 7) (s : State) : Out := fltVar1 opFexp2 sw d a s
def execFlog2 (sw : Bool) (d a : BitVec 7) (s : State) : Out := fltVar1 opFlog2 sw d a s
def execFsin (sw : Bool) (d a : BitVec 7) (s : State) : Out := fltVar1 (opTrig false) sw d a s
def execFcos (sw : Bool) (d a : BitVec 7) (s : State) : Out := fltVar1 (opTrig true) sw d a s
def execFdiv (sw : Bool) (d a b : BitVec 7) (s : State) : Out :=
  runSheaf { sw := sw, reads := [f1 a, f1 b], writes := [f1 d], var := true }
    (fun s r =>
      let p := opFdiv (s.reg r a) (s.reg r b)
      .done ((s.issueVal r d 1 p.1.toNat).setFlags r p.2)) s

/-! ## Packed pairs (R186) -/

/-- Each half under one descriptor; NSTAT takes the flags of both. -/
def packed (d : Desc) (g : Val → Val → Val → Val × Bool) (z x y : Word) : Word × Flg :=
  let half (k : Nat) : Nat × Flg :=
    let f (w : Word) : Val := d.value (bits w.toNat (16 * k + 15) (16 * k))
    roundOp d (g (f z) (f x) (f y))
  (.ofNat 32 ((half 1).1 * 2 ^ 16 + (half 0).1), (half 1).2 ||| (half 0).2)

def pAdd (_ x y : Val) : Val × Bool := x.add y
def pMul (_ x y : Val) : Val × Bool := x.mul y
def pFma (z x y : Val) : Val × Bool := z.fma x y

def execHadd2B (sw : Bool) (d a b : BitVec 7) (s : State) : Out := flt2 (packed dBF16 pAdd 0) sw d a b s
def execHmul2B (sw : Bool) (d a b : BitVec 7) (s : State) : Out := flt2 (packed dBF16 pMul 0) sw d a b s
def execHfma2B (sw : Bool) (d a b : BitVec 7) (s : State) : Out := flt3 (packed dBF16 pFma) sw d a b s
def execHadd2F (sw : Bool) (d a b : BitVec 7) (s : State) : Out := flt2 (packed dFP16 pAdd 0) sw d a b s
def execHmul2F (sw : Bool) (d a b : BitVec 7) (s : State) : Out := flt2 (packed dFP16 pMul 0) sw d a b s
def execHfma2F (sw : Bool) (d a b : BitVec 7) (s : State) : Out := flt3 (packed dFP16 pFma) sw d a b s

/-! ## Integer and accumulator conversions (R187, R188) -/

/-- A magnitude rounded to an integer under a mode (R187). -/
def roundInt (mode h : Nat) (neg : Bool) (num den : Nat) : Nat :=
  if num % den = 0 then num / den
  else match choose (candInt (num / den)) (candInt (num / den + 1)) neg num den mode h with
    | c => c.num

/-- FP32 to an integer between lo and hi (R187): out of range is NV and not OF. -/
def toInt (lo hi : Int) (mode h : Nat) (x : Word) : Word × Flg :=
  match val32 x with
  | .nan => (0, flagNV)
  | .inf n => (wrapInt 32 (if n then lo else hi), flagNV)
  | .fin neg a b =>
    let m := roundInt mode h neg a b
    let n : Int := if neg then -m else m
    if hi < n then (wrapInt 32 hi, flagNV)
    else if n < lo then (wrapInt 32 lo, flagNV)
    else (wrapInt 32 n, flagIf (decide (m * b ≠ a)) flagNX)

/-- An integer to FP32 (R187). -/
def fromInt (mode h : Nat) (v : Int) : Word × Flg := word32 ((dFP32.rnd mode h (Val.ofInt v)).getD (0, 0))

def cvtInt (lo hi : Int) (rd : Word → Int) (sw : Bool) (d a : BitVec 7) (v : BitVec 1) (m : BitVec 3) (s : State) : Out :=
  runSheaf { sw := sw, reads := [f1 a], writes := [f1 d] }
    (fun s r =>
      let x := s.reg r a
      let h := s.laneH r
      let p := if v = 0 then toInt lo hi m.toNat h x else fromInt m.toNat h (rd x)
      .done ((s.setReg r d p.1).setFlags r p.2)) s

def execCvti (sw : Bool) (d a : BitVec 7) (v : BitVec 1) (m : BitVec 3) (s : State) : Out :=
  cvtInt (-2 ^ 31) (2 ^ 31 - 1) (·.toInt) sw d a v m s
def execCvtu (sw : Bool) (d a : BitVec 7) (v : BitVec 1) (m : BitVec 3) (s : State) : Out :=
  cvtInt 0 (2 ^ 32 - 1) (fun x => x.toNat) sw d a v m s

/-- CVTA (R188). -/
def execCvta (sw : Bool) (d a : BitVec 7) (v : BitVec 1) (s : State) : Out :=
  if v = 0 then
    runSheaf { sw := sw, reads := [f2 a], writes := [f1 d] }
      (fun s r =>
        let p := rnd32 (dA56.value (s.regGroup r a 2 % 2 ^ 56))
        .done ((s.setReg r d p.1).setFlags r p.2)) s
  else
    runSheaf { sw := sw, reads := [f1 a], writes := [f2 d] }
      (fun s r => .done (s.setRegs r d (wordsOf 2 (rndA56 (val32 (s.reg r a)))))) s

/-! ## Codes of any entry (R189, R190) -/

/-- The width of the lane that a code stands in (R189). -/
def Desc.laneWidth (d : Desc) : Nat := if d.w = 4 then 4 else if d.w ≤ 8 then 8 else if d.w ≤ 16 then 16 else 32

/-- The checks of R190 on an entry and a position: the fault's details. -/
def cvtCheck (d : Desc) (e pos : Nat) : Option (Nat × Nat) :=
  if !d.valid ∨ e = 14 ∨ e = 15 ∨ e = 13 then some (0, e)
  else if 32 / d.laneWidth ≤ pos then some (pos, e)
  else none

def execCvtf (sw : Bool) (d a : BitVec 7) (e : BitVec 6) (p : BitVec 3) (s : State) : Out :=
  runSheaf { sw := sw, reads := [f1 a], writes := [f1 d] }
    (fun s r =>
      let ds := (s.tableOf r).entry e.toNat
      match cvtCheck ds e.toNat p.toNat with
      | some (d0, d1) => .fault 0x0A d0 d1
      | none =>
        let low := ds.laneWidth * p.toNat
        .done (s.setReg r d (rnd32 (ds.value ((s.reg r a).toNat / 2 ^ low % 2 ^ ds.w))).1)) s

/-- A lane of a word replaced. -/
def putLane (w : Word) (low lw code : Nat) : Word :=
  let mask : Word := .ofNat 32 ((2 ^ lw - 1) * 2 ^ low)
  (w &&& ~~~mask) ||| .ofNat 32 (code * 2 ^ low)

def execCvtn (sw : Bool) (d a : BitVec 7) (e : BitVec 6) (m p : BitVec 3) (s : State) : Out :=
  runSheaf { sw := sw, reads := [f1 d, f1 a], writes := [f1 d] }
    (fun s r =>
      let ds := (s.tableOf r).entry e.toNat
      match cvtCheck ds e.toNat p.toNat with
      | some (d0, d1) => .fault 0x0A d0 d1
      | none =>
        match ds.rnd m.toNat (s.laneH r) (val32 (s.reg r a)) with
        | none => .fault 0x0B (s.reg r a).toNat e.toNat
        | some (c, f) =>
          .done ((s.setReg r d (putLane (s.reg r d) (ds.laneWidth * p.toNat) ds.laneWidth c)).setFlags r f)) s

/-! ## FMT (R192 to R195) -/

/-- Kicks of a context, on the cores that pass a test, whose requests the Drill has not all fetched (R193). -/
def State.kicksOf (s : State) (ctx : Nat) (on : Nat → Bool) : List Nat :=
  (s.cores.filter fun p => on p.1).flatMap fun p =>
    p.2.kicks.flatMap fun q => (q.filter fun k => (s.launch k.iss.launch).ctx = ctx).map (·.id)

/-- The first FMTSET of a context reaches the units, after these kicks of the context (R193). -/
def passFmt (ctx : Nat) (kicks : List Nat) : List FmtReq → List FmtReq
  | [] => []
  | q :: qs => if q.ctx = ctx then { q with kicks := kicks } :: qs else q :: passFmt ctx kicks qs

/-- FMTSET (R192): the thread parks until it completes, as if it carried S. It is at the hub as it issues, so that a context's FMTSETs arrive in
the order of their issue (log entry 174), and goes on to the units at once where no other of its context is before it (R193). -/
def execFmtset (sw : Bool) (a b : BitVec 7) (s : State) : Out :=
  let _ := sw
  runSheaf { sw := true, reads := [f1 a, f2 b], var := true }
    (fun s r =>
      let i := (s.reg r a).toNat
      let d : Desc := s.pair r b
      if i < 16 ∨ 64 ≤ i then .fault 0x0A d.toNat i
      else match d.offered with
        | none => .fault 0x0A d.toNat i
        | some d =>
          let x := s.ctxOf r.g
          let id := s.fresh
          let s := s.issueOut r { v := 0, n := 0 } .awaited
          let ks := if s.fmtReqs.any fun q => q.ctx = x then [] else s.kicksOf x fun _ => true
          .done { s with fmtReqs := s.fmtReqs ++ [{ ctx := x, entry := i, desc := d, out := (r, id), kicks := ks }] }) s

/-- A die's unit can install an FMTSET (R193): it has not, and the kicks admitted on the die before it have latched. -/
def State.canInstall (s : State) (q : FmtReq) (die : Nat) : Bool :=
  !q.done.contains die && !q.kicks.any (s.kicksOf q.ctx fun c => decide (dieOfCore c = die)).contains

/-- FMTSET_INSTALL (R193): the hub takes the FMTSETs of a context in arrival order; the lowest unit that can installs the descriptor, and the
FMTSET completes with the last of the four, when the next of the context reaches the units. -/
def execFmtsetInstall (ctx : Nat) (s : State) : Out :=
  match s.fmtReqs.find? (fun q => q.ctx = ctx) with
  | none => .next s
  | some q =>
    match [0, 1, 2, 3].find? (s.canInstall q) with
    | none => .next s
    | some die =>
      if q.done.length < 3 then .next { s with fmtReqs := s.fmtReqs.map fun p => if p = q then { p with done := die :: p.done } else p }
      else
        let s := { s with fmtReqs := passFmt ctx (s.kicksOf ctx fun _ => true) (s.fmtReqs.erase q) }
        let s := s.setCtx ctx ((s.ctx ctx).setEntry q.entry q.desc)
        .next ((s.fulfil q.out.1 q.out.2 []).landOut q.out.1 q.out.2)

/-- FMTGET (R194): invalid entries read 0, as the table stores them. -/
def execFmtget (sw : Bool) (d a : BitVec 7) (s : State) : Out :=
  runSheaf { sw := sw, reads := [f1 a], writes := [f2 d], var := true }
    (fun s r =>
      let i := (s.reg r a).toNat
      if 64 ≤ i then .fault 0x0A 0 i
      else .done (s.issueVal r d 2 ((s.tableOf r).entry i).toNat)) s

/-- FMTGET.st (R194): the read and the clear are one step. -/
def execFmtgetSt (sw : Bool) (d : BitVec 7) (c : BitVec 5) (s : State) : Out :=
  runSheaf { sw := sw, writes := [f2 d], var := true }
    (fun s r => .done ((s.issueVal r d 2 (s.thread r).nstat.toNat).clearFlags r c)) s

/-- FMTCHK (R195): never faults. -/
def execFmtchk (sw : Bool) (d a : BitVec 7) (x : BitVec 1) (e : BitVec 6) (s : State) : Out :=
  runSheaf { sw := sw, reads := [f2 a], writes := [f1 d] }
    (fun s r =>
      let ds : Desc := s.pair r a
      let same := decide (x = 1) && decide (ds = (s.tableOf r).entry e.toNat)
      .done (s.setReg r d (.ofNat 32 (ds.check + if same then 2 ^ 31 else 0)))) s

end Sys2Proof.Machine
end

