-- ==== Sys2Proof/Machine/Access.lean ====
section
/-! DEFINITION. Lane access: LD and ST (R205, R206), the formatted elements of scratch pages LDF and STF (R208 to R210), and the words of
the spill stack LDS and STS (R211). -/

namespace Sys2Proof.Machine

/-! ## LD and ST -/

/-- Bytes of a size code (R205). -/
def sizeBytes (z : BitVec 3) : Nat := [1, 1, 2, 2, 4, 8, 16].getD z.toNat 4

/-- Registers of the data of a size code (R205). -/
def sizeRegs (z : BitVec 3) : Nat := if z = 5 then 2 else if z = 6 then 4 else 1

/-- What a load writes (R206): codes 1 and 3 extend the sign. -/
def loadValue (z : BitVec 3) (bs : List Byte) : Nat :=
  let v := ofBytes bs
  if z = 1 ∨ z = 3 then (wrapInt 32 (sextInt v (8 * bs.length))).toNat else v

/-- LD (R206). -/
def execLd (sw : Bool) (d a : BitVec 7) (z : BitVec 3) (o : BitVec 9) (s : State) : Out :=
  let n := sizeBytes z
  runSheaf { sw := sw, reads := [f2 a], writes := [{ v := d, n := sizeRegs z }], var := true, access := true } (fun s r =>
    let p := s.pair r a
    match s.resolve r p (o.toInt * n) n false with
    | .error (c, d1) => .fault c p.toNat d1
    | .ok pl =>
      if s.placeWaits r pl n then .stay s
      else
        let (s, bs) := s.loadAt r pl n
        .done (s.issueVal r d (sizeRegs z) (loadValue z bs))) s

/-- A store of n bytes at a place waits for a publish of its thread that is not complete, and for the thread's atomics on those bytes: it is
visible nowhere before them, in the core's view neither (R217, R224 note c). Nobody else sees the spill stack. -/
def State.storeWaits (s : State) (r : TRef) (p : Place) (n : Nat) : Bool :=
  match p with
  | .loc a => s.publishing r || s.ownAtom r a n
  | _ => false

/-- ST (R206): the data is read at issue. -/
def execSt (sw : Bool) (d a : BitVec 7) (z : BitVec 3) (o : BitVec 9) (s : State) : Out :=
  let n := sizeBytes z
  runSheaf { sw := sw, reads := [{ v := d, n := sizeRegs z }, f2 a], access := true } (fun s r =>
    let p := s.pair r a
    match s.resolve r p (o.toInt * n) n true with
    | .error (c, d1) => .fault c p.toNat d1
    | .ok pl => if s.storeWaits r pl n then .stay s else .done (s.storeAt r pl (bytesOf n (s.regGroup r d (sizeRegs z))))) s

/-! ## LDF and STF -/

/-- Attributes of a scratch page (R201). -/
def attrFmt (w : BitVec 64) : Nat := bits w.toNat 13 8
def attrGeom (w : BitVec 64) : Nat := bits w.toNat 17 16
def attrScale (w : BitVec 64) : Nat := bits w.toNat 23 18

/-- Elements per block of a geometry code (R201). -/
def geomElems (g : Nat) : Nat := [1, 16, 32, 64].getD g 1

/-- Container bits of an element (R208); a byte where the spec names no container. -/
def Desc.container (d : Desc) : Nat := if d.w = 56 then 8 else d.laneWidth

/-- Where an element lies and how it is read (R208, R209): its byte, its nibble (1 low, 2 high, 0 none), the descriptor of its entry and
the scale. -/
structure Elem where
  addr : Nat
  nib : Nat
  bytes : Nat
  e : Nat
  desc : Desc
  scale : Option (Nat × Desc)
  deriving DecidableEq, Repr

/-- The checks of R197 and R209 on an element, in their order. -/
def State.elem (s : State) (r : TRef) (p : DWord) (idx : Nat) (store : Bool) : Except (Nat × Nat) Elem :=
  match spaceCheck p with
  | some e => .error e
  | none =>
    if store && (ptrSpace p = 6 || ptrSpace p = 8) then .error (0x08, 3)
    else if ptrSpace p ≠ 4 then .error (0x08, 4)
    else
      let g := s.group r.g
      let d := ptrCluster p / 16
      let sd := tget {} (s.launch g.launch).scratch d
      let x := s.tableOf r
      let off := ptrOff p
      match sd.attrs[off / 65536]? with
      | none => .error (0x06, d)
      | some at0 =>
        let c := (x.entry (attrFmt at0)).container
        let cb := max 1 (c / 8)
        if off % cb ≠ 0 then .error (0x09, cb)
        else
          let bit := 8 * off + c * idx
          let byte := bit / 8
          match sd.attrs[byte / 65536]?, s.scratchFrame g.launch d (byte / 65536) with
          | some at1, some fr =>
            let e := attrFmt at1
            let desc := x.entry e
            let pos := byte % 65536
            if e ≠ attrFmt at0 ∨ attrGeom at1 ≠ attrGeom at0 then .error (0x0A, e)
            else if e = 13 ∨ e = 14 ∨ !desc.valid then .error (0x0A, e)
            else
              let el : Elem := { addr := scratchAddr d fr pos, nib := if c = 4 then 1 + bit / 4 % 2 else 0, bytes := cb, e := e, desc := desc,
                                 scale := none }
              if attrGeom at1 = 0 then .ok el
              else if 57344 ≤ pos then .error (0x0A, e)
              else
                let se := attrScale at1
                let sdc := x.entry se
                if se = 13 ∨ se = 14 ∨ se = 15 ∨ !sdc.valid ∨ ¬ (sdc.w = 6 ∨ sdc.w = 8) then .error (0x0A, se)
                else .ok { el with scale := some (scratchAddr d fr (57344 + bit % 524288 / c / geomElems (attrGeom at1)), sdc) }
          | _, _ => .error (0x06, d)

/-- The scale of an element, and its code where it is read, wait as a load of their bytes does. -/
def State.elemWaits (s : State) (r : TRef) (el : Elem) (code : Bool) : Bool :=
  (code && s.placeWaits r (.loc el.addr) el.bytes) || match el.scale with
    | some (a, _) => s.placeWaits r (.loc a) 1
    | none => false

/-- The code of an element, as the thread's load sees its container (R209). -/
def State.elemCode (s : State) (r : TRef) (el : Elem) : State × Nat :=
  let (s, bs) := s.viewBytes (s.group r.g).core r el.addr el.bytes
  let v := ofBytes bs
  let v := if el.nib = 2 then v / 16 else if el.nib = 1 then v % 16 else v
  (s, v % 2 ^ el.desc.w)

/-- The scale of an element's block, read as the thread's load sees it. -/
def State.elemScale (s : State) (r : TRef) (el : Elem) : State × Option Val :=
  match el.scale with
  | none => (s, none)
  | some (a, d) =>
    let (s, bs) := s.viewBytes (s.group r.g).core r a 1
    (s, some (d.value (ofBytes bs % 2 ^ d.w)))

/-- LDF (R209): a raw code is not decoded, and a scaled element is rounded once. -/
def execLdf (sw : Bool) (d a b : BitVec 7) (s : State) : Out :=
  runSheaf { sw := sw, reads := [f2 a, f1 b], writes := [f1 d], var := true, access := true } (fun s r =>
    let p := s.pair r a
    match s.elem r p (s.reg r b).toNat false with
    | .error (c, d1) => .fault c p.toNat d1
    | .ok el =>
      if s.elemWaits r el true then .stay s else
      let (s, code) := s.elemCode r el
      let (s, sc) := s.elemScale r el
      if el.e = 15 then .done (s.issueVal r d 1 code)
      else
        let v := el.desc.value code
        match sc with
        | none => .done (s.issueVal r d 1 (rnd32 v).1.toNat)
        | some sc =>
          let q := rnd32 (v.scaled sc)
          .done ((s.issueVal r d 1 q.1.toNat).setFlags r q.2)) s

/-- An FP32 value divided by a scale, exactly (R209): NaN with NV where the scale is 0 or NaN. -/
def unscale (x sc : Val) : Val × Flg :=
  match x, sc with
  | _, .nan => (.nan, flagNV)
  | x, .fin m c d => if c = 0 then (.nan, flagNV) else match x with
    | .nan => (.nan, 0)
    | .inf n => (.inf (n != m), 0)
    | .fin n a b => (.fin (n != m) (a * d) (b * c), 0)
  | .nan, .inf _ => (.nan, 0)
  | .inf _, .inf _ => (.nan, flagNV)
  | .fin n _ _, .inf m => (.fin (n != m) 0 1, 0)

/-- STF (R209, R210): the other nibble of a 4-bit element's byte is kept at its home. -/
def execStf (sw : Bool) (d a b : BitVec 7) (s : State) : Out :=
  runSheaf { sw := sw, reads := [f1 d, f2 a, f1 b], access := true } (fun s r =>
    let p := s.pair r a
    match s.elem r p (s.reg r b).toNat true with
    | .error (c, d1) => .fault c p.toNat d1
    | .ok el =>
      if s.elemWaits r el false || s.storeWaits r (.loc el.addr) el.bytes then .stay s else
      let w := s.reg r d
      let put (s : State) (code : Nat) : State :=
        if el.nib = 0 then s.storeBytes (s.group r.g).core r el.addr (bytesOf el.bytes code)
        else s.storeByte (s.group r.g).core r el.addr (.ofNat 8 (if el.nib = 2 then 16 * code else code)) el.nib
      if el.e = 15 then .done (put s (w.toNat % 256))
      else
        let (s, sc) := s.elemScale r el
        let (x, f0) := match sc with
          | none => (val32 w, (0 : Flg))
          | some sc => unscale (val32 w) sc
        match el.desc.rnd 6 (s.laneH r) x with
        | none => .fault 0x0B w.toNat el.e
        | some (code, f) => .done ((put s code).setFlags r (f0 ||| f))) s

/-! ## LDS and STS -/

/-- The address of a spill word (R211): the byte offset in the thread's part, or the fault's code and details. -/
def State.spillWord (s : State) (r : TRef) (w : Word) (o : BitVec 7) : Except (Nat × Nat × Nat) Nat :=
  let addr : Int := (s.thread r).sp.toNat + w.toInt + 4 * o.toInt
  let d0 := (wrapInt 64 addr).toNat
  if addr % 4 ≠ 0 then .error (0x09, d0, 4)
  else if addr < 0 ∨ ((s.launchOf r.g).hdr.spill : Int) < addr + 4 then .error (0x05, d0, 1)
  else .ok (spillAddr r.g r.t addr.toNat)

def execLds (sw : Bool) (d a : BitVec 7) (o : BitVec 7) (s : State) : Out :=
  runSheaf { sw := sw, reads := [f1 a], writes := [f1 d], var := true, access := true } (fun s r =>
    match s.spillWord r (s.reg r a) o with
    | .error (c, d0, d1) => .fault c d0 d1
    | .ok x => .done (s.issueVal r d 1 (s.rdNat x 4))) s

def execSts (sw : Bool) (d a : BitVec 7) (o : BitVec 7) (s : State) : Out :=
  runSheaf { sw := sw, reads := [f1 d, f1 a], access := true } (fun s r =>
    match s.spillWord r (s.reg r a) o with
    | .error (c, d0, d1) => .fault c d0 d1
    | .ok x => .done (s.wrs x (bytesOf 4 (s.reg r d).toNat))) s

end Sys2Proof.Machine
end

