-- ==== Sys2Proof/Machine/Atomic.lean ====
section
/-! DEFINITION. Atomics and the service furrow (R230 to R241): the sixteen operations, requests and messages, the service furrow's two
steps, and the writing of results (R35). -/

namespace Sys2Proof.Machine

/-! ## Operations (R237, R239) -/

/-- The result and new value of an operation code on `size` bytes; none where it does not write. -/
def atomOp (op size old v : Nat) : Nat × Option Nat :=
  let m := 2 ^ (8 * size)
  let o32 : Word := .ofNat 32 old
  let v32 : Word := .ofNat 32 v
  let cas : Nat × Option Nat := if old = v % m then (old + m, some (v / m % m)) else (old, none)
  match op with
  | 0x0 => (old, some ((old + v) % m))
  | 0x1 => (old, some (old &&& v))
  | 0x2 => (old, some (old ||| v))
  | 0x3 => (old, some (old ^^^ v))
  | 0x4 => (old, some (sMin o32 v32).toNat)
  | 0x5 => (old, some (sMax o32 v32).toNat)
  | 0x6 => (old, some (min old v))
  | 0x7 => (old, some (max old v))
  | 0x8 => (old, some v)
  | 0x9 | 0xA | 0xB => cas
  | 0xC => (old, some (opFadd o32 v32).1.toNat)
  | 0xD => (old, some (packed dBF16 pAdd 0 o32 v32).1.toNat)
  | 0xE => (old, none)
  | _ => (old, some v)

/-- The access size of an operation code; ALD and AST take it from their size field (R234). -/
def atomSize (op : Nat) (z : BitVec 2) : Nat :=
  if op = 0xA then 8 else if op = 0xB then 16 else if op = 0xE ∨ op = 0xF then 4 * 2 ^ z.toNat else 4

/-- Registers of the D group (R237). -/
def atomRegs (op : Nat) (z : BitVec 2) : Nat :=
  if op = 0x9 then 2 else if op = 0xA then 4 else if op = 0xB then 8 else if op = 0xE ∨ op = 0xF then 2 ^ z.toNat else 1

/-! ## Issue (R230, R231, R238) -/

/-- The input port of a service furrow that a core's messages take (R231). -/
def portOf (core cl : Nat) : Nat :=
  if clusterOf core = cl then core % 6 else if dieOfCore core = dieOfCluster cl then 6 else 7

/-- A request joins the message of its sheaf to a service furrow. -/
def State.send (s : State) (cl port : Nat) (q : Request) : State :=
  let mine (m : Msg) : Bool := m.sheaf = s.sheafId && m.cl = cl
  let box := if s.outbox.any mine then s.outbox.map fun m => if mine m then { m with reqs := m.reqs ++ [q] } else m
    else s.outbox ++ [{ sheaf := s.sheafId, cl := cl, port := port, reqs := [q] }]
  { s with outbox := box, reqs := s.reqs ++ [q.id] }

/-- A lane of a returning sheaf takes its place in the sheaf's return slot (R233). -/
def State.takeSlot (s : State) (c : Nat) : State :=
  let x := s.core c
  let k := s.sheafId
  let slots := if x.retSlots.any (fun p => p.1 = k) then x.retSlots.map fun p => if p.1 = k then (p.1, p.2 + 1) else p
    else x.retSlots ++ [(k, 1)]
  s.setCore c { x with retSlots := slots }

/-- What an atomic asks for: its operation code, whether it returns, its order and scope, its operand registers. -/
structure AtomForm where
  op : Nat
  ret : Bool
  order : Nat
  scope : Nat
  size : Nat
  d : RegField
  deriving DecidableEq, Repr

/-- One lane of an atomic (R238). A release that is an engine publish comes before the thread's later engine entries itself (R224, note a). -/
def atomLane (f : AtomForm) (a : BitVec 7) (s : State) (r : TRef) : LaneRes :=
  let p := s.pair r a
  match s.resolveAtom r p f.size with
  | .error (c, d1) => .fault c p.toNat d1
  | .ok x =>
    let v := s.regGroup r f.d.v f.d.n
    let g := s.group r.g
    let acquire := decide (f.order % 2 = 1)
    let s := if 2 ≤ f.order then s.publish r f.scope else s
    let own := (s.stores.filter fun e => e.thr = r && decide (x ≤ e.addr) && decide (e.addr < x + f.size)).map fun e => Need.mk e.id true
    let needs := s.unmet (s.thread r).after ++ own
    let cl := homeCluster x
    let id := s.fresh
    let placed := if ptrSpace p = 2 ∧ ptrOff p / 524288 ≠ 0 then
      (s.residentOn g.launch (ptrOff p / 524288 - 1) (ptrCluster p * 6 + ptrCoreIdx p)).map fun h => (s.group h).placedAt else none
    let q : Request := { id := id, thr := r, lane := r.t % 32, addr := x, ptr := p, pc := (s.thread r).pc, req := .atom f.op f.size v,
                         out := if f.ret then some (id + 1) else none, needs := needs,
                         acq := if acquire then some f.scope else none, at0 := s.cycles (clusterOf g.core), placed := placed }
    let s := s.tick
    let s := if f.ret then (s.takeSlot g.core).issueOut r f.d .awaited (some s.sheafId) else s
    let s := s.send cl (portOf g.core cl) q
    let s := s.modThread r fun th => { th with
      atoms := th.atoms ++ [(id, x, f.size)]
      engAfter := if decide (2 ≤ f.order) && enginePublish f.scope then th.engAfter ++ [Need.mk id true] else th.engAfter }
    .done (if acquire then s.refresh r f.scope [] else s)

/-- An ATOM instruction (R235 to R238). -/
def atom (op : Nat) (sw : Bool) (d a : BitVec 7) (nr : Bool) (order : BitVec 2) (scope : BitVec 4) (z : BitVec 2) (s : State) : Out :=
  let dg : RegField := { v := d, n := atomRegs op z }
  let ret := !nr && decide (op ≠ 0xF)
  runSheaf { sw := sw, reads := (if op = 0xE then [] else [dg]) ++ [f2 a], writes := if op = 0xE then [dg] else [], var := ret, access := true,
             slot := ret }
    (atomLane { op := op, ret := ret, order := order.toNat, scope := scope.toNat, size := atomSize op z, d := dg } a) s

def execAadd (sw : Bool) (d a : BitVec 7) (n : BitVec 1) (r : BitVec 2) (c : BitVec 4) (s : State) : Out := atom 0x0 sw d a (n == 1) r c 0 s
def execAand (sw : Bool) (d a : BitVec 7) (n : BitVec 1) (r : BitVec 2) (c : BitVec 4) (s : State) : Out := atom 0x1 sw d a (n == 1) r c 0 s
def execAor (sw : Bool) (d a : BitVec 7) (n : BitVec 1) (r : BitVec 2) (c : BitVec 4) (s : State) : Out := atom 0x2 sw d a (n == 1) r c 0 s
def execAxor (sw : Bool) (d a : BitVec 7) (n : BitVec 1) (r : BitVec 2) (c : BitVec 4) (s : State) : Out := atom 0x3 sw d a (n == 1) r c 0 s
def execAmin (sw : Bool) (d a : BitVec 7) (n : BitVec 1) (r : BitVec 2) (c : BitVec 4) (s : State) : Out := atom 0x4 sw d a (n == 1) r c 0 s
def execAmax (sw : Bool) (d a : BitVec 7) (n : BitVec 1) (r : BitVec 2) (c : BitVec 4) (s : State) : Out := atom 0x5 sw d a (n == 1) r c 0 s
def execAminu (sw : Bool) (d a : BitVec 7) (n : BitVec 1) (r : BitVec 2) (c : BitVec 4) (s : State) : Out := atom 0x6 sw d a (n == 1) r c 0 s
def execAmaxu (sw : Bool) (d a : BitVec 7) (n : BitVec 1) (r : BitVec 2) (c : BitVec 4) (s : State) : Out := atom 0x7 sw d a (n == 1) r c 0 s
def execAxchg (sw : Bool) (d a : BitVec 7) (n : BitVec 1) (r : BitVec 2) (c : BitVec 4) (s : State) : Out := atom 0x8 sw d a (n == 1) r c 0 s
def execAcas (sw : Bool) (d a : BitVec 7) (n : BitVec 1) (r : BitVec 2) (c : BitVec 4) (s : State) : Out := atom 0x9 sw d a (n == 1) r c 0 s
def execAcas64 (sw : Bool) (d a : BitVec 7) (n : BitVec 1) (r : BitVec 2) (c : BitVec 4) (s : State) : Out := atom 0xA sw d a (n == 1) r c 0 s
def execAcas128 (sw : Bool) (d a : BitVec 7) (n : BitVec 1) (r : BitVec 2) (c : BitVec 4) (s : State) : Out := atom 0xB sw d a (n == 1) r c 0 s
def execAfadd (sw : Bool) (d a : BitVec 7) (n : BitVec 1) (r : BitVec 2) (c : BitVec 4) (s : State) : Out := atom 0xC sw d a (n == 1) r c 0 s
def execAfaddB2 (sw : Bool) (d a : BitVec 7) (n : BitVec 1) (r : BitVec 2) (c : BitVec 4) (s : State) : Out := atom 0xD sw d a (n == 1) r c 0 s
def execAld (sw : Bool) (d a : BitVec 7) (z r : BitVec 2) (c : BitVec 4) (s : State) : Out := atom 0xE sw d a false r c z s
def execAst (sw : Bool) (d a : BitVec 7) (z r : BitVec 2) (c : BitVec 4) (s : State) : Out := atom 0xF sw d a true r c z s

/-! ## Messages (R231) -/

/-- An earlier message on its way holds an atomic of the same thread on the same bytes (R224, note c). -/
def overlaps (m : Msg) (q : Request) : Bool :=
  m.reqs.any fun e => decide (e.thr = q.thr) && decide (e.addr < q.addr + 16) && decide (q.addr < e.addr + 16)

/-- A message reaches its port once the publishes and stores before its requests have gone home (R215, R217). -/
def State.arrive (s : State) (n : Nat) : State :=
  match s.outbox[n]? with
  | none => s
  | some m =>
    let before := s.outbox.take n
    if m.reqs.all (fun q => s.needsMet q.needs && !before.any fun b => overlaps b q) then
      let c := s.cluster m.cl
      let ports := (List.range 8).map fun p => c.ports.getD p [] ++ if p = m.port then [m] else []
      { s.setCluster m.cl { c with ports := ports } with outbox := s.outbox.eraseIdx n }
    else s

def queued (q : List Msg) : Nat := (q.map fun m => m.reqs.length).sum

/-- The ports in arbitration order: each gives at most one message, and only a message that fits whole (R231). -/
def acceptPorts : List Nat → Cluster → Cluster
  | [], c => c
  | p :: ps, c =>
    match c.ports.getD p [] with
    | m :: ms =>
      if queued c.queue + m.reqs.length ≤ Config.furrowQueue then
        acceptPorts ps { c with ports := c.ports.set p ms, queue := c.queue ++ [m] }
      else acceptPorts ps c
    | [] => acceptPorts ps c

/-- SERVICE_MESSAGE_ACCEPT (R231): one cluster cycle's arbitration, round-robin. -/
def execServiceMessageAccept (cl : Nat) (s : State) : Out :=
  if !s.runs (dieOfCluster cl) then .next s
  else
    let c := s.cluster cl
    let c := acceptPorts ((List.range 8).map fun i => (c.nextPort + i) % 8) c
    .next (s.setCluster cl { c with nextPort := (c.nextPort + 1) % 8 })

/-! ## Performance (R232, R238, R240, R241) -/

/-- The group whose memory a group-memory request reaches, with the address it would reach there now. -/
def State.targetOf (s : State) (q : Request) : Option (Nat × Nat) :=
  let g := s.group q.thr.g
  let a := ptrOff q.ptr
  let sel := a / 524288
  let c := ptrCluster q.ptr * 6 + ptrCoreIdx q.ptr
  let h := if sel = 0 then some q.thr.g
    else (s.groupsOf g.launch).find? fun h => (s.group h).lin = sel - 1 && (s.group h).core = c &&
      ((s.group h).state = .resident || (s.group h).state = .halting)
  h.map fun h => (h, gmemAddr (s.group h).core ((s.group h).gbase + a % 524288))

/-- A request finds its location at the home: in the issuing group's own memory also once it has retired or stopped (R241); in another group's
only while that has not left Resident since the issue, or, Halting, where the request was accepted before (R240, R241). -/
def State.atHome (s : State) (q : Request) : Bool :=
  if ptrSpace q.ptr ≠ 2 then true
  else match s.targetOf q with
    | none => false
    | some (h, a) =>
      let gr := s.group h
      decide (a = q.addr) && if ptrOff q.ptr / 524288 = 0 then true
        else decide (q.placed = some gr.placedAt) && (decide (gr.state = .resident) || (decide (gr.state = .halting) && q.spared))

/-- A request is over: its thread's later publishes no longer wait for it. -/
def State.reqDone (s : State) (q : Request) : State :=
  { s.modThread q.thr (fun th => { th with atoms := th.atoms.filter fun p => p.1 ≠ q.id }) with reqs := s.reqs.filter (· ≠ q.id) }

/-- Bytes of a location that a performed atomic accesses. -/
def Request.bytes (q : Request) : Nat := match q.req with
  | .atom _ size _ => size

/-- The thread of a performed atomic has observed its location at the home (R217): what its die copy holds of it is shared no later than the
thread's next publish, at once where one already waits for the atomic. -/
def State.observeReq (s : State) (q : Request) : State :=
  let d := dieOfCore (s.group q.thr.g).core
  if homeDie q.addr = some d then s
  else if (s.thread q.thr).after.any fun n => n.id = q.id then s.dropCopies d fun a => decide (q.addr ≤ a) && decide (a < q.addr + q.bytes)
  else s.modThread q.thr fun th => { th with obs := (q.addr, q.bytes) :: th.obs }

/-- One request, as one step of its location's write order. `same` are the requests of its message (R231): those that are refused with it
stand in one record of its group (R71, R240). -/
def State.performReq (s : State) (same : List Request) (q : Request) : State :=
  match q.req with
  | .atom op size v =>
    match s.atHome q with
    | false =>
      let g := s.group q.thr.g
      let mine := (same.filter fun p => decide (p.thr.g = q.thr.g) && !s.atHome p).map (·.thr)
      (s.reqDone q).takeFault (s.launch g.launch).ctx
        { code := 0x05, d0 := q.ptr.toNat, d1 := 2, pc := q.pc, lanes := laneMask q.thr.g (q.thr.t / 32) mine, furrow := q.thr.t / 32,
          core := g.core, usertag := (s.thread q.thr).usertag.toNat, launch := some g.launch, group := some q.thr.g }
    | true =>
      let (res, new) := atomOp op size (s.rdNat q.addr size) v
      let s := match new with
        | some w => s.homeWr q.addr (bytesOf size w)
        | none => s
      let c := (s.group q.thr.g).core
      let s := ((s.observeReq q).reqDone q).monitor c (s.ctxOf q.thr.g) 2 (s.cycles (clusterOf c) - q.at0)
      match q.out with
      | some o => s.fulfil q.thr o (wordsOf 8 res)
      | none => s

/-- The requests of a queue that one cluster cycle performs: the oldest first, at most 32, in distinct 16-byte units, and of one unit the
oldest (R232). The messages left, and the requests performed in order, each with those of its message. -/
def selectReqs : List Msg → List Nat → Nat → List Msg × List (List Request × Request)
  | [], _, _ => ([], [])
  | m :: ms, used, room =>
    let rec pickReqs : List Request → List Nat → Nat → List Nat → List Request × List Request × List Nat × Nat × List Nat
      | [], used, room, part => ([], [], used, room, part)
      | q :: qs, used, room, part =>
        let u := q.addr / 16
        if used.contains u || room = 0 then
          let (l, d, used, room, part) := pickReqs qs (u :: used) room part
          (q :: l, d, used, room, part)
        else
          let (l, d, used, room, part) := pickReqs qs (u :: used) (room - 1) (u :: part)
          (l, q :: d, used, room, part)
    let (left, done, used, room, part) := pickReqs m.reqs used room m.part
    let (rest, more) := selectReqs ms used room
    (if left.isEmpty then rest else { m with reqs := left, part := part } :: rest, done.map (fun q => (m.reqs, q)) ++ more)

def State.performReqs (s : State) : List (List Request × Request) → State
  | [] => s
  | q :: qs => (s.performReq q.1 q.2).performReqs qs

/-- SERVICE_FURROW_PERFORM (R232): one cluster cycle of a service furrow. A 128-bit request keeps its unit for the next cycle too. -/
def execServiceFurrowPerform (cl : Nat) (s : State) : Out :=
  if !s.runs (dieOfCluster cl) then .next s
  else
    let c := s.cluster cl
    let (left, done) := selectReqs c.queue c.busy 32
    let busy := (done.filter fun p => p.2.bytes = 16).map fun p => p.2.addr / 16
    .next ((s.setCluster cl { c with queue := left, busy := busy }).performReqs done)

/-! ## Results (R35, R233) -/

/-- RESULT_WRITEBACK (R35, R121): one outstanding result of a thread is written; a result still awaited is not. A halted thread's result
is written into its registers all the same, and that of a Saved group after its resume (R36). -/
def execResultWriteback (g t id : Nat) (s : State) : Out :=
  if (s.group g).state = .saved then .next s else .next (s.landOut { g := g, t := t } id)

end Sys2Proof.Machine
end

