-- ==== Sys2Proof/Machine/Sync.lean ====
section
/-! DEFINITION. SYNC (R225 to R229): PHASE, FENCE, QFENCE's joint markers, and MONW with its rereads. -/

namespace Sys2Proof.Machine

/-! ## PHASE and FENCE (R226, R227) -/

/-- PHASE: codes 1 publish, 2 refresh, 3 both. A refresh completes after the publishes before it (R224). -/
def phaseLane (k scope : Nat) (s : State) (r : TRef) : State :=
  if k = 1 then s.publish r scope
  else if k = 2 then s.refresh r scope (s.thread r).after
  else
    let s := s.publish r scope
    s.refresh r scope (s.thread r).after

def execPhase (sw : Bool) (c : BitVec 4) (k : BitVec 2) (s : State) : Out :=
  runSheaf { sw := sw } (fun s r => .done (phaseLane k.toNat c.toNat s r)) s

/-- FENCE.rel also publishes at engine scope, and is an engine publish (R222, R227). -/
def State.fenceRel (s : State) (r : TRef) (scope : Nat) : State := (s.publish r scope).publish r 0xB

/-- FENCE: codes 1 acquire, 2 release, 3 both. -/
def fenceLane (k scope : Nat) (s : State) (r : TRef) : State :=
  if k = 1 then s.refresh r scope (s.thread r).after
  else if k = 2 then s.fenceRel r scope
  else
    let s := s.fenceRel r scope
    s.refresh r scope (s.thread r).after

def execFence (sw : Bool) (c : BitVec 4) (k : BitVec 2) (s : State) : Out :=
  runSheaf { sw := sw } (fun s r => .done (fenceLane k.toNat c.toNat s r)) s

/-! ## QFENCE (R228) -/

/-- A joint marker at the end of each queue of a mask. -/
def State.putMarker (s : State) (r : TRef) (mask : Nat) (kicks : List Nat) : State :=
  let c := (s.group r.g).core
  let e : Entry := { id := s.fresh, iss := { launch := (s.group r.g).launch, thr := r, core := c }, work := .marker s.fresh mask kicks }
  (maskQueues mask).foldl (fun s q => s.setEngineQueue c q (s.engineQueue c q ++ [e])) s.tick

/-- The kicks that stand in the kick registers of some queues of a core. -/
def Core.kicksIn (x : Core) (mask : Nat) : List Nat := (maskQueues mask).flatMap fun q => (x.kicks.getD q []).map (·.id)

/-- QFENCE: one joint marker in each queue of the mask, at issue. The requests of kicks that stand there unfetched enter behind it, and a second
marker holds what comes later until they are performed too (R224 b, R228, log entry 151). -/
def qfenceLane (mask : Nat) (s : State) (r : TRef) : State :=
  let c := (s.group r.g).core
  let ks := (s.core c).kicksIn mask
  let s := s.putMarker r mask []
  (if ks.isEmpty then s else s.putMarker r mask ks).queuesMoved c

def execQfence (sw : Bool) (m : BitVec 6) (s : State) : Out :=
  runSheaf { sw := sw, access := true } (fun s r => .done (qfenceLane m.toNat s r)) s

/-! ## MONW (R229) -/

/-- MONW: the location is read at its home at issue, after the thread's own atomics on it and stores to it (R215); the wait is taken up again by
a write there, by the timer or at a resume. -/
def execMonw (sw : Bool) (d a : BitVec 7) (c : BitVec 4) (k : BitVec 2) (w : BitVec 1) (s : State) : Out :=
  let n := if w = 1 then 8 else 4
  runSheaf { sw := sw, reads := [{ v := d, n := n / 4 }, f2 a], access := true } (fun s r =>
    let p := s.pair r a
    match s.resolveAtom r p n with
    | .error (e, d1) => .fault e p.toNat d1
    | .ok x =>
      let expect := s.regGroup r d (n / 4)
      if !(homeDie x).all s.runs || s.ownPending r x n then .stay s
      else if monwHolds k.toNat (s.rdNat x n) expect then .done ((s.observe r).refresh r c.toNat [])
      else .done (s.waitOn r (.monw p x n expect k.toNat c.toNat s.refTimer))) s

/-- MONW_TIMEOUT (R229): 64 µs after its last read, a waiting MONW reads its location again. -/
def execMonwTimeout (g t : Nat) (s : State) : Out :=
  let r : TRef := { g := g, t := t }
  match (s.thread r).status with
  | .waiting (.monw p a n e k c since) =>
    if s.refTimer < since + 64000 ∨ (s.thread r).halted ∨ !(homeDie a).all s.runs then .next s
    else if monwHolds k (s.rdNat a n) e then .next (s.tick.monwRead s.fresh r)
    else .next (s.modThread r fun th => { th with status := .waiting (.monw p a n e k c s.refTimer) })
  | _ => .next s

end Sys2Proof.Machine
end

