-- ==== Sys2Proof/Machine/Channel.lean ====
section
/-! DEFINITION. Channels (R250 to R255, R260, R261): positions, credit, the copies of pushes and pops, and the service of waiters. -/

namespace Sys2Proof.Machine

def State.chanDecl (s : State) (g ch : Nat) : Option ChanDecl := (s.launchOf g).hdr.chans[ch]?
def State.chan (s : State) (g ch : Nat) : Chan := (s.group g).chans.getD ch {}

def State.setChan (s : State) (g ch : Nat) (c : Chan) : State := s.modGroup g fun gr => { gr with chans := gr.chans.set ch c }

/-- Positions a producer may still take (R251). -/
def Chan.credit (c : Chan) (d : ChanDecl) : Nat := d.allow - (c.res - c.pop)

/-- The pointer of a position's slot (R251). -/
def Chan.slotPtr (c : Chan) (d : ChanDecl) (p : Nat) : DWord := c.ring + .ofNat 64 (d.size * (p % d.depth))

/-- Vis passes every position up to the first that is not Published (R251). -/
def Chan.advance (c : Chan) : Nat → Chan
  | 0 => c
  | n + 1 => if c.pos.contains (c.vis, .published) then { c with vis := c.vis + 1 }.advance n else c

def Chan.publish (c : Chan) (p : Nat) : Chan :=
  let c := { c with pos := c.pos.map fun (q : Nat × PosState) => if q.1 = p then (p, PosState.published) else q }
  c.advance c.pos.length

/-- The next position, Reserved. -/
def Chan.take (c : Chan) : Chan := { c with res := c.res + 1, pos := c.pos ++ [(c.res, .reserved)] }

/-- A pop frees its position. -/
def Chan.popped (c : Chan) : Chan := { c with pop := c.pop + 1, pos := c.pos.filter fun (q : Nat × PosState) => decide (q.1 ≠ c.pop) }

/-- A position is taken by a thread; the monitors see the channel's occupancy (R82, R251). -/
def State.reserve (s : State) (r : TRef) (ch : Nat) : State :=
  let c := (s.chan r.g ch).take
  (s.setChan r.g ch c).monitor (s.group r.g).core (s.ctxOf r.g) 3 (c.res - c.pop)

/-- The loads of a copy from a tagged pointer wait, for a relock or an atomic of the thread. -/
def State.copyWaits (s : State) (r : TRef) (src : DWord) (n : Nat) : Bool :=
  match s.bound r src (ptrOff src) n with
  | .ok a => s.spanWaits r a n
  | .error _ => false

/-- Bytes copied between two tagged pointers by the thread's own loads and stores (R261). -/
def State.copyBytes (s : State) (r : TRef) (src dst : DWord) (n : Nat) : State :=
  match s.bound r src (ptrOff src) n, s.bound r dst (ptrOff dst) n with
  | .ok a, .ok b =>
    let (s, bs) := s.loadSpan r a n
    s.storeSpan r b bs
  | _, _ => s

/-- CHRES's effect: the slot's pointer is the result. -/
def State.doRes (s : State) (r : TRef) (ch : Nat) (d : BitVec 7) (dc : ChanDecl) : State :=
  let p := (s.chan r.g ch).res
  let ptr := (s.chan r.g ch).slotPtr dc p
  (s.reserve r ch).issueVal r d 2 ptr.toNat

/-- CHPUSH's effect: the entry is copied in and its position is Published at once. -/
def State.doPush (s : State) (r : TRef) (ch : Nat) (src : DWord) (dc : ChanDecl) : State :=
  let p := (s.chan r.g ch).res
  let ptr := (s.chan r.g ch).slotPtr dc p
  let s := (s.reserve r ch).copyBytes r src ptr dc.size
  let s := s.publish r 2
  s.setChan r.g ch ((s.chan r.g ch).publish p)

/-- CHPOP's effect, with the value its register takes. -/
def State.doPop (s : State) (r : TRef) (ch : Nat) (dst : DWord) (d : BitVec 7) (v : Nat) (dc : ChanDecl) : State :=
  let c := s.chan r.g ch
  let s := s.refresh r 2 []
  let s := s.copyBytes r (c.slotPtr dc c.pop) dst dc.size
  (s.setChan r.g ch (s.chan r.g ch).popped).issueVal r d 1 v

/-! ## Waiters (R251) -/

/-- The waiter of a kind that began to wait first. -/
def firstWaiter (l : List (Nat × TRef)) : Option TRef :=
  (l.foldl (fun m p => match m with
    | some q => if p.1 < q.1 then some p else some q
    | none => some p) (none : Option (Nat × TRef))).map (·.2)

def State.creditWaiters (s : State) (g ch : Nat) : List (Nat × TRef) :=
  (s.refs g).filterMap fun r => match (s.thread r).status with
    | .waiting (.chanRes c _ n) => if c = ch then some (n, r) else none
    | .waiting (.chanPush c _ n) => if c = ch then some (n, r) else none
    | _ => none

def State.popWaiters (s : State) (g ch : Nat) : List (Nat × TRef) :=
  (s.refs g).filterMap fun r => match (s.thread r).status with
    | .waiting (.chanPop c _ _ n) => if c = ch then some (n, r) else none
    | _ => none

/-- A waiter whose pointer reaches memory that has gone leaves its wait with the fault of its check, with no position moved (R199, R261). -/
def State.copyFault (s : State) (r : TRef) (p : DWord) (e : Nat × Nat) : State :=
  let f : LaneFault := { r := r, code := e.1, d0 := p.toNat, d1 := e.2 }
  raiseFaults [f] [f] [] (s.modThread r fun th => { th with pc := th.pc - 4 })

/-- A waiter's copy: none while it waits, its fault where the pointer reaches nothing now, otherwise its effect (R261). -/
def State.copyServed (s : State) (r : TRef) (src p : DWord) (n : Nat) (t : State) : Option State :=
  match s.bound r p (ptrOff p) n with
  | .error e => some (s.copyFault r p e)
  | .ok _ => if s.copyWaits r src n then none else some (t.wake r)

/-- One waiter served, if one can be: none whose copy would wait for a relock. -/
def State.serveOne (s : State) (g ch : Nat) : Option State :=
  match s.chanDecl g ch with
  | none => none
  | some dc =>
    let c := s.chan g ch
    let a := if c.credit dc = 0 then none else firstWaiter (s.creditWaiters g ch)
    let b := if c.pop = c.vis then none else firstWaiter (s.popWaiters g ch)
    match b, a with
    | some r, _ => match (s.thread r).status with
      | .waiting (.chanPop _ dst d _) => s.copyServed r (c.slotPtr dc c.pop) dst dc.size (s.doPop r ch dst d (c.pop % 2 ^ 32) dc)
      | _ => none
    | none, some r => match (s.thread r).status with
      | .waiting (.chanRes _ d _) => some ((s.doRes r ch d dc).wake r)
      | .waiting (.chanPush _ src _) => s.copyServed r src src dc.size (s.doPush r ch src dc)
      | _ => none
    | none, none => none

/-- Waiters served in the order in which they began to wait, while the group is Resident. -/
def State.serve (s : State) (g ch : Nat) : Nat → State
  | 0 => s
  | n + 1 => if (s.group g).state ≠ .resident then s else match s.serveOne g ch with
    | some t => t.serve g ch n
    | none => s

def State.served (s : State) (g ch : Nat) : State := s.serve g ch (s.group g).threads.length

/-- The waiters of every channel of a group, as after its resume (R131, R253). -/
def State.serveGroup (s : State) (g : Nat) : State := (List.range (s.group g).chans.length).foldl (fun s ch => s.served g ch) s

/-- The waiters of every channel, once a relock has ended that a copy may have waited for (R349). -/
def State.serveAll (s : State) : State := (List.range s.groups.length).foldl State.serveGroup s

/-- A lower lane of the sheaf has yet to take its position: the lanes above it come after it (R251). -/
def State.lowerStays (s : State) (r : TRef) : Bool :=
  s.sheaf.any fun q => decide (q.g = r.g) && decide (q.t < r.t) && s.canIssue q && decide ((s.thread q).pc = (s.thread r).pc)

/-- No credit, or threads that have waited for it longer (R251). -/
def State.noCredit (s : State) (g ch : Nat) (dc : ChanDecl) : Bool :=
  decide ((s.chan g ch).credit dc = 0) || !(s.creditWaiters g ch).isEmpty

/-- Nothing Visible, or threads that have waited for it longer (R251). -/
def State.noEntry (s : State) (g ch : Nat) : Bool :=
  decide ((s.chan g ch).pop = (s.chan g ch).vis) || !(s.popWaiters g ch).isEmpty

/-! ## CHAN forms (R261) -/

/-- The checks of every form but CHINIT: the declaration of an Open channel. -/
def State.openChan (s : State) (g ch : Nat) : Except Nat ChanDecl :=
  match s.chanDecl g ch with
  | none => .error 1
  | some d => if d.size = 0 then .error 1 else if (s.chan g ch).opened then .ok d else .error 2

/-- A thread's earlier atomics have taken their values. -/
def State.atomsDone (s : State) (r : TRef) : Bool := (s.thread r).atoms.all fun p => !s.reqs.contains p.1

def execChinit (sw : Bool) (a : BitVec 7) (h : BitVec 3) (s : State) : Out :=
  runSheaf { sw := sw, reads := [f2 a], access := true } (fun s r =>
    let ch := h.toNat
    match s.chanDecl r.g ch with
    | none => .fault 0x04 ch 1
    | some d =>
      let p := s.pair r a
      if d.size = 0 then .fault 0x04 ch 1
      else if ptrSpace p ≠ 2 ∧ ptrSpace p ≠ 4 then .fault 0x08 p.toNat 6
      else if ptrSpace p = 2 ∧ ptrOff p / 524288 ≠ 0 then .fault 0x05 p.toNat 2
      else if ptrOff p % 64 ≠ 0 then .fault 0x09 p.toNat 64
      else match s.bound r p (ptrOff p) (d.size * d.depth) with
        | .error (c, d1) => .fault c p.toNat d1
        | .ok _ =>
          let c := s.chan r.g ch
          if c.opened && (decide (c.res ≠ c.pop) || !(s.creditWaiters r.g ch).isEmpty || !(s.popWaiters r.g ch).isEmpty) then
            .fault 0x04 ch 3
          else .done (s.setChan r.g ch { opened := true, ring := p })) s

def execChres (sw : Bool) (d : BitVec 7) (h : BitVec 3) (s : State) : Out :=
  runSheaf { sw := sw, writes := [f2 d], var := true, access := true } (fun s r =>
    let ch := h.toNat
    match s.openChan r.g ch with
    | .error e => .fault 0x04 ch e
    | .ok dc =>
      if s.lowerStays r then .stay s
      else if s.noCredit r.g ch dc then .done (s.tick.waitOn r (.chanRes ch d s.fresh))
      else .done (s.doRes r ch d dc)) s

def execChpub (sw : Bool) (a : BitVec 7) (h : BitVec 3) (s : State) : Out :=
  runSheaf { sw := sw, reads := [f2 a], access := true } (fun s r =>
    let ch := h.toNat
    match s.openChan r.g ch with
    | .error e => .fault 0x04 ch e
    | .ok dc =>
      let c := s.chan r.g ch
      match c.pos.find? (fun q => q.2 = .reserved && c.slotPtr dc q.1 = s.pair r a) with
      | none => .fault 0x04 ch 4
      | some q =>
        if s.publishNeeds r 2 ≠ [] then .stay s
        else .done (((s.publish r 2).setChan r.g ch (c.publish q.1)).served r.g ch)) s

def execChpush (sw : Bool) (a : BitVec 7) (h : BitVec 3) (s : State) : Out :=
  runSheaf { sw := sw, reads := [f2 a], access := true } (fun s r =>
    let ch := h.toNat
    match s.openChan r.g ch with
    | .error e => .fault 0x04 ch e
    | .ok dc =>
      let p := s.pair r a
      match s.resolveN r p 0 8 dc.size false with
      | .error (c, d1) => .fault c p.toNat d1
      | .ok _ =>
        if s.publishNeeds r 2 ≠ [] ∨ s.lowerStays r then .stay s
        else if s.noCredit r.g ch dc then .done (s.tick.waitOn r (.chanPush ch p s.fresh))
        else if s.copyWaits r p dc.size then .stay s
        else .done ((s.doPush r ch p dc).served r.g ch)) s

def execChpop (sw : Bool) (d a : BitVec 7) (h : BitVec 3) (s : State) : Out :=
  runSheaf { sw := sw, reads := [f2 a], writes := [f1 d], var := true, access := true } (fun s r =>
    let ch := h.toNat
    match s.openChan r.g ch with
    | .error e => .fault 0x04 ch e
    | .ok dc =>
      let p := s.pair r a
      match s.resolveN r p 0 8 dc.size true with
      | .error (c, d1) => .fault c p.toNat d1
      | .ok _ =>
        let c := s.chan r.g ch
        if !s.atomsDone r || s.publishing r || s.lowerStays r then .stay s
        else if s.noEntry r.g ch then .done (s.tick.waitOn r (.chanPop ch p d s.fresh))
        else if s.copyWaits r (c.slotPtr dc c.pop) dc.size then .stay s
        else .done ((s.doPop r ch p d (c.pop % 2 ^ 32) dc).served r.g ch)) s

/-- CHPOLL: 0 with a failing poll where nothing is Visible, otherwise a pop with 1, after those who wait for a pop (R251). -/
def execChpoll (sw : Bool) (d a : BitVec 7) (h : BitVec 3) (s : State) : Out :=
  runSheaf { sw := sw, reads := [f2 a], writes := [f1 d], var := true, access := true } (fun s r =>
    let ch := h.toNat
    match s.openChan r.g ch with
    | .error e => .fault 0x04 ch e
    | .ok dc =>
      let p := s.pair r a
      match s.resolveN r p 0 8 dc.size true with
      | .error (c, d1) => .fault c p.toNat d1
      | .ok _ =>
        let c := s.chan r.g ch
        if !s.atomsDone r || s.publishing r || s.lowerStays r then .stay s
        else if c.pop = c.vis then .done (((s.issueVal r d 1 0).backOff r none).modThread r fun th => { th with pollCh := some ch })
        else if s.noEntry r.g ch ∨ s.copyWaits r (c.slotPtr dc c.pop) dc.size then .stay s
        else .done (((s.doPop r ch p d 1 dc).pollDone r).served r.g ch)) s

end Sys2Proof.Machine
end

