-- ==== Sys2Proof/Machine/Engine.lean ====
section
/-! DEFINITION. What all engines share: leases and translation through a launch's shadow (R107, R109, R312 to R314), the elements of the
four endpoint kinds (R264, R265, R366), the order in which an entry may begin (R222, R223), and key slots (R67). -/

namespace Sys2Proof.Machine

/-! ## Key slots and seals (R67, R301, R328) -/

/-- A key slot may be used by a launch (R67). -/
def State.keyUsable (s : State) (l : Launch) (slot : Nat) : Bool :=
  let k := s.key slot
  decide (k.state = .loaded) && decide (k.fn = (s.ctx l.ctx).fn) && k.ctxmask.getLsbD l.ctx && k.approved.contains l.digest

/-- The seal of a record is right (R301): a MAC over bits 447:0 and the context number. -/
def State.recordSealed (s : State) (ctx : Nat) (r : Packet) : Bool :=
  decide (bits r.toNat 511 448 = (Config.sealRecord (s.ctx ctx).sealKey ctx (r.toNat % 2 ^ 448)).toNat)

/-! ## Leases and translation -/

/-- Why an engine access is not performed: its code, what its record's detail0 holds, the sector read again by a rollback, and the class
of the notification it posts (R318). -/
structure EngErr where
  code : Nat
  d0 : Nat
  sector : Option Nat := none
  note : Option Nat := none
  deriving DecidableEq, Repr

/-- One byte is covered by an entry of sufficient class (R107): class 1 also permits reads. -/
def Launch.coversByte (l : Launch) (va : Nat) (write : Bool) : Bool :=
  l.leases.any fun e => decide (e.base ≤ va) && decide (va < e.base + e.len) && (decide (e.cls = 1) || (decide (e.cls = 0) && !write))

/-- Every byte of a short access is covered (R109). -/
def Launch.covers (l : Launch) (va : Int) (n : Nat) (write : Bool) : Bool :=
  decide (0 ≤ va) && decide (va + n ≤ (2 : Int) ^ 64) && (List.range n).all fun i => l.coversByte (va.toNat + i) write

/-- Fields of an external address (R366). -/
def extTarget (a : Nat) : Nat := bits a 63 60
def extPkg (a : Nat) : Nat := bits a 55 48
def extWin (a : Nat) : Nat := bits a 47 40
def extOff (a : Nat) : Nat := bits a 39 0

/-- An external address as it acts: the reserved bits of a peer's are ignored (R5, R366). -/
def extAddr (a : Nat) : Nat := if extTarget a = 1 then a - bits a 59 56 * 2 ^ 56 else a

/-- Bytes of host or peer memory are covered by an external-write entry (R107). -/
def Launch.coversExt (l : Launch) (a : Int) (n : Nat) : Bool :=
  decide (0 ≤ a) && decide (extTarget a.toNat ≤ 1) && l.leases.any fun e =>
    decide (e.cls = 2) && decide (extAddr e.base ≤ extAddr a.toNat) && decide (extAddr a.toNat + n ≤ extAddr e.base + e.len)

/-- A page whose DESC section has been measured: no engine writes it for the life of the context (R68). -/
def Ctx.measuredPage (x : Ctx) (va : Nat) : Bool :=
  x.measured.any fun m => decide (m.1 / 65536 ≤ va / 65536) && decide (va / 65536 ≤ (m.1 + m.2 - 1) / 65536)

/-- The translation units: the copy path and the Harrow of each cluster, and the service furrows. -/
def copyUnit (cl : Nat) : Nat := 2 * cl
def harrowUnit (cl : Nat) : Nat := 2 * cl + 1

/-- Entries of a unit's TLB (R302, R312). -/
def tlbRoom (unit : Nat) : Nat := if unit % 2 = 0 then 1024 else 512

/-- A TLB takes an entry; a full one gives up its oldest (log entry 21). -/
def tlbPut (room : Nat) (es : List TlbEntry) (e : TlbEntry) : List TlbEntry := (if room ≤ es.length then es.drop 1 else es) ++ [e]

/-- The leaf that translates a page of a launch, through the unit's TLB, which its cluster's launches share (R312, R313): a miss fills from the
page's own leaf in the shadow, for its whole group. -/
def State.engLeaf (s : State) (l unit page : Nat) : State × Option (Nat × BitVec 64) :=
  let es := tget [] s.tlbs unit
  match es.find? (fun e => decide (e.launch = l) && decide (e.first ≤ page) && decide (page < e.first + 2 ^ e.run)) with
  | some e => (s, some (e.page, e.leaf))
  | none =>
    match (s.launch l).shadow.find? (fun p => p.page = page) with
    | none => (s, none)
    | some p =>
      let r := leafRun p.leaf
      let e : TlbEntry := { launch := l, first := page / 2 ^ r * 2 ^ r, run := r, page := page, leaf := p.leaf }
      ({ s with tlbs := tset s.tlbs unit (tlbPut (tlbRoom unit) es e) }, some (page, p.leaf))

/-- The entries of a launch are dropped as it reaches Finished (R312). -/
def State.dropTlb (s : State) (l : Nat) : State :=
  { s with tlbs := s.tlbs.map fun p => (p.1, p.2.filter fun e => decide (e.launch ≠ l)) }

/-- The frame that a page takes from the leaf of another page of its group (R313). -/
def runFrame (fill : Nat × BitVec 64) (va : Nat) : Int :=
  let r := 2 ^ leafRun fill.2
  (leafFrame fill.2 : Int) - (fill.1 % r : Nat) + (va / 65536 % r : Nat)

/-- The physical address of a virtual one under the leaf of another page of its group (R313): none where the frame leaves its tier and
die. -/
def runAddr (fill : Nat × BitVec 64) (va : Nat) : Option Nat :=
  let f := runFrame fill va
  if f < 0 ∨ f.toNat / 2 ^ 32 ≠ leafFrame fill.2 / 2 ^ 32 then none else some (f.toNat * 65536 + va % 65536)

/-- The sector address that the notification of such a frame names: the computed one in 52 bits (log entry 128). -/
def runSector (fill : Nat × BitVec 64) (va : Nat) : Nat := (runFrame fill va % (2 : Int) ^ 36).toNat * 65536 + va % 65536 / 64 * 64

/-- How an engine presents itself to main memory: its launch, its translation unit and die, the key slot and tag that a record imposes,
and the leaf formats it accepts (R267, R314). -/
structure Access where
  l : Nat
  unit : Nat
  die : Nat
  key : Option Nat := none
  tag : Nat := 0
  fmtOk : Nat → Nat → Bool := fun _ _ => true
  /-- reads of records and writes of stamps are not checked against the leaf's format (R274, R384) -/
  anyFmt : Bool := false

/-- A leaf's format passes: 15, or what the access names; 14 never does (R314). What the access names was valid as it was latched, and stays so
for the operation (R193): a leaf that names an invalid entry does not pass. -/
def leafPasses (want : Nat → Nat → Bool) (leaf : BitVec 64) : Bool :=
  let f := leafFmt leaf
  decide (f ≠ 14) && (decide (f = 15) || want f (leafGeom leaf))

/-- An element's fault by the memory code (R268, R318). -/
def memErr (d0 : Nat) (f : MemFail × Nat) : EngErr := { code := f.1.code, d0 := d0, sector := some f.2, note := some f.1.cls }

/-- The checks of an access to main memory that come before the code word: leases, translation and format. -/
def State.engAddr (s : State) (a : Access) (va : Int) (n : Nat) (write : Bool) : Except EngErr (State × Nat × Nat) :=
  let la := s.launch a.l
  let x := s.ctx la.ctx
  let d0 := (wrapInt 64 va).toNat
  if !la.covers va n write || (write && x.measuredPage va.toNat) then .error { code := 0x0E, d0 := d0 }
  else
    let (s, f) := s.engLeaf a.l a.unit (va.toNat / 65536)
    match f with
    | none => .error { code := 0x0E, d0 := d0 }
    | some fill =>
      if write && !leafWrite fill.2 then .error { code := 0x0E, d0 := d0 }
      else if !a.anyFmt && !leafPasses a.fmtOk fill.2 then .error { code := 0x0A, d0 := d0 }
      else match runAddr fill va.toNat with
        | none => .error { code := 0x12, d0 := d0, sector := some (runSector fill va.toNat), note := some 2 }
        | some pa => .ok (s, pa, a.key.getD (leafKey fill.2))

/-- An engine read of main memory. -/
def State.engRd (s : State) (a : Access) (va : Int) (n : Nat) : Except EngErr (State × List Byte) :=
  match s.engAddr a va n false with
  | .error e => .error e
  | .ok (s, pa, key) =>
    match s.mainRd pa n key a.tag with
    | .error f => .error (memErr (wrapInt 64 va).toNat f)
    | .ok (s, bs) => .ok (s.touches a.die (sectorsOf pa n), bs)

/-- A write-class page that is marked and not copied: the write waits for the copy (R112). -/
def Launch.mustCopy (l : Launch) (va : Int) : Bool :=
  l.shadow.any fun p => decide ((p.page : Int) = va / 65536) && p.marked && !p.copied

/-- The copy of a page is asked for (R112). -/
def State.wantCopy (s : State) (l : Nat) (va : Int) : State :=
  s.modLaunch l fun la => { la with shadow := la.shadow.map fun p => if (p.page : Int) = va / 65536 then { p with wanted := true } else p }

/-- An engine write of main memory. -/
def State.engWr (s : State) (a : Access) (va : Int) (bs : List Byte) : Except EngErr State :=
  match s.engAddr a va bs.length true with
  | .error e => .error e
  | .ok (s, pa, key) =>
    match s.mainWr pa bs key a.tag with
    | .error f => .error (memErr (wrapInt 64 va).toNat f)
    | .ok s => .ok ((s.touches a.die (sectorsOf pa bs.length)).monwReads (s.watchers pa bs.length))

/-! ## Pointer endpoints (R197, R199, R268) -/

/-- Where an engine's pointer element lies, once its space is known (R197, R199). A destination and a byte barrier reach the memory of a Halting
group that the pointer names, since they are performed before its save reads it (R253, R277); a source and a stamp do not. A group that has
retired or stopped has its entries still performed (R69, R144): they reach its own memory, which is out of reach only while it is Saved. -/
def State.engWhere (s : State) (r : TRef) (p : DWord) (addr : Int) (len : Nat) (dest : Bool) : Except (Nat × Nat) Nat :=
  let g := s.group r.g
  let l := s.launch g.launch
  let live (h : Nat) : Bool := (s.group h).state = .resident || (dest && (s.group h).state = .halting)
  if ptrSpace p = 2 then
    if addr < 0 ∨ (2 : Int) ^ 50 ≤ addr then .error (0x05, 0)
    else
      let sel := addr.toNat / 524288
      let b := addr.toNat % 524288
      let c := ptrCluster p * 6 + ptrCoreIdx p
      let h := if sel = 0 then (if g.state = .saved then none else some r.g)
        else if clusterOf c ≠ clusterOf g.core then none
        else (s.groupsOf g.launch).find? fun h => (s.group h).lin = sel - 1 && (s.group h).core = c && live h
      match h with
      | none => .error (0x05, 2)
      | some h => if l.hdr.gmem < b + len then .error (0x05, 0) else .ok (gmemAddr (s.group h).core ((s.group h).gbase + b))
  else if ptrSpace p = 4 then
    match s.bound r p addr len with
    | .ok (.loc a) => .ok a
    | .ok _ => .error (0x08, 6)
    | .error e => .error e
  else .error (0x08, 6)

/-- Where an engine's pointer element lies, under all checks of R197. -/
def State.engPlace (s : State) (r : TRef) (p : DWord) (addr : Int) (len : Nat) (dest : Bool := true) : Except (Nat × Nat) Nat :=
  match spaceCheck p with
  | some e => .error e
  | none => s.engWhere r p addr len dest

/-- A pointer with its offset moved to a byte address. -/
def ptrAt (p : DWord) (addr : Int) : Nat := (p.toNat / 2 ^ 50) * 2 ^ 50 + (addr % (2 : Int) ^ 50).toNat

/-! ## Elements of every endpoint kind -/

/-- An endpoint: its kind, base and container width in bits (R264, R265). -/
structure Endpoint where
  kind : Nat
  base : Nat
  w : Nat
  deriving DecidableEq, Repr

/-- Byte address of an element of an endpoint: the base as its kind reads it, and a bit offset. -/
def Endpoint.byteOf (e : Endpoint) (bit : Int) : Int :=
  let off : Nat := if e.kind = 1 then e.base % 2 ^ 50 else if e.kind = 2 then e.base % 2 ^ 15 else e.base
  (8 * (off : Int) + bit) / 8

def Endpoint.nibOf (bit : Int) (w : Nat) : Nat := if w = 4 then 1 + (bit / 4 % 2).toNat else 0
def Endpoint.bytes (e : Endpoint) : Nat := max 1 (e.w / 8)

/-- What detail0 holds for an element (R268): its address as the endpoint's kind reads it. -/
def Endpoint.detail (e : Endpoint) (bit : Int) : Nat :=
  let a := e.byteOf bit
  if e.kind = 1 then ptrAt (.ofNat 64 e.base) a
  else if e.kind = 2 then e.base / 2 ^ 15 * 2 ^ 15 + (a % 32768).toNat
  else (wrapInt 64 a).toNat

/-- The links to a package that take new requests, in rank order (R369). -/
def State.usableLinks (s : State) (pkg : Nat) : List Nat :=
  (List.range 12).filter fun n => decide ((s.link n).peer = some pkg) && ((s.link n).state = .up || (s.link n).state = .degraded)

/-- The link that a request to a destination offset takes, by 4 KiB blocks (R369). -/
def State.linkFor (s : State) (a : Nat) : Option Nat :=
  let l := s.usableLinks (extPkg a)
  l[extOff a / 4096 % l.length]?

/-- No link to the package is in Up, Degraded or Recovering (R369). -/
def State.peerLost (s : State) (pkg : Nat) : Bool :=
  (s.usableLinks pkg).isEmpty &&
    (List.range 12).all fun n => !(decide ((s.link n).peer = some pkg) && (s.link n).state = .recovering)

/-- The PCIe link that carries a context's traffic to a host address (R361): even 4 KiB blocks take link 0 and odd ones link 1, all of them the
other link where one is down. A protected context's takes its function's keyed stream, on link 0 alone (R364). -/
def State.hostLink (s : State) (ctx a : Nat) : Option Nat :=
  let x := s.ctx ctx
  let k := a / 4096 % 2
  if x.prot then (if s.pcieUp.contains 0 && (s.fn x.fn).keyed then some 0 else none)
  else if s.pcieUp.contains k then some k
  else if s.pcieUp.contains (1 - k) then some (1 - k)
  else none

/-- Who performs an element. -/
structure Mover where
  acc : Access
  thr : TRef
  core : Nat

/-- The code of one element read from an endpoint, or why it is not read. From a peer it is what the peer has answered. -/
def State.readElem (s : State) (m : Mover) (e : Endpoint) (bit : Int) (got : Option Nat := none) : Except EngErr (State × Nat) :=
  let a := e.byteOf bit
  let n := e.bytes
  let d0 := e.detail bit
  let out (bs : List Byte) : Nat :=
    let v := ofBytes bs
    let nib := Endpoint.nibOf bit e.w
    if nib = 2 then v / 16 else if nib = 1 then v % 16 else v
  match e.kind with
  | 0 => match s.engRd m.acc a n with
    | .ok (s, bs) => .ok (s, out bs)
    | .error x => .error { x with d0 := d0 }
  | 1 => match s.engPlace m.thr (.ofNat 64 e.base) a n false with
    | .ok x => .ok (s, out (s.rds x n))
    | .error (c, _) => .error { code := c, d0 := d0 }
  | 2 => if a < 0 ∨ 32768 < a + n then .error { code := 0x16, d0 := d0 }
         else .ok (s, out (s.rds (slotAddr m.core (bits e.base 20 16) a.toNat) n))
  | _ =>
    if !(s.launch m.acc.l).coversExt a n then .error { code := 0x0E, d0 := d0 }
    else if extTarget a.toNat = 0 then .ok (s, out (s.rds (hostBase + a.toNat % 2 ^ 60) n))
    else match got with
      | some v => .ok (s, v)
      | none => .error { code := 0x1E, d0 := d0 }

/-- One byte at an address with a nibble of it replaced, or whole bytes. -/
def patched (s : State) (x : Nat) (nib code n : Nat) : List Byte :=
  if nib = 0 then bytesOf n code else [mergeNib (s.rd x) (.ofNat 8 (if nib = 2 then 16 * code else code)) nib]

/-- A code written to one element of an endpoint; elements for a peer are sent and not written here. An external write is an escape event
(R113). -/
def State.writeElem (s : State) (m : Mover) (e : Endpoint) (bit : Int) (code : Nat) : Except EngErr State :=
  let a := e.byteOf bit
  let n := e.bytes
  let d0 := e.detail bit
  let nib := Endpoint.nibOf bit e.w
  match e.kind with
  | 0 =>
    if nib = 0 then match s.engWr m.acc a (bytesOf n code) with
      | .ok s => .ok s
      | .error x => .error { x with d0 := d0 }
    else match s.engAddr m.acc a 1 true with
      | .error x => .error { x with d0 := d0 }
      | .ok (t, pa, key) => match t.mainRd pa 1 key m.acc.tag with
        | .error f => .error (memErr d0 f)
        | .ok (t, bs) => match t.engWr m.acc a [mergeNib (bs.headD 0) (.ofNat 8 (if nib = 2 then 16 * code else code)) nib] with
          | .ok t => .ok t
          | .error x => .error { x with d0 := d0 }
  | 1 => match s.engPlace m.thr (.ofNat 64 e.base) a n (!m.acc.anyFmt) with
    | .ok x => .ok (s.homeWr x (patched s x nib code n))
    | .error (c, _) => .error { code := c, d0 := d0 }
  | 2 => if a < 0 ∨ 32768 < a + n then .error { code := 0x16, d0 := d0 }
         else .ok ((slotCores m.core e.base).foldl (fun s c =>
           let x := slotAddr c (bits e.base 20 16) a.toNat
           s.wrs x (patched s x nib code n)) s)
  | _ =>
    if !(s.launch m.acc.l).coversExt a n then .error { code := 0x0E, d0 := d0 }
    else
      let s := s.modLaunch m.acc.l fun la => { la with escaped := true }
      if extTarget a.toNat = 0 then
        let x := hostBase + a.toNat % 2 ^ 60
        .ok (s.homeWr x (patched s x nib code n))
      else .ok s

/-- Every home that a record or table entry touches runs (R349). -/
def State.recordReady (s : State) (a : Access) (va n : Nat) : Bool :=
  (pageChunks 2 va n).all fun p => match s.engAddr a p.1 p.2 false with
    | .error _ => true
    | .ok (_, pa, _) => (homeDie pa).all s.runs

/-- Every home that an element of an endpoint touches can be reached now (R232, R349, R361, R369), and its page has been copied if it is
marked. -/
def State.elemReady (s : State) (m : Mover) (e : Endpoint) (bit : Int) (write : Bool) : Bool :=
  let a := e.byteOf bit
  match e.kind with
  | 0 => match s.engAddr m.acc a e.bytes write with
    | .error _ => true
    | .ok (_, pa, _) => (homeDie pa).all s.runs && !(write && (s.launch m.acc.l).mustCopy a)
  | 1 => match s.engPlace m.thr (.ofNat 64 e.base) a e.bytes (write && !m.acc.anyFmt) with
    | .error _ => true
    | .ok x => s.reach x
  | 2 => true
  | _ =>
    if !(s.launch m.acc.l).coversExt a e.bytes then true
    else if extTarget a.toNat = 0 then (s.hostLink (s.launch m.acc.l).ctx a.toNat).isSome
    else (s.linkFor a.toNat).isSome || s.peerLost (extPkg a.toNat)

/-! ## Entries (R222, R223) -/

/-- Every entry of every queue. -/
def State.allEntries (s : State) : List Entry :=
  s.cores.flatMap (fun p => p.2.copyQ.flatten ++ p.2.hq) ++ s.stackTbl.flatMap fun p => p.2.mq

/-- Entries of the same group issued before an earlier halt have been performed (R223); its unfetched kicks count with them. -/
def State.priorDone (s : State) (i : Issuer) : Bool :=
  i.resumes = 0 ||
    !(s.allEntries.any fun e => !isMarker e.work && decide (e.iss.thr.g = i.thr.g) && decide (e.iss.resumes < i.resumes)) &&
    !(s.cores.any fun p => p.2.kicks.any fun q => q.any fun k => decide (k.iss.thr.g = i.thr.g) && decide (k.iss.resumes < i.resumes))

/-- An entry may begin: the engine publishes and publishes before it have completed (R217, R222). -/
def State.mayBegin (s : State) (i : Issuer) : Bool := s.needsMet i.needs && s.needsMet i.after && s.priorDone i

/-- The issuer of an entry that a thread places now. -/
def State.issuer (s : State) (r : TRef) : Issuer :=
  let g := s.group r.g
  let th := s.thread r
  { launch := g.launch, thr := r, core := g.core, pc := th.pc, lane := r.t % 32, needs := s.unmet th.engAfter, after := s.unmet th.after,
    resumes := g.resumes }

/-- A fault of an entry with the notification that a failed memory check posts (R318). -/
def State.failEntry (s : State) (i : Issuer) (e : EngErr) (d1 : Nat) : State :=
  let s := match e.note with
    | some c => s.post 4 (e.sector.getD 0) c (s.launch i.launch).ctx
    | none => s
  s.engineFault i e.code e.d0 d1 e.sector

/-- The condition of a wait on copy tags (R280). -/
def tagsHold (all : Bool) (bitmap : BitVec 64) (hi : Nat) (mask : Word) : Bool :=
  let b : Word := .ofNat 32 (bits bitmap.toNat (32 * hi + 31) (32 * hi))
  if all then decide (b &&& mask = mask) else decide (mask = 0) || decide (b &&& mask ≠ 0)

def State.tagWaiters (s : State) (g : Nat) : List TRef :=
  (s.refs g).filter fun r => match (s.thread r).status with
    | .waiting (.tags all hi m) => tagsHold all (s.group g).tags hi m && !(s.thread r).halted
    | _ => false

/-- The copy tag of an entry is set; threads that wait on it take up again, and have observed the completion (R217, R273, R280). -/
def State.setTag (s : State) (g tag : Nat) : State :=
  let s := s.modGroup g fun gr => { gr with tags := gr.tags ||| (BitVec.ofNat 64 (2 ^ tag)) }
  let rs := s.tagWaiters g
  rs.foldl State.observe (s.wakes rs)

end Sys2Proof.Machine
end

