-- ==== Sys2Proof/Machine/Copy.lean ====
section
/-! DEFINITION. Copies (R262 to R281): the Drill and its checks, the elements, blocks and reductions of a request, its completion, and the
instructions of COPY. -/

namespace Sys2Proof.Machine

/-! ## The fields of a request (R263) -/

def Copy.fld (c : Copy) (hi lo : Nat) : Nat := bits c.req.toNat hi lo
def Copy.bound (c : Copy) (k : Nat) : Nat := c.fld (191 + 32 * k) (160 + 32 * k)
def Copy.sstride (c : Copy) (k : Nat) : Int := sextInt (c.fld (351 + 64 * k) (320 + 64 * k)) 32
def Copy.dstride (c : Copy) (k : Nat) : Int := sextInt (c.fld (383 + 64 * k) (352 + 64 * k)) 32
def Copy.skind (c : Copy) : Nat := c.fld 125 124
def Copy.dkind (c : Copy) : Nat := c.fld 127 126
def Copy.stkind (c : Copy) : Nat := c.fld 129 128
def Copy.tag (c : Copy) : Nat := c.fld 135 130
def Copy.tr (c : Copy) : Bool := c.fld 136 136 = 1
def Copy.rndCode (c : Copy) : Nat := c.fld 139 137
def Copy.red (c : Copy) : Nat := c.fld 143 140
def Copy.sfmt (c : Copy) : Nat := c.fld 149 144
def Copy.dfmt (c : Copy) : Nat := c.fld 155 150
def Copy.srcBase (c : Copy) : Nat := c.fld 703 640
def Copy.dstBase (c : Copy) : Nat := c.fld 767 704
def Copy.recordAddr (c : Copy) : Nat := c.fld 831 768
def Copy.bbar (c : Copy) : DWord := .ofNat 64 (c.fld 895 832)
def Copy.stamp (c : Copy) : Nat := c.fld 959 896
def Copy.stampval (c : Copy) : Nat := c.fld 1023 960

/-- Elements of the request (R265). -/
def Copy.total (c : Copy) : Nat := c.bound 0 * c.bound 1 * c.bound 2 * c.bound 3 * c.bound 4

/-- Component k of the iteration vector of a linear index (R265, R268). -/
def Copy.vec (c : Copy) (n k : Nat) : Nat := n / ((List.range k).foldl (fun p j => p * c.bound j) 1) % c.bound k

def Copy.src (c : Copy) : Endpoint := { kind := c.skind, base := c.srcBase, w := Desc.container c.sdesc }
def Copy.dst (c : Copy) : Endpoint := { kind := c.dkind, base := c.dstBase, w := Desc.container c.ddesc }

/-- The bit offsets of an element from the two bases (R265); a transpose exchanges i0 and i1 in the destination. -/
def Copy.srcBit (c : Copy) (n : Nat) : Int :=
  c.src.w * ((List.range 5).map fun k => (c.vec n k : Int) * c.sstride k).sum
def Copy.dstBit (c : Copy) (n : Nat) : Int :=
  let v (k : Nat) : Int := c.vec n (if c.tr then (if k = 0 then 1 else if k = 1 then 0 else k) else k)
  c.dst.w * ((List.range 5).map fun k => v k * c.dstride k).sum

/-- The base of the destination is a peer's memory. -/
def Copy.toPeer (c : Copy) : Bool := decide (c.dkind = 3) && decide (extTarget c.dstBase ≠ 0)

/-- An element of an endpoint lies at a peer: its own address decides (R366). -/
def Endpoint.atPeer (e : Endpoint) (bit : Int) : Bool := decide (e.kind = 3) && decide (extTarget (e.byteOf bit).toNat ≠ 0)

def Copy.putPeer (c : Copy) (n : Nat) : Bool := c.dst.atPeer (c.dstBit n)
def Copy.getPeer (c : Copy) (n : Nat) : Bool := c.src.atPeer (c.srcBit n)

/-- What a peer has answered for an element of the source. -/
def Copy.answer (c : Copy) (n : Nat) : Option Nat := (c.got.find? fun p => p.1 = n).map (·.2)

/-- detail1 of an element's fault (R268). -/
def Copy.detail (c : Copy) (q n : Nat) : Nat := c.red * 2 ^ 60 + q * 2 ^ 58 + c.tag * 2 ^ 52 + n % 2 ^ 48

/-! ## Tensor records read by engines (R300, R301, R384) -/

def recBase (r : Packet) : Nat := bits r.toNat 447 392 * 256
def recFmt (r : Packet) : Nat := bits r.toNat 351 346
def recGeom (r : Packet) : Nat := bits r.toNat 345 344
def recSfmt (r : Packet) : Nat := bits r.toNat 343 338
def recAtag (r : Packet) : Nat := bits r.toNat 337 334
def recKey (r : Packet) : Nat := bits r.toNat 333 328
def recRights (r : Packet) : Nat := bits r.toNat 327 322
def recInd (r : Packet) : Nat := bits r.toNat 318 309
def recScoff (r : Packet) : Nat := bits r.toNat 391 352

/-- An extent: those of ndim and beyond read as 1 (R300). -/
def recExt (r : Packet) (k : Nat) : Nat := if k < bits r.toNat 321 319 then bits r.toNat (308 - 20 * k) (289 - 20 * k) else 1

/-- The row stride in elements, and the strides of the outer dimensions in 256-byte units (R300). -/
def recStride (r : Packet) (k : Nat) : Nat := if k = 1 then bits r.toNat 208 177 else bits r.toNat (240 - 32 * k) (209 - 32 * k)

/-- The bit of an element with the container width w, from bit 0 of the address space (R300). -/
def recBit (r : Packet) (w i0 i1 i2 i3 i4 : Nat) : Nat :=
  8 * recBase r + w * (i0 + recStride r 1 * i1) + 2048 * (i2 * recStride r 2 + i3 * recStride r 3 + i4 * recStride r 4)

/-- The byte past the last element of the tensor, or its base where an extent is 0. -/
def recEnd (r : Packet) (w : Nat) : Nat :=
  if (List.range 5).any fun k => recExt r k = 0 then recBase r
  else (recBit r w (recExt r 0 - 1) (recExt r 1 - 1) (recExt r 2 - 1) (recExt r 3 - 1) (recExt r 4 - 1) + w + 7) / 8

/-- An engine read that may cross a page. What passes before a failing page is corrected and counted all the same (R318, R324). -/
def State.engRdSpan (s : State) (a : Access) : List (Nat × Nat) → Except (State × EngErr) (State × List Byte)
  | [] => .ok (s, [])
  | (va, n) :: r => match s.engRd a va n with
    | .error e => .error (s, e)
    | .ok (s, bs) => match s.engRdSpan a r with
      | .error e => .error e
      | .ok (s, cs) => .ok (s, bs ++ cs)

/-- A record or table entry read by an engine (R384): tag 0, its page's key slot, no check of the leaf's format; detail0 the address. -/
def State.readRecord (s : State) (l unit die va n : Nat) : Except (State × EngErr) (State × Nat) :=
  match s.engRdSpan { l := l, unit := unit, die := die, anyFmt := true } (pageChunks 2 va n) with
  | .error (t, e) => .error (t, { e with d0 := va })
  | .ok (s, bs) => .ok (s, ofBytes bs)

/-- The checks of R301 that every use makes: none, or detail1. -/
def State.recordBad (s : State) (l : Launch) (r : Packet) (rights : Nat) : Option Nat :=
  if !s.recordSealed l.ctx r then some 1
  else if rights &&& recRights r ≠ rights then some 2
  else if !s.keyUsable l (recKey r) then some 3
  else none

/-! ## The checks at fetch (R267) -/

/-- The pointers of kind 0x1 that a request holds: source, destination, stamp and byte barrier. -/
def Copy.pointers (c : Copy) : List Nat :=
  (if c.skind = 1 then [c.srcBase] else []) ++ (if c.dkind = 1 then [c.dstBase] else []) ++
  (if c.stamp ≠ 0 ∧ c.stkind = 1 then [c.stamp] else []) ++ (if c.bbar ≠ 0 then [c.bbar.toNat] else [])

def ptrRank (p : Nat) : Bool :=
  let d : DWord := .ofNat 64 p
  ((ptrSpace d = 2 || ptrSpace d = 4) && decide (64 ≤ ptrCluster d)) || (ptrSpace d = 2 && decide (6 ≤ ptrCoreIdx d))

/-- The offset that a base is aligned by. -/
def kindOff (kind a : Nat) : Nat := if kind = 1 then a % 2 ^ 50 else if kind = 2 then a % 2 ^ 15 else a

/-- A refusal's code, detail0 (none for the request's pointer) and detail1, and what a failed record read carries. -/
structure Refuse where
  code : Nat
  d1 : Nat
  err : Option EngErr := none

/-- The rows of R267 that look at the request's fields alone, in order. -/
def Copy.fieldFault (c : Copy) : Option Refuse :=
  if c.fld 123 0 ≠ 0 ∨ (c.dkind = 2 ∧ (c.dstBase / 2 ^ 23 ≠ 0 ∨ bits c.dstBase 15 15 ≠ 0)) ∨ 6 < c.red ∨ c.skind = 2 ∨ c.stkind = 2 then
    some { code := 0x01, d1 := 1 }
  else if 2 ^ 48 ≤ c.total then some { code := 0x01, d1 := 2 }
  else if c.dkind = 3 ∧ c.stamp = 0 then some { code := 0x01, d1 := 3 }
  else if c.red ≠ 0 ∧ (c.sfmt ≠ 0 ∨ c.dfmt ≠ 0 ∨ c.tr ∨ 2 ≤ c.dkind) then some { code := 0x01, d1 := 4 }
  else if c.tr ∧ c.sfmt ≠ c.dfmt then some { code := 0x01, d1 := 5 }
  else if c.rndCode = 7 then some { code := 0x01, d1 := 6 }
  else
    let bad (e : Nat) (d : Desc) : Bool := !Desc.valid d || e = 13 || e = 14
    if bad c.sfmt c.sdesc then some { code := 0x0A, d1 := c.sfmt }
    else if bad c.dfmt c.ddesc then some { code := 0x0A, d1 := c.dfmt }
    else if c.sfmt ≠ c.dfmt ∧ (c.sfmt = 15 ∨ c.dfmt = 15) then some { code := 0x0A, d1 := 15 }
    else if c.dkind = 2 ∧ 16 < c.dst.w then some { code := 0x0A, d1 := c.dfmt }
    else
      let ps := c.pointers
      let sp (p : Nat) : Nat := bits p 63 60
      let one (e : Endpoint) : Nat := max 1 (e.w / 8)
      if ps.any fun p => sp p = 0 then some { code := 0x07, d1 := 0 }
      else if ps.any fun p => !spaceKnown (sp p) then some { code := 0x08, d1 := 1 }
      else if ps.any ptrRank then some { code := 0x08, d1 := 2 }
      else if ps.any fun p => sp p ≠ 2 && sp p ≠ 4 then some { code := 0x08, d1 := 6 }
      else if kindOff c.skind c.srcBase % one c.src ≠ 0 then some { code := 0x09, d1 := one c.src }
      else if kindOff c.dkind c.dstBase % one c.dst ≠ 0 then some { code := 0x09, d1 := one c.dst }
      else if c.stamp ≠ 0 ∧ kindOff c.stkind c.stamp % 8 ≠ 0 then some { code := 0x09, d1 := 8 }
      else if c.bbar ≠ 0 ∧ ptrOff c.bbar % 16 ≠ 0 then some { code := 0x09, d1 := 16 }
      else none

/-- A slot of a core that a group's engine operations may use (R282): its own, or a mate-side one of its launch. A slot that is being released
stays Held until the entries that name it have ended (R283): a kick placed before may still name it (R277). -/
def State.slotUsable (s : State) (g c i : Nat) : Bool :=
  match (tget {} (s.core c).slots i).holder with
  | none => false
  | some h => decide (h.g = g) ||
      (decide (c = mateOf (s.group g).core) && decide ((s.group h.g).launch = (s.group g).launch) &&
        decide ((s.group h.g).attempt = (s.group g).attempt))

/-- The last rows: barrier, slots, record. The request latched, or refused in the state that the reads of its record leave (R318, R324). -/
def State.fetchFault (s : State) (i : Issuer) (c : Copy) : Except (State × Refuse) (State × Copy) :=
  match c.fieldFault with
  | some f => .error (s, f)
  | none =>
    match (if c.bbar = 0 then .ok 0 else s.engPlace i.thr c.bbar (ptrOff c.bbar) 16 false) with
    | .error (code, d1) => .error (s, { code := code, d1 := d1 })
    | .ok _ =>
      let slot := bits c.dstBase 20 16
      if c.dkind = 2 && !(slotCores i.core c.dstBase).all fun k => s.slotUsable i.thr.g k slot then .error (s, { code := 0x16, d1 := slot })
      else if c.recordAddr = 0 then .ok (s, { c with atag := c.fld 159 156 })
      else
        let la := s.launch i.launch
        match s.readRecord i.launch (copyUnit (clusterOf i.core)) (dieOfCore i.core) c.recordAddr 64 with
        | .error (t, e) => .error (t, { code := e.code, d1 := 0, err := some e })
        | .ok (s, n) =>
          let r : Packet := .ofNat 512 n
          let need := 8 + (if c.skind = 0 then 1 else 0) + (if c.dkind = 0 then 2 else 0)
          match s.recordBad la r need with
          | some d1 => .error (s, { code := 0x13, d1 := d1 })
          | none =>
            let d := (s.fmtCtx la.ctx (dieOfCore i.core)).entry (recFmt r)
            if !Desc.valid d ∨ recFmt r = 14 then .error (s, { code := 0x0A, d1 := recFmt r })
            else .ok (s, { c with keyslot := some (recKey r), atag := recAtag r,
                                  tensor := some (recBase r, recEnd r (if Desc.w d = 56 then 64 else Desc.container d)) })

/-! ## The Drill (R276) -/

/-- A writer's metadata for a slot (R264, R284). -/
def copyMeta (slot fmt : Nat) : SlotMeta := { fmt := fmt, scslot := slot }

def State.setSlot (s : State) (c i : Nat) (f : Slot → Slot) : State :=
  let x := s.core c
  s.setCore c { x with slots := tset x.slots i (f (tget {} x.slots i)) }

/-- An entry takes its place in a copy queue; the monitors see the queue's depth (R82). -/
def State.placeEntry (s : State) (c q : Nat) (put : List Entry → List Entry) (e : Entry) : State :=
  let x := s.core c
  let l := x.copyQ.getD q []
  let s := s.setCore c { x with copyQ := x.copyQ.set q (put l) }
  s.monitor c (s.launch e.iss.launch).ctx 7 ((l.filter fun e => !isMarker e.work).length + 1)

/-- The last place of a copy queue. -/
def State.placeCopy (s : State) (c q : Nat) (e : Entry) : State := s.placeEntry c q (· ++ [e]) e

/-- A fetched request joins its queue: before a joint marker that its kick stood before (R224 b), otherwise last. -/
def insertCopy (kick : Nat) (e : Entry) : List Entry → List Entry
  | [] => [e]
  | y :: ys => match y.work with
    | .marker _ _ ks => if ks.contains kick then e :: y :: ys else y :: insertCopy kick e ys
    | _ => y :: insertCopy kick e ys

/-- The read of a request's tensor record waits for a relock (R349). -/
def State.recordWaits (s : State) (i : Issuer) (c : Copy) : Bool :=
  decide (c.recordAddr ≠ 0) &&
    !s.recordReady { l := i.launch, unit := copyUnit (clusterOf i.core), die := dieOfCore i.core, anyFmt := true } c.recordAddr 64

/-- The issuer of a request that is fetched now (R276): it issues with the publishes that its thread has made until then (R217, R222). -/
def State.fetchIssuer (s : State) (i : Issuer) : Issuer :=
  { i with needs := s.unmet (s.thread i.thr).engAfter, after := s.unmet (s.thread i.thr).after }

/-- DRILL_FETCH (R267, R276): the next request of a queue's oldest kick. The request has issued; it is refused, or stands in the queue. -/
def execDrillFetch (core q : Nat) (s : State) : Out :=
  let x := s.core core
  match x.kicks.getD q [] with
  | [] => .next s
  | k :: ks =>
    if !s.runs (dieOfCore core) ∨ roomLeft (x.copyQ.getD q []) Config.copyQueue = 0 then .next s
    else
      let gr := s.group k.iss.thr.g
      let off := ptrOff k.ptr + 128 * k.fetched
      let (s1, bs) := s.viewBytes core k.iss.thr (gmemAddr core (gr.gbase + off)) 128
      let k' : Kick := { k with fetched := k.fetched + 1 }
      let x := s1.core core
      let s1 := s1.setCore core { x with kicks := x.kicks.set q (if k'.fetched = k.n then ks else k' :: ks) }
      let ctx := s1.fmtCtx (s1.launch k.iss.launch).ctx (dieOfCore core)
      let v := ofBytes bs
      let ptr : DWord := .ofNat 64 (ptrAt k.ptr off)
      let c : Copy := { req := .ofNat 1024 v, ptr := ptr, sdesc := ctx.entry (bits v 149 144), ddesc := ctx.entry (bits v 155 150) }
      if s.recordWaits k.iss c then .next s
      else match s1.fetchFault k.iss c with
        | .error (s1, f) => match f.err with
          | some e => .next ((s1.failEntry k.iss e f.d1).queuesMoved core)
          | none => .next ((s1.engineFault k.iss f.code ptr.toNat f.d1).queuesMoved core)
        | .ok (s1, c) =>
          let slot := bits c.dstBase 20 16
          let s1 := if c.dkind = 2 then (slotCores core c.dstBase).foldl (fun s k => s.setSlot k slot fun sl =>
              { sl with md := copyMeta slot c.dfmt, sums := [] }) s1 else s1
          let e : Entry := { id := s1.fresh, iss := s.fetchIssuer k.iss, work := .copy c, ord := k.id, record := decide (c.recordAddr ≠ 0),
                             at0 := s1.cycles (clusterOf core) }
          .next ((s1.tick.placeEntry core q (insertCopy k.id e) e).queuesMoved core)

/-! ## Performing elements -/

/-- The request a queue works on: its head; behind a request whose elements for a peer have all been sent, another one for a peer (R224,
note f). -/
def activeCopy : List Entry → Option (Entry × Copy)
  | [] => none
  | e :: r => match e.work with
    | .copy c =>
      if c.toPeer ∧ c.total ≤ c.next ∧ c.total ≠ 0 then
        match activeCopy r with
        | some (e', c') => if c'.toPeer then some (e', c') else none
        | none => none
      else some (e, c)
    | _ => none

def State.putEntry (s : State) (c q : Nat) (e : Entry) : State :=
  let x := s.core c
  s.setCore c { x with copyQ := x.copyQ.set q ((x.copyQ.getD q []).map fun y => if y.id = e.id then e else y) }

def State.dropEntry (s : State) (c q id : Nat) : State :=
  let x := s.core c
  s.setCore c { x with copyQ := x.copyQ.set q ((x.copyQ.getD q []).filter fun y => y.id ≠ id) }

/-- The request ends at a failing element (R268): it leaves its queue and the fault is raised against its launch. -/
def State.failCopy (s : State) (core q : Nat) (e : Entry) (c : Copy) (n : Nat) (err : EngErr) : State :=
  ((s.dropEntry core q e.id).failEntry e.iss err (c.detail q n)).queuesMoved core

/-- A failing element ends the request once every element before it has been performed: those sent to peers are acknowledged first, and their
bytes counted (R268, R272). Until then the request stands as it was in s. -/
def State.failAt (s t : State) (core q : Nat) (e : Entry) (c : Copy) (n : Nat) (err : EngErr) : State :=
  if c.landed < c.next then s else t.failCopy core q e c n err

/-- Who performs the elements of a request at its source and at its destination (R314). -/
def Copy.mover (c : Copy) (e : Entry) (core fmt : Nat) : Mover :=
  { acc := { l := e.iss.launch, unit := copyUnit (clusterOf core), die := dieOfCore core, key := c.keyslot, tag := c.atag,
             fmtOk := fun f _ => f = fmt },
    thr := e.iss.thr, core := core }

/-- A main-memory element outside the tensor of the request's record (R267). -/
def Copy.outside (c : Copy) (e : Endpoint) (bit : Int) : Bool :=
  match c.tensor with
  | none => false
  | some (lo, hi) => e.kind = 0 && !(decide ((lo : Int) ≤ e.byteOf bit) && decide (e.byteOf bit + e.bytes ≤ hi))

/-- The code of element n as its source holds it. -/
def State.copyRead (s : State) (e : Entry) (c : Copy) (core n : Nat) : Except EngErr (State × Nat) :=
  if c.outside c.src (c.srcBit n) then .error { code := 0x13, d0 := c.src.detail (c.srcBit n) }
  else s.readElem (c.mover e core c.sfmt) c.src (c.srcBit n) (c.answer n)

/-- The code of element n as the destination takes it (R266). -/
def State.copyConvert (s : State) (e : Entry) (c : Copy) (n code : Nat) : Except EngErr Nat :=
  if c.sfmt = c.dfmt then .ok code
  else match Desc.rnd c.ddesc c.rndCode (s.hOf e.iss.thr e.iss.pc (c.started.getD s.refTimer) n) (Desc.value c.sdesc code) with
    | none => .error { code := 0x0B, d0 := c.src.detail (c.srcBit n) }
    | some (v, _) => .ok v

/-- What a flit for a request carries: it joins the open data flit of the same request, window and direction on its link, or opens one, which
takes one receive credit of the far end and returns those owed to it (R368). -/
def Link.send (l : Link) (t : Tx) (cap : Nat) : Link :=
  let new : Link := { l with replay := l.replay ++ [{ t with seq := l.txSeq, credit := l.owed }], txSeq := (l.txSeq + 1) % 4096,
                             credit := l.credit - 1, owed := 0 }
  match l.replay.getLast? with
  | some o =>
    if o.entry = t.entry ∧ o.win = t.win ∧ o.read = t.read ∧ o.elems.length < cap then
      { l with replay := l.replay.dropLast ++ [{ o with elems := o.elems ++ t.elems }] }
    else new
  | none => new

/-- An element for a peer, checked as an element write of its kind, is sent on a link (R107, R366, R369). The launch is no longer replayable from
then on: the element may have landed before it is acknowledged (R113, R370, log entry 168). -/
def State.sendElem (s : State) (e : Entry) (d : Endpoint) (bit : Int) (n cap : Nat) : Except EngErr State :=
  let a := d.byteOf bit
  if !(s.launch e.iss.launch).coversExt a d.bytes then .error { code := 0x0E, d0 := d.detail bit }
  else match s.linkFor a.toNat with
    | none => .error { code := 0x1E, d0 := d.detail bit }
    | some k => .ok ((s.setLink k ((s.link k).send { seq := 0, entry := e.id, elems := [n], win := extWin a.toNat } cap)).modLaunch e.iss.launch
        fun la => { la with escaped := true })

/-- Element n written to the destination (R267, R268). -/
def State.copyPut (s : State) (e : Entry) (c : Copy) (core n code : Nat) : Except EngErr State :=
  if c.outside c.dst (c.dstBit n) then .error { code := 0x13, d0 := c.dst.detail (c.dstBit n) }
  else if c.putPeer n then s.sendElem e c.dst (c.dstBit n) n (if c.dst.w = 4 then 464 else 232 / c.dst.bytes)
  else s.writeElem (c.mover e core c.dfmt) c.dst (c.dstBit n) code

/-- A link has room for one more flit: in its replay buffer, and a receive credit of the far end (R368). -/
def State.linkRoom (s : State) (d : Endpoint) (bit : Int) : Bool :=
  match s.linkFor (d.byteOf bit).toNat with
  | some k => decide ((s.link k).replay.length < 2048) && decide (0 < (s.link k).credit)
  | none => true

/-- The byte barrier's home can take a step. -/
def State.barReady (s : State) (i : Issuer) (p : DWord) : Bool :=
  p = 0 || match s.engPlace i.thr p (ptrOff p) 16 with
    | .ok a => s.reach a
    | .error _ => true

/-- The source of element n can be read: at a peer once it has answered, or where the access fails at once (R366, R369). -/
def State.srcReady (s : State) (e : Entry) (c : Copy) (core n : Nat) : Bool :=
  let a := c.src.byteOf (c.srcBit n)
  if c.getPeer n then
    (c.answer n).isSome || !(s.launch e.iss.launch).coversExt a c.src.bytes || s.peerLost (extPkg a.toNat)
  else s.elemReady (c.mover e core c.sfmt) c.src (c.srcBit n) false

/-- Both homes of element n can be reached, and the byte barrier's. -/
def State.copyReady (s : State) (e : Entry) (c : Copy) (core n : Nat) : Bool :=
  s.srcReady e c core n && s.elemReady (c.mover e core c.dfmt) c.dst (c.dstBit n) true &&
    s.barReady e.iss c.bbar && (!c.putPeer n || s.linkRoom c.dst (c.dstBit n))

/-- A peer is asked for an element of the source, once (R366, R368, log entry 153). -/
def State.askPeer (s : State) (core q : Nat) (e : Entry) (c : Copy) (n : Nat) : State :=
  let a := c.src.byteOf (c.srcBit n)
  if !c.getPeer n ∨ c.asked.contains n ∨ !(s.launch e.iss.launch).coversExt a c.src.bytes ∨ !s.linkRoom c.src (c.srcBit n) then s
  else match s.linkFor a.toNat with
    | none => s
    | some k =>
      (s.setLink k ((s.link k).send { seq := 0, entry := e.id, elems := [n], win := extWin a.toNat, read := true } 1)).putEntry core q
        { e with work := .copy { c with asked := n :: c.asked } }

/-- The destination page of an element waits for its snapshot copy (R112). -/
def State.askCopy (s : State) (e : Entry) (c : Copy) (core n : Nat) : State :=
  let m := c.mover e core c.dfmt
  let bit := c.dstBit n
  if c.dkind ≠ 0 then s
  else match s.engAddr m.acc (c.dst.byteOf bit) c.dst.bytes true with
    | .ok _ => if (s.launch e.iss.launch).mustCopy (c.dst.byteOf bit) then s.wantCopy e.iss.launch (c.dst.byteOf bit) else s
    | .error _ => s

/-- Bytes counted once n elements have landed (R272): the chunk with the last element carries the remainder. -/
def Copy.bytesAt (c : Copy) (n : Nat) : Nat := if n = c.total then (n * c.dst.w + 7) / 8 else n * c.dst.w / 8

/-- Landed elements are counted against the byte barrier (R246, R272): the entry as it stands in its queue, then at most one BAR_BOUND record
of the request. -/
def State.landed (s : State) (core q : Nat) (e : Entry) (c : Copy) : State :=
  let due := c.bytesAt c.landed - c.counted
  let c' : Copy := { c with counted := c.bytesAt c.landed }
  if c.bbar = 0 ∨ due = 0 then s.putEntry core q { e with work := .copy c' }
  else match s.engPlace e.iss.thr c.bbar (ptrOff c.bbar) 16 with
    | .error _ => s.putEntry core q { e with work := .copy c' }
    | .ok a =>
      let (s, bad) := s.objCount a due
      let s := s.putEntry core q { e with work := .copy { c' with barRec := c.barRec || bad } }
      if bad && !c.barRec then s.engineFault e.iss 0x04 c.bbar.toNat 5 else s

/-- The queue has been served (R276). -/
def State.tookTurn (s : State) (core q : Nat) : State := s.setCore core { s.core core with served := q }

/-- A request of a launch with no share waits while one of a launch with a share is ready in its cluster (R276). -/
def State.shareOk (s : State) (core : Nat) (e : Entry) : Bool :=
  (s.launch e.iss.launch).region.copyshare ≠ 0 ||
    !((List.range 6).any fun i => ((s.core (clusterOf core * 6 + i)).copyQ).any fun q => match activeCopy q with
      | some (f, c) => (f.begun || s.mayBegin f.iss) && decide ((s.launch f.iss.launch).region.copyshare ≠ 0) && decide (c.next < c.total)
      | none => false)

/-- A context with the format table that an MLD latched at its issue (R193). -/
def Mld.table (m : Mld) : Ctx := { fmt := m.fmts }

/-- Bytes of elements that a cluster's engines have begun and not yet performed: those sent to peers, those asked of them, and those of a tile
that are read and not written (R351). -/
def State.outstandingBytes (s : State) (cl : Nat) : Nat :=
  ((List.range 6).flatMap fun i => ((s.core (cl * 6 + i)).copyQ.flatten).map fun e => match e.work with
    | .copy c => (c.next - c.landed) * c.dst.w / 8 + c.asked.length * c.src.w / 8
    | .mld m => match m.tile with
      | some (md, l) => l.length * Desc.container (m.table.entry md.fmt) / 8
      | none => 0
    | _ => 0).sum

/-- The elements of block n, in loop order (R270). -/
def Copy.block (c : Copy) (n : Nat) : List Nat :=
  let nx := (c.bound 0 + 63) / 64
  let ny := (c.bound 1 + 63) / 64
  let x := n % nx
  let y := n / nx % ny
  let o := n / (nx * ny)
  (List.range (min 64 (c.bound 1 - 64 * y))).flatMap fun j => (List.range (min 64 (c.bound 0 - 64 * x))).map fun i =>
    64 * x + i + c.bound 0 * (64 * y + j + c.bound 1 * o)

/-- Blocks that `next` elements make: the transposer counts whole blocks. -/
def Copy.blocksDone (c : Copy) : Nat → Nat → Nat → Nat
  | 0, n, _ => n
  | k + 1, n, left => if left = 0 then n else c.blocksDone k (n + 1) (left - (c.block n).length)

/-- The elements that a request performs next: one, or a block of the transposer. -/
def Copy.due (c : Copy) : List Nat :=
  if c.total ≤ c.next then [] else if c.tr && decide (c.red = 0) then c.block (c.blocksDone c.next 0 c.next) else [c.next]

/-- The request that a queue may work on now: no element begins at the limit on outstanding bytes (R351), the last of a block no more than the
first. -/
def State.workFor (s : State) (core q : Nat) : Option (Entry × Copy) :=
  match activeCopy ((s.core core).copyQ.getD q []) with
  | none => none
  | some (e, c) =>
    if s.runs (dieOfCore core) && (e.begun || s.mayBegin e.iss) && s.shareOk core e &&
        decide (s.outstandingBytes (clusterOf core) + (c.due.length - 1) * c.dst.w / 8 < s.copyLimit) then
      some ({ e with begun := true }, { c with started := some (c.started.getD s.refTimer) })
    else none

/-- A queue has elements that can be performed now. -/
def State.canServe (s : State) (core q : Nat) : Bool :=
  match s.workFor core q with
  | none => false
  | some (e, c) => !c.due.isEmpty && c.due.all (s.copyReady e c core)

/-- The queues that are served before a queue, after the one served last (R276). -/
def queuesBefore (served q : Nat) : List Nat := (List.range 4).filter fun p => decide ((p + 3 - served) % 4 < (q + 3 - served) % 4)

/-- The request of a queue that may perform its next elements now: the four queues of a core are served round-robin, an element or block each
(R276, log entry 154). -/
def State.workOn (s : State) (core q : Nat) : Option (Entry × Copy) :=
  if (queuesBefore (s.core core).served q).any (s.canServe core) then none else s.workFor core q

/-- The element that a peer still owes is asked for, and a page that has to be copied first is copied. -/
def State.askFor (s : State) (core q : Nat) (e : Entry) (c : Copy) (n : Nat) : State := (s.askCopy e c core n).askPeer core q e c n

/-- A request moves on by some elements: those written here have landed, those sent to peers land as they are acknowledged. -/
def Copy.moved (c : Copy) (ns : List Nat) : Copy :=
  { c with next := c.next + ns.length, landed := c.landed + (ns.filter fun n => !c.putPeer n).length,
           asked := c.asked.filter fun n => !ns.contains n, got := c.got.filter fun p => !ns.contains p.1 }

/-- One element read, converted and written. A failing element leaves what its reads have corrected and counted (R318, R324). -/
def State.copyOne (s : State) (e : Entry) (c : Copy) (core n : Nat) : Except (State × EngErr) State :=
  match s.copyRead e c core n with
  | .error x => .error (s, x)
  | .ok (t, raw) => match s.copyConvert e c n raw with
    | .error x => .error (t, x)
    | .ok code => match t.copyPut e c core n code with
      | .error x => .error (t, x)
      | .ok u => .ok u

/-- COPY_ELEMENT (R265, R266, R268). -/
def execCopyElement (core q : Nat) (s : State) : Out :=
  match s.workOn core q with
  | none => .next s
  | some (e, c) =>
    if c.tr ∨ c.red ≠ 0 ∨ c.total ≤ c.next then .next s
    else if !s.copyReady e c core c.next then .next (s.askFor core q e c c.next)
    else match s.copyOne e c core c.next with
      | .error (t, x) => .next (s.failAt t core q e c c.next x)
      | .ok t => .next ((t.landed core q e (c.moved [c.next])).tookTurn core q)

/-! ## The transposer (R270) -/

/-- The codes of some elements, as the destination takes them; or where and why a read fails. -/
def State.copyCodes (s : State) (e : Entry) (c : Copy) (core : Nat) : List Nat → Except (State × EngErr) (State × List Nat)
  | [] => .ok (s, [])
  | n :: ns => match s.copyRead e c core n with
    | .error x => .error (s, x)
    | .ok (t, raw) => match s.copyConvert e c n raw with
      | .error x => .error (t, x)
      | .ok v => match t.copyCodes e c core ns with
        | .error x => .error x
        | .ok (t, vs) => .ok (t, v :: vs)

def State.copyPuts (s : State) (e : Entry) (c : Copy) (core : Nat) : List (Nat × Nat) → Except EngErr State
  | [] => .ok s
  | (n, v) :: r => match s.copyPut e c core n v with
    | .error x => .error x
    | .ok s => s.copyPuts e c core r

/-- A block read and written: one that fails performs none of its elements, and leaves what its reads have corrected and counted (R270, R318,
R324). -/
def State.copyBlock (s : State) (e : Entry) (c : Copy) (core : Nat) (b : List Nat) : Except (State × EngErr) State :=
  match s.copyCodes e c core b with
  | .error x => .error x
  | .ok (t, vs) => match t.copyPuts e c core (b.zip vs) with
    | .error x => .error (t, x)
    | .ok u => .ok u

/-- TRANSPOSER_BLOCK (R270): a block is read and checked whole, then lands together. -/
def execTransposerBlock (core q : Nat) (s : State) : Out :=
  match s.workOn core q with
  | none => .next s
  | some (e, c) =>
    if !c.tr ∨ c.red ≠ 0 ∨ c.total ≤ c.next then .next s
    else
      let b := c.due
      match b.find? fun n => !s.copyReady e c core n with
      | some n => .next (s.askFor core q e c n)
      | none =>
        match s.copyBlock e c core b with
        | .error (t, x) => .next (s.failAt t core q e c (b.headD 0) x)
        | .ok t => .next ((t.landed core q e (c.moved b)).tookTurn core q)

/-! ## Reductions (R271) -/

/-- The reduce operations: 1 add, 2 min, 3 max of two's complement words, 4 add, 5 min, 6 max of FP32. -/
def redOp (op : Nat) (old x : Word) : Word :=
  match op with
  | 1 => old + x
  | 2 => sMin old x
  | 3 => sMax old x
  | 4 => (opFadd old x).1
  | 5 => fpick false old x
  | _ => fpick true old x

/-- One element combined at its home, as one step of the location's write order. -/
def State.reduceAt (s : State) (e : Entry) (c : Copy) (core n x : Nat) : Except EngErr State :=
  let bit := c.dstBit n
  let d0 := c.dst.detail bit
  let m := c.mover e core c.dfmt
  let comb (old : Nat) : Nat := (redOp c.red (.ofNat 32 old) (.ofNat 32 x)).toNat
  if c.outside c.dst bit then .error { code := 0x13, d0 := d0 }
  else if c.dkind = 0 then
    match s.engAddr m.acc (c.dst.byteOf bit) 4 true with
    | .error e => .error e
    | .ok (t, pa, key) => match t.mainRd pa 4 key c.atag with
      | .error f => .error (memErr d0 f)
      | .ok (t, bs) => t.engWr m.acc (c.dst.byteOf bit) (bytesOf 4 (comb (ofBytes bs)))
  else match s.engPlace m.thr (.ofNat 64 c.dstBase) (c.dst.byteOf bit) 4 with
    | .error (code, _) => .error { code := code, d0 := d0 }
    | .ok a => .ok (s.homeWr a (bytesOf 4 (comb (s.rdNat a 4))))

/-- One element read and combined. -/
def State.reduceOne (s : State) (e : Entry) (c : Copy) (core n : Nat) : Except (State × EngErr) State :=
  match s.copyRead e c core n with
  | .error x => .error (s, x)
  | .ok (t, raw) => match t.reduceAt e c core n raw with
    | .error x => .error (t, x)
    | .ok u => .ok u

/-- REDUCTION_ELEMENT (R271). -/
def execReductionElement (core q : Nat) (s : State) : Out :=
  match s.workOn core q with
  | none => .next s
  | some (e, c) =>
    if c.red = 0 ∨ c.total ≤ c.next then .next s
    else if !s.copyReady e c core c.next then .next (s.askFor core q e c c.next)
    else match s.reduceOne e c core c.next with
      | .error (t, x) => .next (t.failCopy core q e c c.next x)
      | .ok t => .next ((t.landed core q e (c.moved [c.next])).tookTurn core q)

/-! ## Completion (R273 to R275) -/

/-- The stamp as an element write of its kind: its page's key slot, the request's atag, no format and no tensor (R274). -/
def Copy.stampMover (c : Copy) (e : Entry) (core : Nat) : Mover :=
  { acc := { l := e.iss.launch, unit := copyUnit (clusterOf core), die := dieOfCore core, tag := c.fld 159 156, anyFmt := true },
    thr := e.iss.thr, core := core }

def Copy.stampEnd (c : Copy) : Endpoint := { kind := c.stkind, base := c.stamp, w := 64 }

/-- The stamp is written, or sent to a peer, whose acknowledgement completes it. -/
def State.writeStamp (s : State) (core q : Nat) (e : Entry) (c : Copy) : State :=
  let m := c.stampMover e core
  let d := c.stampEnd
  if c.stkind = 3 ∧ extTarget c.stamp ≠ 0 then
    if !s.elemReady m d 0 true || !s.linkRoom d 0 then s
    else match s.sendElem e d 0 c.total 1 with
      | .error x => s.failCopy core q e c c.total x
      | .ok t => t.putEntry core q { e with begun := true, work := .copy { c with next := c.total + 1 } }
  else if !s.elemReady m d 0 true then
    (if c.stkind = 0 ∧ (s.launch e.iss.launch).mustCopy (d.byteOf 0) then s.wantCopy e.iss.launch (d.byteOf 0) else s)
  else match s.writeElem m d 0 c.stampval with
    | .error x => s.failCopy core q e c c.total x
    | .ok t => t.putEntry core q { e with begun := true, work := .copy { c with stamped := true } }

/-- The tag is set, the completion counted, and the entry leaves its queue (R273, R281). -/
def State.endCopy (s : State) (core q : Nat) (e : Entry) (c : Copy) : State :=
  let g := e.iss.thr.g
  let s := s.dropEntry core q e.id
  let s := s.modGroup g fun gr => { gr with done := gr.done.modify q (· + 1) }
  let s := s.monitor core (s.launch e.iss.launch).ctx 1 (s.cycles (clusterOf core) - e.at0)
  (s.setTag g c.tag).queuesMoved core

/-- COPY_COMPLETE (R275): first the stamp, then the tag. -/
def execCopyComplete (core q : Nat) (s : State) : Out :=
  match (s.core core).copyQ.getD q [] with
  | [] => .next s
  | e :: _ => match e.work with
    | .copy c =>
      if c.landed < c.total ∨ !s.runs (dieOfCore core) ∨ !(e.begun || s.mayBegin e.iss) then .next s
      else if c.stamp ≠ 0 ∧ !c.stamped then (if c.total < c.next then .next s else .next (s.writeStamp core q e c))
      else .next (s.endCopy core q e c)
    | _ => .next s

/-! ## COPY instructions (R278 to R281) -/

/-- The thread's furrow is the group's producer (R262). -/
def State.isProducer (s : State) (r : TRef) : Bool := decide ((s.launchOf r.g).hdr.producer = some (r.t / 32))

/-- CKICK (R279). -/
def execCkick (sw : Bool) (q : BitVec 2) (a n : BitVec 7) (s : State) : Out :=
  runSheaf { sw := sw, reads := [f2 a], access := true } (fun s r =>
    let p := s.pair r a
    let gr := s.group r.g
    if !s.isProducer r then .fault 0x0D 0 0
    else if ptrSpace p ≠ 2 ∨ ptrOff p / 524288 ≠ 0 then .fault 0x08 p.toNat 6
    else if ptrOff p % 128 ≠ 0 then .fault 0x09 p.toNat 128
    else if (s.launchOf r.g).hdr.gmem < ptrOff p + 128 * n.toNat then .fault 0x05 p.toNat 0
    else
      let x := s.core gr.core
      let l := x.kicks.getD q.toNat []
      if Config.kickRoom ≤ l.length then .stay s
      else
        let k : Kick := { id := s.fresh, iss := s.issuer r, ptr := p, n := n.toNat }
        .done (s.tick.setCore gr.core { x with kicks := x.kicks.set q.toNat (l ++ [k]) })) s

/-- CTAGW (R280). -/
def tagWait (all : Bool) (sw : Bool) (a : BitVec 7) (h : BitVec 1) (s : State) : Out :=
  runSheaf { sw := sw, reads := [f1 a] } (fun s r =>
    let m := s.reg r a
    if tagsHold all (s.group r.g).tags h.toNat m then .done (s.observe r) else .done (s.waitOn r (.tags all h.toNat m))) s

def execCtagwAny (sw : Bool) (a : BitVec 7) (h : BitVec 1) (s : State) : Out := tagWait false sw a h s
def execCtagwAll (sw : Bool) (a : BitVec 7) (h : BitVec 1) (s : State) : Out := tagWait true sw a h s

/-- The position of the lowest set bit of a word, or 32. -/
def lowestBit (n : Nat) : Nat := ((List.range 32).find? n.testBit).getD 32

/-- CTAGFF (R280). -/
def execCtagff (sw : Bool) (d a : BitVec 7) (h : BitVec 1) (s : State) : Out :=
  runSheaf { sw := sw, reads := [f1 a], writes := [f1 d], var := true } (fun s r =>
    let m := bits (s.group r.g).tags.toNat (32 * h.toNat + 31) (32 * h.toNat) &&& (s.reg r a).toNat
    let s := if m = 0 then s else s.observe r
    .done (s.issueVal r d 1 (if m = 0 then 64 else 32 * h.toNat + lowestBit m))) s

/-- CTAGCLR (R280). -/
def execCtagclr (sw : Bool) (a : BitVec 7) (h : BitVec 1) (s : State) : Out :=
  runSheaf { sw := sw, reads := [f1 a] } (fun s r =>
    let m : BitVec 64 := .ofNat 64 ((s.reg r a).toNat * 2 ^ (32 * h.toNat))
    .done (s.modGroup r.g fun gr => { gr with tags := gr.tags &&& ~~~m })) s

/-- CSTAT (R281). -/
def execCstat (sw : Bool) (d : BitVec 7) (q : BitVec 2) (s : State) : Out :=
  runSheaf { sw := sw, writes := [f1 d], var := true } (fun s r =>
    let gr := s.group r.g
    let x := s.core gr.core
    let kicks := ((x.kicks.getD q.toNat []).filter fun k => k.iss.thr.g = r.g).length
    let queued := ((x.copyQ.getD q.toNat []).filter fun e => e.iss.thr.g = r.g && match e.work with
      | .copy _ => true
      | _ => false).length
    .done (s.issueVal r d 1 (gr.done.getD q.toNat 0 % 2 ^ 16 * 2 ^ 16 + kicks * 2 ^ 8 + queued))) s

end Sys2Proof.Machine
end

