-- ==== Sys2Proof/Machine/Matrix.lean ====
section
/-! DEFINITION. Matrix operations on stack pairs (R282 to R308): claims, slots and their metadata, the arithmetic of MMA and its checksums,
HAD, MQNT, MSTORE, and the Harrow's tile loads. -/

namespace Sys2Proof.Machine

/-! ## Slots and accumulators (R282, R283, R285) -/

def State.acc (s : State) (core n : Nat) : Acc := (s.stack (stackOf core)).accs.getD n {}

def State.setAcc (s : State) (core n : Nat) (a : Acc) : State :=
  let k := s.stack (stackOf core)
  s.setStack (stackOf core) { k with accs := k.accs.set n a }

/-- The group holds it: one that it is releasing stays Held until the entries that name it have ended (R283). -/
def holds (g : Nat) : Option Holder → Bool
  | some h => decide (h.g = g)
  | none => false

/-- The group holds it and is not releasing it. -/
def keeps (g : Nat) : Option Holder → Bool
  | some h => decide (h.g = g) && !h.releasing
  | none => false

def State.slot (s : State) (c i : Nat) : Slot := tget {} (s.core c).slots i

/-- A slot or accumulator that the group may not use: detail1 of SLOT_OWNER (R282). -/
def State.slotOwner (s : State) (g i : Nat) (cs : List Nat) : Option Nat :=
  if cs.all fun c => s.slotUsable g c i then none else some i
def State.accOwner (s : State) (g core n : Nat) : Option Nat :=
  if holds g (s.acc core n).holder then none else some (0x20 + n)

/-- The code of element x of a slot in containers of w bits (R285). -/
def State.slotCode (s : State) (c i w x : Nat) : Nat :=
  if w = 4 then let b := (s.rd (slotAddr c i (x / 2))).toNat; if x % 2 = 0 then b % 16 else b / 16
  else s.rdNat (slotAddr c i (x * (w / 8))) (w / 8)

def State.putSlotCode (s : State) (c i w x code : Nat) : State :=
  if w = 4 then
    let a := slotAddr c i (x / 2)
    s.wr a (mergeNib (s.rd a) (.ofNat 8 (if x % 2 = 0 then code else 16 * code)) (1 + x % 2))
  else s.wrs (slotAddr c i (x * (w / 8))) (bytesOf (w / 8) code)

def scaleTail : Nat := 31744

/-- The scale code of line r and block b of a slot with blocks of g (R285). -/
def State.scaleCode (s : State) (c i g r b : Nat) : Nat := (s.rd (slotAddr c i (scaleTail + r * (256 / g) + b))).toNat
def State.putScale (s : State) (c i g r b code : Nat) : State := s.wr (slotAddr c i (scaleTail + r * (256 / g) + b)) (.ofNat 8 code)

/-- Containers that a slot refuses (R285). -/
def slotRefuses (d : Desc) (geom : Nat) : Bool :=
  decide (16 < Desc.container d) || decide (Desc.w d = 56) || (decide (Desc.container d = 16) && decide (geom ≠ 0))

/-- The metadata of a slot and the descriptors it names, latched at issue (R193, R284). -/
def State.latch (s : State) (ctx c i : Nat) : SlotLatch :=
  let md := (s.slot c i).md
  let x := s.fmtCtx ctx (dieOfCore c)
  { md := md, ed := x.entry md.fmt, sd := x.entry md.sfmt }

/-! ## Exact sums kept as fractions: denominator 0 stands for what is not finite -/

def Val.toFrac : Val → Int × Nat
  | .nan => (0, 0)
  | .inf n => (if n then -1 else 1, 0)
  | .fin n a b => (if n then -a else a, b)

def Val.ofFrac (p : Int × Nat) : Val :=
  if p.2 = 0 then (if p.1 = 0 then .nan else .inf (decide (p.1 < 0))) else .fin (decide (p.1 < 0)) p.1.natAbs p.2

def Val.isFin : Val → Bool
  | .fin _ _ _ => true
  | _ => false

def valZero : Val := .fin false 0 1
def valOne : Val := .fin false 1 1
def Val.plus (x y : Val) : Val := (x.add y).1
def Val.times (x y : Val) : Val := (x.mul y).1
def valSum (l : List Val) : Val := l.foldl Val.plus valZero
def valA56 (c : Nat) : Val := dA56.value c

/-! ## Operands of an MMA (R287 to R292) -/

/-- A line cut into its blocks, with the scale of each. -/
structure MLine where
  blocks : List (List Val)
  scales : List Val

def cut {α : Type} (g : Nat) : Nat → List α → List (List α)
  | 0, _ => []
  | n + 1, l => l.take g :: cut g n (l.drop g)

/-- Hn × v for n = 2^k, in Sylvester order (R292). -/
def hada : Nat → List Val → List Val
  | 0, v => v
  | k + 1, v =>
    let a := hada k (v.take (2 ^ k))
    let b := hada k (v.drop (2 ^ k))
    List.zipWith Val.plus a b ++ List.zipWith (fun x y => x.plus y.neg) a b

/-- log2 of the size that an hsize code names: 0 none, 1 16, 2 32, 3 64 (R307). -/
def hsizeLog (h : Nat) : Nat := if h = 0 then 0 else 3 + h

/-- Every aligned run of 2^k elements of a line transformed (R292, R293). -/
def hadaLine (k : Nat) (l : List Val) : List Val := if k = 0 then l else (cut (2 ^ k) (256 / 2 ^ k) l).flatMap (hada k)

/-- The values of line r of a slot. -/
def State.slotLine (s : State) (c i : Nat) (d : Desc) (r : Nat) : List Val :=
  (List.range 256).map fun k => Desc.value d (s.slotCode c i (Desc.container d) (r * 256 + k))

/-- The scales of line r of a slot, one for each block of g; 1 where the slot has no geometry. -/
def State.slotScales (s : State) (c : Nat) (l : SlotLatch) (g r : Nat) : List Val :=
  (List.range (256 / g)).map fun b => if l.md.geom = 0 then valOne else Desc.value l.sd (s.scaleCode c l.md.scslot g r b)

def State.slotLines (s : State) (c i : Nat) (l : SlotLatch) (g k : Nat) : List MLine :=
  (List.range 64).map fun r => { blocks := cut g (256 / g) (hadaLine k (s.slotLine c i l.ed r)), scales := s.slotScales c l g r }

/-- The block size of an operation (R288). -/
def mmaBlock (a b : SlotLatch) : Nat :=
  if a.md.geom ≠ 0 then geomElems a.md.geom else if b.md.geom ≠ 0 then geomElems b.md.geom else 256

/-- A summed line with scale 1 (R298). -/
def sumLine (g k : Nat) (sums : List Val) : MLine :=
  { blocks := cut g (256 / g) (hadaLine k sums), scales := List.replicate (256 / g) valOne }

/-! ## Cells (R289 to R291) -/

/-- A cell after the operation: its code, the sum of |t| of the terms that entered it, whether bits were discarded, whether the rounding
into A56 was inexact, and whether the result is not finite. -/
structure CellRes where
  code : Nat
  abs : Val := valZero
  lost : Bool := false
  nx : Bool := false

def dot (x y : List Val) : Val := (List.zipWith Val.times x y).foldl Val.plus valZero

/-- The blocks of two lines: dot product and product of the scales. -/
def blockPairs (a b : MLine) : List (Val × Val) :=
  List.zip (List.zipWith dot a.blocks b.blocks) (List.zipWith Val.times a.scales b.scales)

/-- MMA.P's cell (R289): three roundings a block. -/
def cellP (code : Nat) (a b : MLine) : CellRes :=
  (blockPairs a b).foldl (fun c p =>
    let t := val32 (rnd32 (p.1.times (val32 (rnd32 p.2).1))).1
    { code := rndA56 ((valA56 c.code).plus t), abs := c.abs.plus t.abs }) { code := code }

/-- The exponent of a scale product that is finite and not zero. -/
def Val.log2 : Val → Option Int
  | .fin _ a b => if a = 0 then none else some (floorLog a b)
  | _ => none

/-- trunc(d × 2^e) toward zero in units of 2^0, and whether bits were discarded. -/
def truncAt : Val → Int → Int × Bool
  | .fin n a b, e =>
    let p := scale2 a b e
    let q := p.1 / p.2
    (if n then -(q : Int) else q, decide (p.1 % p.2 ≠ 0))
  | _, _ => (0, false)

/-- An integer times a power of two, as a value. -/
def valScaled (t e : Int) : Val := let p := scale2 t.natAbs 1 e; .fin (decide (t < 0)) p.1 p.2

/-- One block of MMA.C: the running total in units of the window's last bit, what is not finite, the absolute sum and whether bits were
discarded. -/
structure RunC where
  total : Int := 0
  special : List Val := []
  abs : Val := valZero
  lost : Bool := false

def stepC (emax pmax : Int) (t : RunC) (p : Val × Val) : RunC :=
  if !p.1.isFin || !p.2.isFin then { t with special := t.special ++ [p.1.times p.2] }
  else match p.2.log2 with
    | none => t
    | some eb =>
      let q := truncAt p.1 (eb - emax - (pmax - 85))
      let q' : Int := if p.2.isNeg then -q.1 else q.1
      { t with total := t.total + q', lost := t.lost || q.2, abs := t.abs.plus (valScaled q.1.natAbs (pmax - 85 + emax)) }

/-- MMA.C's cell (R290): one exponent, one rounding. Bit 94 of the window weighs 2^(emax + pmax + 9), so bit 0 weighs
2^(emax + pmax − 85). -/
def cellC (emax pmax : Int) (code : Nat) (a b : MLine) : CellRes :=
  let t := (blockPairs a b).foldl (stepC emax pmax) {}
  let x := t.special.foldl Val.plus ((valA56 code).plus (valScaled t.total (pmax - 85 + emax)))
  let r := (dA56.rnd 0 0 x).getD (0, 0)
  { code := r.1, abs := t.abs, lost := t.lost, nx := r.2 &&& flagNX ≠ 0 }

/-- The larger of two optional exponents. -/
def optMax : Option Int → Option Int → Option Int
  | some a, some b => some (max a b)
  | a, none => a
  | none, b => b

/-- The largest exponent of block b's scales over some lines. -/
def topScale (ls : List MLine) (b : Nat) : Option Int :=
  (ls.map fun l => (l.scales.getD b valOne).log2).foldl optMax none

/-- emax over the rows and columns of one half (R290). -/
def halfMax (a b : List MLine) (nb : Nat) : Option Int :=
  ((List.range nb).map fun k => match topScale a k, topScale b k with
    | some x, some y => some (x + y)
    | _, _ => none).foldl optMax none

/-- The largest magnitude of an element entry. -/
def Desc.top (d : Desc) : Nat × Nat :=
  let p := Desc.limit d false
  let n := Desc.limit d true
  if fracLt p.1 p.2 n.1 n.2 then n else p

/-! ## Performing an MMA (R286 to R292, R298) -/

/-- What an operation on one accumulator is made from. -/
structure MmaIn where
  cf : Nat → MLine → MLine → CellRes
  a : List MLine
  bl : List MLine
  bf : List MLine
  sa : Option MLine
  sbl : MLine
  sbf : MLine
  stale : Bool

def cellBad (r : CellRes) : Bool := !(valA56 r.code).isFin

/-- The accumulator after an operation (R298): its cells, and its checksums unless an operand's sums are absent. -/
def Acc.mma (acc : Acc) (chained : Bool) (m : MmaIn) : Acc :=
  let cells := m.a.zipIdx.flatMap fun p => (if p.2 < 64 then m.bl else m.bf).zipIdx.map fun q =>
    (64 * p.2 + q.2, m.cf (tget 0 acc.cells (64 * p.2 + q.2)) p.1 q.1)
  let acc' : Acc := { acc with cells := (cells.map fun p => (p.1, p.2.code)).filter fun p => decide (p.2 ≠ 0),
                               modeP := acc.modeP || !chained }
  match m.sa, acc.chk with
  | none, _ => { acc' with chk := .absent }
  | _, .absent => acc'
  | some sa, old =>
    let row := m.bl.zipIdx.map fun p => m.cf (acc.row.getD p.2 0) sa p.1
    let col := m.a.zipIdx.map fun p => m.cf (acc.col.getD p.2 0) p.1 (if p.2 < 64 then m.sbl else m.sbf)
    let all := cells.map (·.2) ++ row ++ col
    let bad := all.any cellBad
    let inexact := m.stale || (chained && all.any fun r => r.lost || r.nx)
    let addAbs (old : List (Int × Nat)) (l : List CellRes) : List (Int × Nat) :=
      l.zipIdx.map fun p => ((Val.ofFrac (old.getD p.2 (0, 1))).plus p.1.abs).toFrac
    { acc' with
      row := row.map (·.code), col := col.map (·.code), rowAbs := addAbs acc.rowAbs row, colAbs := addAbs acc.colAbs col
      chk := if bad || old = .indeterminate then .indeterminate else if inexact || old = .inexact then .inexact else .exact }

/-- Scale codes of KIND 0x1 with a nonzero fraction, which MMA.C refuses when it starts (R288). -/
def State.badScale (s : State) (c : Nat) (l : SlotLatch) (g : Nat) : Option Nat :=
  if l.md.geom = 0 ∨ Desc.kind l.sd ≠ 1 then none
  else ((List.range 64).flatMap fun r => (List.range (256 / g)).map fun b => s.scaleCode c l.md.scslot g r b).find? fun code =>
    decide (code % 128 ≠ 0) && decide ((m8Fields (code % 128)).2.1 ≠ 0)

/-- The sums of a slot, if an MMA may use them. -/
def State.liveSums (s : State) (c i : Nat) (l : SlotLatch) : Option (List Val) :=
  let sl := s.slot c i
  if l.md.sums = 0 ∨ sl.md.sums = 0 ∨ sl.sums.isEmpty then none else some (sl.sums.map Val.ofFrac)

/-- An MMA at the head of M (R287): its operands as they stand, or the scale code that MMA.C refuses. -/
def State.doMma (s : State) (e : Entry) (chained had : Bool) (n ia ib : Nat) (al bl : SlotLatch) : State :=
  let c := e.iss.core
  let f := mateOf c
  let g := mmaBlock al bl
  let k := if had then hsizeLog bl.md.hsize else 0
  let bad := if chained then [s.badScale c al g, s.badScale f al g, s.badScale c bl g, s.badScale f bl g].filterMap id else []
  match bad with
  | code :: _ => s.engineFault e.iss 0x0A code 0
  | [] =>
    let aL := s.slotLines c ia al g k
    let aF := s.slotLines f ia al g k
    let bL := s.slotLines c ib bl g 0
    let bF := s.slotLines f ib bl g 0
    let emax := (optMax (halfMax aL bL (256 / g)) (halfMax aF bF (256 / g))).getD 0
    let ta := Desc.top al.ed
    let tb := Desc.top bl.ed
    let pmax := floorLog (ta.1 * tb.1) (ta.2 * tb.2)
    let sums := do
      let x ← s.liveSums c ia al
      let y ← s.liveSums f ia al
      let z ← s.liveSums c ib bl
      let w ← s.liveSums f ib bl
      return (List.zipWith Val.plus x y, z, w)
    let m : MmaIn := {
      cf := if chained then cellC emax pmax else cellP
      a := aL ++ aF, bl := bL, bf := bF
      sa := sums.map fun p => sumLine g k p.1
      sbl := sumLine g 0 ((sums.map (·.2.1)).getD []), sbf := sumLine g 0 ((sums.map (·.2.2)).getD [])
      stale := [(c, ia), (f, ia), (c, ib), (f, ib)].any fun p => (s.slot p.1 p.2).md.sums = 2 }
    s.setAcc c n ((s.acc c n).mma chained m)

/-! ## HAD (R293) -/

/-- The rounded codes of a run, or the first element that has none. -/
def roundRun (d : Desc) (mode : Nat) (h : Nat → Nat) : List (Val × Nat) → Except (Val × Nat) (List Nat)
  | [] => .ok []
  | (y, x) :: r => match Desc.rnd d mode (h x) y with
    | none => .error (y, x)
    | some (c, _) => match roundRun d mode h r with
      | .error e => .error e
      | .ok cs => .ok (c :: cs)

/-- The runs of a slot, each written once all its elements are rounded. -/
def State.hadRuns (s : State) (c i : Nat) (d : Desc) (k mode : Nat) (h : Nat → Nat) (exact : Bool) :
    List Nat → State × Bool × Option (Val × Nat)
  | [] => (s, exact, none)
  | x0 :: rest =>
    let w := Desc.container d
    let v := (List.range (2 ^ k)).map fun j => Desc.value d (s.slotCode c i w (x0 + j))
    let y := hada k v
    match roundRun d mode h (y.zipIdx x0) with
    | .error e => (s, false, some e)
    | .ok cs =>
      let s := (cs.zipIdx x0).foldl (fun s p => s.putSlotCode c i w p.2 p.1) s
      s.hadRuns c i d k mode h (exact && (List.zipWith (fun code v => (Desc.value d code).eqv v) cs y).all id) rest

/-- HAD on the slot of one core; a run's FORMAT_RANGE is what it returns. -/
def State.doHad (s : State) (e : Entry) (c i n mode : Nat) (l : SlotLatch) : State × Option (Val × Nat) :=
  let k := 4 + n
  let t := s.refTimer
  let (s', exact, err) := s.hadRuns c i l.ed k mode (fun x => s.hOf e.iss.thr e.iss.pc t x) true
    ((List.range (64 * 256 / 2 ^ k)).map (· * 2 ^ k))
  let done (sl : Slot) : Slot :=
    if sl.md.sums = 0 then sl
    else if err.isSome then { sl with md := { sl.md with sums := 2 } }
    else { sl with md := { sl.md with sums := if exact then sl.md.sums else 2 },
                   sums := (hadaLine k (sl.sums.map Val.ofFrac)).map Val.toFrac }
  (s'.setSlot c i done, err)

/-! ## MQNT and MSTORE (R294, R295) -/

/-- The exponent of a block's scale (R294). -/
def scaleExp (fd sd : Desc) (vs : List Val) : Int :=
  let amax := vs.foldl (fun m v => match v with
    | .fin _ a b => if fracLt m.1 m.2 a b then (a, b) else m
    | _ => m) (0, 1)
  let top := Desc.limit fd false
  let e : Int := if amax.1 = 0 then 0 else floorLog amax.1 amax.2 - floorLog top.1 top.2
  let lo : Int := if Desc.kind sd = 1 then -15 else -Desc.bias sd
  let hi : Int := if Desc.kind sd = 1 then 15 else Desc.maxCode sd - Desc.bias sd
  max lo (min hi e)

def scaleOf (sd : Desc) (e : Int) : Nat := if Desc.kind sd = 1 then m8Code e 0 else (e + Desc.bias sd).toNat

/-- Elements of a row written to a slot, up to the first that has no code. -/
def State.quantElems (s : State) (c slot r : Nat) (d : Desc) (mode : Nat) (h : Nat → Nat) (e : Int) :
    List (Nat × Nat × Nat) → State × Option (Nat × Nat)
  | [] => (s, none)
  | (k, x, code) :: rest =>
    match Desc.rnd d mode (h x) ((valA56 code).times (valScaled 1 (-e))) with
    | none => (s, some (code, x))
    | some (v, _) => (s.putSlotCode c slot (Desc.container d) (r * 256 + k) v).quantElems c slot r d mode h e rest

/-- Blocks in row-major order: (row, first column). -/
def State.quantBlocks (s : State) (core slot q : Nat) (l : SlotLatch) (mode : Nat) (h : Nat → Nat) (acc : Acc) (g : Nat) :
    List (Nat × Nat) → State × Option (Nat × Nat)
  | [] => (s, none)
  | (i, j0) :: rest =>
    let c := if i < 64 then core else mateOf core
    let r := i % 64
    let codes := (List.range g).map fun j => (64 * q + j0 + j, 64 * i + j0 + j, tget 0 acc.cells (64 * i + j0 + j))
    let e := if l.md.geom = 0 then 0 else scaleExp l.ed l.sd (codes.map fun p => valA56 p.2.2)
    let s := if l.md.geom = 0 then s else s.putScale c slot g r ((64 * q + j0) / g) (scaleOf l.sd e)
    match s.quantElems c slot r l.ed mode h e codes with
    | (s, some f) => (s, some f)
    | (s, none) => s.quantBlocks core slot q l mode h acc g rest

def State.doMqnt (s : State) (e : Entry) (n mode q slot : Nat) (l : SlotLatch) : State × Option (Nat × Nat) :=
  let g := if l.md.geom = 0 then 64 else geomElems l.md.geom
  let t := s.refTimer
  s.quantBlocks e.iss.core slot q l mode (fun x => s.hOf e.iss.thr e.iss.pc t x) (s.acc e.iss.core n) g
    ((List.range 128).flatMap fun i => (List.range (64 / g)).map fun b => (i, b * g))

/-- The container of an entry in MSTORE, in bits: 8 bytes for A56 (R295). -/
def storeWidth (d : Desc) : Nat := if Desc.w d = 56 then 64 else Desc.container d

/-- The elements of an accumulator rounded and written in row-major order, up to the first that fails. -/
def State.storeElems (s : State) (e : Entry) (d : Desc) (mode t : Nat) (acc : Acc) (ptr : DWord) : List Nat → State × Option (Nat × Nat × Nat)
  | [] => (s, none)
  | x :: rest =>
    let code := tget 0 acc.cells x
    let w := storeWidth d
    match Desc.rnd d mode (s.hOf e.iss.thr e.iss.pc t x) (valA56 code) with
    | none => (s, some (0x0B, code, x))
    | some (v, _) =>
      match s.engWhere e.iss.thr ptr (ptrOff ptr + x * w / 8) (max 1 (w / 8)) true with
      | .error (f, _) => (s, some (f, code, x))
      | .ok a => (s.homeWr a (patched s a (if w = 4 then 1 + x % 2 else 0) v (w / 8))).storeElems e d mode t acc ptr rest

/-- The bytes of a slot written, up to the first that fails. -/
def State.storeSlot (s : State) (e : Entry) (slot : Nat) (ptr : DWord) : List Nat → State × Option (Nat × Nat × Nat)
  | [] => (s, none)
  | x :: rest =>
    let b := s.rd (slotAddr e.iss.core slot x)
    match s.engWhere e.iss.thr ptr (ptrOff ptr + x) 1 true with
    | .error (f, _) => (s, some (f, b.toNat, x))
    | .ok a => (s.homeWr a [b]).storeSlot e slot ptr rest

/-- Every home that n bytes from a pointer touch can be written now. -/
def State.storeReady (s : State) (e : Entry) (ptr : DWord) (n : Nat) : Bool :=
  (List.range ((n + 15) / 16 + 1)).all fun k =>
    match s.engWhere e.iss.thr ptr (ptrOff ptr + min (16 * k) (n - 1)) 1 true with
    | .ok a => s.reach a
    | .error _ => true

/-! ## MCHK (R299) -/

/-- |x − y| ≤ tol for exact values. -/
def Val.near (x y tol : Val) : Bool := !(tol.lt ((x.plus y.neg).abs))

/-- The first of the comparisons that fails, in index order. -/
def Acc.mismatch (a : Acc) : Option Nat :=
  let cell (i j : Nat) : Val := valA56 (tget 0 a.cells (64 * i + j))
  let tol (p : Int × Nat) : Val := if a.modeP then (Val.ofFrac p).times (valScaled 1 (-21)) else valZero
  let cols := (List.range 64).map fun j => (valSum ((List.range 128).map fun i => cell i j)).near (valA56 (a.row.getD j 0)) (tol (a.rowAbs.getD j (0, 1)))
  let rows := (List.range 128).map fun i => (valSum ((List.range 64).map fun j => cell i j)).near (valA56 (a.col.getD i 0)) (tol (a.colAbs.getD i (0, 1)))
  (List.range 192).find? fun k => !(cols ++ rows).getD k true

/-- The word of MCHK and the mismatch's index. -/
def Acc.check (a : Acc) : Nat × Option Nat :=
  match a.chk with
  | .absent => (3, none)
  | .indeterminate => (2, none)
  | c =>
    if c = .inexact ∧ !a.modeP then (2, none)
    else match a.mismatch with
      | none => (0, none)
      | some k => (k * 2 ^ 16 + 1, some k)

/-! ## M_ENTRY_PERFORM (R286, R304) -/

/-- The effect of a matrix entry; M_ENTRY_PERFORM takes it out of the queue first. -/
def State.doMat (s : State) (e : Entry) (op : MOp) : State :=
  let c := e.iss.core
  match op with
  | .mzero n => s.setAcc c n { s.acc c n with
      cells := [], chk := .exact, modeP := false, row := [], col := [], rowAbs := [], colAbs := [] }
  | .mma ch had n ia ib al bl => s.doMma e ch had n ia ib al bl
  | .mrd n x out => s.fulfil e.iss.thr out (wordsOf 2 (tget 0 (s.acc c n).cells x))
  | .mwr n x v =>
    let a := s.acc c n
    s.setAcc c n { a with cells := if v = 0 then a.cells.filter (fun p => p.1 ≠ x) else tset a.cells x v, chk := .absent }
  | .mstore n mode _ d ptr => match s.storeElems e d mode s.refTimer (s.acc c n) ptr (List.range 8192) with
    | (s, none) => s
    | (s, some (f, d0, d1)) => s.engineFault e.iss f d0 d1
  | .mstoreS slot ptr => match s.storeSlot e slot ptr (List.range 32768) with
    | (s, none) => s
    | (s, some (f, d0, d1)) => s.engineFault e.iss f d0 d1
  | .mqnt n mode q slot l => match s.doMqnt e n mode q slot l with
    | (s, none) => s
    | (s, some (d0, d1)) => s.engineFault e.iss 0x0B d0 d1
  | .had pair mode n slot l lm =>
    match s.doHad e c slot n mode l with
    | (s, some (y, x)) => s.engineFault e.iss 0x0B (rndA56 y) x
    | (s, none) =>
      if !pair then s
      else match s.doHad e (mateOf c) slot n mode lm with
        | (s, some (y, x)) => s.engineFault e.iss 0x0B (rndA56 y) x
        | (s, none) => s
  | .mchk n out =>
    let r := (s.acc c n).check
    let s := s.fulfil e.iss.thr out [.ofNat 32 r.1]
    match r.2 with
    | none => s
    | some k => s.engineFault e.iss 0x18 n k

/-- An entry's destination can be reached. -/
def State.matReady (s : State) (e : Entry) : MOp → Bool
  | .mstore _ _ _ d ptr => s.storeReady e ptr (8192 * storeWidth d / 8)
  | .mstoreS _ ptr => s.storeReady e ptr 32768
  | _ => true

/-- M_ENTRY_PERFORM (R286): the oldest entry of a stack's queue, from its beginning to its end. -/
def execMEntryPerform (stack : Nat) (s : State) : Out :=
  let k := s.stack stack
  match k.mq with
  | [] => .next s
  | e :: rest => match e.work with
    | .mat op =>
      if !s.runs (dieOfCore e.iss.core) ∨ !s.mayBegin e.iss ∨ !s.matReady e op then .next s
      else .next (((s.setStack stack { k with mq := rest }).doMat e op).queuesMoved e.iss.core)
    | _ => .next s

/-! ## The Harrow (R302, R303) -/

/-- The outer indices of an MLD (R302). -/
def outerIdx (r : Packet) (o : Nat) : Nat × Nat × Nat :=
  (o % recExt r 2, o / recExt r 2 % recExt r 3, o / (recExt r 2 * recExt r 3))

/-- The elements of a tensor that a row of it holds inside its extents. -/
def recInside (r : Packet) (i0 i1 o : Nat) : Bool :=
  let (i2, i3, i4) := outerIdx r o
  decide (i0 < recExt r 0) && decide (i1 < recExt r 1) && decide (i2 < recExt r 2) && decide (i3 < recExt r 3) && decide (i4 < recExt r 4)

/-- The byte of the scale of an element (R300). -/
def recScaleAddr (r : Packet) (g i0 i1 o : Nat) : Nat :=
  let (i2, i3, i4) := outerIdx r o
  recBase r + 256 * recScoff r + i0 / g + (recExt r 0 + g - 1) / g * (i1 + recExt r 1 * (i2 + recExt r 2 * (i3 + recExt r 3 * i4)))

/-- How the Harrow presents itself for elements or scales of a record (R314). -/
def harrowAcc (e : Entry) (r : Packet) (scale : Bool) : Access :=
  { l := e.iss.launch, unit := harrowUnit (clusterOf e.iss.core), die := dieOfCore e.iss.core, key := some (recKey r), tag := recAtag r,
    fmtOk := fun f g => if scale then f = recSfmt r && g = 0 else f = recFmt r && g = recGeom r }

/-- One element of a tile and, at the start of a block, its scale, as they are read; 0 beyond an extent. A scale that fails leaves what the
element's read has corrected and counted (R318, R324). -/
def State.mldElem (s : State) (e : Entry) (m : Mld) (rec? : Option (Packet × Nat)) (w geom k : Nat) :
    Except (State × EngErr) (State × Nat × Option Nat) :=
  let g := geomElems geom
  let i0 := 256 * m.k0 + k
  let starts := decide (geom ≠ 0) && decide (k % g = 0)
  let zero : State × Nat × Option Nat := (s, 0, if starts then some 0 else none)
  match rec? with
  | none => .ok zero
  | some (r, i1) =>
    if !recInside r i0 i1 m.outer then .ok zero
    else
      let (i2, i3, i4) := outerIdx r m.outer
      let bit := recBit r w i0 i1 i2 i3 i4
      match s.engRd (harrowAcc e r false) (bit / 8 : Nat) (max 1 (w / 8)) with
      | .error x => .error (s, x)
      | .ok (s, bs) =>
        let v := ofBytes bs
        let code := if w = 4 then (if bit / 4 % 2 = 0 then v % 16 else v / 16) else v
        if starts then match s.engRd (harrowAcc e r true) (recScaleAddr r g i0 i1 m.outer : Nat) 1 with
          | .error x => .error (s, x)
          | .ok (s, sb) => .ok (s, code, some (ofBytes sb))
        else .ok (s, code, none)

/-- What a half of a tile reads in loop order, up to the first element that fails, and that one's error and position. -/
def State.mldElems (s : State) (e : Entry) (m : Mld) (src : Nat → Option (Packet × Nat)) (w geom : Nat) (cs : List Nat) :
    List (Nat × Nat) → State × List TilePut × Option (EngErr × Nat)
  | [] => (s, [], none)
  | (r, k) :: rest =>
    match s.mldElem e m (src r) w geom k with
    | .error (s, x) => (s, [], some (x, r * 256 + k))
    | .ok (s, code, scale) =>
      let (s, l, f) := s.mldElems e m src w geom cs rest
      (s, { cores := cs, pos := r * 256 + k, code := code, scale := scale } :: l, f)

/-- An element of a tile written to the slots that take it. -/
def State.putTile (s : State) (slot w g : Nat) (p : TilePut) : State :=
  p.cores.foldl (fun s c =>
    let s := s.putSlotCode c slot w p.pos p.code
    match p.scale with
    | some v => s.putScale c slot g (p.pos / 256) (p.pos % 256 / g) v
    | none => s) s

def State.putTiles (s : State) (slot w g : Nat) (l : List TilePut) : State := l.foldl (fun s p => s.putTile slot w g p) s

/-- The halves of a tile: the cores that take them and the rows by which their lines are moved (R302). -/
def mldParts (core mode : Nat) : List (List Nat × Nat) :=
  if mode = 1 then [([core], 0), ([mateOf core], 64)] else [(mldCores core mode, 0)]

/-- The adapter records of the row groups of a tile, each read and checked (R303): the first failure stops. -/
def State.adapters (s : State) (e : Entry) (r : Packet) : List Nat → Except (State × EngErr × Nat) (State × List (Nat × Packet))
  | [] => .ok (s, [])
  | grp :: rest =>
    if recInd r ≤ grp then s.adapters e r rest
    else
      let u := harrowUnit (clusterOf e.iss.core)
      let d := dieOfCore e.iss.core
      match s.readRecord e.iss.launch u d (recBase r + 8 * grp) 8 with
      | .error (s, x) => .error (s, x, 0)
      | .ok (s, va) => match s.readRecord e.iss.launch u d va 64 with
        | .error (s, x) => .error (s, x, 0)
        | .ok (s, n) =>
          let a : Packet := .ofNat 512 n
          match s.recordBad (s.launch e.iss.launch) a 4 with
          | some d1 => .error (s, { code := 0x13, d0 := va }, d1)
          | none =>
            if recInd a ≠ 0 ∨ recFmt a ≠ recFmt r ∨ recGeom a ≠ recGeom r ∨ recSfmt a ≠ recSfmt r then .error (s, { code := 0x13, d0 := va }, 5)
            else match s.adapters e r rest with
              | .error x => .error x
              | .ok (s, l) => .ok (s, (grp, a) :: l)

/-- The record of an MLD with what its tile is read through, or why it is refused, in the state that its reads leave (R318, R324): the row
groups of an indirection with their adapters. Its entries are those latched at issue; raw elements have no checksum sums, and a scale entry is
one that decodes and is not A56, which no chapter names for scales (R167, R193, log entry 56). -/
def State.mldRecord (s : State) (e : Entry) (m : Mld) : Except (State × EngErr × Nat) (State × Packet × List (Nat × Packet)) :=
  match s.readRecord e.iss.launch (harrowUnit (clusterOf e.iss.core)) (dieOfCore e.iss.core) m.record 64 with
  | .error (s, x) => .error (s, x, 0)
  | .ok (s, n) =>
    let r : Packet := .ofNat 512 n
    match s.recordBad (s.launch e.iss.launch) r 4 with
    | some d1 => .error (s, { code := 0x13, d0 := m.record }, d1)
    | none =>
      if recInd r ≠ 0 ∧ m.row0 % 16 ≠ 0 then .error (s, { code := 0x13, d0 := m.record }, 4)
      else
        let x := m.table
        let d := x.entry (recFmt r)
        if !Desc.valid d ∨ recFmt r = 14 ∨ slotRefuses d (recGeom r) ∨ (m.ck ∧ recFmt r = 15) then
          .error (s, { code := 0x0A, d0 := m.record }, recFmt r)
        else if recGeom r ≠ 0 ∧ (!Desc.valid (x.entry (recSfmt r)) ∨ recSfmt r ∈ [13, 14, 15]) then
          .error (s, { code := 0x0A, d0 := m.record }, recSfmt r)
        else if recInd r = 0 then .ok (s, r, [])
        else
          let groups := (mldParts e.iss.core m.mode).flatMap fun p => (List.range 4).map fun i => (m.row0 + p.2) / 16 + i
          match s.adapters e r groups with
          | .error x => .error x
          | .ok (s, l) => .ok (s, r, l)

/-- The record and row that line r of a half is read from: none for code 0 (R303). -/
def mldSource (r : Packet) (ads : List (Nat × Packet)) (row : Nat) : Option (Packet × Nat) :=
  if recInd r = 0 then some (r, row)
  else (ads.find? fun p => p.1 = row / 16).map fun p => (p.2, row % 16)

/-- The exact sums of a slot's lines for each K position (R298). -/
def State.slotSums (s : State) (c i : Nat) (l : SlotLatch) : List (Int × Nat) :=
  let g := geomElems l.md.geom
  let g := if l.md.geom = 0 then 256 else g
  let lines := (List.range 64).map fun r => (s.slotLine c i l.ed r, s.slotScales c l g r)
  (List.range 256).map fun k => (valSum (lines.map fun p => (p.1.getD k valZero).times (p.2.getD (k / g) valOne))).toFrac

/-- Metadata installed in the slots of an MLD that are still its own (R284). -/
def State.installMeta (s : State) (e : Entry) (m : Mld) (md : SlotMeta) : State :=
  (mldCores e.iss.core m.mode).foldl (fun s c => s.setSlot c m.slot fun sl =>
    if sl.md.pending = some e.id then { sl with md := md, sums := [] } else sl) s

/-- What the halves of a tile read, in turn. -/
def State.mldHalves (s : State) (e : Entry) (m : Mld) (r : Packet) (ads : List (Nat × Packet)) (w : Nat) :
    List (List Nat × Nat) → State × List TilePut × Option (EngErr × Nat)
  | [] => (s, [], none)
  | (cs, off) :: rest =>
    match s.mldElems e m (fun line => mldSource r ads (m.row0 + off + line)) w (recGeom r) cs
        ((List.range 64).flatMap fun i => (List.range 256).map fun k => (i, k)) with
    | (s, l, some f) => (s, l, some f)
    | (s, l, none) =>
      let (s, l', f) := s.mldHalves e m r ads w rest
      (s, l ++ l', f)

/-- detail1 of an MLD's element fault (R268, R302). -/
def mldDetail (m : Mld) (n : Nat) : Nat := 3 * 2 ^ 58 + m.tag * 2 ^ 52 + n

/-- The oldest MLD of a cluster's C3 queues (R302). -/
def State.oldestMld (s : State) (cl : Nat) : Option (Nat × Entry × Mld) :=
  ((List.range 6).flatMap fun i => ((s.core (cl * 6 + i)).copyQ.getD 3 []).filterMap fun e => match e.work with
    | .mld m => some (cl * 6 + i, e, m)
    | _ => none).foldl (fun b x => match b with
      | some y => if x.2.1.id < y.2.1.id then some x else some y
      | none => some x) none

/-- The exact sums of the slots whose latest writer an MLD still is (R284, R298). -/
def State.mldSums (s : State) (e : Entry) (m : Mld) (md : SlotMeta) : State :=
  let x := m.table
  let l : SlotLatch := { md := md, ed := x.entry md.fmt, sd := x.entry md.sfmt }
  (mldCores e.iss.core m.mode).foldl (fun s c =>
    if (s.slot c m.slot).md.src ∧ (s.slot c m.slot).md.sums ≠ 0 then
      let v := s.slotSums c m.slot l
      s.setSlot c m.slot fun sl => { sl with sums := v }
    else s) s

/-- An MLD has written every element: its sums where it makes them, and its tag (R273, R298, R302). -/
def State.endMld (s : State) (e : Entry) (m : Mld) (md : SlotMeta) : State :=
  (if m.ck then s.mldSums e m md else s).setTag e.iss.thr.g m.tag

/-- An MLD begins: its record and metadata, then its elements up to one that fails, which ends it. Of the elements it has read, some are
written at once and the others when it ends: which, nothing fixes, so that an access between finds each old or new (R304). No element begins at
the limit on outstanding bytes, the last of the tile no more than the first (R351). -/
def State.beginMld (s0 : State) (core : Nat) (e : Entry) (m : Mld) : State :=
  match s0.mldRecord e m with
  | .error (s, x, d1) => (((s.dropEntry core 3 e.id).installMeta e m { fmt := 14, scslot := m.slot }).failEntry e.iss x d1).queuesMoved core
  | .ok (s, r, ads) =>
    let md : SlotMeta := { fmt := recFmt r, geom := recGeom r, sfmt := recSfmt r, scslot := m.slot, sums := if m.ck then 1 else 0, src := true }
    let s := s.installMeta e m md
    let w := Desc.container (m.table.entry (recFmt r))
    let g := geomElems (recGeom r)
    if s0.copyLimit ≤ s0.outstandingBytes (clusterOf core) + (16384 * (mldParts core m.mode).length - 1) * w / 8 then s0
    else match s.mldHalves e m r ads w (mldParts e.iss.core m.mode) with
    | (s, l, some (err, n)) => (((s.putTiles m.slot w g l).dropEntry core 3 e.id).failEntry e.iss err (mldDetail m n)).queuesMoved core
    | (s, l, none) =>
      let now (p : TilePut × Nat) : Bool := (Config.freeValue s.fresh).testBit p.2
      let s := s.tick.putTiles m.slot w g ((l.zipIdx.filter now).map (·.1))
      s.putEntry core 3 { e with begun := true, work := .mld { m with tile := some (md, (l.zipIdx.filter fun p => !now p).map (·.1)) } }

/-- HARROW_MLD (R302): the cluster's Harrow performs the oldest MLD once it heads its queue; no die's generator may be stopped. It begins, and
once its elements are read it ends. -/
def execHarrowMld (cl : Nat) (s : State) : Out :=
  match s.oldestMld cl with
  | none => .next s
  | some (core, e, m) =>
    if ((s.core core).copyQ.getD 3 []).head?.map (·.id) ≠ some e.id ∨ !(List.range 4).all s.runs then .next s
    else match m.tile with
      | none => if !s.mayBegin e.iss then .next s else .next (s.beginMld core e m)
      | some (md, l) =>
        let s := s.putTiles m.slot (Desc.container (m.table.entry md.fmt)) (geomElems md.geom) l
        .next (((s.dropEntry core 3 e.id).endMld e m md).queuesMoved core)

/-! ## MAT instructions (R294 to R297, R306) -/

/-- One lane of a matrix instruction: it checks and builds an entry, and waits at its counter where M is full (R286). -/
def matLane (mk : State → TRef → Nat → Except LaneRes (State × MOp)) (s : State) (r : TRef) : LaneRes :=
  let c := (s.group r.g).core
  match mk s r c with
  | .error e => e
  | .ok (t, op) =>
    let k := t.stack (stackOf c)
    if roomLeft k.mq Config.matQueue = 0 then .stay s
    else
      let e : Entry := { id := t.fresh, iss := s.issuer r, work := .mat op, at0 := t.cycles (clusterOf c) }
      let depth := Config.matQueue - roomLeft k.mq Config.matQueue + 1
      .done ((t.tick.setStack (stackOf c) { k with mq := k.mq ++ [e] }).monitor c (s.ctxOf r.g) 6 depth)

def ownedAcc (s : State) (r : TRef) (c n : Nat) (k : Except LaneRes (State × MOp)) : Except LaneRes (State × MOp) :=
  match s.accOwner r.g c n with
  | some d1 => .error (.fault 0x16 0 d1)
  | none => k

def ownedSlot (s : State) (r : TRef) (i : Nat) (cs : List Nat) (k : Except LaneRes (State × MOp)) : Except LaneRes (State × MOp) :=
  match s.slotOwner r.g i cs with
  | some d1 => .error (.fault 0x16 0 d1)
  | none => k

def execMzero (sw : Bool) (c : BitVec 2) (s : State) : Out :=
  runSheaf { sw := sw, access := true } (matLane fun s r k => ownedAcc s r k c.toNat (.ok (s, .mzero c.toNat))) s

/-- The format checks of R288 and R292 at issue: the entry at fault. -/
def mmaFault (had chained : Bool) (al af bl bf : SlotLatch) : Option Nat :=
  let elem (l : SlotLatch) : Bool := !Desc.valid l.ed || decide (2 < Desc.kind l.ed) || decide (l.md.fmt = 14) || slotRefuses l.ed l.md.geom
  let scale (l : SlotLatch) : Bool := decide (l.md.geom ≠ 0) &&
    (!Desc.valid l.sd || decide (l.md.sfmt = 14) || !([0, 1, 3].contains (Desc.kind l.sd)) || !([6, 8].contains (Desc.w l.sd)))
  let same (x y : SlotLatch) : Bool := decide (x.md = y.md)
  let chainedBad (l : SlotLatch) : Bool := chained && decide (l.md.geom ≠ 0) && !([1, 3].contains (Desc.kind l.sd))
  if elem al then some al.md.fmt
  else if elem bl then some bl.md.fmt
  else if scale al then some al.md.sfmt
  else if scale bl then some bl.md.sfmt
  else if al.md.geom ≠ 0 ∧ bl.md.geom ≠ 0 ∧ al.md.geom ≠ bl.md.geom then some al.md.fmt
  else if !same al af then some al.md.fmt
  else if !same bl bf then some bl.md.fmt
  else if chainedBad al then some al.md.sfmt
  else if chainedBad bl then some bl.md.sfmt
  else if had ∧ (bl.md.hsize = 0 ∨ mmaBlock al bl < 2 ^ hsizeLog bl.md.hsize) then some bl.md.fmt
  else none

def mma (chained : Bool) (sw : Bool) (h : BitVec 1) (c : BitVec 2) (x y : BitVec 5) (s : State) : Out :=
  runSheaf { sw := sw, access := true } (matLane fun s r k =>
    let f := mateOf k
    ownedAcc s r k c.toNat (ownedSlot s r x.toNat [k, f] (ownedSlot s r y.toNat [k, f] (
      let ctx := s.ctxOf r.g
      let al := s.latch ctx k x.toNat
      let bl := s.latch ctx k y.toNat
      match mmaFault (h = 1) chained al (s.latch ctx f x.toNat) bl (s.latch ctx f y.toNat) with
      | some e => .error (.fault 0x0A 0 e)
      | none => .ok (s, .mma chained (h = 1) c.toNat x.toNat y.toNat al bl))))) s

def execMmaP (sw : Bool) (h : BitVec 1) (c : BitVec 2) (x y : BitVec 5) (s : State) : Out := mma false sw h c x y s
def execMmaC (sw : Bool) (h : BitVec 1) (c : BitVec 2) (x y : BitVec 5) (s : State) : Out := mma true sw h c x y s

/-- MRD (R296). -/
def execMrd (sw : Bool) (d a : BitVec 7) (c : BitVec 2) (s : State) : Out :=
  runSheaf { sw := sw, reads := [f1 a], writes := [f2 d], var := true, access := true } (matLane fun s r k =>
    ownedAcc s r k c.toNat (
      let x := (s.reg r a).toNat
      if 8192 ≤ x then .error (.fault 0x16 x 0x40)
      else .ok (s.issueOut r (f2 d) .awaited, .mrd c.toNat x s.fresh))) s

/-- MWR (R296). -/
def execMwr (sw : Bool) (d a : BitVec 7) (c : BitVec 2) (s : State) : Out :=
  runSheaf { sw := sw, reads := [f1 d, f2 a], access := true } (matLane fun s r k =>
    ownedAcc s r k c.toNat (
      let x := (s.reg r d).toNat
      if 8192 ≤ x then .error (.fault 0x16 x 0x40)
      else .ok (s, .mwr c.toNat x (s.regGroup r a 2 % 2 ^ 56)))) s

/-- The checks of a store's destination at issue (R295): its space, then R197 from step 6 on at its first and last bytes. -/
def State.storeDest (s : State) (r : TRef) (p : DWord) (size len : Nat) : Option LaneRes :=
  let sp := ptrSpace p
  if sp = 0 then some (.fault 0x07 p.toNat 0)
  else if !spaceKnown sp then some (.fault 0x08 p.toNat 1)
  else if sp ≠ 2 ∧ sp ≠ 4 then some (.fault 0x08 p.toNat 6)
  else if ptrOff p % size ≠ 0 then some (.fault 0x09 p.toNat size)
  else match s.bound r p (ptrOff p) len with
    | .error (c, d1) => some (.fault c p.toNat d1)
    | .ok _ => none

/-- MSTORE (R295): entry 13 is allowed, and entries that name no value are not. -/
def execMstore (sw : Bool) (m : BitVec 3) (c : BitVec 2) (a : BitVec 7) (e : BitVec 6) (s : State) : Out :=
  runSheaf { sw := sw, reads := [f2 a], access := true } (matLane fun s r k =>
    ownedAcc s r k c.toNat (
      let d := (s.tableOf r).entry e.toNat
      let p := s.pair r a
      if !Desc.valid d ∨ e = 14 ∨ e = 15 then .error (.fault 0x0A 0 e.toNat)
      else match s.storeDest r p (max 1 (storeWidth d / 8)) (8192 * storeWidth d / 8) with
        | some f => .error f
        | none => .ok (s, .mstore c.toNat m.toNat e.toNat d p))) s

/-- MSTORE.s (R295): a slot whose entry names containers that a slot refuses is refused here too (R285). -/
def execMstoreS (sw : Bool) (x : BitVec 5) (a : BitVec 7) (s : State) : Out :=
  runSheaf { sw := sw, reads := [f2 a], access := true } (matLane fun s r k =>
    ownedSlot s r x.toNat [k] (
      let p := s.pair r a
      let l := s.latch (s.ctxOf r.g) k x.toNat
      if !Desc.valid l.ed ∨ l.md.fmt = 14 ∨ slotRefuses l.ed l.md.geom then .error (.fault 0x0A 0 l.md.fmt)
      else match s.storeDest r p 1 32768 with
        | some f => .error f
        | none => .ok (s, .mstoreS x.toNat p))) s

/-- MQNT (R294): the metadata of both slots is set at issue. -/
def execMqnt (sw : Bool) (m : BitVec 3) (c : BitVec 2) (a : BitVec 7) (q : BitVec 2) (x : BitVec 5) (s : State) : Out :=
  runSheaf { sw := sw, reads := [f1 a], access := true } (matLane fun s r k =>
    ownedAcc s r k c.toNat (ownedSlot s r x.toNat [k, mateOf k] (
      let w := (s.reg r a).toNat
      let md : SlotMeta := { fmt := bits w 5 0, geom := bits w 7 6, sfmt := if bits w 7 6 = 0 then 0 else bits w 13 8, scslot := x.toNat }
      let t := s.tableOf r
      let l : SlotLatch := { md := md, ed := t.entry md.fmt, sd := t.entry md.sfmt }
      if bits w 31 14 ≠ 0 then .error (.fault 0x0A w md.fmt)
      else if !Desc.valid l.ed ∨ 3 < Desc.kind l.ed ∨ md.fmt = 14 ∨ slotRefuses l.ed md.geom then .error (.fault 0x0A 0 md.fmt)
      else if md.geom ≠ 0 ∧ (!Desc.valid l.sd ∨ ¬ [1, 3].contains (Desc.kind l.sd)) then .error (.fault 0x0A 0 md.sfmt)
      else
        let put (s : State) (c : Nat) : State := s.setSlot c x.toNat fun sl => { sl with md := md, sums := [] }
        .ok (put (put s k) (mateOf k), .mqnt c.toNat m.toNat q.toNat x.toNat l)))) s

/-- HAD (R293): hsize is set at issue. -/
def execHad (sw : Bool) (p : BitVec 1) (m : BitVec 3) (n : BitVec 2) (x : BitVec 5) (s : State) : Out :=
  runSheaf { sw := sw, access := true } (matLane fun s r k =>
    let cs := if p = 1 then [k, mateOf k] else [k]
    ownedSlot s r x.toNat cs (
      let ctx := s.ctxOf r.g
      let l := s.latch ctx k x.toNat
      let lm := s.latch ctx (mateOf k) x.toNat
      let bad (l : SlotLatch) : Bool := !Desc.valid l.ed || decide (3 < Desc.kind l.ed) || decide (l.md.fmt = 14) ||
        slotRefuses l.ed l.md.geom || (decide (l.md.geom ≠ 0) && decide (geomElems l.md.geom < 2 ^ (4 + n.toNat)))
      if bad l then .error (.fault 0x0A 0 l.md.fmt)
      else if p = 1 ∧ bad lm then .error (.fault 0x0A 0 lm.md.fmt)
      else
        let put (s : State) (c : Nat) : State := s.setSlot c x.toNat fun sl => { sl with md := { sl.md with hsize := n.toNat + 1 } }
        .ok (cs.foldl put s, .had (p = 1) m.toNat n.toNat x.toNat l lm))) s

/-- MCHK (R299). -/
def execMchk (sw : Bool) (d : BitVec 7) (c : BitVec 2) (s : State) : Out :=
  runSheaf { sw := sw, writes := [f1 d], var := true, access := true } (matLane fun s r k =>
    ownedAcc s r k c.toNat (.ok (s.issueOut r (f1 d) .awaited, .mchk c.toNat s.fresh))) s

/-- MWAIT (R297): an outstanding result that writes no register. -/
def execMwait (sw : Bool) (s : State) : Out :=
  runSheaf { sw := sw, var := true } (fun s r =>
    let c := (s.group r.g).core
    let k := s.stack (stackOf c)
    let e : Entry := { id := s.fresh, iss := s.issuer r, work := .mwait s.fresh }
    let s := s.issueOut r { v := 0, n := 0 } .awaited
    .done ((s.setStack (stackOf c) { k with mq := k.mq ++ [e] }).queuesMoved c)) s

/-! ## SLOT instructions (R282, R302, R307) -/

/-- The lowest run of n indices below a limit that are all free. -/
def lowestRun (free : Nat → Bool) (n limit : Nat) : Option Nat :=
  (List.range (limit + 1 - n)).find? fun i => (List.range n).all fun j => free (i + j)

/-- Slots a group holds on a core. -/
def State.slotsHeld (s : State) (g c : Nat) : Nat := ((s.core c).slots.filter fun p => holds g p.2.holder).length

/-- A group that is Resident or Halting: charged to its core (R96, R135). -/
def State.live (s : State) (g : Nat) : Bool := (s.group g).state = .resident || (s.group g).state = .halting

/-- Slots of a core that such groups of its mate hold (R282). -/
def State.mateHeld (s : State) (c : Nat) (ok : Nat → Bool) : Nat :=
  ((s.core c).slots.filter fun p => match p.2.holder with
    | some h => decide ((s.group h.g).core ≠ c) && s.live h.g && ok h.g
    | none => false).length

/-- Slots charged on a core: those of its Resident and Halting groups' headers, and those held there from the mate (R96, R282). -/
def State.slotsCharged (s : State) (c : Nat) : Nat :=
  ((List.range s.groups.length).map fun g => if (s.group g).core = c ∧ s.live g then (s.launchOf g).hdr.slots else 0).sum +
  s.mateHeld c fun _ => true

/-- A claimed slot: zeros, entry 14, no scales, sums absent (R283). -/
def State.claimSlot (s : State) (g c i : Nat) : State :=
  (s.clear (slotAddr c i 0) (slotAddr c i 32768)).setSlot c i fun _ => { holder := some { g := g }, md := { scslot := i } }

def State.claimSlots (s : State) (g i n : Nat) (cs : List Nat) : State :=
  (List.range n).foldl (fun s j => cs.foldl (fun s c => s.claimSlot g c (i + j)) s) s

/-- Held for a Saved group (R283). -/
def State.heldSaved (s : State) : Option Holder → Bool
  | some h => decide ((s.group h.g).state = .saved)
  | none => false

/-- A slot or accumulator held for a Saved group is needed by another (R133): own slots, mate slots from 32, accumulators from 64. -/
def State.needed (s : State) (h : Option Holder) (code : Nat → Nat) : State :=
  match h with
  | some h => if (s.group h.g).state = .saved then s.modGroup h.g fun gr =>
      { gr with displace := if gr.displace.contains (code gr.core) then gr.displace else gr.displace ++ [code gr.core] } else s
  | none => s

def State.needSlots (s : State) (i n : Nat) (cs : List Nat) : State :=
  (List.range n).foldl (fun s j => cs.foldl (fun s c => s.needed (s.slot c (i + j)).holder fun home => if home = c then i + j else 32 + i + j) s) s

/-- How a claim ends. -/
inductive Claim
  | got (s : State) (i : Nat)
  | refused
  /-- what a Saved group holds there is written to its record first (R133) -/
  | wait (s : State)

/-- A claim (R282): the lowest run of Free indices; where there is none, one with indices held for Saved groups. -/
def State.claim (s : State) (g kind n : Nat) : Claim :=
  let c := (s.group g).core
  if kind = 2 then
    let accs := (s.stack (stackOf c)).accs
    let hold (i : Nat) : Option Holder := (accs.getD i {}).holder
    if 4 < (accs.filter fun a => holds g a.holder).length + n then .refused
    else match lowestRun (fun i => (hold i).isNone) n 4 with
      | some i => .got ((List.range n).foldl (fun s j => s.setAcc c (i + j) { holder := some { g := g } }) s) i
      | none => match lowestRun (fun i => (hold i).isNone || s.heldSaved (hold i)) n 4 with
        | some i => .wait ((List.range n).foldl (fun s j => s.needed (hold (i + j)) fun _ => 64 + i + j) s)
        | none => .refused
  else
    let cs := if kind = 0 then [c] else [c, mateOf c]
    let free (i : Nat) : Bool := cs.all fun c => (s.slot c i).holder.isNone
    let soon (i : Nat) : Bool := cs.all fun c => (s.slot c i).holder.isNone || s.heldSaved (s.slot c i).holder
    if (s.launchOf g).hdr.slots < s.slotsHeld g c + n ∨ (kind ≠ 0 ∧ 32 < s.slotsCharged (mateOf c) + n) then .refused
    else match lowestRun free n 32 with
      | some i => .got (s.claimSlots g i n cs) i
      | none => match lowestRun soon n 32 with
        | some i => .wait (s.needSlots i n cs)
        | none => .refused

def execSclaim (sw : Bool) (d : BitVec 7) (k : BitVec 2) (n : BitVec 6) (s : State) : Out :=
  runSheaf { sw := sw, writes := [f1 d], var := true } (fun s r =>
    match s.claim r.g k.toNat n.toNat with
    | .got s i => .done (s.issueVal r d 1 i)
    | .refused => .done (s.issueVal r d 1 0xFFFFFFFF)
    | .wait s => .stay s) s

/-- SREL (R283, R307): every index must be held by the group, or nothing is released. -/
def execSrel (sw : Bool) (k : BitVec 2) (a : BitVec 7) (n : BitVec 6) (s : State) : Out :=
  runSheaf { sw := sw, reads := [f1 a] } (fun s r =>
    let c := (s.group r.g).core
    let i := (s.reg r a).toNat
    let is := (List.range n.toNat).map (i + ·)
    if k = 2 then
      match is.find? fun x => decide (4 ≤ x) || !holds r.g (s.acc c x).holder with
      | some x => .fault 0x16 0 (0x20 + x)
      | none =>
        let s := is.foldl (fun s x => s.setAcc c x { s.acc c x with holder := relHolder r.g (s.acc c x).holder }) s
        .done (s.settleMat c)
    else
      let cs := if k = 1 then [c, mateOf c] else [c]
      match is.find? fun x => decide (32 ≤ x) || !cs.all fun c => holds r.g (s.slot c x).holder with
      | some x => .fault 0x16 0 x
      | none =>
        let s := is.foldl (fun s x => cs.foldl (fun s c => s.setSlot c x fun sl => { sl with holder := relHolder r.g sl.holder }) s) s
        .done (s.settleMat c)) s

/-- SINFO's word of a slot (R307). -/
def infoWord (own : Bool) (m : SlotMeta) : Nat :=
  (if own then 2 ^ 31 else 0) + (if m.src then 2 ^ 30 else 0) + m.sums * 2 ^ 28 + m.hsize * 2 ^ 26 + m.scslot * 2 ^ 21 + m.sfmt * 2 ^ 15 +
    m.geom * 2 ^ 13 + m.fmt

def chkCode : ChkState → Nat
  | .absent => 0 | .exact => 1 | .inexact => 2 | .indeterminate => 3

/-- SINFO (R307). -/
def execSinfo (sw : Bool) (d a : BitVec 7) (k : BitVec 2) (s : State) : Out :=
  runSheaf { sw := sw, reads := [f1 a], writes := [f1 d], var := true } (fun s r =>
    let c := (s.group r.g).core
    let i := (s.reg r a).toNat
    let v :=
      if k = 2 then
        let x := s.acc c i
        if 4 ≤ i ∨ !holds r.g x.holder then 0 else 2 ^ 31 + chkCode x.chk * 2 ^ 29 + if x.modeP then 2 ^ 28 else 0
      else
        let cc := if k = 1 then mateOf c else c
        if 32 ≤ i ∨ !s.slotUsable r.g cc i then 0 else infoWord (holds r.g (s.slot cc i).holder) (s.slot cc i).md
    .done (s.issueVal r d 1 v)) s

/-- MLD (R302): the format table is latched at issue (R193). -/
def execMld (sw : Bool) (m : BitVec 2) (x : BitVec 5) (a : BitVec 7) (c : BitVec 1) (g : BitVec 6) (s : State) : Out :=
  runSheaf { sw := sw, reads := [{ v := a, n := 4 }], access := true } (fun s r =>
    let core := (s.group r.g).core
    let cs := mldCores core m.toNat
    let q := (s.quad r a).toNat
    let va := bits q 63 0
    if !s.isProducer r then .fault 0x0D 0 0
    else match s.slotOwner r.g x.toNat cs with
      | some d1 => .fault 0x16 0 d1
      | none =>
        if va % 64 ≠ 0 then .fault 0x09 va 64
        else if s.roomC3 core = 0 then .stay s
        else
          let id := s.fresh
          let s' := cs.foldl (fun s c => s.setSlot c x.toNat fun sl => { sl with md := { sl.md with pending := some id } }) s.tick
          let w : Mld := { mode := m.toNat, slot := x.toNat, ck := c = 1, tag := g.toNat, record := va, row0 := bits q 83 64, k0 := bits q 95 84,
                           outer := bits q 127 96, fmts := (s.tableOf r).fmt }
          .done (s'.placeCopy core 3 { id := id, iss := s.issuer r, work := .mld w, ord := id, record := true, at0 := s.cycles (clusterOf core) })) s

end Sys2Proof.Machine
end

