-- ==== Sys2Proof/WellFormed.lean ====
section
/-! DEFINITION. The checks that R32 makes on the fields of an instruction word: aligned register groups (R25, R28), subfield values
that are legal (R30, R31) and combinations that are valid (R76, R101, R236, R258, R278, R308, R335, R354). -/

namespace Sys2Proof

/-- An instruction whose fields pass every check of R32. A step without a word has no field to check. -/
def Instr.wf : Instr → Bool
  | .add _ _ _ _ => true
  | .sub _ _ _ _ => true
  | .mul _ _ _ _ => true
  | .mulh _ _ _ _ => true
  | .mulhu _ _ _ _ => true
  | .mad _ _ _ _ => true
  | .and _ _ _ _ => true
  | .or _ _ _ _ => true
  | .xor _ _ _ _ => true
  | .andn _ _ _ _ => true
  | .shl _ _ _ _ => true
  | .shr _ _ _ _ => true
  | .sra _ _ _ _ => true
  | .rot _ _ _ _ => true
  | .min _ _ _ _ => true
  | .max _ _ _ _ => true
  | .minu _ _ _ _ => true
  | .maxu _ _ _ _ => true
  | .seq _ _ _ _ => true
  | .sne _ _ _ _ => true
  | .slt _ _ _ _ => true
  | .sltu _ _ _ _ => true
  | .sel _ _ _ _ => true
  | .clz _ _ _ => true
  | .popc _ _ _ => true
  | .brev _ _ _ => true
  | .divu _ _ _ _ => true
  | .remu _ _ _ _ => true
  | .shli _ _ _ _ => true
  | .shri _ _ _ _ => true
  | .srai _ _ _ _ => true
  | .roti _ _ _ _ => true
  | .bfe _ _ _ _ => true
  | .bfi _ _ _ _ => true
  | .add64 _ d a b => decide (d.toNat % 2 = 0 ∧ a.toNat % 2 = 0 ∧ b.toNat % 2 = 0)
  | .sub64 _ d a b => decide (d.toNat % 2 = 0 ∧ a.toNat % 2 = 0 ∧ b.toNat % 2 = 0)
  | .shl64 _ d a _ => decide (d.toNat % 2 = 0 ∧ a.toNat % 2 = 0)
  | .shr64 _ d a _ => decide (d.toNat % 2 = 0 ∧ a.toNat % 2 = 0)
  | .mul64 _ d a b => decide (d.toNat % 2 = 0 ∧ a.toNat % 2 = 0 ∧ b.toNat % 2 = 0)
  | .ptr _ d _ _ => decide (d.toNat % 2 = 0)
  | .ptrsp _ _ a => decide (a.toNat % 2 = 0)
  | .ptrrk _ _ a => decide (a.toNat % 2 = 0)
  | .ptrof _ _ a => decide (a.toNat % 2 = 0)
  | .addH2 _ _ _ _ => true
  | .subH2 _ _ _ _ => true
  | .maxH2 _ _ _ _ => true
  | .minH2 _ _ _ _ => true
  | .maxuH2 _ _ _ _ => true
  | .minuH2 _ _ _ _ => true
  | .packH2 _ _ _ _ => true
  | .acsH2 _ d _ _ => decide (d.toNat % 2 = 0)
  | .addi _ _ _ _ => true
  | .andi _ _ _ _ => true
  | .ori _ _ _ _ => true
  | .xori _ _ _ _ => true
  | .slti _ _ _ _ => true
  | .sltiu _ _ _ _ => true
  | .movhi _ _ _ => true
  | .bcc _ _ _ _ => true
  | .jmp _ _ => true
  | .call _ _ => true
  | .jmpr _ _ => true
  | .callr _ _ => true
  | .ret _ => true
  | .exit _ => true
  | .yield _ => true
  | .nop _ => true
  | .winb _ _ _ _ => true
  | .elect _ _ _ => true
  | .fsync _ _ => true
  | .fshfl _ _ _ _ => true
  | .fballot _ _ _ => true
  | .poll _ _ _ => true
  | .ld _ d a z _ => decide (z.toNat ≠ 7 ∧ a.toNat % 2 = 0 ∧ (z.toNat = 5 → d.toNat % 2 = 0) ∧ (z.toNat = 6 → d.toNat % 4 = 0))
  | .st _ d a z _ => decide ((z.toNat = 0 ∨ z.toNat = 2 ∨ 4 ≤ z.toNat) ∧ z.toNat ≠ 7 ∧ a.toNat % 2 = 0 ∧ (z.toNat = 5 → d.toNat % 2 = 0) ∧ (z.toNat = 6 → d.toNat % 4 = 0))
  | .ldf _ _ a _ => decide (a.toNat % 2 = 0)
  | .stf _ _ a _ => decide (a.toNat % 2 = 0)
  | .lds _ _ _ _ => true
  | .sts _ _ _ _ => true
  | .fadd _ _ _ _ => true
  | .fsub _ _ _ _ => true
  | .fmul _ _ _ _ => true
  | .ffma _ _ _ _ => true
  | .fmin _ _ _ _ => true
  | .fmax _ _ _ _ => true
  | .fabs _ _ _ => true
  | .fneg _ _ _ => true
  | .fcmp _ _ _ _ => true
  | .fsel _ _ _ _ => true
  | .frcp _ _ _ => true
  | .frsq _ _ _ => true
  | .fsqrt _ _ _ => true
  | .fexp2 _ _ _ => true
  | .flog2 _ _ _ => true
  | .fsin _ _ _ => true
  | .fcos _ _ _ => true
  | .fdiv _ _ _ _ => true
  | .hadd2B _ _ _ _ => true
  | .hmul2B _ _ _ _ => true
  | .hfma2B _ _ _ _ => true
  | .hadd2F _ _ _ _ => true
  | .hmul2F _ _ _ _ => true
  | .hfma2F _ _ _ _ => true
  | .cvti _ _ _ _ r => decide (r.toNat ≤ 5)
  | .cvtu _ _ _ _ r => decide (r.toNat ≤ 5)
  | .cvta _ d a v => decide ((v.toNat = 0 → a.toNat % 2 = 0) ∧ (v.toNat = 1 → d.toNat % 2 = 0))
  | .cvtf _ _ _ _ _ => true
  | .cvtn _ _ _ _ r _ => decide (r.toNat ≠ 7)
  | .fmtset _ _ b => decide (b.toNat % 2 = 0)
  | .fmtget _ d _ => decide (d.toNat % 2 = 0)
  | .fmtgetSt _ d _ => decide (d.toNat % 2 = 0)
  | .fmtchk _ _ a _ _ => decide (a.toNat % 2 = 0)
  | .aadd _ _ a _ _ c => decide (a.toNat % 2 = 0 ∧ c.toNat < 12)
  | .aand _ _ a _ _ c => decide (a.toNat % 2 = 0 ∧ c.toNat < 12)
  | .aor _ _ a _ _ c => decide (a.toNat % 2 = 0 ∧ c.toNat < 12)
  | .axor _ _ a _ _ c => decide (a.toNat % 2 = 0 ∧ c.toNat < 12)
  | .amin _ _ a _ _ c => decide (a.toNat % 2 = 0 ∧ c.toNat < 12)
  | .amax _ _ a _ _ c => decide (a.toNat % 2 = 0 ∧ c.toNat < 12)
  | .aminu _ _ a _ _ c => decide (a.toNat % 2 = 0 ∧ c.toNat < 12)
  | .amaxu _ _ a _ _ c => decide (a.toNat % 2 = 0 ∧ c.toNat < 12)
  | .axchg _ _ a _ _ c => decide (a.toNat % 2 = 0 ∧ c.toNat < 12)
  | .acas _ d a _ _ c => decide (a.toNat % 2 = 0 ∧ c.toNat < 12 ∧ d.toNat % 2 = 0)
  | .acas64 _ d a _ _ c => decide (a.toNat % 2 = 0 ∧ c.toNat < 12 ∧ d.toNat % 4 = 0)
  | .acas128 _ d a _ _ c => decide (a.toNat % 2 = 0 ∧ c.toNat < 12 ∧ d.toNat % 8 = 0)
  | .afadd _ _ a _ _ c => decide (a.toNat % 2 = 0 ∧ c.toNat < 12)
  | .afaddB2 _ _ a _ _ c => decide (a.toNat % 2 = 0 ∧ c.toNat < 12)
  | .ald _ d a z r c => decide (a.toNat % 2 = 0 ∧ c.toNat < 12 ∧ z.toNat ≠ 3 ∧ r.toNat < 2 ∧ d.toNat % 2 ^ z.toNat = 0)
  | .ast _ d a z r c => decide (a.toNat % 2 = 0 ∧ c.toNat < 12 ∧ z.toNat ≠ 3 ∧ r.toNat % 2 = 0 ∧ d.toNat % 2 ^ z.toNat = 0)
  | .phase _ c k => decide (k.toNat ≠ 0 ∧ c.toNat < 12)
  | .fence _ c k => decide (k.toNat ≠ 0 ∧ c.toNat < 12)
  | .qfence _ m => decide (m.toNat ≠ 0)
  | .monw _ d a c k w => decide (k.toNat ≠ 3 ∧ c.toNat < 12 ∧ a.toNat % 2 = 0 ∧ (w.toNat = 1 → d.toNat % 2 = 0))
  | .barinit _ _ _ => true
  | .barinitM _ _ a => decide (a.toNat % 2 = 0)
  | .bararr _ _ => true
  | .bararrM _ a => decide (a.toNat % 2 = 0)
  | .barwait _ _ => true
  | .barwaitM _ _ a => decide (a.toNat % 2 = 0)
  | .barsync _ _ => true
  | .barsyncM _ a => decide (a.toNat % 2 = 0)
  | .barexpM _ d a => decide (d.toNat % 2 = 0 ∧ a.toNat % 2 = 0)
  | .gbar _ => true
  | .chinit _ a _ => decide (a.toNat % 2 = 0)
  | .chpush _ a _ => decide (a.toNat % 2 = 0)
  | .chpop _ _ a _ => decide (a.toNat % 2 = 0)
  | .chres _ d _ => decide (d.toNat % 2 = 0)
  | .chpub _ a _ => decide (a.toNat % 2 = 0)
  | .chpoll _ _ a _ => decide (a.toNat % 2 = 0)
  | .ckick _ _ a n => decide (a.toNat % 2 = 0 ∧ 1 ≤ n.toNat ∧ n.toNat ≤ 64)
  | .ctagwAny _ _ _ => true
  | .ctagwAll _ _ _ => true
  | .ctagff _ _ _ _ => true
  | .ctagclr _ _ _ => true
  | .cstat _ _ _ => true
  | .mzero _ _ => true
  | .mmaP _ _ _ _ _ => true
  | .mmaC _ _ _ _ _ => true
  | .mrd _ d _ _ => decide (d.toNat % 2 = 0)
  | .mwr _ _ a _ => decide (a.toNat % 2 = 0)
  | .mstore _ r _ a _ => decide (r.toNat ≠ 7 ∧ a.toNat % 2 = 0)
  | .mstoreS _ _ a => decide (a.toNat % 2 = 0)
  | .mqnt _ r _ _ _ _ => decide (r.toNat ≠ 7)
  | .had _ _ r n _ => decide (r.toNat ≠ 7 ∧ n.toNat ≠ 3)
  | .mchk _ _ _ => true
  | .mwait _ => true
  | .sclaim _ _ k n => decide (k.toNat ≠ 3 ∧ 1 ≤ n.toNat ∧ n.toNat ≤ 32)
  | .srel _ k _ n => decide (k.toNat ≠ 3 ∧ 1 ≤ n.toNat ∧ n.toNat ≤ 32)
  | .mld _ _ _ a _ _ => decide (a.toNat % 4 = 0)
  | .sinfo _ _ _ k => decide (k.toNat ≠ 3)
  | .hnew _ d _ => decide (d.toNat % 4 = 0)
  | .hsplit _ d a _ => decide (d.toNat % 4 = 0 ∧ a.toNat % 4 = 0 ∧ d ≠ a)
  | .hdrop _ a => decide (a.toNat % 4 = 0)
  | .hrec _ _ a _ => decide (a.toNat % 4 = 0)
  | .hinfo _ _ a => decide (a.toNat % 4 = 0)
  | .hbind _ _ a _ => decide (a.toNat % 4 = 0)
  | .pcls _ c => decide (c.toNat ≠ 3)
  | .burn _ _ => true
  | .balidle _ => true
  | .ykrd _ _ => true
  | .permits _ _ => true
  | .sysrd _ _ b => decide (b.toNat ≤ 22)
  | .syswr _ _ b => decide ((b.toNat = 16 ∨ b.toNat = 17))
  | .trap _ _ _ => true
  | .errrd _ _ b => decide (b.toNat ≤ 3)
  | .clkrd _ d => decide (d.toNat % 2 = 0)
  | .clkrdNom _ d => decide (d.toNat % 2 = 0)
  | .refrd _ d => decide (d.toNat % 2 = 0)
  | .moncfg _ _ _ _ => true
  | .monrd _ _ a _ => decide ((a.toNat ≤ 2 ∨ 16 ≤ a.toNat) ∧ a.toNat ≤ 31)
  | .brk _ _ => true
  | .nrec _ _ a n => decide (a.toNat % 2 = 0 ∧ 1 ≤ n.toNat ∧ n.toNat ≤ 32)
  | .binflush _ _ => true
  | .enq _ _ a => decide (a.toNat % 2 = 0)
  | .create _ _ => true
  | .loadkernel _ _ => true
  | .activate _ _ => true
  | .quiesce _ _ => true
  | .suspend _ _ => true
  | .snappool _ _ => true
  | .destroy _ _ => true
  | .clearerr _ _ => true
  | .importkey _ _ => true
  | .setheadland _ _ => true
  | .dropkey _ _ => true
  | .qopen _ _ => true
  | .qclose _ _ => true
  | .qstop _ _ => true
  | .qstart _ _ => true
  | .preempt _ _ => true
  | .pagehold _ _ => true
  | .tagset _ _ => true
  | .notifyring _ _ => true
  | .hotcfg _ _ => true
  | .handlearea _ _ => true
  | .pwrcfg _ _ => true
  | .peerwin _ _ => true
  | .linkcfg _ _ => true
  | .fundamentalReset => true
  | .startUpComplete _ => true
  | .configurationRequest _ => true
  | .functionLevelReset _ => true
  | .admtail _ _ => true
  | .bar0RegisterWrite _ _ _ => true
  | .doorbell _ _ _ => true
  | .spdmRequest _ _ => true
  | .tdiStateChange _ _ _ => true
  | .pcieLinkDown _ => true
  | .rackCapMessage _ => true
  | .capExpiry => true
  | .capFloorStep => true
  | .dispatchPick => true
  | .dependenceReread _ => true
  | .deadlineMissed _ => true
  | .leafReread _ => true
  | .pageRequestRepost _ => true
  | .markingResume _ => true
  | .groupPlace => true
  | .placementPreempt _ => true
  | .placementReserve _ => true
  | .groupSaveComplete _ => true
  | .slotLazySave _ => true
  | .preemptHoldExpiry _ => true
  | .launchDrained _ => true
  | .launchFinish _ => true
  | .rollbackComplete _ => true
  | .snapshotPageCopy _ _ => true
  | .binTimer _ _ => true
  | .resultWriteback _ _ _ => true
  | .backoffExpiry _ _ => true
  | .monwTimeout _ _ => true
  | .serviceMessageAccept _ => true
  | .serviceFurrowPerform _ => true
  | .slewGrant => true
  | .drillFetch _ _ => true
  | .copyElement _ _ => true
  | .transposerBlock _ _ => true
  | .reductionElement _ _ => true
  | .copyComplete _ _ => true
  | .mEntryPerform _ => true
  | .harrowMld _ => true
  | .hnewAtHome _ => true
  | .hrecAtTarget _ => true
  | .hbindAtHome _ => true
  | .handlePostApply _ => true
  | .cellCreate _ => true
  | .tensorRetagComplete _ _ _ => true
  | .fmtsetInstall _ => true
  | .hang _ => true
  | .yokeSample _ _ _ => true
  | .yokeThrottleStep _ => true
  | .balidleTimeout _ _ => true
  | .clockBoundary _ => true
  | .relockEnd _ => true
  | .boostFallStep _ => true
  | .permitRefill _ => true
  | .powerPeriod _ => true
  | .monitorSample _ _ => true
  | .hotnessEpoch => true
  | .keyZeroizeComplete _ => true
  | .teardownComplete _ => true
  | .pageholdDrained _ => true
  | .linkTrained _ _ _ _ => true
  | .linkTrainingRetry _ => true
  | .flitReceive _ _ => true
  | .laneLoss _ => true
  | .linkTimeout _ => true
  | .peerAccess _ => true
  | .illegalInstruction => true
  | .pcieLinkUp _ _ => true
  | .scrub _ => true

end Sys2Proof
end

