-- ==== Sys2Proof/Decode.lean ====
section
/-! DEFINITION. Decoding an instruction word (R20 to R33), total and rejecting by none, and the encoder beside it. The layouts are
those of R22 and R28 to R31; a field that an instruction does not list is reserved and must be zero (R29). -/

namespace Sys2Proof

/-- The three-field format (R22). -/
structure F3 where
  s : Bool
  major : BitVec 5
  minor : BitVec 5
  d : BitVec 7
  a : BitVec 7
  b : BitVec 7
  deriving DecidableEq, Repr

/-- The field and immediate format, which FX keeps (R22). -/
structure FI where
  s : Bool
  major : BitVec 5
  d : BitVec 7
  a : BitVec 7
  imm : BitVec 12
  deriving DecidableEq, Repr

/-- The long immediate format (R22). -/
structure FL where
  s : Bool
  major : BitVec 5
  d : BitVec 7
  imm : BitVec 19
  deriving DecidableEq, Repr

def F3.toWord (f : F3) : Word :=
  .ofNat 32 (f.s.toNat * 2147483648 + f.major.toNat * 67108864 + f.minor.toNat * 2097152 + f.d.toNat * 16384 + f.a.toNat * 128
    + f.b.toNat)

def F3.ofWord (w : Word) : F3 :=
  ⟨decide (w.toNat / 2147483648 = 1), .ofNat 5 (w.toNat / 67108864), .ofNat 5 (w.toNat / 2097152), .ofNat 7 (w.toNat / 16384),
    .ofNat 7 (w.toNat / 128), .ofNat 7 w.toNat⟩

def FI.toWord (f : FI) : Word :=
  .ofNat 32 (f.s.toNat * 2147483648 + f.major.toNat * 67108864 + f.d.toNat * 524288 + f.a.toNat * 4096 + f.imm.toNat)

def FI.ofWord (w : Word) : FI :=
  ⟨decide (w.toNat / 2147483648 = 1), .ofNat 5 (w.toNat / 67108864), .ofNat 7 (w.toNat / 524288), .ofNat 7 (w.toNat / 4096),
    .ofNat 12 w.toNat⟩

def FL.toWord (f : FL) : Word :=
  .ofNat 32 (f.s.toNat * 2147483648 + f.major.toNat * 67108864 + f.d.toNat * 524288 + f.imm.toNat)

def FL.ofWord (w : Word) : FL :=
  ⟨decide (w.toNat / 2147483648 = 1), .ofNat 5 (w.toNat / 67108864), .ofNat 7 (w.toNat / 524288), .ofNat 19 w.toNat⟩

/-- Bits 30:26 of a word, the major opcode (R20). -/
def majorOf (w : Word) : BitVec 5 := .ofNat 5 (w.toNat / 67108864)

/-- The minors of major 0x01 (R28). -/
def decodeInt (f : F3) : Option Instr :=
  match f.minor.toNat with
  | 0 => some (.add f.s f.d f.a f.b)
  | 1 => some (.sub f.s f.d f.a f.b)
  | 2 => some (.mul f.s f.d f.a f.b)
  | 3 => some (.mulh f.s f.d f.a f.b)
  | 4 => some (.mulhu f.s f.d f.a f.b)
  | 5 => some (.mad f.s f.d f.a f.b)
  | 6 => some (.and f.s f.d f.a f.b)
  | 7 => some (.or f.s f.d f.a f.b)
  | 8 => some (.xor f.s f.d f.a f.b)
  | 9 => some (.andn f.s f.d f.a f.b)
  | 10 => some (.shl f.s f.d f.a f.b)
  | 11 => some (.shr f.s f.d f.a f.b)
  | 12 => some (.sra f.s f.d f.a f.b)
  | 13 => some (.rot f.s f.d f.a f.b)
  | 14 => some (.min f.s f.d f.a f.b)
  | 15 => some (.max f.s f.d f.a f.b)
  | 16 => some (.minu f.s f.d f.a f.b)
  | 17 => some (.maxu f.s f.d f.a f.b)
  | 18 => some (.seq f.s f.d f.a f.b)
  | 19 => some (.sne f.s f.d f.a f.b)
  | 20 => some (.slt f.s f.d f.a f.b)
  | 21 => some (.sltu f.s f.d f.a f.b)
  | 22 => some (.sel f.s f.d f.a f.b)
  | 23 => if f.b.toNat = 0 then some (.clz f.s f.d f.a) else none
  | 24 => if f.b.toNat = 0 then some (.popc f.s f.d f.a) else none
  | 25 => if f.b.toNat = 0 then some (.brev f.s f.d f.a) else none
  | 26 => some (.divu f.s f.d f.a f.b)
  | 27 => some (.remu f.s f.d f.a f.b)
  | _ => none

/-- The minors of major 0x02 (R28). -/
def decodeIntX (f : F3) : Option Instr :=
  match f.minor.toNat with
  | 0 => if f.b.toNat / 32 = 0 then some (.shli f.s f.d f.a (.ofNat 5 f.b.toNat)) else none
  | 1 => if f.b.toNat / 32 = 0 then some (.shri f.s f.d f.a (.ofNat 5 f.b.toNat)) else none
  | 2 => if f.b.toNat / 32 = 0 then some (.srai f.s f.d f.a (.ofNat 5 f.b.toNat)) else none
  | 3 => if f.b.toNat / 32 = 0 then some (.roti f.s f.d f.a (.ofNat 5 f.b.toNat)) else none
  | 4 => some (.bfe f.s f.d f.a f.b)
  | 5 => some (.bfi f.s f.d f.a f.b)
  | 6 => some (.add64 f.s f.d f.a f.b)
  | 7 => some (.sub64 f.s f.d f.a f.b)
  | 8 => some (.shl64 f.s f.d f.a f.b)
  | 9 => some (.shr64 f.s f.d f.a f.b)
  | 10 => some (.mul64 f.s f.d f.a f.b)
  | 11 => some (.ptr f.s f.d f.a f.b)
  | 12 => if f.b.toNat = 0 then some (.ptrsp f.s f.d f.a) else none
  | 13 => if f.b.toNat = 0 then some (.ptrrk f.s f.d f.a) else none
  | 14 => if f.b.toNat = 0 then some (.ptrof f.s f.d f.a) else none
  | 16 => some (.addH2 f.s f.d f.a f.b)
  | 17 => some (.subH2 f.s f.d f.a f.b)
  | 18 => some (.maxH2 f.s f.d f.a f.b)
  | 19 => some (.minH2 f.s f.d f.a f.b)
  | 20 => some (.maxuH2 f.s f.d f.a f.b)
  | 21 => some (.minuH2 f.s f.d f.a f.b)
  | 22 => some (.packH2 f.s f.d f.a f.b)
  | 23 => some (.acsH2 f.s f.d f.a f.b)
  | _ => none

/-- The minors of major 0x0C (R28). -/
def decodeCtl (f : F3) : Option Instr :=
  match f.minor.toNat with
  | 0 => if f.d.toNat = 0 ∧ f.b.toNat = 0 then some (.jmpr f.s f.a) else none
  | 1 => if f.d.toNat = 0 ∧ f.b.toNat = 0 then some (.callr f.s f.a) else none
  | 2 => if f.d.toNat = 0 ∧ f.a.toNat = 0 ∧ f.b.toNat = 0 then some (.ret f.s) else none
  | 3 => if f.d.toNat = 0 ∧ f.a.toNat = 0 ∧ f.b.toNat = 0 then some (.exit f.s) else none
  | 4 => if f.d.toNat = 0 ∧ f.a.toNat = 0 ∧ f.b.toNat = 0 then some (.yield f.s) else none
  | 5 => if f.d.toNat = 0 ∧ f.a.toNat = 0 ∧ f.b.toNat = 0 then some (.nop f.s) else none
  | 6 => if f.d.toNat / 2 = 0 then some (.winb f.s (.ofNat 1 f.d.toNat) f.a f.b) else none
  | 7 => if f.b.toNat = 0 then some (.elect f.s f.d f.a) else none
  | 8 => if f.d.toNat = 0 ∧ f.b.toNat = 0 then some (.fsync f.s f.a) else none
  | 9 => some (.fshfl f.s f.d f.a f.b)
  | 10 => if f.b.toNat = 0 then some (.fballot f.s f.d f.a) else none
  | 11 => if f.b.toNat = 0 then some (.poll f.s f.d f.a) else none
  | _ => none

/-- The minors of major 0x0F (R28). -/
def decodeLdx (f : F3) : Option Instr :=
  match f.minor.toNat with
  | 0 => some (.ldf f.s f.d f.a f.b)
  | 1 => some (.stf f.s f.d f.a f.b)
  | 2 => some (.lds f.s f.d f.a f.b)
  | 3 => some (.sts f.s f.d f.a f.b)
  | _ => none

/-- The minors of major 0x10 (R28). -/
def decodeFp (f : F3) : Option Instr :=
  match f.minor.toNat with
  | 0 => some (.fadd f.s f.d f.a f.b)
  | 1 => some (.fsub f.s f.d f.a f.b)
  | 2 => some (.fmul f.s f.d f.a f.b)
  | 3 => some (.ffma f.s f.d f.a f.b)
  | 4 => some (.fmin f.s f.d f.a f.b)
  | 5 => some (.fmax f.s f.d f.a f.b)
  | 6 => if f.b.toNat = 0 then some (.fabs f.s f.d f.a) else none
  | 7 => if f.b.toNat = 0 then some (.fneg f.s f.d f.a) else none
  | 8 => some (.fcmp f.s f.d f.a f.b)
  | 9 => some (.fsel f.s f.d f.a f.b)
  | 10 => if f.b.toNat = 0 then some (.frcp f.s f.d f.a) else none
  | 11 => if f.b.toNat = 0 then some (.frsq f.s f.d f.a) else none
  | 12 => if f.b.toNat = 0 then some (.fsqrt f.s f.d f.a) else none
  | 13 => if f.b.toNat = 0 then some (.fexp2 f.s f.d f.a) else none
  | 14 => if f.b.toNat = 0 then some (.flog2 f.s f.d f.a) else none
  | 15 => if f.b.toNat = 0 then some (.fsin f.s f.d f.a) else none
  | 16 => if f.b.toNat = 0 then some (.fcos f.s f.d f.a) else none
  | 17 => some (.fdiv f.s f.d f.a f.b)
  | 18 => some (.hadd2B f.s f.d f.a f.b)
  | 19 => some (.hmul2B f.s f.d f.a f.b)
  | 20 => some (.hfma2B f.s f.d f.a f.b)
  | 21 => some (.hadd2F f.s f.d f.a f.b)
  | 22 => some (.hmul2F f.s f.d f.a f.b)
  | 23 => some (.hfma2F f.s f.d f.a f.b)
  | 24 => if f.b.toNat / 8 % 8 = 0 then some (.cvti f.s f.d f.a (.ofNat 1 (f.b.toNat / 64)) (.ofNat 3 f.b.toNat)) else none
  | 25 => if f.b.toNat / 8 % 8 = 0 then some (.cvtu f.s f.d f.a (.ofNat 1 (f.b.toNat / 64)) (.ofNat 3 f.b.toNat)) else none
  | 26 => if f.b.toNat % 64 = 0 then some (.cvta f.s f.d f.a (.ofNat 1 (f.b.toNat / 64))) else none
  | _ => none

/-- The minors of major 0x12 (R28). -/
def decodeFmt (f : F3) : Option Instr :=
  match f.minor.toNat with
  | 0 => if f.d.toNat = 0 then some (.fmtset f.s f.a f.b) else none
  | 1 => if f.b.toNat = 0 then some (.fmtget f.s f.d f.a)
    else if f.a.toNat = 0 ∧ f.b.toNat / 32 = 2 then some (.fmtgetSt f.s f.d (.ofNat 5 f.b.toNat)) else none
  | 2 => some (.fmtchk f.s f.d f.a (.ofNat 1 (f.b.toNat / 64)) (.ofNat 6 f.b.toNat))
  | _ => none

/-- The minors of major 0x16 (R28). -/
def decodeChan (f : F3) : Option Instr :=
  match f.minor.toNat with
  | 0 => if f.d.toNat = 0 ∧ f.b.toNat / 8 = 0 then some (.chinit f.s f.a (.ofNat 3 f.b.toNat)) else none
  | 1 => if f.d.toNat = 0 ∧ f.b.toNat / 8 = 0 then some (.chpush f.s f.a (.ofNat 3 f.b.toNat)) else none
  | 2 => if f.b.toNat / 8 = 0 then some (.chpop f.s f.d f.a (.ofNat 3 f.b.toNat)) else none
  | 3 => if f.a.toNat = 0 ∧ f.b.toNat / 8 = 0 then some (.chres f.s f.d (.ofNat 3 f.b.toNat)) else none
  | 4 => if f.d.toNat = 0 ∧ f.b.toNat / 8 = 0 then some (.chpub f.s f.a (.ofNat 3 f.b.toNat)) else none
  | 5 => if f.b.toNat / 8 = 0 then some (.chpoll f.s f.d f.a (.ofNat 3 f.b.toNat)) else none
  | _ => none

/-- The minors of major 0x17 (R28). -/
def decodeCopy (f : F3) : Option Instr :=
  match f.minor.toNat with
  | 0 => if f.d.toNat / 4 = 0 then some (.ckick f.s (.ofNat 2 f.d.toNat) f.a f.b) else none
  | 1 => if f.d.toNat = 0 ∧ f.b.toNat / 2 = 0 then some (.ctagwAny f.s f.a (.ofNat 1 f.b.toNat)) else none
  | 2 => if f.d.toNat = 0 ∧ f.b.toNat / 2 = 0 then some (.ctagwAll f.s f.a (.ofNat 1 f.b.toNat)) else none
  | 3 => if f.b.toNat / 2 = 0 then some (.ctagff f.s f.d f.a (.ofNat 1 f.b.toNat)) else none
  | 4 => if f.d.toNat = 0 ∧ f.b.toNat / 2 = 0 then some (.ctagclr f.s f.a (.ofNat 1 f.b.toNat)) else none
  | 5 => if f.a.toNat = 0 ∧ f.b.toNat / 4 = 0 then some (.cstat f.s f.d (.ofNat 2 f.b.toNat)) else none
  | _ => none

/-- The minors of major 0x18 (R28). -/
def decodeMat (f : F3) : Option Instr :=
  match f.minor.toNat with
  | 0 => if f.d.toNat / 4 = 0 ∧ f.a.toNat = 0 ∧ f.b.toNat = 0 then some (.mzero f.s (.ofNat 2 f.d.toNat)) else none
  | 1 => if f.d.toNat / 8 = 0 ∧ f.a.toNat / 32 = 0 ∧ f.b.toNat / 32 = 0 then some (.mmaP f.s (.ofNat 1 (f.d.toNat / 4)) (.ofNat 2 f.d.toNat) (.ofNat 5 f.a.toNat) (.ofNat 5 f.b.toNat)) else none
  | 2 => if f.d.toNat / 8 = 0 ∧ f.a.toNat / 32 = 0 ∧ f.b.toNat / 32 = 0 then some (.mmaC f.s (.ofNat 1 (f.d.toNat / 4)) (.ofNat 2 f.d.toNat) (.ofNat 5 f.a.toNat) (.ofNat 5 f.b.toNat)) else none
  | 3 => if f.b.toNat / 4 = 0 then some (.mrd f.s f.d f.a (.ofNat 2 f.b.toNat)) else none
  | 4 => if f.b.toNat / 4 = 0 then some (.mwr f.s f.d f.a (.ofNat 2 f.b.toNat)) else none
  | 5 => if f.d.toNat / 32 = 0 ∧ f.b.toNat / 64 = 0 then some (.mstore f.s (.ofNat 3 (f.d.toNat / 4)) (.ofNat 2 f.d.toNat) f.a (.ofNat 6 f.b.toNat))
    else if f.d.toNat / 32 = 2 ∧ f.b.toNat = 0 then some (.mstoreS f.s (.ofNat 5 f.d.toNat) f.a) else none
  | 6 => if f.d.toNat / 32 = 0 then some (.mqnt f.s (.ofNat 3 (f.d.toNat / 4)) (.ofNat 2 f.d.toNat) f.a (.ofNat 2 (f.b.toNat / 32)) (.ofNat 5 f.b.toNat)) else none
  | 7 => if f.d.toNat / 64 = 0 ∧ f.a.toNat / 32 = 0 ∧ f.b.toNat = 0 then some (.had f.s (.ofNat 1 (f.d.toNat / 32)) (.ofNat 3 (f.d.toNat / 4)) (.ofNat 2 f.d.toNat) (.ofNat 5 f.a.toNat)) else none
  | 8 => if f.a.toNat / 4 = 0 ∧ f.b.toNat = 0 then some (.mchk f.s f.d (.ofNat 2 f.a.toNat)) else none
  | 9 => if f.d.toNat = 0 ∧ f.a.toNat = 0 ∧ f.b.toNat = 0 then some (.mwait f.s) else none
  | _ => none

/-- The minors of major 0x19 (R28). -/
def decodeSlot (f : F3) : Option Instr :=
  match f.minor.toNat with
  | 0 => if f.a.toNat / 4 = 0 ∧ f.b.toNat / 64 = 0 then some (.sclaim f.s f.d (.ofNat 2 f.a.toNat) (.ofNat 6 f.b.toNat)) else none
  | 1 => if f.d.toNat / 4 = 0 ∧ f.b.toNat / 64 = 0 then some (.srel f.s (.ofNat 2 f.d.toNat) f.a (.ofNat 6 f.b.toNat)) else none
  | 2 => some (.mld f.s (.ofNat 2 (f.d.toNat / 32)) (.ofNat 5 f.d.toNat) f.a (.ofNat 1 (f.b.toNat / 64)) (.ofNat 6 f.b.toNat))
  | 3 => if f.b.toNat / 4 = 0 then some (.sinfo f.s f.d f.a (.ofNat 2 f.b.toNat)) else none
  | _ => none

/-- The minors of major 0x1A (R28). -/
def decodeHnd (f : F3) : Option Instr :=
  match f.minor.toNat with
  | 0 => if f.b.toNat = 0 then some (.hnew f.s f.d f.a) else none
  | 1 => if f.b.toNat / 64 = 0 then some (.hsplit f.s f.d f.a (.ofNat 6 f.b.toNat)) else none
  | 2 => if f.d.toNat = 0 ∧ f.b.toNat = 0 then some (.hdrop f.s f.a) else none
  | 3 => some (.hrec f.s f.d f.a f.b)
  | 4 => if f.b.toNat = 0 then some (.hinfo f.s f.d f.a) else none
  | 5 => some (.hbind f.s f.d f.a f.b)
  | _ => none

/-- The minors of major 0x1B (R28). -/
def decodePwr (f : F3) : Option Instr :=
  match f.minor.toNat with
  | 0 => if f.d.toNat = 0 ∧ f.a.toNat = 0 ∧ f.b.toNat / 4 = 0 then some (.pcls f.s (.ofNat 2 f.b.toNat)) else none
  | 1 => if f.d.toNat = 0 ∧ f.a.toNat = 0 ∧ f.b.toNat / 8 = 0 then some (.burn f.s (.ofNat 3 f.b.toNat)) else none
  | 2 => if f.d.toNat = 0 ∧ f.a.toNat = 0 ∧ f.b.toNat = 0 then some (.balidle f.s) else none
  | 3 => if f.a.toNat = 0 ∧ f.b.toNat = 0 then some (.ykrd f.s f.d) else none
  | 4 => if f.a.toNat = 0 ∧ f.b.toNat = 0 then some (.permits f.s f.d) else none
  | _ => none

/-- The minors of major 0x1C (R28). -/
def decodeSys (f : F3) : Option Instr :=
  match f.minor.toNat with
  | 0 => if f.a.toNat = 0 then some (.sysrd f.s f.d f.b) else none
  | 1 => if f.d.toNat = 0 then some (.syswr f.s f.a f.b) else none
  | 2 => if f.d.toNat = 0 then some (.trap f.s f.a f.b) else none
  | 3 => if f.a.toNat = 0 then some (.errrd f.s f.d f.b) else none
  | 4 => if f.a.toNat = 0 ∧ f.b.toNat = 0 then some (.clkrd f.s f.d) else none
  | 5 => if f.a.toNat = 0 ∧ f.b.toNat = 0 then some (.clkrdNom f.s f.d) else none
  | 6 => if f.a.toNat = 0 ∧ f.b.toNat = 0 then some (.refrd f.s f.d) else none
  | 7 => if f.b.toNat / 8 = 0 then some (.moncfg f.s f.d f.a (.ofNat 3 f.b.toNat)) else none
  | 8 => if f.b.toNat / 8 = 0 then some (.monrd f.s f.d f.a (.ofNat 3 f.b.toNat)) else none
  | 9 => if f.d.toNat = 0 ∧ f.a.toNat = 0 then some (.brk f.s f.b) else none
  | 10 => some (.nrec f.s f.d f.a f.b)
  | 11 => if f.d.toNat = 0 ∧ f.b.toNat = 0 then some (.binflush f.s f.a) else none
  | 12 => if f.b.toNat = 0 then some (.enq f.s f.d f.a) else none
  | _ => none

/-- The majors whose words keep the FI layout (R22, R30, R31). -/
def decodeFI (f : FI) : Option Instr :=
  match f.major.toNat with
  | 3 =>
    some (.addi f.s f.d f.a f.imm)
  | 4 =>
    some (.andi f.s f.d f.a f.imm)
  | 5 =>
    some (.ori f.s f.d f.a f.imm)
  | 6 =>
    some (.xori f.s f.d f.a f.imm)
  | 7 =>
    some (.slti f.s f.d f.a f.imm)
  | 8 =>
    some (.sltiu f.s f.d f.a f.imm)
  | 10 =>
    if f.d.toNat / 8 = 0 then some (.bcc f.s (.ofNat 3 f.d.toNat) f.a f.imm) else none
  | 13 =>
    some (.ld f.s f.d f.a (.ofNat 3 (f.imm.toNat / 512)) (.ofNat 9 f.imm.toNat))
  | 14 =>
    some (.st f.s f.d f.a (.ofNat 3 (f.imm.toNat / 512)) (.ofNat 9 f.imm.toNat))
  | 17 =>
    if f.imm.toNat / 8 % 8 = 7 then some (.cvtf f.s f.d f.a (.ofNat 6 (f.imm.toNat / 64)) (.ofNat 3 f.imm.toNat))
    else some (.cvtn f.s f.d f.a (.ofNat 6 (f.imm.toNat / 64)) (.ofNat 3 (f.imm.toNat / 8)) (.ofNat 3 f.imm.toNat))
  | 19 =>
    if f.imm.toNat % 2 = 0 ∧ f.imm.toNat / 128 % 16 = 0 then some (.aadd f.s f.d f.a (.ofNat 1 (f.imm.toNat / 2048)) (.ofNat 2 (f.imm.toNat / 32)) (.ofNat 4 (f.imm.toNat / 2)))
    else if f.imm.toNat % 2 = 0 ∧ f.imm.toNat / 128 % 16 = 1 then some (.aand f.s f.d f.a (.ofNat 1 (f.imm.toNat / 2048)) (.ofNat 2 (f.imm.toNat / 32)) (.ofNat 4 (f.imm.toNat / 2)))
    else if f.imm.toNat % 2 = 0 ∧ f.imm.toNat / 128 % 16 = 2 then some (.aor f.s f.d f.a (.ofNat 1 (f.imm.toNat / 2048)) (.ofNat 2 (f.imm.toNat / 32)) (.ofNat 4 (f.imm.toNat / 2)))
    else if f.imm.toNat % 2 = 0 ∧ f.imm.toNat / 128 % 16 = 3 then some (.axor f.s f.d f.a (.ofNat 1 (f.imm.toNat / 2048)) (.ofNat 2 (f.imm.toNat / 32)) (.ofNat 4 (f.imm.toNat / 2)))
    else if f.imm.toNat % 2 = 0 ∧ f.imm.toNat / 128 % 16 = 4 then some (.amin f.s f.d f.a (.ofNat 1 (f.imm.toNat / 2048)) (.ofNat 2 (f.imm.toNat / 32)) (.ofNat 4 (f.imm.toNat / 2)))
    else if f.imm.toNat % 2 = 0 ∧ f.imm.toNat / 128 % 16 = 5 then some (.amax f.s f.d f.a (.ofNat 1 (f.imm.toNat / 2048)) (.ofNat 2 (f.imm.toNat / 32)) (.ofNat 4 (f.imm.toNat / 2)))
    else if f.imm.toNat % 2 = 0 ∧ f.imm.toNat / 128 % 16 = 6 then some (.aminu f.s f.d f.a (.ofNat 1 (f.imm.toNat / 2048)) (.ofNat 2 (f.imm.toNat / 32)) (.ofNat 4 (f.imm.toNat / 2)))
    else if f.imm.toNat % 2 = 0 ∧ f.imm.toNat / 128 % 16 = 7 then some (.amaxu f.s f.d f.a (.ofNat 1 (f.imm.toNat / 2048)) (.ofNat 2 (f.imm.toNat / 32)) (.ofNat 4 (f.imm.toNat / 2)))
    else if f.imm.toNat % 2 = 0 ∧ f.imm.toNat / 128 % 16 = 8 then some (.axchg f.s f.d f.a (.ofNat 1 (f.imm.toNat / 2048)) (.ofNat 2 (f.imm.toNat / 32)) (.ofNat 4 (f.imm.toNat / 2)))
    else if f.imm.toNat % 2 = 0 ∧ f.imm.toNat / 128 % 16 = 9 then some (.acas f.s f.d f.a (.ofNat 1 (f.imm.toNat / 2048)) (.ofNat 2 (f.imm.toNat / 32)) (.ofNat 4 (f.imm.toNat / 2)))
    else if f.imm.toNat % 2 = 0 ∧ f.imm.toNat / 128 % 16 = 10 then some (.acas64 f.s f.d f.a (.ofNat 1 (f.imm.toNat / 2048)) (.ofNat 2 (f.imm.toNat / 32)) (.ofNat 4 (f.imm.toNat / 2)))
    else if f.imm.toNat % 2 = 0 ∧ f.imm.toNat / 128 % 16 = 11 then some (.acas128 f.s f.d f.a (.ofNat 1 (f.imm.toNat / 2048)) (.ofNat 2 (f.imm.toNat / 32)) (.ofNat 4 (f.imm.toNat / 2)))
    else if f.imm.toNat % 2 = 0 ∧ f.imm.toNat / 128 % 16 = 12 then some (.afadd f.s f.d f.a (.ofNat 1 (f.imm.toNat / 2048)) (.ofNat 2 (f.imm.toNat / 32)) (.ofNat 4 (f.imm.toNat / 2)))
    else if f.imm.toNat % 2 = 0 ∧ f.imm.toNat / 128 % 16 = 13 then some (.afaddB2 f.s f.d f.a (.ofNat 1 (f.imm.toNat / 2048)) (.ofNat 2 (f.imm.toNat / 32)) (.ofNat 4 (f.imm.toNat / 2)))
    else if f.imm.toNat / 128 % 16 = 14 then some (.ald f.s f.d f.a (.ofNat 2 (f.imm.toNat / 2048 * 2 + f.imm.toNat % 2)) (.ofNat 2 (f.imm.toNat / 32)) (.ofNat 4 (f.imm.toNat / 2)))
    else if f.imm.toNat / 128 % 16 = 15 then some (.ast f.s f.d f.a (.ofNat 2 (f.imm.toNat / 2048 * 2 + f.imm.toNat % 2)) (.ofNat 2 (f.imm.toNat / 32)) (.ofNat 4 (f.imm.toNat / 2))) else none
  | 20 =>
    if f.d.toNat = 0 ∧ f.a.toNat = 0 ∧ f.imm.toNat % 16 = 0 ∧ f.imm.toNat / 1024 = 0 then some (.phase f.s (.ofNat 4 (f.imm.toNat / 64)) (.ofNat 2 (f.imm.toNat / 16)))
    else if f.d.toNat = 0 ∧ f.a.toNat = 0 ∧ f.imm.toNat % 16 = 0 ∧ f.imm.toNat / 1024 = 1 then some (.fence f.s (.ofNat 4 (f.imm.toNat / 64)) (.ofNat 2 (f.imm.toNat / 16)))
    else if f.d.toNat = 0 ∧ f.a.toNat = 0 ∧ f.imm.toNat / 64 = 32 then some (.qfence f.s (.ofNat 6 f.imm.toNat))
    else if f.imm.toNat % 8 = 0 ∧ f.imm.toNat / 1024 = 3 then some (.monw f.s f.d f.a (.ofNat 4 (f.imm.toNat / 64)) (.ofNat 2 (f.imm.toNat / 16)) (.ofNat 1 (f.imm.toNat / 8))) else none
  | 21 =>
    if f.d.toNat = 0 ∧ f.imm.toNat % 32 = 0 ∧ f.imm.toNat / 512 = 0 then some (.barinit f.s f.a (.ofNat 4 (f.imm.toNat / 32)))
    else if f.imm.toNat = 16 then some (.barinitM f.s f.d f.a)
    else if f.d.toNat = 0 ∧ f.a.toNat = 0 ∧ f.imm.toNat % 32 = 0 ∧ f.imm.toNat / 512 = 1 then some (.bararr f.s (.ofNat 4 (f.imm.toNat / 32)))
    else if f.d.toNat = 0 ∧ f.imm.toNat = 528 then some (.bararrM f.s f.a)
    else if f.d.toNat = 0 ∧ f.a.toNat = 0 ∧ f.imm.toNat % 32 = 0 ∧ f.imm.toNat / 512 = 2 then some (.barwait f.s (.ofNat 4 (f.imm.toNat / 32)))
    else if f.imm.toNat = 1040 then some (.barwaitM f.s f.d f.a)
    else if f.d.toNat = 0 ∧ f.a.toNat = 0 ∧ f.imm.toNat % 32 = 0 ∧ f.imm.toNat / 512 = 3 then some (.barsync f.s (.ofNat 4 (f.imm.toNat / 32)))
    else if f.d.toNat = 0 ∧ f.imm.toNat = 1552 then some (.barsyncM f.s f.a)
    else if f.imm.toNat = 2064 then some (.barexpM f.s f.d f.a)
    else if f.d.toNat = 0 ∧ f.a.toNat = 0 ∧ f.imm.toNat = 2560 then some (.gbar f.s) else none
  | _ => none

/-- The majors of the FL layout (R22); JMP and CALL are told apart by D (R32). -/
def decodeFL (f : FL) : Option Instr :=
  match f.major.toNat with
  | 9 =>
    some (.movhi f.s f.d f.imm)
  | 11 =>
    if f.d.toNat = 0 then some (.jmp f.s f.imm)
    else if f.d.toNat = 1 then some (.call f.s f.imm) else none
  | _ => none

/-- The instruction whose fields a word holds, before the checks on field values of R32. Majors 0x00 and 0x1D to 0x1F are none. -/
def decodeRaw (w : Word) : Option Instr :=
  match (majorOf w).toNat with
  | 1 => decodeInt (F3.ofWord w)
  | 2 => decodeIntX (F3.ofWord w)
  | 3 => decodeFI (FI.ofWord w)
  | 4 => decodeFI (FI.ofWord w)
  | 5 => decodeFI (FI.ofWord w)
  | 6 => decodeFI (FI.ofWord w)
  | 7 => decodeFI (FI.ofWord w)
  | 8 => decodeFI (FI.ofWord w)
  | 9 => decodeFL (FL.ofWord w)
  | 10 => decodeFI (FI.ofWord w)
  | 11 => decodeFL (FL.ofWord w)
  | 12 => decodeCtl (F3.ofWord w)
  | 13 => decodeFI (FI.ofWord w)
  | 14 => decodeFI (FI.ofWord w)
  | 15 => decodeLdx (F3.ofWord w)
  | 16 => decodeFp (F3.ofWord w)
  | 17 => decodeFI (FI.ofWord w)
  | 18 => decodeFmt (F3.ofWord w)
  | 19 => decodeFI (FI.ofWord w)
  | 20 => decodeFI (FI.ofWord w)
  | 21 => decodeFI (FI.ofWord w)
  | 22 => decodeChan (F3.ofWord w)
  | 23 => decodeCopy (F3.ofWord w)
  | 24 => decodeMat (F3.ofWord w)
  | 25 => decodeSlot (F3.ofWord w)
  | 26 => decodeHnd (F3.ofWord w)
  | 27 => decodePwr (F3.ofWord w)
  | 28 => decodeSys (F3.ofWord w)
  | _ => none

/-- The instruction a word is, or none for an illegal word (R32). -/
def decode (w : Word) : Option Instr :=
  match decodeRaw w with
  | some i => if i.wf then some i else none
  | none => none

/-- The word of an instruction; a step that has no word has none. -/
def encode : Instr → Option Word
  | .add s d a b => some (F3.toWord ⟨s, 1, 0, d, a, b⟩)
  | .sub s d a b => some (F3.toWord ⟨s, 1, 1, d, a, b⟩)
  | .mul s d a b => some (F3.toWord ⟨s, 1, 2, d, a, b⟩)
  | .mulh s d a b => some (F3.toWord ⟨s, 1, 3, d, a, b⟩)
  | .mulhu s d a b => some (F3.toWord ⟨s, 1, 4, d, a, b⟩)
  | .mad s d a b => some (F3.toWord ⟨s, 1, 5, d, a, b⟩)
  | .and s d a b => some (F3.toWord ⟨s, 1, 6, d, a, b⟩)
  | .or s d a b => some (F3.toWord ⟨s, 1, 7, d, a, b⟩)
  | .xor s d a b => some (F3.toWord ⟨s, 1, 8, d, a, b⟩)
  | .andn s d a b => some (F3.toWord ⟨s, 1, 9, d, a, b⟩)
  | .shl s d a b => some (F3.toWord ⟨s, 1, 10, d, a, b⟩)
  | .shr s d a b => some (F3.toWord ⟨s, 1, 11, d, a, b⟩)
  | .sra s d a b => some (F3.toWord ⟨s, 1, 12, d, a, b⟩)
  | .rot s d a b => some (F3.toWord ⟨s, 1, 13, d, a, b⟩)
  | .min s d a b => some (F3.toWord ⟨s, 1, 14, d, a, b⟩)
  | .max s d a b => some (F3.toWord ⟨s, 1, 15, d, a, b⟩)
  | .minu s d a b => some (F3.toWord ⟨s, 1, 16, d, a, b⟩)
  | .maxu s d a b => some (F3.toWord ⟨s, 1, 17, d, a, b⟩)
  | .seq s d a b => some (F3.toWord ⟨s, 1, 18, d, a, b⟩)
  | .sne s d a b => some (F3.toWord ⟨s, 1, 19, d, a, b⟩)
  | .slt s d a b => some (F3.toWord ⟨s, 1, 20, d, a, b⟩)
  | .sltu s d a b => some (F3.toWord ⟨s, 1, 21, d, a, b⟩)
  | .sel s d a b => some (F3.toWord ⟨s, 1, 22, d, a, b⟩)
  | .clz s d a => some (F3.toWord ⟨s, 1, 23, d, a, 0#7⟩)
  | .popc s d a => some (F3.toWord ⟨s, 1, 24, d, a, 0#7⟩)
  | .brev s d a => some (F3.toWord ⟨s, 1, 25, d, a, 0#7⟩)
  | .divu s d a b => some (F3.toWord ⟨s, 1, 26, d, a, b⟩)
  | .remu s d a b => some (F3.toWord ⟨s, 1, 27, d, a, b⟩)
  | .shli s d a n => some (F3.toWord ⟨s, 2, 0, d, a, .ofNat 7 (n.toNat)⟩)
  | .shri s d a n => some (F3.toWord ⟨s, 2, 1, d, a, .ofNat 7 (n.toNat)⟩)
  | .srai s d a n => some (F3.toWord ⟨s, 2, 2, d, a, .ofNat 7 (n.toNat)⟩)
  | .roti s d a n => some (F3.toWord ⟨s, 2, 3, d, a, .ofNat 7 (n.toNat)⟩)
  | .bfe s d a b => some (F3.toWord ⟨s, 2, 4, d, a, b⟩)
  | .bfi s d a b => some (F3.toWord ⟨s, 2, 5, d, a, b⟩)
  | .add64 s d a b => some (F3.toWord ⟨s, 2, 6, d, a, b⟩)
  | .sub64 s d a b => some (F3.toWord ⟨s, 2, 7, d, a, b⟩)
  | .shl64 s d a b => some (F3.toWord ⟨s, 2, 8, d, a, b⟩)
  | .shr64 s d a b => some (F3.toWord ⟨s, 2, 9, d, a, b⟩)
  | .mul64 s d a b => some (F3.toWord ⟨s, 2, 10, d, a, b⟩)
  | .ptr s d a b => some (F3.toWord ⟨s, 2, 11, d, a, b⟩)
  | .ptrsp s d a => some (F3.toWord ⟨s, 2, 12, d, a, 0#7⟩)
  | .ptrrk s d a => some (F3.toWord ⟨s, 2, 13, d, a, 0#7⟩)
  | .ptrof s d a => some (F3.toWord ⟨s, 2, 14, d, a, 0#7⟩)
  | .addH2 s d a b => some (F3.toWord ⟨s, 2, 16, d, a, b⟩)
  | .subH2 s d a b => some (F3.toWord ⟨s, 2, 17, d, a, b⟩)
  | .maxH2 s d a b => some (F3.toWord ⟨s, 2, 18, d, a, b⟩)
  | .minH2 s d a b => some (F3.toWord ⟨s, 2, 19, d, a, b⟩)
  | .maxuH2 s d a b => some (F3.toWord ⟨s, 2, 20, d, a, b⟩)
  | .minuH2 s d a b => some (F3.toWord ⟨s, 2, 21, d, a, b⟩)
  | .packH2 s d a b => some (F3.toWord ⟨s, 2, 22, d, a, b⟩)
  | .acsH2 s d a b => some (F3.toWord ⟨s, 2, 23, d, a, b⟩)
  | .addi s d a i => some (FI.toWord ⟨s, 3, d, a, i⟩)
  | .andi s d a i => some (FI.toWord ⟨s, 4, d, a, i⟩)
  | .ori s d a i => some (FI.toWord ⟨s, 5, d, a, i⟩)
  | .xori s d a i => some (FI.toWord ⟨s, 6, d, a, i⟩)
  | .slti s d a i => some (FI.toWord ⟨s, 7, d, a, i⟩)
  | .sltiu s d a i => some (FI.toWord ⟨s, 8, d, a, i⟩)
  | .movhi s d i => some (FL.toWord ⟨s, 9, d, i⟩)
  | .bcc s c a i => some (FI.toWord ⟨s, 10, .ofNat 7 (c.toNat), a, i⟩)
  | .jmp s i => some (FL.toWord ⟨s, 11, 0#7, i⟩)
  | .call s i => some (FL.toWord ⟨s, 11, 1#7, i⟩)
  | .jmpr s a => some (F3.toWord ⟨s, 12, 0, 0#7, a, 0#7⟩)
  | .callr s a => some (F3.toWord ⟨s, 12, 1, 0#7, a, 0#7⟩)
  | .ret s => some (F3.toWord ⟨s, 12, 2, 0#7, 0#7, 0#7⟩)
  | .exit s => some (F3.toWord ⟨s, 12, 3, 0#7, 0#7, 0#7⟩)
  | .yield s => some (F3.toWord ⟨s, 12, 4, 0#7, 0#7, 0#7⟩)
  | .nop s => some (F3.toWord ⟨s, 12, 5, 0#7, 0#7, 0#7⟩)
  | .winb s x a b => some (F3.toWord ⟨s, 12, 6, .ofNat 7 (x.toNat), a, b⟩)
  | .elect s d a => some (F3.toWord ⟨s, 12, 7, d, a, 0#7⟩)
  | .fsync s a => some (F3.toWord ⟨s, 12, 8, 0#7, a, 0#7⟩)
  | .fshfl s d a b => some (F3.toWord ⟨s, 12, 9, d, a, b⟩)
  | .fballot s d a => some (F3.toWord ⟨s, 12, 10, d, a, 0#7⟩)
  | .poll s d a => some (F3.toWord ⟨s, 12, 11, d, a, 0#7⟩)
  | .ld s d a z o => some (FI.toWord ⟨s, 13, d, a, .ofNat 12 (z.toNat * 512 + o.toNat)⟩)
  | .st s d a z o => some (FI.toWord ⟨s, 14, d, a, .ofNat 12 (z.toNat * 512 + o.toNat)⟩)
  | .ldf s d a b => some (F3.toWord ⟨s, 15, 0, d, a, b⟩)
  | .stf s d a b => some (F3.toWord ⟨s, 15, 1, d, a, b⟩)
  | .lds s d a o => some (F3.toWord ⟨s, 15, 2, d, a, o⟩)
  | .sts s d a o => some (F3.toWord ⟨s, 15, 3, d, a, o⟩)
  | .fadd s d a b => some (F3.toWord ⟨s, 16, 0, d, a, b⟩)
  | .fsub s d a b => some (F3.toWord ⟨s, 16, 1, d, a, b⟩)
  | .fmul s d a b => some (F3.toWord ⟨s, 16, 2, d, a, b⟩)
  | .ffma s d a b => some (F3.toWord ⟨s, 16, 3, d, a, b⟩)
  | .fmin s d a b => some (F3.toWord ⟨s, 16, 4, d, a, b⟩)
  | .fmax s d a b => some (F3.toWord ⟨s, 16, 5, d, a, b⟩)
  | .fabs s d a => some (F3.toWord ⟨s, 16, 6, d, a, 0#7⟩)
  | .fneg s d a => some (F3.toWord ⟨s, 16, 7, d, a, 0#7⟩)
  | .fcmp s d a b => some (F3.toWord ⟨s, 16, 8, d, a, b⟩)
  | .fsel s d a b => some (F3.toWord ⟨s, 16, 9, d, a, b⟩)
  | .frcp s d a => some (F3.toWord ⟨s, 16, 10, d, a, 0#7⟩)
  | .frsq s d a => some (F3.toWord ⟨s, 16, 11, d, a, 0#7⟩)
  | .fsqrt s d a => some (F3.toWord ⟨s, 16, 12, d, a, 0#7⟩)
  | .fexp2 s d a => some (F3.toWord ⟨s, 16, 13, d, a, 0#7⟩)
  | .flog2 s d a => some (F3.toWord ⟨s, 16, 14, d, a, 0#7⟩)
  | .fsin s d a => some (F3.toWord ⟨s, 16, 15, d, a, 0#7⟩)
  | .fcos s d a => some (F3.toWord ⟨s, 16, 16, d, a, 0#7⟩)
  | .fdiv s d a b => some (F3.toWord ⟨s, 16, 17, d, a, b⟩)
  | .hadd2B s d a b => some (F3.toWord ⟨s, 16, 18, d, a, b⟩)
  | .hmul2B s d a b => some (F3.toWord ⟨s, 16, 19, d, a, b⟩)
  | .hfma2B s d a b => some (F3.toWord ⟨s, 16, 20, d, a, b⟩)
  | .hadd2F s d a b => some (F3.toWord ⟨s, 16, 21, d, a, b⟩)
  | .hmul2F s d a b => some (F3.toWord ⟨s, 16, 22, d, a, b⟩)
  | .hfma2F s d a b => some (F3.toWord ⟨s, 16, 23, d, a, b⟩)
  | .cvti s d a v r => some (F3.toWord ⟨s, 16, 24, d, a, .ofNat 7 (v.toNat * 64 + r.toNat)⟩)
  | .cvtu s d a v r => some (F3.toWord ⟨s, 16, 25, d, a, .ofNat 7 (v.toNat * 64 + r.toNat)⟩)
  | .cvta s d a v => some (F3.toWord ⟨s, 16, 26, d, a, .ofNat 7 (v.toNat * 64)⟩)
  | .cvtf s d a e p => some (FI.toWord ⟨s, 17, d, a, .ofNat 12 (e.toNat * 64 + p.toNat + 56)⟩)
  | .cvtn s d a e r p => some (FI.toWord ⟨s, 17, d, a, .ofNat 12 (e.toNat * 64 + r.toNat * 8 + p.toNat)⟩)
  | .fmtset s a b => some (F3.toWord ⟨s, 18, 0, 0#7, a, b⟩)
  | .fmtget s d a => some (F3.toWord ⟨s, 18, 1, d, a, 0#7⟩)
  | .fmtgetSt s d c => some (F3.toWord ⟨s, 18, 1, d, 0#7, .ofNat 7 (c.toNat + 64)⟩)
  | .fmtchk s d a x e => some (F3.toWord ⟨s, 18, 2, d, a, .ofNat 7 (x.toNat * 64 + e.toNat)⟩)
  | .aadd s d a n r c => some (FI.toWord ⟨s, 19, d, a, .ofNat 12 (n.toNat * 2048 + r.toNat * 32 + c.toNat * 2)⟩)
  | .aand s d a n r c => some (FI.toWord ⟨s, 19, d, a, .ofNat 12 (n.toNat * 2048 + r.toNat * 32 + c.toNat * 2 + 128)⟩)
  | .aor s d a n r c => some (FI.toWord ⟨s, 19, d, a, .ofNat 12 (n.toNat * 2048 + r.toNat * 32 + c.toNat * 2 + 256)⟩)
  | .axor s d a n r c => some (FI.toWord ⟨s, 19, d, a, .ofNat 12 (n.toNat * 2048 + r.toNat * 32 + c.toNat * 2 + 384)⟩)
  | .amin s d a n r c => some (FI.toWord ⟨s, 19, d, a, .ofNat 12 (n.toNat * 2048 + r.toNat * 32 + c.toNat * 2 + 512)⟩)
  | .amax s d a n r c => some (FI.toWord ⟨s, 19, d, a, .ofNat 12 (n.toNat * 2048 + r.toNat * 32 + c.toNat * 2 + 640)⟩)
  | .aminu s d a n r c => some (FI.toWord ⟨s, 19, d, a, .ofNat 12 (n.toNat * 2048 + r.toNat * 32 + c.toNat * 2 + 768)⟩)
  | .amaxu s d a n r c => some (FI.toWord ⟨s, 19, d, a, .ofNat 12 (n.toNat * 2048 + r.toNat * 32 + c.toNat * 2 + 896)⟩)
  | .axchg s d a n r c => some (FI.toWord ⟨s, 19, d, a, .ofNat 12 (n.toNat * 2048 + r.toNat * 32 + c.toNat * 2 + 1024)⟩)
  | .acas s d a n r c => some (FI.toWord ⟨s, 19, d, a, .ofNat 12 (n.toNat * 2048 + r.toNat * 32 + c.toNat * 2 + 1152)⟩)
  | .acas64 s d a n r c => some (FI.toWord ⟨s, 19, d, a, .ofNat 12 (n.toNat * 2048 + r.toNat * 32 + c.toNat * 2 + 1280)⟩)
  | .acas128 s d a n r c => some (FI.toWord ⟨s, 19, d, a, .ofNat 12 (n.toNat * 2048 + r.toNat * 32 + c.toNat * 2 + 1408)⟩)
  | .afadd s d a n r c => some (FI.toWord ⟨s, 19, d, a, .ofNat 12 (n.toNat * 2048 + r.toNat * 32 + c.toNat * 2 + 1536)⟩)
  | .afaddB2 s d a n r c => some (FI.toWord ⟨s, 19, d, a, .ofNat 12 (n.toNat * 2048 + r.toNat * 32 + c.toNat * 2 + 1664)⟩)
  | .ald s d a z r c => some (FI.toWord ⟨s, 19, d, a, .ofNat 12 (z.toNat / 2 * 2048 + r.toNat * 32 + c.toNat * 2 + z.toNat % 2 + 1792)⟩)
  | .ast s d a z r c => some (FI.toWord ⟨s, 19, d, a, .ofNat 12 (z.toNat / 2 * 2048 + r.toNat * 32 + c.toNat * 2 + z.toNat % 2 + 1920)⟩)
  | .phase s c k => some (FI.toWord ⟨s, 20, 0#7, 0#7, .ofNat 12 (c.toNat * 64 + k.toNat * 16)⟩)
  | .fence s c k => some (FI.toWord ⟨s, 20, 0#7, 0#7, .ofNat 12 (c.toNat * 64 + k.toNat * 16 + 1024)⟩)
  | .qfence s m => some (FI.toWord ⟨s, 20, 0#7, 0#7, .ofNat 12 (m.toNat + 2048)⟩)
  | .monw s d a c k w => some (FI.toWord ⟨s, 20, d, a, .ofNat 12 (c.toNat * 64 + k.toNat * 16 + w.toNat * 8 + 3072)⟩)
  | .barinit s a b => some (FI.toWord ⟨s, 21, 0#7, a, .ofNat 12 (b.toNat * 32)⟩)
  | .barinitM s d a => some (FI.toWord ⟨s, 21, d, a, 16#12⟩)
  | .bararr s b => some (FI.toWord ⟨s, 21, 0#7, 0#7, .ofNat 12 (b.toNat * 32 + 512)⟩)
  | .bararrM s a => some (FI.toWord ⟨s, 21, 0#7, a, 528#12⟩)
  | .barwait s b => some (FI.toWord ⟨s, 21, 0#7, 0#7, .ofNat 12 (b.toNat * 32 + 1024)⟩)
  | .barwaitM s d a => some (FI.toWord ⟨s, 21, d, a, 1040#12⟩)
  | .barsync s b => some (FI.toWord ⟨s, 21, 0#7, 0#7, .ofNat 12 (b.toNat * 32 + 1536)⟩)
  | .barsyncM s a => some (FI.toWord ⟨s, 21, 0#7, a, 1552#12⟩)
  | .barexpM s d a => some (FI.toWord ⟨s, 21, d, a, 2064#12⟩)
  | .gbar s => some (FI.toWord ⟨s, 21, 0#7, 0#7, 2560#12⟩)
  | .chinit s a h => some (F3.toWord ⟨s, 22, 0, 0#7, a, .ofNat 7 (h.toNat)⟩)
  | .chpush s a h => some (F3.toWord ⟨s, 22, 1, 0#7, a, .ofNat 7 (h.toNat)⟩)
  | .chpop s d a h => some (F3.toWord ⟨s, 22, 2, d, a, .ofNat 7 (h.toNat)⟩)
  | .chres s d h => some (F3.toWord ⟨s, 22, 3, d, 0#7, .ofNat 7 (h.toNat)⟩)
  | .chpub s a h => some (F3.toWord ⟨s, 22, 4, 0#7, a, .ofNat 7 (h.toNat)⟩)
  | .chpoll s d a h => some (F3.toWord ⟨s, 22, 5, d, a, .ofNat 7 (h.toNat)⟩)
  | .ckick s q a n => some (F3.toWord ⟨s, 23, 0, .ofNat 7 (q.toNat), a, n⟩)
  | .ctagwAny s a h => some (F3.toWord ⟨s, 23, 1, 0#7, a, .ofNat 7 (h.toNat)⟩)
  | .ctagwAll s a h => some (F3.toWord ⟨s, 23, 2, 0#7, a, .ofNat 7 (h.toNat)⟩)
  | .ctagff s d a h => some (F3.toWord ⟨s, 23, 3, d, a, .ofNat 7 (h.toNat)⟩)
  | .ctagclr s a h => some (F3.toWord ⟨s, 23, 4, 0#7, a, .ofNat 7 (h.toNat)⟩)
  | .cstat s d q => some (F3.toWord ⟨s, 23, 5, d, 0#7, .ofNat 7 (q.toNat)⟩)
  | .mzero s c => some (F3.toWord ⟨s, 24, 0, .ofNat 7 (c.toNat), 0#7, 0#7⟩)
  | .mmaP s h c x y => some (F3.toWord ⟨s, 24, 1, .ofNat 7 (h.toNat * 4 + c.toNat), .ofNat 7 (x.toNat), .ofNat 7 (y.toNat)⟩)
  | .mmaC s h c x y => some (F3.toWord ⟨s, 24, 2, .ofNat 7 (h.toNat * 4 + c.toNat), .ofNat 7 (x.toNat), .ofNat 7 (y.toNat)⟩)
  | .mrd s d a c => some (F3.toWord ⟨s, 24, 3, d, a, .ofNat 7 (c.toNat)⟩)
  | .mwr s d a c => some (F3.toWord ⟨s, 24, 4, d, a, .ofNat 7 (c.toNat)⟩)
  | .mstore s r c a e => some (F3.toWord ⟨s, 24, 5, .ofNat 7 (r.toNat * 4 + c.toNat), a, .ofNat 7 (e.toNat)⟩)
  | .mstoreS s x a => some (F3.toWord ⟨s, 24, 5, .ofNat 7 (x.toNat + 64), a, 0#7⟩)
  | .mqnt s r c a q x => some (F3.toWord ⟨s, 24, 6, .ofNat 7 (r.toNat * 4 + c.toNat), a, .ofNat 7 (q.toNat * 32 + x.toNat)⟩)
  | .had s p r n x => some (F3.toWord ⟨s, 24, 7, .ofNat 7 (p.toNat * 32 + r.toNat * 4 + n.toNat), .ofNat 7 (x.toNat), 0#7⟩)
  | .mchk s d c => some (F3.toWord ⟨s, 24, 8, d, .ofNat 7 (c.toNat), 0#7⟩)
  | .mwait s => some (F3.toWord ⟨s, 24, 9, 0#7, 0#7, 0#7⟩)
  | .sclaim s d k n => some (F3.toWord ⟨s, 25, 0, d, .ofNat 7 (k.toNat), .ofNat 7 (n.toNat)⟩)
  | .srel s k a n => some (F3.toWord ⟨s, 25, 1, .ofNat 7 (k.toNat), a, .ofNat 7 (n.toNat)⟩)
  | .mld s m x a c g => some (F3.toWord ⟨s, 25, 2, .ofNat 7 (m.toNat * 32 + x.toNat), a, .ofNat 7 (c.toNat * 64 + g.toNat)⟩)
  | .sinfo s d a k => some (F3.toWord ⟨s, 25, 3, d, a, .ofNat 7 (k.toNat)⟩)
  | .hnew s d a => some (F3.toWord ⟨s, 26, 0, d, a, 0#7⟩)
  | .hsplit s d a m => some (F3.toWord ⟨s, 26, 1, d, a, .ofNat 7 (m.toNat)⟩)
  | .hdrop s a => some (F3.toWord ⟨s, 26, 2, 0#7, a, 0#7⟩)
  | .hrec s d a t => some (F3.toWord ⟨s, 26, 3, d, a, t⟩)
  | .hinfo s d a => some (F3.toWord ⟨s, 26, 4, d, a, 0#7⟩)
  | .hbind s d a b => some (F3.toWord ⟨s, 26, 5, d, a, b⟩)
  | .pcls s c => some (F3.toWord ⟨s, 27, 0, 0#7, 0#7, .ofNat 7 (c.toNat)⟩)
  | .burn s l => some (F3.toWord ⟨s, 27, 1, 0#7, 0#7, .ofNat 7 (l.toNat)⟩)
  | .balidle s => some (F3.toWord ⟨s, 27, 2, 0#7, 0#7, 0#7⟩)
  | .ykrd s d => some (F3.toWord ⟨s, 27, 3, d, 0#7, 0#7⟩)
  | .permits s d => some (F3.toWord ⟨s, 27, 4, d, 0#7, 0#7⟩)
  | .sysrd s d b => some (F3.toWord ⟨s, 28, 0, d, 0#7, b⟩)
  | .syswr s a b => some (F3.toWord ⟨s, 28, 1, 0#7, a, b⟩)
  | .trap s a b => some (F3.toWord ⟨s, 28, 2, 0#7, a, b⟩)
  | .errrd s d b => some (F3.toWord ⟨s, 28, 3, d, 0#7, b⟩)
  | .clkrd s d => some (F3.toWord ⟨s, 28, 4, d, 0#7, 0#7⟩)
  | .clkrdNom s d => some (F3.toWord ⟨s, 28, 5, d, 0#7, 0#7⟩)
  | .refrd s d => some (F3.toWord ⟨s, 28, 6, d, 0#7, 0#7⟩)
  | .moncfg s d a u => some (F3.toWord ⟨s, 28, 7, d, a, .ofNat 7 (u.toNat)⟩)
  | .monrd s d a u => some (F3.toWord ⟨s, 28, 8, d, a, .ofNat 7 (u.toNat)⟩)
  | .brk s b => some (F3.toWord ⟨s, 28, 9, 0#7, 0#7, b⟩)
  | .nrec s d a n => some (F3.toWord ⟨s, 28, 10, d, a, n⟩)
  | .binflush s a => some (F3.toWord ⟨s, 28, 11, 0#7, a, 0#7⟩)
  | .enq s d a => some (F3.toWord ⟨s, 28, 12, d, a, 0#7⟩)
  | .create _ _ => none
  | .loadkernel _ _ => none
  | .activate _ _ => none
  | .quiesce _ _ => none
  | .suspend _ _ => none
  | .snappool _ _ => none
  | .destroy _ _ => none
  | .clearerr _ _ => none
  | .importkey _ _ => none
  | .setheadland _ _ => none
  | .dropkey _ _ => none
  | .qopen _ _ => none
  | .qclose _ _ => none
  | .qstop _ _ => none
  | .qstart _ _ => none
  | .preempt _ _ => none
  | .pagehold _ _ => none
  | .tagset _ _ => none
  | .notifyring _ _ => none
  | .hotcfg _ _ => none
  | .handlearea _ _ => none
  | .pwrcfg _ _ => none
  | .peerwin _ _ => none
  | .linkcfg _ _ => none
  | .fundamentalReset => none
  | .startUpComplete _ => none
  | .configurationRequest _ => none
  | .functionLevelReset _ => none
  | .admtail _ _ => none
  | .bar0RegisterWrite _ _ _ => none
  | .doorbell _ _ _ => none
  | .spdmRequest _ _ => none
  | .tdiStateChange _ _ _ => none
  | .pcieLinkDown _ => none
  | .rackCapMessage _ => none
  | .capExpiry => none
  | .capFloorStep => none
  | .dispatchPick => none
  | .dependenceReread _ => none
  | .deadlineMissed _ => none
  | .leafReread _ => none
  | .pageRequestRepost _ => none
  | .markingResume _ => none
  | .groupPlace => none
  | .placementPreempt _ => none
  | .placementReserve _ => none
  | .groupSaveComplete _ => none
  | .slotLazySave _ => none
  | .preemptHoldExpiry _ => none
  | .launchDrained _ => none
  | .launchFinish _ => none
  | .rollbackComplete _ => none
  | .snapshotPageCopy _ _ => none
  | .binTimer _ _ => none
  | .resultWriteback _ _ _ => none
  | .backoffExpiry _ _ => none
  | .monwTimeout _ _ => none
  | .serviceMessageAccept _ => none
  | .serviceFurrowPerform _ => none
  | .slewGrant => none
  | .drillFetch _ _ => none
  | .copyElement _ _ => none
  | .transposerBlock _ _ => none
  | .reductionElement _ _ => none
  | .copyComplete _ _ => none
  | .mEntryPerform _ => none
  | .harrowMld _ => none
  | .hnewAtHome _ => none
  | .hrecAtTarget _ => none
  | .hbindAtHome _ => none
  | .handlePostApply _ => none
  | .cellCreate _ => none
  | .tensorRetagComplete _ _ _ => none
  | .fmtsetInstall _ => none
  | .hang _ => none
  | .yokeSample _ _ _ => none
  | .yokeThrottleStep _ => none
  | .balidleTimeout _ _ => none
  | .clockBoundary _ => none
  | .relockEnd _ => none
  | .boostFallStep _ => none
  | .permitRefill _ => none
  | .powerPeriod _ => none
  | .monitorSample _ _ => none
  | .hotnessEpoch => none
  | .keyZeroizeComplete _ => none
  | .teardownComplete _ => none
  | .pageholdDrained _ => none
  | .linkTrained _ _ _ _ => none
  | .linkTrainingRetry _ => none
  | .flitReceive _ _ => none
  | .laneLoss _ => none
  | .linkTimeout _ => none
  | .peerAccess _ => none
  | .illegalInstruction => none
  | .pcieLinkUp _ _ => none
  | .scrub _ => none

/-- An instruction word as its four bytes in memory, the least significant first (R1, R20). -/
def wordBytes (w : Word) : List Byte := bytesOf 4 w.toNat

/-- The instruction word that four bytes of code hold (R1, R20). -/
def wordOfBytes (bs : List Byte) : Word := .ofNat 32 (ofBytes bs)

/-- The instruction read from bits w, bit 0 the least significant of the one word; every word here has 32 bits. -/
def decodeTableWord (nbits w : Nat) : Option Instr :=
  if nbits = 32 then decode (wordOfBytes (bytesOf 4 w)) else none

end Sys2Proof
end

