-- ==== Sys2Proof/Machine/Picker.lean ====
section
/-! DEFINITION. The picker and the sheaf (R123 to R127), the fetch of an instruction (R20, R21) and ILLEGAL_OP (R33). -/

namespace Sys2Proof.Machine

/-- The Ready threads of a core, in ascending thread order (R119, R123). Groups are listed by launch and linear index. -/
def State.groupsOn (s : State) (c : Nat) : List Nat :=
  (List.range s.groups.length).filter fun g => (s.group g).core = c && decide ((s.group g).state = .resident)

/-- Insertion into a list kept in order. -/
def insertBy {α : Type} (le : α → α → Bool) (x : α) : List α → List α
  | [] => [x]
  | y :: ys => if le x y then x :: y :: ys else y :: insertBy le x ys

def sortBy {α : Type} (le : α → α → Bool) : List α → List α
  | [] => []
  | x :: xs => insertBy le x (sortBy le xs)

/-- Ascending thread order (R123): launch sequence, group linear index, thread index. -/
def State.threadLe (s : State) (a b : TRef) : Bool :=
  let ka := ((s.launchOf a.g).seq, (s.group a.g).launch, (s.group a.g).lin, a.t)
  let kb := ((s.launchOf b.g).seq, (s.group b.g).launch, (s.group b.g).lin, b.t)
  decide (ka.1 < kb.1) || (decide (ka.1 = kb.1) && (decide (ka.2.1 < kb.2.1) || (decide (ka.2.1 = kb.2.1) &&
    (decide (ka.2.2.1 < kb.2.2.1) || (decide (ka.2.2.1 = kb.2.2.1) && decide (ka.2.2.2 ≤ kb.2.2.2))))))

def State.readyOn (s : State) (c : Nat) : List TRef :=
  (s.groupsOn c).flatMap fun g => (s.refs g).filter s.canIssue

/-- The Ready threads of a launch at a counter. -/
def State.readyAtPc (s : State) (ready : List TRef) (l : Nat) (pc : Int) : List TRef :=
  ready.filter fun r => (s.group r.g).launch = l && decide ((s.thread r).pc = pc)

/-- The oldest of some threads (R124). -/
def State.oldest (s : State) : List TRef → Option TRef
  | [] => none
  | r :: rs => match s.oldest rs with
    | none => some r
    | some q => if (s.thread r).readyAt ≤ (s.thread q).readyAt then some r else some q

/-- Some counters as launch and counter, each once, in the order of their oldest thread (R126). -/
def State.counters (s : State) (ready rs : List TRef) : List (Nat × Int) :=
  let age (k : Nat × Int) : Nat := ((s.oldest (s.readyAtPc ready k.1 k.2)).map fun r => (s.thread r).readyAt).getD 0
  sortBy (fun a b => decide (age a ≤ age b)) (rs.map fun r => ((s.group r.g).launch, (s.thread r).pc)).eraseDups

/-- Entries whose counter has no Ready thread are freed, and at most one waiting counter takes an entry (R126): the counters that waited
before come first, since a thread that moves on is Ready at its new counter only from then on. -/
def State.retrack (s : State) (c : Nat) (ready : List TRef) : State :=
  let x := s.core c
  let keep := x.tracks.filter fun t => !(s.readyAtPc ready t.launch t.pc).isEmpty
  let untracked (k : Nat × Int) : Bool := !(keep.any fun t => decide (t.launch = k.1) && decide (t.pc = k.2))
  let old := x.want.filter fun k => untracked k && !(s.readyAtPc ready k.1 k.2).isEmpty
  let new := (s.counters ready (ready.filter fun r => untracked ((s.group r.g).launch, (s.thread r).pc))).filter fun k => !old.contains k
  match old ++ new with
  | [] => s.setCore c { x with tracks := keep, want := [] }
  | k :: ks =>
    if keep.length < Config.maxTracks then
      s.setCore c { x with tracks := keep ++ [{ launch := k.1, pc := k.2, lastPick := x.pickNo, allocAt := x.pickNo }], want := ks }
    else s.setCore c { x with tracks := keep, want := k :: ks }

/-- The keys of a tracked counter (R124). -/
structure PickKey where
  cls : Nat
  level : Nat
  oldest : Nat
  deriving DecidableEq, Repr

def State.pickKey (s : State) (rs : List TRef) : PickKey :=
  { cls := rs.foldl (fun m r => max m (s.group r.g).cls) 0
    level := rs.foldl (fun m r => min m (s.thread r).level) 7
    oldest := match s.oldest rs with
      | some r => (s.thread r).readyAt
      | none => 0 }

/-- The order in which a pick considers the entries: those stalled before, those 63 or more picks back, then by the keys of R124
(R127). -/
def State.pickLe (s : State) (ready : List TRef) (pickNo : Nat) (a b : Track) : Bool :=
  let due (t : Track) : Nat := if t.stalled then 0 else if 63 ≤ pickNo - t.lastPick then 1 else 2
  if due a ≠ due b then decide (due a < due b)
  else if due a = 1 then decide (a.lastPick < b.lastPick) || (decide (a.lastPick = b.lastPick) && decide (a.allocAt ≤ b.allocAt))
  else
    let ka := s.pickKey (s.readyAtPc ready a.launch a.pc)
    let kb := s.pickKey (s.readyAtPc ready b.launch b.pc)
    if ka.cls ≠ kb.cls then decide (kb.cls < ka.cls)
    else if ka.level ≠ kb.level then decide (ka.level < kb.level)
    else if ka.oldest ≠ kb.oldest then decide (ka.oldest < kb.oldest)
    else
      let la := (s.launch a.launch).seq
      let lb := (s.launch b.launch).seq
      if la ≠ lb then decide (la < lb) else decide (a.pc ≤ b.pc)

/-- The sheaf at a counter (R125): the oldest Ready thread, then others in ascending thread order, at most 32, packed ascending. -/
def State.formSheaf (s : State) (rs : List TRef) : List TRef :=
  let asc := sortBy s.threadLe rs
  match s.oldest rs with
  | none => []
  | some o => sortBy s.threadLe (o :: (asc.filter (· ≠ o)).take 31)

/-- The word at a launch's counter: 0x0000_0000 beyond its code or below it (R21). -/
def State.fetchWord (s : State) (l : Nat) (pc : Int) : Word :=
  let la := s.launch l
  if pc < 0 ∨ (la.hdr.codebytes : Int) < pc + 4 then 0
  else wordOfBytes ((List.range 4).map fun i => s.codeByte la (pc.toNat + i))

/-- The physical address from which the next word of a launch at a counter is fetched. -/
def Launch.fetchAddr (l : Launch) (pc : Int) : Nat :=
  let p := l.codeBase + l.hdr.codeoff + pc.toNat
  l.codeFrames.getD (p / 65536) 0 + p % 65536

/-- Metadata of a slot an MLD has yet to install (R284). -/
def State.metaPending (s : State) (c i : Nat) : Bool := (tget {} (s.core c).slots i).md.pending.isSome

/-- A cell that nobody holds or has reserved, and that has failed no check (R330, R332). Cells of a cluster c are keyed 65,536 c + index. -/
def Cell.isFree (e : Cell) : Bool := !e.live && !e.pending && e.reserved.isNone && !e.dead

def State.cell (s : State) (c k : Nat) : Cell := tget (freshCell k) (s.ctx c).cells k
def State.setCell (s : State) (x k : Nat) (e : Cell) : State := s.setCtx x { s.ctx x with cells := tset (s.ctx x).cells k e }

/-- The lowest Free cell of a cluster in a context's handle area, by key. -/
def State.freeCell (s : State) (x cl : Nat) : Option Nat :=
  match (s.ctx x).harea with
  | none => none
  | some (_, _, ncell) => ((List.range ncell).map fun i => cl * 65536 + i).find? fun k => (s.cell x k).isFree

/-- The cell of a context that a core keeps reserved for its next split of an exhausted handle (R332): one that a step has given it, or the one
it has had from the first. -/
def State.reservedCell (s : State) (x core : Nat) : Option Nat :=
  match (s.ctx x).harea with
  | none => none
  | some (_, _, ncell) =>
    let k := clusterOf core * 65536 + core % 6
    match (s.ctx x).cells.find? fun p => decide (p.2.reserved = some core) with
    | some p => some p.1
    | none => if decide (core % 6 < ncell) && !(s.ctx x).cells.any fun p => decide (p.1 = k) then some k else none

/-- The core reserves a cell of its cluster if it has none and one is Free (R332). -/
def State.reserveCell (s : State) (x core : Nat) : State :=
  match s.reservedCell x core, s.freeCell x (clusterOf core) with
  | none, some k => s.setCell x k { s.cell x k with reserved := some core }
  | _, _ => s

/-- A cell that has become Free goes to the lowest core of its cluster that keeps none (R332). -/
def State.refillCells (s : State) (x cl : Nat) : State := (List.range 6).foldl (fun s i => s.reserveCell x (6 * cl + i)) s

/-- The sheaf of an instruction cannot be issued for want of a resource that engines and the hub free (R127). -/
def State.stalls (s : State) (c : Nat) (sheaf : List TRef) (i : Instr) : Bool :=
  let x := s.core c
  let k := stackOf c
  let mfull := decide (roomLeft (s.stack k).mq Config.matQueue = 0)
  let c3full := decide (s.roomC3 c = 0)
  let noSlot := decide (Config.returnSlots ≤ x.retSlots.length)
  let pend (i : Nat) : Bool := s.metaPending c i || s.metaPending (mateOf c) i
  match i with
  | .aadd _ _ _ n _ _ | .aand _ _ _ n _ _ | .aor _ _ _ n _ _ | .axor _ _ _ n _ _ | .amin _ _ _ n _ _ | .amax _ _ _ n _ _
  | .aminu _ _ _ n _ _ | .amaxu _ _ _ n _ _ | .axchg _ _ _ n _ _ | .acas _ _ _ n _ _ | .acas64 _ _ _ n _ _
  | .acas128 _ _ _ n _ _ | .afadd _ _ _ n _ _ | .afaddB2 _ _ _ n _ _ => decide (n = 0) && noSlot
  | .ald _ _ _ _ _ _ => noSlot
  | .ckick _ q _ _ => decide (Config.kickRoom ≤ (x.kicks.getD q.toNat []).length)
  | .mld _ _ _ _ _ _ => c3full
  | .hrec _ _ _ _ => c3full
  | .mzero _ _ | .mrd _ _ _ _ | .mwr _ _ _ _ | .mstore _ _ _ _ _ | .mchk _ _ _ => mfull
  | .mstoreS _ n _ => mfull || s.metaPending c n.toNat
  | .mqnt _ _ _ _ _ _ => mfull
  | .had _ p _ _ n => mfull || s.metaPending c n.toNat || (decide (p = 1) && pend n.toNat)
  | .mmaP _ _ _ a b | .mmaC _ _ _ a b => mfull || pend a.toNat || pend b.toNat
  | .sinfo _ _ a kd => decide (kd ≠ 2) && sheaf.any fun r =>
      s.metaPending (if kd = 1 then mateOf c else c) (s.reg r a).toNat
  | .hsplit _ _ a _ => sheaf.any fun r =>
      let h := s.quad r a
      decide (h ≠ 0) && (s.reservedCell (s.ctxOf r.g) c).isNone && decide (bits h.toNat 35 30 = 0) && (s.freeCell (s.ctxOf r.g) (clusterOf c)).isSome
  | _ => false

/-- The instruction at a launch's counter. -/
def State.instrAt (s : State) (l : Nat) (pc : Int) : Option Instr := decode (s.fetchWord l pc)

/-- The entry of some list with the same launch and counter. -/
def Track.inList (t : Track) (l : List Track) : Bool := l.any fun u => decide (u.launch = t.launch) && decide (u.pc = t.pc)

/-- What a pick leaves in the tracked entries: the entry picked, if any, and those that stalled before it (R127). -/
def Track.afterPick (pickNo : Nat) (picked : Option Track) (stalled : List Track) (t : Track) : Track :=
  if t.inList picked.toList then { t with lastPick := pickNo, stalled := false }
  else if t.inList stalled then { t with stalled := true }
  else t

def State.endPick (s : State) (c : Nat) (picked : Option Track) (stalled : List Track) (sheaf : List TRef) : State :=
  let x := s.core c
  let tracks := x.tracks.map (Track.afterPick x.pickNo picked stalled)
  { s.setCore c { x with tracks := tracks } with sheaf := sheaf }

/-- The first entry whose sheaf does not stall (R127). -/
def State.pickGo (s : State) (c : Nat) (ready : List TRef) : List Track → List Track → State × Option (Option Instr)
  | [], stalled => (s.endPick c none stalled [], none)
  | t :: ts, stalled =>
    let sheaf := s.formSheaf (s.readyAtPc ready t.launch t.pc)
    let i := s.instrAt t.launch t.pc
    if (i.map (s.stalls c sheaf)).getD false then s.pickGo c ready ts (t :: stalled)
    else (s.endPick c (some t) stalled sheaf, some i)

/-- One pick of a core (R124 to R127): the state with the sheaf formed and its entry's record moved, and the instruction to issue: none
inside for an illegal word. No pick is made while the core's die relocks (R349). -/
def State.pick (s : State) (c : Nat) : State × Option (Option Instr) :=
  if !(s.runs (dieOfCore c)) then ({ s with sheaf := [] }, none)
  else
    let x0 := s.core c
    let s := s.setCore c { x0 with pickNo := x0.pickNo + 1 }
    let ready := s.readyOn c
    let s := s.retrack c ready
    let x := s.core c
    s.pickGo c ready (sortBy (s.pickLe ready x.pickNo) x.tracks) []

/-- ILLEGAL_INSTRUCTION (R33): every group whose threads issued the word ends with ILLEGAL_OP at the program counter. -/
def execIllegalInstruction (s : State) : Out :=
  let fs := (s.sheaf.filter s.canIssue).map fun r => ({ r := r, code := 0x01, d0 := 0, d1 := 0 } : LaneFault)
  .next (raiseFaults fs fs [] s)

end Sys2Proof.Machine
end

