-- ==== Sys2Proof/Machine/Admin.lean ====
section
/-! DEFINITION. Admin commands (R56, R61, R362, R363): who may give them, their completions, and commands that wait. -/

namespace Sys2Proof.Machine

/-! ## Completions (R362) -/

/-- Index of the command in progress: the one before the next that the device will read. -/
def Fn.current (f : Fn) : Nat := (f.admhead + 2 ^ 64 - 1) % 2 ^ 64

/-- The ring is enabled (R362). -/
def Fn.ringOn (f : Fn) : Bool := decide (f.admlog ≠ 0) && decide (f.admring ≠ 0) && decide (f.admcpl ≠ 0)

/-- The 16 bytes of a completion (R362): index, lap parity and status. -/
def completion (idx lg status : Nat) : Nat := idx * 2 ^ 64 + idx / 2 ^ lg % 2 * 2 ^ 8 + status % 2 ^ 8

/-- A command completes: its completion is written and the function's vector raised (R56, R362). -/
def State.complete (s : State) (fn status : Nat) : State :=
  let f := s.fn fn
  let s := s.setFn fn { f with pending := none }
  if !f.ringOn then s
  else
    let s := s.wrs (hostBase + (f.admcpl.toNat + 16 * (f.current % 2 ^ f.admlog)) % 2 ^ 60)
      (bytesOf 16 (completion f.current f.admlog status))
    s.raise fn f.admvec

/-! ## The frame of a command -/

/-- How a command ends: its effect and status 0x0, a nonzero status and no effect (R56) but for the notification of a failed read of its own
(R318), or its effect and a wait (R59, R130, R316). -/
inductive Adm
  | done (s : State)
  | refuse (status : Nat)
  | refused (s : State) (status : Nat)
  | wait (s : State) (p : Pending)

/-- The command in progress is the next of its ring again. -/
def State.unread (s : State) (fn : Nat) : State := s.setFn fn { s.fn fn with admhead := (s.fn fn).current }

/-- The end of a command. One whose effect met a home on a relocking die has had none, and is read again (R349). -/
def State.finishAdm (s : State) (fn : Nat) : Adm → State
  | .done t => if t.hubWaits && !s.hubWaits then s.unread fn else t.complete fn 0
  | .refuse status => s.complete fn status
  | .refused t status => if t.hubWaits && !s.hubWaits then s.unread fn else t.complete fn status
  | .wait t p => if t.hubWaits && !s.hubWaits then s.unread fn else t.setFn fn { t.fn fn with pending := some p }

/-- A field of a packet, and the context number in bits 15:8 (R61). -/
def pkt (p : Packet) (hi lo : Nat) : Nat := bits p.toNat hi lo
def pktCtx (p : Packet) : Nat := bits p.toNat 15 8

/-- A command on a context of its own function, in one of the states that list it (R56, R58). -/
def onCtx (fn : Nat) (p : Packet) (ok : CtxState → Bool) (body : Nat → State → Adm) (s : State) : Out :=
  let c := pktCtx p
  let x := s.ctx c
  .next <| s.finishAdm fn <|
    if 64 ≤ c then .refuse 3
    else if x.state ≠ .free ∧ x.fn ≠ fn then .refuse 2
    else if !ok x.state then .refuse 1
    else body c s

/-- A command that only the physical function, number 0, may give (R363). -/
def onPf (fn : Nat) (body : State → Adm) (s : State) : Out :=
  .next (s.finishAdm fn (if fn ≠ 0 then .refuse 2 else body s))

/-- Every state but Free and Closing. -/
def CtxState.inUse (c : CtxState) : Bool := decide (c ≠ .free) && decide (c ≠ .closing)

end Sys2Proof.Machine
end

