-- ==== Sys2Proof/Machine/Page.lean ====
section
/-! DEFINITION. Pages (R315 to R326): holds, tags, the notification ring, hotness, scrubbing, and the frame moves of snapshots. -/

namespace Sys2Proof.Machine

/-! ## Tags (R317 to R320) -/

/-- The class of a sector's own code word, with no key slot or tag presented (R318): none where its data is used. -/
def sectorOwn (x : Sector) (n : Nat) : Option MemFail :=
  if x.errors = 0 then (if x.addr = n then none else some .misdirect)
  else if x.errors = 1 ∧ x.addr = n then none
  else some .eccUncorr

/-- A failed check of the device's own access: a notification of kind 0x4 and nothing else (R318, R323). -/
def State.noteFail (s : State) (n : Nat) (f : MemFail) (ctx : Nat) : State := s.post 4 (n * 64) f.cls ctx

/-- One sector takes a new tag (R320, R387): an unwritten one, or one whose read fails, becomes zeros under it. -/
def State.retagSector (s : State) (tag n : Nat) : State :=
  match s.sector n with
  | none => { s with sectors := tset s.sectors n { tag := tag, key := noKey, addr := n } }
  | some x =>
    match sectorOwn x n with
    | none =>
      let s := s.correct [n]
      { s with sectors := tset s.sectors n { x with tag := tag, errors := 0 } }
    | some f =>
      let s := s.noteFail n f 0x3F
      let s := s.clear (n * 64) (n * 64 + 64)
      { s with sectors := tset s.sectors n { tag := tag, key := noKey, addr := n } }

/-- n sectors from one on take a new tag. -/
def State.retag (s : State) (tag first : Nat) : Nat → State
  | 0 => s
  | n + 1 => (s.retagSector tag first).retag tag (first + 1) n

/-- Every frame of a physical range is installed (R309): frames of one tier and die are consecutive. -/
def rangeOk (base len : Nat) : Bool :=
  let f := base / 65536
  let l := (base + len - 1) / 65536
  decide (base + len ≤ 2 ^ 52) && frameOk f && frameOk l && decide (f / 2 ^ 32 = l / 2 ^ 32)

/-- TAGSET (R320). A range lies on one die, whose relock the command waits for (R349). -/
def execTagset (fn : Nat) (p : Packet) (s : State) : Out :=
  let base := pkt p 511 448
  let len := pkt p 447 384
  onPf fn (fun s =>
    if base % 64 ≠ 0 ∨ len % 64 ≠ 0 ∨ len < 64 ∨ !rangeOk base len then .refuse 3
    else .done ((s.meet base).retag (pkt p 383 380) (base / 64) (len / 64))) s

/-- SCRUB (R318): a sector's data bit in error is corrected, and a worse one posts a notification. -/
def execScrub (pa : Nat) (s : State) : Out :=
  let n := pa / 64
  .next <|
    if !(homeDie (n * 64)).all s.runs ∨ !physOk (n * 64) then s
    else match s.sector n with
      | none => s
      | some x => match sectorOwn x n with
        | none => s.correct [n]
        | some f => s.noteFail n f 0x3F

/-! ## Holds (R315, R316) -/

/-- A page is held while any hold of its context covers it. -/
def Ctx.held (x : Ctx) (page : Nat) : Bool :=
  x.holds.any fun h => decide (h.va / 65536 ≤ page) && decide (page < h.va / 65536 + h.pages)

/-- A launch of the context that has not finished holds a lease latch on a page of the range (R315). -/
def State.pinned (s : State) (ctx va pages : Nat) : Bool :=
  s.launches.any fun l => decide (l.ctx = ctx) &&
    l.shadow.any fun p => decide (va / 65536 ≤ p.page) && decide (p.page < va / 65536 + pages)

/-- PAGEHOLD (R316). -/
def execPagehold (fn : Nat) (p : Packet) (s : State) : Out :=
  let va := pkt p 511 448
  let n := pkt p 447 416
  onCtx fn p CtxState.inUse (fun c s =>
    let x := s.ctx c
    let h : Hold := { va := va, pages := n }
    if va % 65536 ≠ 0 ∨ n = 0 ∨ 2 ^ 20 < n then .refuse 3
    else if pkt p 415 415 = 0 then
      if x.holds.contains h then .done (s.setCtx c { x with holds := x.holds.erase h }) else .refuse 3
    else if 64 ≤ x.holds.length then .refuse 4
    else
      let s := s.setCtx c { x with holds := x.holds ++ [h] }
      if s.pinned c va n then .wait s (.pagehold c va n) else .done s) s

/-- PAGEHOLD_DRAINED (R316): every page of the hold has pin count 0. -/
def execPageholdDrained (fn : Nat) (s : State) : Out :=
  match (s.fn fn).pending with
  | some (.pagehold c va n) => if s.pinned c va n then .next s else .next (s.complete fn 0)
  | _ => .next s

/-! ## The notification ring (R323) and hotness (R324, R325) -/

/-- NOTIFYRING (R323): the ring starts empty; what was lost before stands in its control block. The
command waits for a relock of the ring's die (R349). -/
def execNotifyring (fn : Nat) (p : Packet) (s : State) : Out :=
  let addr := pkt p 511 448
  let lg := pkt p 447 440
  onPf fn (fun s =>
    if addr % 64 ≠ 0 ∨ lg < 6 ∨ 20 < lg ∨ !rangeOk addr (64 + 32 * 2 ^ lg) then .refuse 3
    else
      let s := { s.meet addr with notify := some (addr, lg), notifyProduced := 0 }
      .done (s.ownWr (addr + 16) (bytesOf 8 s.notifyLost))) s

/-- HOTCFG (R325). After a time without decay an epoch begins anew. -/
def execHotcfg (fn : Nat) (p : Packet) (s : State) : Out :=
  onPf fn (fun s =>
    .done { s with thresh := (List.range 8).map fun c => pkt p (455 + 8 * c) (448 + 8 * c)
                   epoch := pkt p 447 416
                   epochAt := if s.epoch = 0 then s.refTimer else s.epochAt
                   corr := pkt p 415 384 }) s

/-- A counter at the end of an epoch: halved, its residual cleared; below its threshold, or with its class disabled, it may post again (R324,
R325). -/
def Hot.decay (h : Hot) (thresh : Nat) : Hot :=
  { counter := h.counter / 2, residual := 0, posted := h.posted && decide (thresh ≠ 0) && decide (thresh ≤ h.counter / 2) }

/-- HOTNESS_EPOCH (R324). -/
def execHotnessEpoch (s : State) : Out :=
  if s.epoch = 0 ∨ s.refTimer < s.epochAt + 1000 * s.epoch then .next s
  else .next { s with epochAt := s.epochAt + 1000 * s.epoch
                      hot := s.hot.map fun e => (e.1, e.2.decay (s.thresh.getD (e.1 % 8) 0)) }

/-! ## Frames moved whole (R321) -/

/-- The address that a sector's code word folds once it stands in another place: its own there, if it was its own before; one that fails its
check for its address fails it there too. -/
def movedAddr (n m addr : Nat) : Nat := if addr = n then m else if addr = m then n else addr

/-- The sectors of a frame as they stand in another frame. -/
def movedSectors (src dst : Nat) (l : List (Nat × Sector)) : List (Nat × Sector) :=
  (l.filter fun e => decide (e.1 / 1024 = src)).map fun e =>
    (dst * 1024 + e.1 % 1024, { e.2 with addr := movedAddr e.1 (dst * 1024 + e.1 % 1024) e.2.addr })

/-- The sectors of a frame that are read with a single-bit error, which is corrected. -/
def correctable (src : Nat) (l : List (Nat × Sector)) : List Nat :=
  l.filterMap fun e => if e.1 / 1024 = src ∧ sectorOwn e.2 e.1 = none then some e.1 else none

/-- Sectors of a frame whose own code word fails. -/
def failing (src : Nat) (l : List (Nat × Sector)) : List (Nat × MemFail) :=
  l.filterMap fun e => if e.1 / 1024 = src then (sectorOwn e.2 e.1).map fun f => (e.1, f) else none

/-- The part of a handle area outside a range of sectors. -/
def Area.cut (a : Area) (lo hi : Nat) : List Area :=
  [{ a with count := min (a.first + a.count) lo - a.first },
   { a with first := max a.first hi, count := a.first + a.count - max a.first hi }].filter fun b => decide (b.count ≠ 0)

/-- The code words that a handle area gave a frame's sectors become their own. -/
def State.spell (s : State) (frame : Nat) : State :=
  { s with sectors := (List.range 1024).foldl (fun l i =>
             match sectorOf? l (frame * 1024 + i), areaSector s.areas (frame * 1024 + i) with
             | none, some x => tset l (frame * 1024 + i) x
             | _, _ => l) s.sectors
           areas := s.areas.flatMap fun a => a.cut (frame * 1024) (frame * 1024 + 1024) }

/-- A frame's data, tags, key slots and unwritten marks go to another frame, whose sectors are encoded for their own addresses (R321,
R387); a single-bit error is corrected and counted, and a sector that fails posts a notification and fails at its new place (R318). -/
def State.moveFrame (s : State) (src dst ctx : Nat) : State :=
  let s := if s.areas.isEmpty then s else (s.spell src).spell dst
  let s := s.correct (correctable src s.sectors)
  let s := (failing src s.sectors).foldl (fun s p => s.noteFail p.1 p.2 ctx) s
  let cells := (s.mem.filter fun c => decide (src * 65536 ≤ c.1) && decide (c.1 < src * 65536 + 65536)).map fun c =>
    (dst * 65536 + c.1 % 65536, c.2)
  let s := s.clear (dst * 65536) (dst * 65536 + 65536)
  let s := s.setMem (cells.foldl (fun m c => memWr m c.1 c.2) s.mem)
  let keep := s.sectors.filter fun e => decide (e.1 / 1024 ≠ dst)
  { s with sectors := (movedSectors src dst s.sectors).foldl (fun l e => tset l e.1 e.2) keep }

end Sys2Proof.Machine
end

