-- ==== Sys2Proof/Machine/Bin.lean ====
section
/-! DEFINITION. Work-graph bins (R98 to R100): offers, firing, flushing, the timer, and the records that wait at the hub. -/

namespace Sys2Proof.Machine

/-- The filling buffer fires for a cause: it becomes a ready node launch if the other buffer is free, and is held otherwise (R99). What it fires
is the cause, the buffer and its records. -/
def Bin.fire (b : Bin) (cause : Nat) : Bin × Option (Nat × Bool × List (List Byte)) :=
  if b.otherBusy then ({ b with state := .held, heldCause := cause }, none)
  else ({ b with state := .empty, records := [], otherBusy := true, second := !b.second }, some (cause, b.second, b.records))

/-- Records reach a bin (R99): none where they are refused, otherwise the bin after and what it fires. -/
def Bin.offer (b : Bin) (rs : List (List Byte)) (now : Nat) : Option (Bin × Option (Nat × Bool × List (List Byte))) :=
  let m := b.records.length
  let k := rs.length
  if b.state = .held then none
  else if m + k ≤ b.count then
    let b1 : Bin := { b with records := b.records ++ rs, state := .collecting, firstAt := if m = 0 then now else b.firstAt }
    if m + k = b.count then some (b1.fire 1) else some (b1, none)
  else if b.otherBusy then none
  else
    let (b1, f) := b.fire 4
    some ({ b1 with records := rs, state := .collecting, firstAt := now }, f)

/-- A fired buffer is a ready node launch of its bin. -/
def Ctx.putBin (x : Ctx) (n : Nat) (p : Bin × Option (Nat × Bool × List (List Byte))) : Ctx :=
  { x with bins := x.bins.set n p.1
           nodeReady := x.nodeReady ++ match p.2 with
             | some (cause, second, rs) => [{ bin := n, cause := cause, second := second, records := rs }]
             | none => [] }

/-! ## The two buffers in the save area (R98) -/

/-- The address of a record's place: the second buffer of a bin lies 32 KiB above the first (log entry 147). -/
def Ctx.recordAt (x : Ctx) (n : Nat) (second : Bool) (m : Nat) : Nat := x.savebase + 65536 * n + (if second then 32768 else 0) + 32 * m

/-- The buffer and place that the next k records of a bin take. -/
def Bin.place (b : Bin) (k : Nat) : Bool × Nat := if b.records.length + k ≤ b.count then (b.second, b.records.length) else (!b.second, 0)

/-- Records stored in a bin that accepts them, and in its buffer in the save area (R98, R99). -/
def State.storeRecords (s : State) (c n : Nat) (b : Bin) (rs : List (List Byte)) (p : Bin × Option (Nat × Bool × List (List Byte))) : State :=
  let x := s.ctx c
  let (second, m) := b.place rs.length
  (s.setCtx c (x.putBin n p)).virtPut c (x.recordAt n second m) rs.flatten

/-- The records of a fired buffer, as the save area holds them; the device's own where it cannot be read (log entry 147). -/
def State.nodeRecords (s : State) (c : Nat) (n : NodeReady) : State × List Byte :=
  let own := n.records.flatten
  match s.virtRd (s.ctx c) ((s.ctx c).recordAt n.bin n.second 0) own.length with
  | some p => p
  | none => (s.virtNote c ((s.ctx c).recordAt n.bin n.second 0) own.length, own)

/-- The launch that an accepted finaliser record escapes is not replayable from then on (R113, R380). -/
def State.escapes (s : State) : Option Nat → State
  | some l => s.modLaunch l fun la => { la with escaped := true }
  | none => s

/-- Finaliser records that wait at the hub are offered, in arrival order (R99). -/
def State.drainBin (s : State) (c n : Nat) : Nat → State
  | 0 => s
  | k + 1 =>
    match (s.ctx c).bins[n]? with
    | none => s
    | some b => match b.waiting with
      | [] => s
      | (l, r) :: rest => match { b with waiting := rest }.offer [r] s.refTimer with
        | none => s
        | some p => ((s.storeRecords c n b [r] p).escapes l).drainBin c n k

def State.settleBin (s : State) (c n : Nat) : State :=
  match (s.ctx c).bins[n]? with
  | none => s
  | some b => s.drainBin c n b.waiting.length

/-- Records offered to a bin: whether it accepts them, behind those that wait at the hub (R99). -/
def State.offerBin (s : State) (c n : Nat) (rs : List (List Byte)) : State × Bool :=
  match (s.ctx c).bins[n]? with
  | none => (s, false)
  | some b =>
    if !b.waiting.isEmpty then (s, false)
    else match b.offer rs s.refTimer with
      | none => (s, false)
      | some p => (s.storeRecords c n b rs p, true)

/-- A finaliser record, with the launch that its acceptance escapes: accepted, or waiting at the hub (R99). -/
def State.offerFinal (s : State) (c n : Nat) (l : Option Nat) (r : List Byte) : State :=
  let (s, ok) := s.offerBin c n [r]
  if ok then s.escapes l
  else
    let x := s.ctx c
    s.setCtx c { x with bins := x.bins.modify n fun b => { b with waiting := b.waiting ++ [(l, r)] } }

/-- The other buffer of a bin is free again: a held buffer fires (R99). -/
def State.nodeEnded (s : State) (c n : Nat) : State :=
  let x := s.ctx c
  match x.bins[n]? with
  | none => s
  | some b =>
    let b1 : Bin := { b with otherBusy := false }
    let p := if b.state = .held then b1.fire b.heldCause else (b1, none)
    (s.setCtx c (x.putBin n p)).settleBin c n

/-- BINFLUSH's effect, and the timer's: a Collecting bin fires (R99). -/
def State.fireBin (s : State) (c n cause : Nat) : State :=
  let x := s.ctx c
  match x.bins[n]? with
  | none => s
  | some b => if b.state = .collecting then (s.setCtx c (x.putBin n (b.fire cause))).settleBin c n else s

/-- BIN_TIMER (R99). -/
def execBinTimer (c n : Nat) (s : State) : Out :=
  match (s.ctx c).bins[n]? with
  | none => .next s
  | some b => if b.timer ≠ 0 ∧ b.firstAt + b.timer ≤ s.refTimer then .next (hubStep (fun s => s.fireBin c n 2) s) else .next s

/-- The number of the bin that an index of a launch's header names (R98, R102). -/
def State.binOf (s : State) (l : Launch) (idx : Nat) : Option Nat :=
  if l.hdr.nbin ≤ idx then none
  else (List.range (s.ctx l.ctx).bins.length).find? fun n => match (s.ctx l.ctx).bins[n]? with
    | some b => decide (b.desc = l.desc) && decide (b.idx = idx)
    | none => false

end Sys2Proof.Machine
end

