-- ==== Sys2Proof/Machine/Handle.lean ====
section
/-! DEFINITION. Handles (R327 to R344): seals, tensor entries and cells at their homes, the posts of weight, and the instructions of HND. -/

namespace Sys2Proof.Machine

/-! ## The handle (R327, R328) -/

def hHome (h : QWord) : Nat := bits h.toNat 5 0
def hIndex (h : QWord) : Nat := bits h.toNat 29 6
def hK (h : QWord) : Nat := bits h.toNat 35 30
def hGen (h : QWord) : Nat := bits h.toNat 51 36
def hRights (h : QWord) : Nat := bits h.toNat 57 52
def hKey (h : QWord) : Nat := bits h.toNat 63 58
def hTag (h : QWord) : Nat := bits h.toNat 67 64
def hInd (h : QWord) : Bool := bits h.toNat 68 68 = 1

/-- The bits under the seal: 79:36 and 29:0. -/
def hBody (h : QWord) : Nat := bits h.toNat 79 36 * 2 ^ 30 + bits h.toNat 29 0

def State.sealOf (s : State) (c : Nat) (h : QWord) : Nat := (Config.sealHandle (s.ctx c).sealKey c (hBody h)).toNat

/-- The seal of a handle is right; the null handle has none. -/
def State.sealOk (s : State) (c : Nat) (h : QWord) : Bool := decide (h ≠ 0) && decide (bits h.toNat 127 80 = s.sealOf c h)

/-- The handle of some low 80 bits, sealed. -/
def State.sealed (s : State) (c n : Nat) : QWord :=
  let h : QWord := .ofNat 128 (n % 2 ^ 80)
  .ofNat 128 (h.toNat + s.sealOf c h * 2 ^ 80)

/-- The low bits of a handle from its fields (R327). -/
def hFields (home index k gen rights key atag ind : Nat) : Nat :=
  home + index * 2 ^ 6 + k * 2 ^ 30 + gen * 2 ^ 36 + rights * 2 ^ 52 + key * 2 ^ 58 + atag * 2 ^ 64 + ind * 2 ^ 68

/-- A field of a value replaced. -/
def putBits (n hi lo v : Nat) : Nat := n - bits n hi lo * 2 ^ lo + v % 2 ^ (hi - lo + 1) * 2 ^ lo

/-- The weight that a handle carries, and that of a tensor or cell (R327, R331). -/
def hWeight (h : QWord) : Nat := 2 ^ hK h
def fullWeight : Nat := 2 ^ 62

/-- What a report holds in detail0 (R333); also the key of a tensor entry. -/
def hTarget (h : QWord) : Nat := hHome h * 2 ^ 24 + hIndex h

/-! ## Targets (R330 to R333) -/

def State.tensor (s : State) (c k : Nat) : Tensor := tget {} (s.ctx c).tensors k
def State.setTensor (s : State) (c k : Nat) (t : Tensor) : State := s.setCtx c { s.ctx c with tensors := tset (s.ctx c).tensors k t }
def cellKey (h : QWord) : Nat := hHome h * 65536 + hIndex h % 65536

/-- What a handle finds at its target: the tensor, the cell, a cell whose creation has not arrived (R338), or a refusal with its code and
detail1. -/
inductive Found
  | tensor (t : Tensor)
  | cell (e : Cell)
  | pending
  | bad (code d1 : Nat)

/-- The checks of R333 at one target, that of the entry's own MAC included (R330). -/
def State.look (s : State) (c : Nat) (h : QWord) : Found :=
  if !s.sealOk c h then .bad 0x13 1
  else if hInd h then
    let e := s.cell c (cellKey h)
    if e.pending then .pending
    else if e.altered then .bad 0x13 0xB
    else if e.live && !e.dead && decide (e.gen = hGen h) then .cell e
    else .bad 0x14 0
  else
    let t := s.tensor c (hTarget h)
    if t.altered then .bad 0x13 0xB
    else if t.state = .live ∧ t.gen = hGen h then .tensor t
    else .bad 0x14 0

/-- A cell that failed its integrity check is dead for every later use; a core that had it reserved takes another (R330, R332). -/
def State.killCell (s : State) (c k : Nat) : State :=
  (s.setCell c k { s.cell c k with altered := false, dead := true, live := false, reserved := none }).refillCells c (k / 65536)

/-- An entry that failed its integrity check is dead for every later use (R330). -/
def State.spoil (s : State) (c : Nat) (h : QWord) : State :=
  if !s.sealOk c h then s
  else if hInd h then
    if (s.cell c (cellKey h)).altered then s.killCell c (cellKey h) else s
  else
    let t := s.tensor c (hTarget h)
    if t.altered then s.setTensor c (hTarget h) { t with altered := false, state := .retired } else s

/-- A lookup through any cells to a tensor: the handle that names the tensor itself, or where and why it ends. -/
inductive Reached
  | tensor (h : QWord) (t : Tensor)
  | pending
  | bad (h : QWord) (code d1 : Nat)

def State.reachTensor (s : State) (c : Nat) : Nat → QWord → Reached
  | 0, h => .bad h 0x14 0
  | n + 1, h =>
    match s.look c h with
    | .tensor t => .tensor h t
    | .cell e => s.reachTensor c n e.kept
    | .pending => .pending
    | .bad code d1 => .bad h code d1

def State.lookup (s : State) (c : Nat) (h : QWord) : Reached := s.reachTensor c ((s.ctx c).cells.length + 1) h

/-- A report from a target (R333): against the launch that issued the operation, or to the context's root region. -/
def State.report (s : State) (c : Nat) (i : Option Issuer) (code d0 d1 : Nat) : State :=
  match i with
  | some i => s.engineFault i code d0 d1
  | none => s.takeFault c { code := code, kind := 3, d0 := d0, d1 := d1 }

/-- Weight applied to a cell (R332): drained, it gives the handle it keeps to the hub, and is Free for a core that keeps none. -/
def State.weighCell (s : State) (c : Nat) (h : QWord) (e : Cell) : State :=
  let n := e.returned + hWeight h
  if n = fullWeight then
    { (s.setCell c (cellKey h) { gen := (e.gen + 1) % 2 ^ 16 }).refillCells c (hHome h) with hubPosts := s.hubPosts ++ [(c, e.kept)] }
  else s.setCell c (cellKey h) { e with returned := n, posted := true }

/-- Weight applied to a tensor (R331): with all of it back, the tensor is Dying. -/
def State.weighTensor (s : State) (c : Nat) (i : Option Issuer) (h : QWord) (t : Tensor) : State :=
  let n := t.returned + hWeight h
  s.setTensor c (hTarget h) { t with returned := n, state := if n = fullWeight then .dying else .live,
                                     last := match i with
                                       | some i => some i.launch
                                       | none => t.last }

/-- A post applied at its target (R333): none while the target waits for its creation. An applied drop is an escape event (R113). -/
def State.applyPost (s : State) (c : Nat) (i : Option Issuer) (h : QWord) : Option State :=
  let escape (s : State) : State := match i with
    | some i => s.modLaunch i.launch fun la => { la with escaped := true }
    | none => s
  let tooMuch (returned : Nat) : Bool := decide (fullWeight < returned + hWeight h)
  match s.look c h with
  | .pending => none
  | .bad code d1 => some ((s.spoil c h).report c i code (hTarget h) d1)
  | .cell e => some (if tooMuch e.returned then s.report c i 0x15 (hTarget h) (hWeight h) else escape (s.weighCell c h e))
  | .tensor t => some (if tooMuch t.returned then s.report c i 0x15 (hTarget h) (hWeight h) else escape (s.weighTensor c i h t))

/-! ## Queue H (R337, R339) -/

/-- An entry of a thread that carries a record, or a kick of it not fetched yet, stands before an operation (R339). -/
def State.recordsBefore (s : State) (e : Entry) : Bool :=
  let x := s.core e.iss.core
  ((x.copyQ.flatten ++ (s.stack (stackOf e.iss.core)).mq).any fun y => y.record && decide (y.iss.thr = e.iss.thr) && decide (y.ord < e.ord)) ||
    x.kicks.any fun q => q.any fun k => decide (k.iss.thr = e.iss.thr) && decide (k.id < e.ord)

/-- The target's die and the core's die run (R349). -/
def State.homeRuns (s : State) (h : QWord) : Bool := s.runs (dieOfCluster (hHome h))

def State.dropHand (s : State) (core : Nat) : State :=
  let x := s.core core
  (s.setCore core { x with hq := x.hq.drop 1 }).queuesMoved core

/-- HANDLE_POST_APPLY (R333): the first post of a core's queue H, or of the hub for source 384. -/
def execHandlePostApply (src : Nat) (s : State) : Out :=
  .next <|
    if src = Config.numCores then
      match s.hubPosts with
      | [] => s
      | (c, h) :: r =>
        if !s.homeRuns h then s
        else ({ s with hubPosts := r }.applyPost c none h).getD s
    else
      match (s.core src).hq with
      | [] => s
      | e :: _ => match e.work with
        | .hand (.post h) =>
          if !s.mayBegin e.iss ∨ s.recordsBefore e ∨ !s.homeRuns h ∨ (s.launch e.iss.launch).state = .rollingBack then s
          else ((s.dropHand src).applyPost (s.launch e.iss.launch).ctx (some e.iss) h).getD s
        | _ => s

/-- HBIND_AT_HOME (R337): a later HBIND replaces an earlier one. -/
def execHbindAtHome (core : Nat) (s : State) : Out :=
  match (s.core core).hq with
  | [] => .next s
  | e :: _ => match e.work with
    | .hand (.bind h bin user) =>
      let c := (s.launch e.iss.launch).ctx
      if !s.mayBegin e.iss ∨ !s.homeRuns h ∨ (s.launch e.iss.launch).state = .rollingBack then .next s
      else match s.lookup c h with
        | .pending => .next s
        | .bad t code d1 => .next (((s.dropHand core).spoil c t).report c (some e.iss) code (hTarget t) d1)
        | .tensor t x => .next ((s.dropHand core).setTensor c (hTarget t) { x with bin := some bin, user := user })
    | _ => .next s

/-! ## Creation and death (R331, R336) -/

def recSpan (r : Packet) : Nat := bits r.toNat 31 0

/-- Sectors of a range of a launch retagged as engine writes (R336): each page checked against its write leases, up to the first that fails. The
pages before it stay retagged. -/
def State.retagVirt (s : State) (l unit tag : Nat) : List (Nat × Nat) → State × Option EngErr
  | [] => (s, none)
  | (va, n) :: r =>
    let la := s.launch l
    if !la.covers va n true || (s.ctx la.ctx).measuredPage va then (s, some { code := 0x0E, d0 := va })
    else match s.engLeaf l unit (va / 65536) with
      | (s, none) => (s, some { code := 0x0E, d0 := va })
      | (s, some fill) =>
        if !leafWrite fill.2 then (s, some { code := 0x0E, d0 := va })
        else match runAddr fill va with
        | none => (s, some { code := 0x12, d0 := va, sector := some (runSector fill va), note := some 2 })
        | some pa =>
          if !rangeOk pa n then (s, some { code := 0x12, d0 := va, sector := some (pa / 64 * 64), note := some 2 })
          else (s.retag tag (pa / 64) (n / 64)).retagVirt l unit tag r

/-- The home of every page of a range runs (R349). -/
def State.pagesRun (s : State) (l unit : Nat) (parts : List (Nat × Nat)) : Bool :=
  parts.all fun p => match (s.engLeaf l unit (p.1 / 65536)).2.bind fun fill => runAddr fill p.1 with
    | none => true
    | some pa => (homeDie pa).all s.runs

/-- The lowest Free tensor entry of a cluster (R331), by key. -/
def State.freeTensor (s : State) (c cl : Nat) : Option Nat :=
  match (s.ctx c).harea with
  | none => none
  | some (_, ntens, _) => ((List.range ntens).map fun i => cl * 2 ^ 24 + i).find? fun k => (s.tensor c k).state = .free

def State.endHnew (s : State) (cl : Nat) (q : HnewReq) (h : QWord) : State :=
  let x := s.cluster cl
  (s.setCluster cl { x with hnews := x.hnews.drop 1 }).fulfil q.iss.thr q.out (wordsOf 4 h.toNat)

/-- HNEW_AT_HOME (R336): the oldest HNEW of a cluster. -/
def execHnewAtHome (cl : Nat) (s : State) : Out :=
  match (s.cluster cl).hnews with
  | [] => .next s
  | q :: _ =>
    let c := q.ctx
    let base := recBase q.image
    let parts := pageChunks (recSpan q.image + 2) base (65536 * recSpan q.image)
    let late := parts.filter fun p => (s.launch q.iss.launch).mustCopy p.1
    if !s.runs (dieOfCluster cl) then .next s
    else match s.freeTensor c cl with
      | none => .next (s.endHnew cl q 0)
      | some k =>
        let t := s.tensor c k
        if t.altered then .next ((s.setTensor c k { t with altered := false, state := .retired }).engineFault q.iss 0x13 k 0xB)
        else if recAtag q.image ≠ 0 ∧ !s.pagesRun q.iss.launch (copyUnit cl) parts then .next s
        else if recAtag q.image ≠ 0 ∧ !late.isEmpty then .next (late.foldl (fun s p => s.wantCopy q.iss.launch p.1) s)
        else
          let res := if recAtag q.image = 0 then (s, none) else s.retagVirt q.iss.launch (copyUnit cl) (recAtag q.image) parts
          match res with
          | (s, some e) => .next ((s.endHnew cl q 0).failEntry q.iss e 0)
          | (s, none) =>
            let s := s.setTensor c k { state := .live, gen := t.gen, image := q.image }
            let h := s.sealed c (hFields cl (k % 2 ^ 24) 62 t.gen (recRights q.image) (recKey q.image) (recAtag q.image) 0)
            .next (s.endHnew cl q h)

/-- The pages of a dead tensor take tag 0xF, found by walks of the context's own tree (R331): a page without a valid leaf is skipped, and a
failed walk is only notified. -/
def State.retagDead (s : State) (c : Nat) : List (Nat × Nat) → State
  | [] => s
  | (va, n) :: r =>
    match s.walk (s.ctx c) va with
    | .error (s, f) => (s.noteFail (f.2 / 64) f.1 c).retagDead c r
    | .ok (s, none) => s.retagDead c r
    | .ok (s, some leaf) =>
      let pa := leafFrame leaf * 65536 + va % 65536
      if rangeOk pa n then ((s.meet pa).retag 0xF (pa / 64) (n / 64)).retagDead c r
      else (s.noteFail (pa / 64) .misdirect c).retagDead c r

/-- The node record of a dead tensor (R337). -/
def finalRecord (cl idx gen : Nat) (t : Tensor) : List Byte :=
  bytesOf 32 (recBase t.image + t.user.toNat * 2 ^ 64 + idx * 2 ^ 96 + gen * 2 ^ 120 + cl * 2 ^ 136 + recAtag t.image * 2 ^ 142)

/-- The hub still holds as many finaliser records of a bin as may wait there (R99). -/
def State.deathHeld (s : State) (c : Nat) (t : Tensor) : Bool :=
  match t.bin.bind fun b => (s.ctx c).bins[b]? with
  | some x => decide (4096 ≤ x.waiting.length)
  | none => false

/-- The death of a tensor (R331, R337): the span is quarantined, the generation advances, and the finaliser record is offered. -/
def State.tensorDies (s : State) (c cl idx : Nat) (t : Tensor) : State :=
  let s := if recAtag t.image = 0 then s
    else s.retagDead c (pageChunks (recSpan t.image + 2) (recBase t.image) (65536 * recSpan t.image))
  let s := s.setTensor c (cl * 2 ^ 24 + idx)
    { state := if t.gen = 0xFFFF then .retired else .free, gen := if t.gen = 0xFFFF then t.gen else t.gen + 1 }
  match t.bin with
  | some b => s.offerFinal c b t.last (finalRecord cl idx t.gen t)
  | none => s

/-- TENSOR_RETAG_COMPLETE (R331): the death of a Dying tensor. A full hub holds it (R99). An entry that fails its check is reported to the root
region and is dead (R330). -/
def execTensorRetagComplete (c cl idx : Nat) (s : State) : Out :=
  let k := cl * 2 ^ 24 + idx
  let t := s.tensor c k
  if t.state ≠ .dying ∨ s.deathHeld c t ∨ !s.runs (dieOfCluster cl) then .next s
  else if t.altered then .next ((s.setTensor c k { t with altered := false, state := .retired }).report c none 0x13 k 0xB)
  else .next (hubStep (fun s => s.tensorDies c cl idx t) s)

/-- CELL_CREATE (R338): the oldest creation on its way reaches the service furrow. -/
def execCellCreate (cl : Nat) (s : State) : Out :=
  let x := s.cluster cl
  match x.cellsDue with
  | [] => .next s
  | (c, k) :: r =>
    if !s.runs (dieOfCluster cl) then .next s
    else
      let e := s.cell c k
      let s := s.setCluster cl { x with cellsDue := r }
      .next (if e.pending then s.setCell c k { e with pending := false, live := true } else s)

/-! ## HREC at the target (R340) -/

/-- The record that a template, a tensor and a handle make (R340, R382): extents of ndim and beyond are written as 1 (R300). -/
def madeRecord (tmpl img : Packet) (h : QWord) : Nat :=
  let n := putBits tmpl.toNat 447 392 (recBase img / 256)
  let n := putBits (putBits (putBits n 337 334 (recAtag img)) 333 328 (recKey img)) 327 322 (hRights h)
  let n := putBits n 318 309 (recInd img)
  let n := (List.range 5).foldl (fun n k => if bits tmpl.toNat 321 319 ≤ k then putBits n (308 - 20 * k) (289 - 20 * k) 1 else n) n
  n % 2 ^ 448

/-- A result that will not be written ends without reaching a register (R340). -/
def State.voidOut (s : State) (r : TRef) (id : Nat) : State :=
  s.modThread r fun th => { th with outs := th.outs.map fun (o : Outst) =>
    if o.id = id then { o with regs := o.regs.map fun _ => none, val := .have (o.regs.map fun _ => 0) } else o }

/-- HREC_AT_TARGET (R340): the HREC at the head of C3. A template that names an entry which is Invalid, or entry 14, makes no record (R167, log
entry 84); the write of four units waits for each at its home (R232). -/
def execHrecAtTarget (core : Nat) (s : State) : Out :=
  match (s.core core).copyQ.getD 3 [] with
  | [] => .next s
  | e :: _ => match e.work with
    | .hrec h tmpl off out =>
      let la := s.launch e.iss.launch
      let c := la.ctx
      let gr := s.group e.iss.thr.g
      let live := gr.state = .resident || gr.state = .halting
      let dest := gmemAddr gr.core (gr.gbase + off)
      let x := s.fmtCtx c (dieOfCore core)
      let dead (n : Nat) : Bool := decide (n = 14) || !(x.entry n).valid
      let bad (t : QWord) (code d1 : Nat) : State :=
        ((((s.dropEntry core 3 e.id).spoil c t).voidOut e.iss.thr out).report c (some e.iss) code (hTarget t) d1).queuesMoved core
      if !s.mayBegin e.iss ∨ !s.runs (dieOfCore core) ∨ !s.homeRuns h then .next s
      else match s.lookup c h with
        | .pending => .next s
        | .bad t code d1 => .next (bad t code d1)
        | .tensor t tensor =>
          let n := madeRecord (la.hdr.templates.getD tmpl 0) tensor.image h
          let r : Packet := .ofNat 512 (n + (Config.sealRecord (s.ctx c).sealKey c n).toNat * 2 ^ 448)
          let d := x.entry (recFmt r)
          let w := if Desc.w d = 56 then 64 else Desc.container d
          if dead (recFmt r) then .next (bad t 0x0A (recFmt r))
          else if recGeom r ≠ 0 ∧ dead (recSfmt r) then .next (bad t 0x0A (recSfmt r))
          else if recBase tensor.image + 65536 * recSpan tensor.image < recEnd r w then .next (bad t 0x13 7)
          else if live ∧ !(List.range 4).all (fun i => s.reach (dest + 16 * i)) then .next s
          else
            let s := s.dropEntry core 3 e.id
            let s := if live then s.homeWr dest (bytesOf 64 r.toNat) else s
            .next ((s.fulfil e.iss.thr out [0]).queuesMoved core)
    | _ => .next s

/-! ## HND instructions (R335 to R341) -/

/-- The image's own checks (R336): detail of the fault, with its code. -/
def State.imageFault (s : State) (x : Ctx) (la : Launch) (r : Packet) : Option (Nat × Nat) :=
  let dead (e : Nat) : Bool := decide (e = 14) || !(x.entry e).valid
  let nd := bits r.toNat 321 319
  if bits r.toNat 80 32 ≠ 0 ∨ bits r.toNat 511 448 ≠ 0 ∨ recSpan r = 0 ∨ nd < 1 ∨ 5 < nd ∨ 512 < recInd r then some (0x13, 8)
  else if dead (recFmt r) then some (0x0A, recFmt r)
  else if recGeom r ≠ 0 ∧ dead (recSfmt r) then some (0x0A, recSfmt r)
  else if !s.keyUsable la (recKey r) then some (0x13, 3)
  else none

/-- HNEW (R336): an escape event (R113). Its image follows the thread's own atomics on those bytes (R224 c). -/
def execHnew (sw : Bool) (d a : BitVec 7) (s : State) : Out :=
  runSheaf { sw := sw, reads := [f1 a], writes := [f4 d], var := true, access := true } (fun s r =>
    let off := (s.reg r a).toNat
    let gr := s.group r.g
    let la := s.launch gr.launch
    if off % 64 ≠ 0 then .fault 0x09 off 64
    else if la.hdr.gmem < off + 64 then .fault 0x05 off 0
    else if s.ownAtom r (gmemAddr gr.core (gr.gbase + off)) 64 then .stay s
    else
      let (s, bs) := s.viewBytes gr.core r (gmemAddr gr.core (gr.gbase + off)) 64
      let img : Packet := .ofNat 512 (ofBytes bs)
      match s.imageFault (s.tableOf r) la img with
      | some (code, d1) => .fault code off d1
      | none =>
        let s := s.setCtx la.ctx { s.ctx la.ctx with usedHnew := true }
        let s := s.modLaunch gr.launch fun la => { la with escaped := true }
        let q : HnewReq := { id := s.fresh + 1, iss := s.issuer r, ctx := la.ctx, image := img, out := s.fresh }
        let s := (s.issueOut r (f4 d) .awaited).tick
        let cl := clusterOf gr.core
        .done (s.setCluster cl { s.cluster cl with hnews := (s.cluster cl).hnews ++ [q] })) s

/-- A split of a handle with weight left (R338). -/
def State.splitWeight (s : State) (r : TRef) (c : Nat) (d a : BitVec 7) (mask : Nat) (h : QWord) : State :=
  let keep := putBits h.toNat 35 30 (hK h - 1)
  let new := s.sealed c (putBits keep 57 52 (hRights h &&& mask))
  (s.setRegs r a (wordsOf 4 keep)).setRegs r d (wordsOf 4 new.toNat)

/-- A split of an exhausted handle through the core's reserved cell, which keeps it (R332, R338). -/
def State.splitCell (s : State) (r : TRef) (c k : Nat) (d a : BitVec 7) (mask : Nat) (h : QWord) : State :=
  let gr := s.group r.g
  let cl := clusterOf gr.core
  let e := s.cell c k
  let ih (rights : Nat) : QWord := s.sealed c (hFields cl (k % 65536) 61 e.gen rights (hKey h) (hTag h) 1)
  let s' := s.setCell c k { gen := e.gen, pending := true, kept := h, creator := gr.launch }
  let s' := s'.setCluster cl { s'.cluster cl with cellsDue := (s'.cluster cl).cellsDue ++ [(c, k)] }
  let s' := s'.reserveCell c gr.core
  (s'.setRegs r a (wordsOf 4 (ih (hRights h)).toNat)).setRegs r d (wordsOf 4 (ih (hRights h &&& mask)).toNat)

/-- HSPLIT (R338). The launch must be one that may use the handle's key slot (R67, log entry 146), and a reserved cell that fails its check is no
cell (R330). -/
def execHsplit (sw : Bool) (d a : BitVec 7) (m : BitVec 6) (s : State) : Out :=
  runSheaf { sw := sw, reads := [f4 a], writes := [f4 d] } (fun s r =>
    let h := s.quad r a
    let c := s.ctxOf r.g
    let core := (s.group r.g).core
    if h = 0 then .fault 0x13 0 6
    else if !s.sealOk c h then .fault 0x13 (hTarget h) 1
    else if hK h = 63 then .fault 0x13 (hTarget h) 9
    else if hRights h / 16 % 2 = 0 then .fault 0x13 (hTarget h) 2
    else if !s.keyUsable (s.launchOf r.g) (hKey h) then .fault 0x13 (hTarget h) 3
    else if hK h ≠ 0 then .done ((s.splitWeight r c d a m.toNat h).pollDone r)
    else if ((s.ctx c).harea.map fun x => x.2.2).getD 0 = 0 then .fault 0x13 (hTarget h) 0xA
    else match s.reservedCell c core with
      | some k =>
        if (s.cell c k).altered then .doneFault (s.killCell c k) 0x13 (clusterOf core * 2 ^ 24 + k % 65536) 0xB (r.t / 32) (2 ^ (r.t % 32))
        else .done ((s.splitCell r c k d a m.toNat h).pollDone r)
      | none => if (s.freeCell c (clusterOf core)).isSome then .stay s else .again (s.backOff r none)) s

/-- The narrowest scope that holds a core and a cluster (R339). -/
def homeScope (core home : Nat) : Nat :=
  if clusterOf core = home then 5 else if dieOfCore core = dieOfCluster home then 6 else 7

/-- HDROP (R339). A handle that passes its seal and names a key slot which the launch may not use is not dropped (R67, log entry 146). -/
def execHdrop (sw : Bool) (a : BitVec 7) (s : State) : Out :=
  runSheaf { sw := sw, reads := [f4 a], access := true } (fun s r =>
    let h := s.quad r a
    let core := (s.group r.g).core
    let c := s.ctxOf r.g
    if s.sealOk c h ∧ !s.keyUsable (s.launchOf r.g) (hKey h) then .fault 0x13 (hTarget h) 3
    else
    let s := s.setRegs r a [0, 0, 0, 0]
    if h = 0 then .done s
    else
      let s := s.publish r (homeScope core (hHome h))
      let e : Entry := { id := s.fresh, iss := s.issuer r, work := .hand (.post h), ord := s.fresh, at0 := s.cycles (clusterOf core) }
      let s := s.tick
      .done (s.setCore core { s.core core with hq := (s.core core).hq ++ [e] })) s

/-- HREC (R340): only the producer furrow (R262), and a launch that may use the handle's key slot (R67, log entry 146). -/
def execHrec (sw : Bool) (d a t : BitVec 7) (s : State) : Out :=
  runSheaf { sw := sw, reads := [f1 d, f4 a], writes := [f1 d], var := true, access := true } (fun s r =>
    let off := (s.reg r d).toNat
    let h := s.quad r a
    let gr := s.group r.g
    let la := s.launch gr.launch
    if la.hdr.nrec ≤ t.toNat then .fault 0x01 0 t.toNat
    else if off % 64 ≠ 0 then .fault 0x09 off 64
    else if la.hdr.gmem < off + 64 then .fault 0x05 off 0
    else if h = 0 then .fault 0x13 0 6
    else if !s.sealOk la.ctx h then .fault 0x13 (hTarget h) 1
    else if !s.keyUsable la (hKey h) then .fault 0x13 (hTarget h) 3
    else if !s.isProducer r then .fault 0x0D 0 0
    else if s.roomC3 gr.core = 0 then .stay s
    else
      let e : Entry := { id := s.fresh + 1, ord := s.fresh + 1, iss := s.issuer r, work := .hrec h t.toNat off s.fresh, at0 := s.cycles (clusterOf gr.core) }
      .done (((s.issueOut r (f1 d) .awaited).tick).placeCopy gr.core 3 e)) s

/-- What HINFO writes (R341), for a lookup that has arrived. -/
def State.hinfo (s : State) (c : Nat) (h : QWord) : Option Nat :=
  if !s.sealOk c h then some 3
  else
    let ind := if hInd h then 4 else 0
    match s.lookup c h with
    | .pending => none
    | .tensor _ t => some (t.gen * 2 ^ 16 + Nat.log2 (fullWeight - t.returned) * 8 + ind)
    | .bad t _ _ =>
      let gen := if hInd t then (s.cell c (cellKey t)).gen else (s.tensor c (hTarget t)).gen
      let e := s.tensor c (hTarget t)
      let is (st : EntState) : Bool := !hInd t && decide (e.state = st) && !e.altered
      let out := if is .live then Nat.log2 (fullWeight - e.returned) else 0
      some (gen % 2 ^ 16 * 2 ^ 16 + out * 8 + ind + if is .dying then 1 else 2)

/-- HINFO (R341): the lookup is made when the homes on its way can answer. -/
def execHinfo (sw : Bool) (d a : BitVec 7) (s : State) : Out :=
  runSheaf { sw := sw, reads := [f4 a], writes := [f1 d], var := true, access := true } (fun s r =>
    let h := s.quad r a
    if h ≠ 0 ∧ !s.homeRuns h then .stay s
    else match s.hinfo (s.ctxOf r.g) h with
      | none => .stay s
      | some v => .done (s.issueVal r d 1 v)) s

/-- HBIND (R337), by a launch that may use the handle's key slot (R67, log entry 146). -/
def execHbind (sw : Bool) (d a b : BitVec 7) (s : State) : Out :=
  runSheaf { sw := sw, reads := [f1 d, f4 a, f1 b], access := true } (fun s r =>
    let idx := (s.reg r d).toNat
    let h := s.quad r a
    let gr := s.group r.g
    let la := s.launch gr.launch
    match s.binOf la idx with
    | none => .fault 0x01 0 idx
    | some bin =>
      if !s.sealOk la.ctx h then .fault 0x13 (hTarget h) 1
      else if hRights h / 32 % 2 = 0 then .fault 0x13 (hTarget h) 2
      else if !s.keyUsable la (hKey h) then .fault 0x13 (hTarget h) 3
      else
        let e : Entry := { id := s.fresh, ord := s.fresh, iss := s.issuer r, work := .hand (.bind h bin (s.reg r b)), at0 := s.cycles (clusterOf gr.core) }
        let s := s.tick
        .done (s.setCore gr.core { s.core gr.core with hq := (s.core gr.core).hq ++ [e] })) s

end Sys2Proof.Machine
end

