-- ==== Sys2Proof/Machine/Lease.lean ====
section
/-! DEFINITION. What a launch is made of: its region chain (R63 to R65), its kernel header (R47 to R49, R386), its leases (R107, R108) and
its snapshot marks (R110, R111). -/

namespace Sys2Proof.Machine

/-- A read of the hub for a context; bytes it cannot read are zero (log entry 73), and a failed check is notified (R318). -/
def State.read0 (s : State) (c va n : Nat) : State × List Byte :=
  match s.virtRd (s.ctx c) va n with
  | some p => p
  | none => (s.virtNote c va n, List.replicate n 0)

/-! ## Regions (R63 to R65) -/

/-- The effective values of the root block: all its own (R64). -/
def Region.root (addr n : Nat) : Region :=
  { addr := addr, save := bits n 127 64, ring := bits n 191 128, ringlog := bits n 199 192, replaylim := bits n 207 200, band := bits n 215 208,
    deadlinePol := bits n 223 216, gslots := bits n 263 256, regs := bits n 279 264, gmem := bits n 295 280, slots := bits n 303 296,
    scratch := bits n 319 304, copyshare := bits n 351 336, policy := bits n 415 352, checked := bits n 416 416 = 1,
    keyslot := bits n 429 424,
    chain := [(addr, bits n 263 256, bits n 279 264, bits n 295 280, bits n 303 296, bits n 319 304)] }

/-- The effective values of a block under its parent's (R64): a budget is at most the parent's. -/
def Region.child (p : Region) (addr n : Nat) : Region :=
  let own := Region.root addr n
  let ovr (b : Nat) : Bool := (bits n 255 224).testBit b
  let pick (b : Nat) (x y : Nat) : Nat := if ovr b then x else y
  let cap (b : Nat) (x y : Nat) : Nat := if ovr b then min x y else y
  let r : Region :=
    { addr := addr, save := pick 0 own.save p.save, ring := pick 1 own.ring p.ring, ringlog := pick 1 own.ringlog p.ringlog,
      replaylim := pick 2 own.replaylim p.replaylim, band := pick 3 own.band p.band, deadlinePol := pick 4 own.deadlinePol p.deadlinePol,
      gslots := cap 5 own.gslots p.gslots, regs := cap 6 own.regs p.regs, gmem := cap 7 own.gmem p.gmem, slots := cap 8 own.slots p.slots,
      scratch := cap 9 own.scratch p.scratch, copyshare := cap 10 own.copyshare p.copyshare, policy := pick 11 own.policy p.policy,
      checked := if ovr 12 then own.checked else p.checked, keyslot := pick 13 own.keyslot p.keyslot }
  { r with chain := (addr, r.gslots, r.regs, r.gmem, r.slots, r.scratch) :: p.chain }

/-- The blocks of a chain from a launch's own to the root, or the offending block's address (R65): of a chain that does not reach the root within
8 blocks, the address of the eighth (log entry 142). -/
def State.regionChain (s : State) (c : Nat) : Nat → Nat → Nat → State × Except Nat (List (Nat × Nat))
  | 0, _, prev => (s, .error prev)
  | n + 1, a, prev =>
    if a % 64 ≠ 0 then (s, .error a)
    else if a = 0 ∧ (s.ctx c).rootrcb ≠ 0 then (s, .error prev)
    else match s.virtRd (s.ctx c) a 64 with
      | none => (s.virtNote c a 64, .error a)
      | some (s, bs) =>
        let v := ofBytes bs
        if a = (s.ctx c).rootrcb then (s, .ok [(a, v)])
        else match s.regionChain c n (bits v 63 0) a with
          | (s, .error e) => (s, .error e)
          | (s, .ok l) => (s, .ok ((a, v) :: l))

def regionOf : List (Nat × Nat) → Region
  | [] => {}
  | [(a, v)] => Region.root a v
  | (a, v) :: r => (regionOf r).child a v

/-- The effective region of a block (R64, R65). -/
def State.readRegion (s : State) (c a : Nat) : State × Except Nat Region :=
  match s.regionChain c 8 a a with
  | (s, .error e) => (s, .error e)
  | (s, .ok l) => (s, .ok (regionOf l))

/-! ## The kernel header (R47, R49, R386) -/

/-- The tables of a header and its code: offset and bytes. -/
def headerParts (h : Nat) : List (Nat × Nat) :=
  [(bits h 287 256, 8 * bits h 175 172), (bits h 383 352, 16 * bits h 215 208), (bits h 447 416, 16 * bits h 231 224),
   (bits h 415 384, 16 * bits h 207 200), (bits h 351 320, 64 * bits h 223 216), (bits h 319 288, bits h 127 96)]

def apart (a b : Nat × Nat) : Bool := decide (a.1 + a.2 ≤ b.1) || decide (b.1 + b.2 ≤ a.1)

def allApart : List (Nat × Nat) → Bool
  | [] => true
  | p :: r => r.all (apart p) && allApart r

/-- The layout is consistent (R47, R386): present tables aligned, after the header, within the section and apart. Of a table with count 0 and a
nonzero offset only the alignment is checked (log entry 138). -/
def layoutOk (h : Nat) (desclen : Option Nat) : Bool :=
  let ps := headerParts h
  let present := ps.filter fun p => decide (p.2 ≠ 0)
  ps.all (fun p => decide (p.1 % 8 = 0) && (decide (p.1 ≠ 0) || decide (p.2 = 0))) &&
    decide (bits h 319 288 % 64 = 0) && decide (bits h 351 320 % 64 = 0) &&
    present.all (fun p => decide (64 ≤ p.1) && (desclen.map fun n => decide (p.1 + p.2 ≤ n)).getD true) && allApart present

/-- The first check of R49. A spill above 4,096 and args above 256 fail it too (log entry 137). -/
def headerBad (h : Nat) (desclen : Option Nat) : Bool :=
  decide (bits h 63 32 ≠ 0x4C554B58) || decide (bits h 31 16 ≠ 1) || decide (bits h 15 0 ≠ 0) || decide (bits h 199 192 ≠ 0) ||
    decide (bits h 511 448 ≠ 0) || decide (bits h 95 64 ≠ 0) || decide (bits h 127 96 = 0) || decide (bits h 127 96 % 4 ≠ 0) ||
    decide (256 < bits h 243 232) || decide (48 < bits h 215 208) || decide (4096 < bits h 143 128) || !layoutOk h desclen

def chanOf (v : Nat) : ChanDecl := { size := 8 * bits v 63 60, depth := bits v 59 44, allow := bits v 43 28 }

/-- A declared channel's entry is within its limits (R48). -/
def chanOk (c : ChanDecl) : Bool :=
  decide (c.size = 0) || (decide (c.size ≤ 64) && decide (1 ≤ c.depth) && decide (c.depth ≤ 4096) && decide (1 ≤ c.allow) &&
    decide (c.allow ≤ c.depth))

/-- Entries of k bytes cut from a table. -/
def entries (k : Nat) : Nat → List Byte → List Nat
  | 0, _ => []
  | n + 1, bs => ofBytes (bs.take k) :: entries k n (bs.drop k)

/-- The checks of R49 in their order: the fault code of the first that fails. -/
def headerFault (x : Ctx) (h : Nat) (desclen : Option Nat) (chans : List ChanDecl) (fmts : List Nat) : Option Nat :=
  if headerBad h desclen then some 0x01
  else if 131072 < (bits h 191 186 + 1) * 8 * 32 * (bits h 185 181 + 1) then some 0x02
  else if 16 < bits h 180 176 ∨ 8 < bits h 175 172 ∨ !chans.all chanOk then some 0x04
  else if 24576 < bits h 158 144 then some 0x05
  else if 2048 < bits h 255 244 then some 0x06
  else if bits h 185 181 < bits h 165 160 ∧ bits h 165 160 ≠ 0x3F then some 0x0D
  else if 32 < bits h 171 166 then some 0x16
  else if fmts.any fun f => !(decide (16 ≤ bits f 69 64) && decide (bits f 69 64 ≤ 63) &&
      decide ((x.fmt.getD (bits f 69 64 - 16) 0).toNat = bits f 63 0)) then some 0x0A
  else none

/-- A node-bin entry as a bin (R48, R98): its count is latched as given, 0 and above 1,024 too (log entry 140). -/
def binEntry (desc idx v : Nat) (r : Region) (queue : Nat) : Bin :=
  { desc := desc, idx := idx, kernel := bits v 63 0, count := bits v 127 112, timer := bits v 111 80, region := r, queue := queue }

/-- What a descriptor holds: the header, and its tables of leases and bins. -/
structure Descriptor where
  hdr : Header
  leases : List Nat
  bins : List Nat
  /-- offset of the lease template entries -/
  leaseoff : Nat

/-- The header at a descriptor address, checked (R49). What cannot be read reads as zeros (log entry 73). An address that is no multiple of 64
fails as ILLEGAL_OP ahead of those checks (log entry 169). -/
def State.readHeader (s : State) (c desc : Nat) : State × Except Nat Descriptor :=
  let x := s.ctx c
  let len := (x.kernels.find? fun m => m.desc = desc).map (·.len)
  let (s, bs) := s.read0 c desc 64
  let h := ofBytes bs
  let table (s : State) (off k n : Nat) : State × List Nat :=
    if headerBad h len ∨ n = 0 then (s, [])
    else
      let (s, bs) := s.read0 c (desc + off) (k * n)
      (s, entries k n bs)
  let (s, cs) := table s (bits h 287 256) 8 (bits h 175 172)
  let (s, fs) := table s (bits h 383 352) 16 (bits h 215 208)
  let (s, ls) := table s (bits h 447 416) 16 (bits h 231 224)
  let (s, ns) := table s (bits h 415 384) 16 (bits h 207 200)
  let (s, rs) := table s (bits h 351 320) 64 (bits h 223 216)
  if desc % 64 ≠ 0 then (s, .error 0x01)
  else match headerFault x h len (cs.map chanOf) fs with
    | some code => (s, .error code)
    | none => (s, .ok
        { hdr := { regs := 8 * (bits h 191 186 + 1), furrows := bits h 185 181 + 1, nbar := bits h 180 176, chans := cs.map chanOf,
                   slots := bits h 171 166, producer := if bits h 165 160 = 0x3F then none else some (bits h 165 160),
                   free := bits h 159 159 = 1, gmem := 16 * bits h 158 144, spill := 16 * bits h 143 128, scratch := bits h 255 244,
                   args := 16 * bits h 243 232, codebytes := bits h 127 96, codeoff := bits h 319 288, nbin := bits h 207 200,
                   nrec := bits h 223 216, templates := rs.map fun v => .ofNat 512 v }
          leases := ls
          bins := ns
          leaseoff := bits h 447 416 })

/-- The frames of a descriptor's pages, as the page tables map them now; a page without a leaf holds nothing, and a failed walk is notified. -/
def State.descFrames (s : State) (c desc len : Nat) : State × List Nat :=
  let rec go : List (Nat × Nat) → State → List Nat → State × List Nat
    | [], s, l => (s, l)
    | (va, _) :: r, s, l => match s.walk (s.ctx c) va with
      | .ok (s, some leaf) => go r s (l ++ [leafFrame leaf * 65536])
      | .ok (s, none) => go r s (l ++ [2 ^ 53])
      | .error (s, f) => go r (s.noteFail (f.2 / 64) f.1 c) (l ++ [2 ^ 53])
  go (pageChunks (len / 65536 + 2) desc len) s []

/-! ## Leases (R107, R108) -/

def leaseOf (v : Nat) : Lease := { cls := bits v 127 126, base := bits v 63 0, len := bits v 111 64 }

/-- The checks on an entry itself (R107, R366); a node kernel's entry with base 0 is a LEASE (R100). -/
def leaseBad (node : Bool) (v addr : Nat) : Option (Nat × Nat) :=
  let e := leaseOf v
  if e.cls = 3 ∨ bits v 125 112 ≠ 0 ∨ e.base % 65536 ≠ 0 ∨ e.len = 0 ∨ (e.cls = 2 ∧ 2 ≤ bits e.base 63 60) then some (0x01, addr)
  else if node ∧ e.base = 0 then some (0x0E, 0)
  else none

/-- The first entry of a table that fails a check of its own: its position, the code and detail0. -/
def leasesBad (node : Bool) : List Nat → Nat → Nat → Option (Nat × Nat × Nat)
  | [], _, _ => none
  | v :: r, i, a => match leaseBad node v a with
    | some f => some (i, f.1, f.2)
    | none => leasesBad node r (i + 1) (a + 16)

/-- The pages of an entry (R107); a length that is no multiple of 65,536 takes its last page whole (log entry 141). -/
def Lease.pages (e : Lease) : List Nat :=
  if e.cls = 2 then [] else (List.range ((e.len + 65535) / 65536)).map (· + e.base / 65536)

/-- What a scan of the covered pages finds: the leaves to latch, whether every page can be latched, or a refusal. -/
structure Scan where
  s : State
  leaves : List ShadowPage := []
  ok : Bool := true
  refused : Option (Nat × Nat × Nat) := none

/-- One covered page (R107, R108, R315): a held page waits, an Unmapped one is asked for. -/
def Scan.page (l : Nat) (write : Bool) (t : Scan) (page : Nat) : Scan :=
  if t.refused.isSome then t
  else
    let la := t.s.launch l
    let x := t.s.ctx la.ctx
    if x.held page then { t with ok := false }
    else match t.s.walk x (page * 65536) with
      | .error (s, f) => { t with s := s.noteFail (f.2 / 64) f.1 la.ctx, refused := some (f.1.code, f.2, 0) }
      | .ok (s, none) =>
        let s1 := if la.asked.any fun a => a.1 = page then s
          else (s.post 1 (page * 65536) la.seq la.ctx).modLaunch l fun la => { la with asked := la.asked ++ [(page, s.refTimer)] }
        { t with s := s1, ok := false }
      | .ok (s, some leaf) =>
        if write && !leafWrite leaf then { t with s := s, refused := some (0x0E, page * 65536, 0) }
        else if !s.keyUsable la (leafKey leaf) then { t with s := s, refused := some (0x0E, page * 65536, leafKey leaf) }
        else if t.leaves.any fun p => p.page = page then { t with s := s }
        else { t with s := s, leaves := t.leaves ++ [{ page := page, leaf := leaf }] }

def scanLeases (l : Nat) (s : State) (es : List Lease) : Scan :=
  es.foldl (fun t e => e.pages.foldl (Scan.page l (decide (e.cls = 1))) t) { s := s }

/-! ## Marking (R110, R111) -/

/-- A page of a write-class entry. -/
def Launch.writePage (la : Launch) (page : Nat) : Bool :=
  la.leases.any fun e => decide (e.cls = 1) && decide (e.base / 65536 ≤ page) && decide (page * 65536 < e.base + e.len)

/-- Unfinished launches: pins, marks and limits count them (R92, R111, R315). -/
def Launch.unfinished (la : Launch) : Bool := decide (la.state ≠ .finished) && decide (la.state ≠ .gone)

/-- A launch in Marking is marked, found not replayable, or waits for frames (R111). -/
def State.mark (s : State) (l : Nat) : State :=
  let la := s.launch l
  let x := s.ctx la.ctx
  let ws := (la.shadow.filter fun p => la.writePage p.page).map (·.page)
  let others := s.launches.zipIdx.filter fun p => decide (p.2 ≠ l) && decide (p.1.ctx = la.ctx) && p.1.unfinished
  let clash := others.any fun p => p.1.shadow.any fun q => q.marked && ws.contains q.page
  if la.state ≠ .marking then s
  else if la.shadow.any (·.marked) then s.modLaunch l fun la => { la with state := .placing }
  else if la.region.replaylim = 0 ∨ clash ∨ x.snapPool.length < ws.length then
    s.modLaunch l fun la => { la with state := .placing, replayable := false }
  else
    let free := x.snapPool.filter fun f => !x.snapBusy.contains f
    if free.length < ws.length then s
    else
      let take := ws.zip free
      let s := s.setCtx la.ctx { x with snapBusy := x.snapBusy ++ free.take ws.length }
      s.modLaunch l fun la =>
        { la with state := .placing, replayable := true
                  shadow := la.shadow.map fun p => match take.find? (fun q => q.1 = p.page) with
                    | some q => { p with marked := true, frame := q.2, copied := false }
                    | none => p }

/-- Leasing (R106 to R108): a refusal ends the launch; once every covered page is valid and not held, all are latched. -/
def State.tryLease (s : State) (l : Nat) : State :=
  let la := s.launch l
  if la.state ≠ .leasing then s
  else
    let t := scanLeases l s la.leases
    let s := t.s
    match t.refused with
    | some (code, d0, d1) => s.failLaunch l code d0 d1
    | none =>
      if t.ok then (s.modLaunch l fun la => { la with state := .marking, shadow := t.leaves, asked := [] }).mark l
      else s.modLaunch l fun la => { la with leafReadAt := s.refTimer }

/-- The entries of a lease table are checked in table order, each with the pages that it covers, and the first refusal ends the launch (R107):
`bad` is the first entry that fails a check of its own. -/
def State.startLease (s : State) (l : Nat) (bad : Option (Nat × Nat × Nat)) : State :=
  match bad with
  | none => s.tryLease l
  | some (i, code, d0) =>
    let t := scanLeases l s ((s.launch l).leases.take i)
    match t.refused with
    | some (code, d0, d1) => t.s.failLaunch l code d0 d1
    | none => t.s.failLaunch l code d0 0

end Sys2Proof.Machine
end

