-- ==== Sys2Proof/Machine/Queue.lean ====
section
/-! DEFINITION. Launch queues (R84 to R94) and the instructions that feed queues and bins (R101 to R104). -/

namespace Sys2Proof.Machine

/-! ## Control blocks (R86) -/

/-- The fields that the device writes, with their places in the control block. -/
def Queue.fields (q : Queue) : List (Nat × Nat) := [(0, q.read), (8, q.write), (16, q.picked), (24, q.missed), (32, q.baddoor)]

def State.writeFields (s : State) (c ctl : Nat) : List (Nat × Nat) → State
  | [] => s
  | (off, v) :: r => (s.virtPut c (ctl + off) (bytesOf 8 v)).writeFields c ctl r

/-- A queue changes; the fields that changed are written to its control block (R86). -/
def State.updQueue (s : State) (q : Nat) (f : Queue → Queue) : State :=
  let a := s.queue q
  let b := f a
  let changed := (a.fields.zip b.fields).filterMap fun p => if p.1 = p.2 then none else some p.2
  (s.setQueue q b).writeFields b.ctx b.ctl changed

/-! ## Packets (R88, R89) -/

def pf (p : BitVec 1024) (hi lo : Nat) : Nat := bits p.toNat hi lo
def pNdep (p : BitVec 1024) : Nat := pf p 10 8
def pAfter (p : BitVec 1024) : Bool := pf p 11 11 = 1
def pSig (p : BitVec 1024) (j : Nat) : Nat := pf p (575 + 128 * j) (512 + 128 * j)
def pTarget (p : BitVec 1024) (j : Nat) : Nat := pf p (639 + 128 * j) (576 + 128 * j)
def pDone (p : BitVec 1024) : Nat := pf p 511 448
def pRegion (p : BitVec 1024) : Nat := pf p 319 256

/-- A deadline of 0 is none (R88). -/
def pDeadline (p : BitVec 1024) : Nat := if pf p 447 384 = 0 then 2 ^ 64 - 1 else pf p 447 384

/-- The addresses of the signals in use. -/
def pSignals (p : BitVec 1024) : List Nat :=
  (List.range (min 4 (pNdep p))).map (pSig p) ++ if pDone p = 0 then [] else [pDone p]

/-- Whether an address is mapped in a context's tree; a failed walk is notified, and maps nothing (R318). -/
def State.mapped (s : State) (c va : Nat) : State × Bool := match s.walk (s.ctx c) va with
  | .ok (s, l) => (s, l.isSome)
  | .error (s, f) => (s.noteFail (f.2 / 64) f.1 c, false)

/-- The first signal address that is misaligned or unmapped. -/
def State.badSignal (s : State) (c : Nat) : List Nat → State × Option Nat
  | [] => (s, none)
  | a :: r =>
    if a % 8 ≠ 0 then (s, some a)
    else match s.mapped c a with
      | (s, true) => s.badSignal c r
      | (s, false) => (s, some a)

/-- A field of a packet is not as R88 has it (R89): the type, the count, a reserved field, bit 63 of a target, used or not, or the grid. -/
def packetBad (p : BitVec 1024) : Bool :=
  let grid := [pf p 127 96, pf p 95 80, pf p 79 64]
  decide (pf p 7 0 ≠ 1) || decide (4 < pNdep p) || decide (pf p 63 24 ≠ 0) || decide (pf p 15 13 ≠ 0) ||
    (List.range 4).any (fun j => decide (2 ^ 63 ≤ pTarget p j)) || grid.contains 0 || decide (2 ^ 32 - 1 < grid.foldl (· * ·) 1)

/-- The checks made when a packet becomes head (R89): code and detail0. -/
def State.packetFault (s : State) (c : Nat) (p : BitVec 1024) : State × Option (Nat × Nat) :=
  if packetBad p then (s, some (0x01, 0))
  else
    let (s, a) := s.badSignal c (pSignals p)
    (s, a.map fun a => (0x0E, a))

/-! ## Signals (R90, R91) -/

/-- What a signal holds, if the hub can read it. -/
def State.readSignal (s : State) (c a : Nat) : State × Option Nat :=
  match s.virtRd (s.ctx c) a 8 with
  | some (s, bs) => (s, some (ofBytes bs))
  | none => (s.virtNote c a 8, none)

/-- The value of a signal meets a dependence's target. -/
def signalMeets (target : Nat) (v : Option Nat) : Bool := v.any fun v => decide (target % 2 ^ 63 ≤ v % 2 ^ 63)

/-- The dependences of a packet that are met: those met before stay met and are not read again (R90). -/
def State.readDeps (s : State) (c : Nat) (p : BitVec 1024) (met : List Nat) : List Nat → State × List Nat
  | [] => (s, [])
  | j :: js =>
    let (s, ok) := if met.contains j then (s, true) else
      let (s, v) := s.readSignal c (pSig p j)
      (s, signalMeets (pTarget p j) v)
    let (s, l) := s.readDeps c p met js
    (s, if ok then j :: l else l)

/-- The signals of a queue's head packet are read (R90). -/
def State.rereadHead (s : State) (q : Nat) : State :=
  let a := s.queue q
  match a.head with
  | none => s
  | some p =>
    let (s, met) := s.readDeps a.ctx p a.met (List.range (pNdep p))
    s.setQueue q { a with met := met, readAt := s.refTimer }

def openQueues (s : State) : List Nat := (s.queues.filter fun p => decide (p.2.state ≠ .closed)).map (·.1)
def State.ctxQueues (s : State) (c : Nat) : List Nat := (openQueues s).filter fun q => (s.queue q).ctx = c
def State.rereadAll (s : State) (qs : List Nat) : State := qs.foldl (fun s q => s.rereadHead q) s

/-! ## Deadlines (R93) -/

/-- A miss: the queue counts it, the flag of its code is set, and under policy 0x0 one record goes to the root region's ring. -/
def State.miss (s : State) (q policy deadline : Nat) (launch : Option Nat) : State :=
  let s := s.updQueue q fun a => { a with missed := a.missed + 1 }
  let c := (s.queue q).ctx
  if policy = 0 then
    s.record c { code := 0x1D, kind := 2, d0 := deadline, d1 := s.refTimer - deadline, launch := launch, queue := q } 0 none
  else
    let x := s.ctx c
    let seq := (launch.map fun l => (s.launch l).seq).getD 0
    s.setCtx c { x with sticky := sticky x.sticky 0x1D 0 seq }

/-- The region of a packet as the dispatcher reads it for arbitration (R92); one it cannot read ranks as band 0, and a failed check on the way is
notified (R318). -/
def State.packetRegion (s : State) (c : Nat) (p : BitVec 1024) : State × Region := match s.readRegion c (pRegion p) with
  | (s, .ok r) => (s, r)
  | (s, .error _) => (s, {})

/-- The blocks of a packet's region cannot be read while a home of theirs is in a relock (R349). -/
def State.regionWaits (s : State) (c : Nat) (p : BitVec 1024) : Bool := ({ s with hubWaits := false }.readRegion c (pRegion p)).1.hubWaits

/-- The head packet has missed its deadline (R93). -/
def State.missHead (s : State) (q : Nat) : State :=
  let a := s.queue q
  match a.head with
  | none => s
  | some p =>
    if a.headMissed ∨ s.refTimer < pDeadline p then s
    else
      let (s, r) := s.packetRegion a.ctx p
      (s.setQueue q { a with headMissed := true }).miss q r.deadlinePol (pDeadline p) none

/-- A picked launch has missed its deadline before its first group was placed (R93). A launch whose queue is no longer the one it was picked from
belongs to a destroyed context, and misses nothing. -/
def State.missLaunch (s : State) (l : Nat) : State :=
  let la := s.launch l
  if la.missed ∨ la.dispatched ∨ la.node.isSome ∨ !la.unfinished ∨ s.refTimer < la.deadline ∨ la.opening ≠ (s.queue la.queue).opening then s
  else (s.modLaunch l fun la => { la with missed := true }).miss la.queue la.region.deadlinePol la.deadline (some l)

/-- DEADLINE_MISSED (R93): the launches picked from a queue, then its head packet. -/
def execDeadlineMissed (q : Nat) (s : State) : Out :=
  let ls := (List.range s.launches.length).filter fun l => decide ((s.launch l).queue = q) && (s.launch l).node.isNone
  .next (hubStep (fun s => (ls.foldl (fun s l => s.missLaunch l) s).missHead q) s)

/-! ## The head of a queue -/

/-- A queue's packets are considered while it is Running and its context Active (R85). -/
def State.considered (s : State) (q : Nat) : Bool :=
  decide ((s.queue q).state = .running) && decide ((s.ctx (s.queue q).ctx).state = .active)

/-- The next packet becomes head: failing packets are consumed without dispatch (R89). -/
def State.loadHead (s : State) (q : Nat) : Nat → State
  | 0 => s
  | n + 1 =>
    let a := s.queue q
    if a.head.isSome ∨ !s.considered q ∨ a.write ≤ a.read then s
    else
      let (s, bs) := s.read0 a.ctx (a.ring + 128 * (a.read % 2 ^ a.qlog)) 128
      let p : BitVec 1024 := .ofNat 1024 (ofBytes bs)
      match s.packetFault a.ctx p with
      | (s, some (code, d0)) =>
        let s := s.updQueue q fun a => { a with read := a.read + 1, picked := a.picked + 1 }
        (s.record a.ctx { code := code, kind := 2, d0 := d0, queue := q } 2 none).loadHead q n
      | (s, none) =>
        let s := s.setQueue q { a with head := some p, met := [], headMissed := false }
        (s.rereadHead q).missHead q

def State.settleQueue (s : State) (q : Nat) : State := s.loadHead q ((s.queue q).write - (s.queue q).read)
def State.settleQueues (s : State) (qs : List Nat) : State := qs.foldl (fun s q => s.settleQueue q) s

/-! ## Admin commands (R84, R85) -/

def qNum (p : Packet) : Nat := pkt p 351 342

/-- QOPEN. -/
def execQopen (fn : Nat) (p : Packet) (s : State) : Out :=
  onCtx fn p (fun st => st = .opened || st = .active) (fun c s =>
    let q := qNum p
    let ring := pkt p 511 448
    let ctl := pkt p 447 384
    let lg := pkt p 367 364
    if ring % 128 ≠ 0 ∨ ctl % 64 ≠ 0 ∨ lg < 2 then .refuse 3
    else if (s.queue q).state ≠ .closed ∨ 64 ≤ (s.ctxQueues c).length then .refuse 4
    else
      let s := s.setQueue q { state := .running, ctx := c, ring := ring, ctl := ctl, vector := pkt p 383 368, qlog := lg,
                              devmode := pkt p 363 363 = 1, opening := s.fresh }
      .done (s.tick.writeFields c ctl [(0, 0), (8, 0)])) s

/-- The frame of the commands on an open queue (R85): status 0x3 for another context's queue, 0x1 where the state has no row. -/
def onQueue (fn : Nat) (p : Packet) (okCtx : CtxState → Bool) (okQ : QState → Bool) (body : Nat → State → Adm) (s : State) : Out :=
  onCtx fn p okCtx (fun c s =>
    let a := s.queue (qNum p)
    if a.state = .closed then .refuse 1
    else if a.ctx ≠ c then .refuse 3
    else if !okQ a.state then .refuse 1
    else body (qNum p) s) s

/-- QSTOP. -/
def execQstop (fn : Nat) (p : Packet) (s : State) : Out :=
  onQueue fn p CtxState.inUse (· = .running) (fun q s => .done (s.setQueue q { s.queue q with state := .stopped })) s

/-- QSTART: reading resumes at the read index. -/
def execQstart (fn : Nat) (p : Packet) (s : State) : Out :=
  onQueue fn p CtxState.inUse (· = .stopped) (fun q s =>
    .done ((s.setQueue q { s.queue q with state := .running }).settleQueue q)) s

/-- A launch picked from a queue since it was opened has not retired (R85): one whose LAUNCH_FINISH is still to come counts until then (log
entry 165). -/
def State.queueBusy (s : State) (q : Nat) : Bool :=
  s.launches.any fun la => decide (la.queue = q) && decide (la.opening = (s.queue q).opening) && la.node.isNone && decide (la.state ≠ .gone)

/-- QCLOSE. -/
def execQclose (fn : Nat) (p : Packet) (s : State) : Out :=
  onQueue fn p (· ≠ .free) (fun _ => true) (fun q s => if s.queueBusy q then .refuse 4 else .done (s.setQueue q {})) s

/-! ## Doorbells (R87, R362) -/

/-- What a doorbell does (R87, R90): the write index advances or the doorbell is bad, and the signals of the context's heads are read again. -/
def State.ringDoor (s : State) (fn q v : Nat) : State :=
  let a := s.queue q
  if 1024 ≤ q ∨ a.state = .closed ∨ a.devmode ∨ (s.ctx a.ctx).fn ≠ fn then s
  else
    let s := if a.write < v ∧ v - a.read ≤ 2 ^ a.qlog then s.updQueue q fun a => { a with write := v }
      else s.updQueue q fun a => { a with baddoor := a.baddoor + 1 }
    (s.rereadAll (s.ctxQueues a.ctx)).settleQueue q

/-- DOORBELL: a write to the doorbell page of a function, over link 0 (R361); it acts after a relock of a home that it needs (R349). -/
def execDoorbell (fn q v : Nat) (s : State) : Out :=
  .next (if s.pcieUp.contains 0 then s.orOwe (.door fn q v) fun s => s.ringDoor fn q v else s)

/-- DEPENDENCE_REREAD (R90): 16 µs after the last reading. -/
def execDependenceReread (q : Nat) (s : State) : Out :=
  if s.refTimer < (s.queue q).readAt + 16000 then .next s else .next (hubStep (fun s => s.rereadHead q) s)

/-! ## Arbitration (R92) -/

/-- What stands for the pick: a queue's head packet or a context's ready node launch, with its keys. -/
structure Candidate where
  ctx : Nat
  band : Nat
  deadline : Nat
  queue : Nat
  node : Option Nat := none
  deriving DecidableEq, Repr

/-- Every earlier packet of the queue has ended (R88). -/
def State.eligible (s : State) (q : Nat) : Bool :=
  let a := s.queue q
  match a.head with
  | none => false
  | some p => s.considered q && (List.range (pNdep p)).all a.met.contains && !(pAfter p && s.queueBusy q)

/-- The ready node launches of the Active contexts. -/
def State.nodeCands (s : State) : List Candidate :=
  (s.ctxs.map (·.1)).flatMap fun c =>
    let x := s.ctx c
    if x.state = .active then
      x.nodeReady.zipIdx.filterMap fun n => x.bins[n.1.bin]?.map fun b =>
        { ctx := c, band := b.region.band, deadline := 2 ^ 64 - 1, queue := b.queue, node := some n.2 }
    else []

/-- The head packets of some queues, with the regions that the dispatcher reads for them. -/
def State.headCands (s : State) : List Nat → State × List Candidate
  | [] => (s, [])
  | q :: qs =>
    let a := s.queue q
    match a.head with
    | none => s.headCands qs
    | some p =>
      let (s, r) := s.packetRegion a.ctx p
      let (s, l) := s.headCands qs
      (s, { ctx := a.ctx, band := r.band, deadline := if r.deadlinePol = 2 then 2 ^ 64 - 1 else pDeadline p, queue := q } :: l)

/-- What may be picked now, within the limits on unfinished launches, and the state that reading the regions leaves. -/
def State.candidates (s : State) : State × List Candidate :=
  let room (c : Nat) : Bool := decide ((s.launches.filter fun la => la.unfinished && decide (la.ctx = c)).length < 64)
  if 512 ≤ (s.launches.filter fun la => la.unfinished).length then (s, [])
  else
    let (t, heads) := s.headCands ((openQueues s).filter fun q => s.eligible q && room (s.queue q).ctx)
    (t, s.nodeCands.filter (fun c => room c.ctx) ++ heads)

/-- The keys of R92 in their order; an earlier candidate of the list keeps a tie. -/
def Candidate.before (a b : Candidate) : Bool :=
  if a.band ≠ b.band then decide (b.band < a.band)
  else if a.deadline ≠ b.deadline then decide (a.deadline < b.deadline)
  else if a.queue ≠ b.queue then decide (a.queue < b.queue)
  else a.node.isSome && b.node.isNone

def bestOf (l : List Candidate) : Option Candidate :=
  l.foldl (fun m c => match m with
    | none => some c
    | some b => if c.before b then some c else some b) none

/-- The launch's bins are made live (R98): none if the context would hold more than 256. -/
def Ctx.addBins (x : Ctx) (desc queue : Nat) (r : Region) (es : List Nat) : Option Ctx :=
  let new := es.zipIdx.filter fun p => !(x.bins.any fun b => b.desc = desc && b.idx = p.2)
  if 256 < x.bins.length + new.length then none
  else some { x with bins := x.bins ++ new.map fun p => binEntry desc p.2 p.1 r queue }

/-- The constant space of a packet's launch (R88): bytes that cannot be read are free. -/
def State.argBytes (s : State) (c va n : Nat) : State × List Byte :=
  match s.virtRd (s.ctx c) va n with
  | some (s, bs) => (s, bs)
  | none => ((s.virtNote c va n).tick, (List.range n).map fun i => .ofNat 8 (Config.freeValue (s.fresh * 65536 + i)))

/-- The constant space of a node launch (R100): the node header, and the fired buffer. -/
def nodeConst (n : NodeReady) (records : List Byte) : List Byte :=
  bytesOf 16 (n.records.length + n.bin * 2 ^ 32 + n.cause * 2 ^ 40) ++ records

/-- The effective region of a launch: read for a packet, the bin's latched one for a node launch (R65, R100). -/
def State.launchRegion (s : State) (la : Launch) (region : Option Nat) : State × Except Nat Region :=
  match region with
  | some a => s.readRegion la.ctx a
  | none => (s, .ok la.region)

/-- The lease table of a launch and its address: of a node launch, the template entries of its kernel's header (R94, R100, R107). -/
def State.leaseTable (s : State) (la : Launch) (d : Descriptor) (leasetab nlease : Nat) : State × List Nat × Nat :=
  if la.node.isSome then (s, d.leases, la.desc + d.leaseoff)
  else
    let (s, bs) := s.read0 la.ctx leasetab (16 * nlease)
    (s, entries 16 nlease bs, leasetab)

/-- The checks of a picked launch (R49, R65, R68, R89), its bins (R98), and the start of its leasing (R94, R106). -/
def State.startLaunch (s : State) (l : Nat) (args leasetab nlease : Nat) (region : Option Nat) : State :=
  let la := s.launch l
  let (s, hd) := s.readHeader la.ctx la.desc
  match hd with
  | .error code => s.failLaunch l code 0 0
  | .ok d =>
    match s.launchRegion la region with
    | (s, .error a) => s.failLaunch l 0x01 a 0
    | (s, .ok r) =>
      if r.scratch < d.hdr.scratch then s.failLaunch l 0x06 0 0
      else match (s.ctx la.ctx).kernels.find? fun m => m.desc = la.desc with
        | none => s.failLaunch l 0x01 0 0
        | some m =>
          let s := s.modLaunch l fun la => { la with region := r, hdr := d.hdr, digest := m.digest }
          match (s.ctx la.ctx).addBins la.desc la.queue r d.bins with
          | none => s.failLaunch l 0x01 0 0x100
          | some x =>
            let s := s.setCtx la.ctx x
            let (s, frames) := s.descFrames la.ctx la.desc m.len
            let (s, const) := if la.node.isSome then (s, la.const) else s.argBytes la.ctx args d.hdr.args
            let (s, es, at_) := s.leaseTable la d leasetab nlease
            let s := s.modLaunch l fun la =>
              { la with codeFrames := frames, codeBase := la.desc % 65536, const := const, leases := es.map leaseOf }
            if la.node.isNone ∧ leasetab % 16 ≠ 0 then s.failLaunch l 0x01 leasetab 0
            else s.startLease l (leasesBad la.node.isSome es 0 at_)

/-- A candidate is picked: the packet is consumed and the launch takes the context's next sequence number (R92). -/
def State.pickCandidate (s : State) (c : Candidate) : State :=
  let x := s.ctx c.ctx
  let l := s.launches.length
  let seq := x.seq + 1
  let base : Launch := { ctx := c.ctx, queue := c.queue, seq := seq, pickedAt := s.refTimer }
  match c.node with
  | some i =>
    match x.nodeReady[i]? with
    | none => s
    | some n =>
      let b := x.bins.getD n.bin { desc := 0, idx := 0, kernel := 0, count := 0, timer := 0, region := {}, queue := 0 }
      let s := s.setCtx c.ctx { x with seq := seq, nodeReady := x.nodeReady.eraseIdx i }
      let (s, recs) := s.nodeRecords c.ctx n
      let s := { s with launches := s.launches ++
        [{ base with node := some n.bin, desc := b.kernel, region := b.region, const := nodeConst n recs }] }
      s.startLaunch l 0 0 0 none
  | none =>
    let s := s.missHead c.queue
    match (s.queue c.queue).head with
    | none => s
    | some p =>
      let missed := (s.queue c.queue).headMissed
      let s := s.setCtx c.ctx { s.ctx c.ctx with seq := seq }
      let s := s.updQueue c.queue fun a => { a with read := a.read + 1, picked := a.picked + 1, head := none, met := [] }
      let la : Launch := { base with packet := p, desc := pf p 191 128, gx := pf p 127 96, gy := pf p 95 80, gz := pf p 79 64,
                                     opening := (s.queue c.queue).opening, deadline := pDeadline p, donesig := pDone p, irq := pf p 12 12 = 1, missed := missed }
      let s := { s with launches := s.launches ++ [la] }
      let s := s.startLaunch l (pf p 255 192) (pf p 383 320) (pf p 23 16) (some (pRegion p))
      (s.missLaunch l).settleQueue c.queue

/-- The region of some eligible head cannot be read now. -/
def State.bandsWait (s : State) : Bool :=
  (openQueues s).any fun q => s.eligible q && (s.queue q).head.any fun p => s.regionWaits (s.queue q).ctx p

/-- DISPATCH_PICK (R92): at most one pick every 16 ns. -/
def execDispatchPick (s : State) : Out :=
  let early := (s.lastPick.map fun t => decide (s.refTimer < t + 16)).getD false
  if early ∨ s.bandsWait then .next s
  else
    let (t, l) := s.candidates
    match bestOf l with
    | none => .next s
    | some c => .next (hubStep (fun _ => { t with lastPick := some s.refTimer }.pickCandidate c) s)

/-! ## NREC, BINFLUSH and ENQ (R101 to R104) -/

/-- The pointer checks that NREC and ENQ share: code and detail1. -/
def feedFault (p : DWord) (align : Nat) : Option (Nat × Nat) :=
  match spaceCheck p with
  | some e => some e
  | none =>
    if ptrSpace p ≠ 2 ∧ ptrSpace p ≠ 4 then some (0x08, 6)
    else if ptrOff p % align ≠ 0 then some (0x09, align)
    else none

/-- Bytes behind a checked pointer, by the thread's own loads. -/
def State.feedRead (s : State) (r : TRef) (p : DWord) (align n : Nat) : Except (Nat × Nat) (State × List Byte) :=
  match s.resolveN r p 0 align n false with
  | .error e => .error e
  | .ok pl => .ok (s.loadSpan r pl n)

/-- Those loads wait for a relock (R349). -/
def State.feedWaits (s : State) (r : TRef) (p : DWord) (align n : Nat) : Bool :=
  match s.resolveN r p 0 align n false with
  | .error _ => false
  | .ok pl => s.spanWaits r pl n

def cutBytes (k : Nat) : Nat → List Byte → List (List Byte)
  | 0, _ => []
  | n + 1, bs => bs.take k :: cutBytes k n (bs.drop k)

/-- A launch has done what a replay cannot undo (R113). -/
def State.escape (s : State) (l : Nat) : State := s.modLaunch l fun la => { la with escaped := true }

/-- NREC (R102): a refused offer is a failing poll, repeated at each expiry. -/
def execNrec (sw : Bool) (d a n : BitVec 7) (s : State) : Out :=
  runSheaf { sw := sw, reads := [f1 d, f2 a], access := true } (fun s r =>
    let idx := (s.reg r d).toNat
    let p := s.pair r a
    let l := (s.group r.g).launch
    let c := s.ctxOf r.g
    let k := n.toNat
    match s.binOf (s.launch l) idx with
    | none => .fault 0x01 0 idx
    | some b =>
      match feedFault p 32 with
      | some (code, d1) => .fault code p.toNat d1
      | none =>
        if ((s.ctx c).bins[b]?.map fun x => decide (x.count < k)).getD false then .fault 0x01 0 0
        else match s.feedRead r p 32 (32 * k) with
          | .error (code, d1) => .fault code p.toNat d1
          | .ok _ =>
            if s.publishNeeds r 7 ≠ [] ∨ s.feedWaits r p 32 (32 * k) then .stay s
            else
              let (s1, bs) := match (s.publish r 7).feedRead r p 32 (32 * k) with
                | .ok x => x
                | .error _ => (s.publish r 7, [])
              let recs := cutBytes 32 k bs
              let (t, ok) := s1.offerBin c b recs
              if t.hubWaits && !s.hubWaits then .stay s
              else .done (if ok then (t.escape l).pollDone r else t.backOff r (some (.nrec b recs)))) s

/-- BINFLUSH (R103). -/
def execBinflush (sw : Bool) (a : BitVec 7) (s : State) : Out :=
  runSheaf { sw := sw, reads := [f1 a] } (fun s r =>
    let idx := (s.reg r a).toNat
    match s.binOf (s.launchOf r.g) idx with
    | none => .fault 0x01 0 idx
    | some b =>
      let t := s.fireBin (s.ctxOf r.g) b 3
      if t.hubWaits && !s.hubWaits then .stay s else .done t) s

/-- ENQ's effect at the hub (R104): the status it writes. An ENQ to a queue of the context has the signals of its heads read again (R90). -/
def State.enq (s : State) (l q : Nat) (bs : List Byte) : State × Nat :=
  let a := s.queue q
  let c := (s.launch l).ctx
  if 1024 ≤ q ∨ a.state = .closed ∨ a.ctx ≠ c then (s, 2)
  else if !a.devmode then (s.rereadAll (s.ctxQueues c), 2)
  else if a.write - a.read = 2 ^ a.qlog then (s.rereadAll (s.ctxQueues c), 1)
  else
    let s := s.virtPut c (a.ring + 128 * (a.write % 2 ^ a.qlog)) bs
    let s := s.updQueue q fun a => { a with write := a.write + 1 }
    (((s.escape l).rereadAll (s.ctxQueues c)).settleQueue q, 0)

/-- ENQ (R104). A home that the hub meets in a relock makes it wait (R349). -/
def execEnq (sw : Bool) (d a : BitVec 7) (s : State) : Out :=
  runSheaf { sw := sw, reads := [f1 d, f2 a], writes := [f1 d], var := true, access := true } (fun s r =>
    let q := (s.reg r d).toNat
    let p := s.pair r a
    match feedFault p 64 with
    | some (code, d1) => .fault code p.toNat d1
    | none =>
      match s.feedRead r p 64 128 with
      | .error (code, d1) => .fault code p.toNat d1
      | .ok _ =>
        if s.publishNeeds r 7 ≠ [] ∨ s.feedWaits r p 64 128 then .stay s
        else
          let (s1, bs) := match (s.publish r 7).feedRead r p 64 128 with
            | .ok x => x
            | .error _ => (s.publish r 7, [])
          let (t, st) := s1.enq (s.group r.g).launch q bs
          if t.hubWaits && !s.hubWaits then .stay s else .done (t.issueVal r d 1 st)) s

/-! ## Back-off (R142) -/

/-- A thread that polls an object goes on once the phase it waits for has completed (R245). -/
def State.pollObject (s : State) (r : TRef) (ptr : DWord) (a : Nat) (par : Bool) : State :=
  let n := if par then 1 else 0
  if (s.obj a).phase ≠ n then (s.pollDone r).leaveBarrier r 7
  else s.backOff r (some (.object ptr a par true))

/-- Records are offered to a bin again (R102). -/
def State.offerAgain (s : State) (r : TRef) (b : Nat) (recs : List (List Byte)) (poll : Option Wait) : State :=
  let (s, ok) := s.offerBin (s.ctxOf r.g) b recs
  if ok then ((s.escape (s.group r.g).launch).pollDone r).wake r else s.backOff r poll

/-- BACKOFF_EXPIRY (R142): 2^level slice cycles have passed; the thread is Ready, or repeats the poll of its instruction. -/
def execBackoffExpiry (g t : Nat) (s : State) : Out :=
  let r : TRef := { g := g, t := t }
  match (s.thread r).status with
  | .backedOff due poll =>
    if s.sliceCount (s.group g).core < due ∨ (s.thread r).halted ∨ (s.group g).state ≠ .resident then .next s
    else match poll with
      | some (.object ptr a par _) => if s.reach a then .next (s.pollObject r ptr a par) else .next s
      | some (.nrec b recs) =>
        .next (hubStep (fun s => s.offerAgain r b recs poll) s)
      | _ =>
        let n := s.fresh
        .next (s.tick.modThread r fun th => th.release n)
  | _ => .next s

end Sys2Proof.Machine
end

