-- ==== Sys2Proof/Machine/Kernel.lean ====
section
/-! DEFINITION. A launch between its events (R105 to R117): leasing again, marking again, draining, finishing, rolling back, and the
snapshot pool. -/

namespace Sys2Proof.Machine

/-! ## Leasing and marking (R108, R111, R323) -/

/-- LEAF_REREAD (R108): every 16 µs in Leasing. -/
def execLeafReread (l : Nat) (s : State) : Out :=
  if s.refTimer < (s.launch l).leafReadAt + 16000 then .next s else .next (hubStep (fun s => s.tryLease l) s)

/-- The page requests of a launch that are due again (R323); a failed walk is notified (R318). -/
def State.repost (s : State) (l : Nat) : List (Nat × Nat) → State
  | [] => s
  | (page, t) :: r =>
    let la := s.launch l
    let x := s.ctx la.ctx
    let again (s : State) : State := (s.post 1 (page * 65536) la.seq la.ctx).modLaunch l fun la =>
      { la with asked := la.asked.map fun (a : Nat × Nat) => if a.1 = page then (page, s.refTimer) else a }
    let s := if s.refTimer < t + 1024000 ∨ x.held page then s
      else match s.mapped la.ctx (page * 65536) with
        | (s', true) => s'
        | (s', false) => again s'
    s.repost l r

/-- PAGE_REQUEST_REPOST (R323): every 1,024 µs while a page stays Unmapped. -/
def execPageRequestRepost (l : Nat) (s : State) : Out :=
  if (s.launch l).state = .leasing then .next (hubStep (fun s => s.repost l (s.launch l).asked) s) else .next s

/-- MARKING_RESUME (R111): frames have been released. -/
def execMarkingResume (l : Nat) (s : State) : Out := .next (s.mark l)

/-- A frame's controller runs (R349). -/
def State.frameRuns (s : State) (f : Nat) : Bool := (homeDie (f * 65536)).all s.runs

/-- SNAPSHOT_PAGE_COPY (R112): the page's 64 KiB go to the reserved frame. -/
def execSnapshotPageCopy (l page : Nat) (s : State) : Out :=
  match (s.launch l).shadow.find? fun p => p.page = page with
  | none => .next s
  | some p =>
    if !p.marked ∨ !p.wanted ∨ p.copied ∨ !s.frameRuns (leafFrame p.leaf) ∨ !s.frameRuns p.frame then .next s
    else .next ((s.moveFrame (leafFrame p.leaf) p.frame (s.launch l).ctx).modLaunch l fun la =>
      { la with shadow := la.shadow.map fun q => if q.page = page then { q with copied := true } else q })

/-! ## The snapshot pool (R110) -/

/-- A command's read of a structure that it names by physical address, with the notification of a failed check (R318, R349). -/
def State.cmdRd (s : State) (c pa n : Nat) : State × Option (List Byte) :=
  match (s.meet pa).physRd pa n with
  | .ok (s, bs) => (s, some bs)
  | .error f => ((s.meet pa).noteFail (f.2 / 64) f.1 c, none)

/-- SNAPPOOL. -/
def execSnappool (fn : Nat) (p : Packet) (s : State) : Out :=
  let list := pkt p 511 448
  let n := pkt p 447 416
  onCtx fn p (fun st => st = .opened || st = .active) (fun c s =>
    let x := s.ctx c
    if 2 ^ 20 < n then .refuse 3
    else
      match (if n = 0 then (s, some []) else s.cmdRd c list (8 * n)) with
      | (s, none) => .refused s 3
      | (s, some bs) =>
        let fs := entries 8 n bs
        if fs.any fun f => decide (f % 65536 ≠ 0) || !physOk f then .refused s 3
        else if !x.snapBusy.isEmpty then .refused s 4
        else .done (s.setCtx c { x with snapPool := fs.map (· / 65536) })) s

/-! ## Draining (R114) -/

/-- A request of a group of the launch. -/
def State.reqOf (s : State) (l : Nat) (q : Request) : Bool := decide ((s.group q.thr.g).launch = l)

/-- Something that the launch issued has not been performed or discarded. -/
def State.opsLeft (s : State) (l : Nat) : Bool :=
  let msgs := s.outbox ++ s.clusters.flatMap fun p => p.2.queue ++ p.2.ports.flatten
  let held (e : Entry) : Bool := (s.launch l).state = .rollingBack && match e.work with
    | .hand _ => true
    | _ => false
  (s.allEntries.any fun e => !isMarker e.work && decide (e.iss.launch = l) && !held e) ||
    (s.cores.any fun p => p.2.kicks.any fun q => q.any fun k => decide (k.iss.launch = l)) ||
    (s.clusters.any fun p => p.2.hnews.any fun h => decide (h.iss.launch = l)) ||
    (msgs.any fun m => m.reqs.any (s.reqOf l)) || s.stores.any fun e => decide ((s.group e.thr.g).launch = l)

/-- The places that markers hold settle once entries before them have gone. -/
def State.queuesSettled (s : State) : State := (s.cores.map (·.1)).foldl State.queuesMoved s

/-- Every monitor that a context holds is released (R60, R82). -/
def State.freeMonitors (s : State) (c : Nat) : State :=
  { s with clusters := s.clusters.map fun (p : Nat × Cluster) =>
      (p.1, { p.2 with monitors := p.2.monitors.map fun (m : Monitor) => if m.ctx = some c then {} else m }) }

/-- The last picked launch of a Quiescing context has finished (R58). -/
def State.quiesced (s : State) (c : Nat) : State :=
  let x := s.ctx c
  if x.state = .quiescing ∧ !(s.launches.any fun la => decide (la.ctx = c) && la.unfinished) then
    (s.setCtx c { x with state := .opened }).freeMonitors c
  else s

/-- LAUNCH_DRAINED (R106, R114). -/
def execLaunchDrained (l : Nat) (s : State) : Out :=
  if (s.launch l).state = .draining ∧ !s.opsLeft l then
    .next ((s.queuesSettled.modLaunch l fun la => { la with state := .finished }).quiesced (s.launch l).ctx)
  else .next s

/-! ## Finishing (R91, R115) -/

/-- Scratch frames of a launch are free again (R95, R115). -/
def State.freeScratch (s : State) (l : Nat) : State :=
  let s := (s.launch l).scratch.foldl (fun s p =>
    s.setDie p.1 { s.die p.1 with frames := (s.die p.1).frames.filter fun f => !p.2.frames.contains f }) s
  s.modLaunch l fun la => { la with scratch := [] }

/-- No view or die copy keeps bytes of some addresses. -/
def State.forget (s : State) (hit : Nat → Bool) : State :=
  { s with
    cores := s.cores.map fun (p : Nat × Core) => (p.1, { p.2 with view := { p.2.view with snaps := p.2.view.snaps.filter fun (x : Snap) => !hit x.addr } })
    dies := s.dies.map fun (p : Nat × Die) => (p.1, { p.2 with copies := p.2.copies.filter fun (x : Snap) => !hit x.addr }) }

/-- Scratch frames of a die come to hold zeros (R115, R200). -/
def State.zeroFrames (s : State) (d : Nat) (fs : List Nat) : State :=
  (fs.foldl (fun s f => s.clear (scratchAddr d f 0) (scratchAddr d f 65536)) s).forget
    fun a => fs.any fun f => decide (scratchAddr d f 0 ≤ a ∧ a < scratchAddr d f 65536)

/-- The scratch of a launch that rolls back holds zeros for its next attempt; its frames and attributes stay (R95, R116, R200, R201). -/
def State.zeroScratch (s : State) (l : Nat) : State := (s.launch l).scratch.foldl (fun s p => s.zeroFrames p.1 p.2.frames) s

/-- One more at the signal, bits 62:0 modulo 2^63; bit 63 for a launch that ended (R91). -/
def signalNext (v : Nat) (ended : Bool) : Nat := (v % 2 ^ 63 + 1) % 2 ^ 63 + (if ended then 1 else v / 2 ^ 63 % 2) * 2 ^ 63

/-- A signal is updated (R91); one that the hub cannot read or write is notified where a check of its sector fails (R318). -/
def State.signal (s : State) (c a : Nat) (ended : Bool) : State :=
  match s.readSignal c a with
  | (s, none) => s
  | (s, some v) => s.virtPut c a (bytesOf 8 (signalNext v ended))

/-- What a finished launch holds goes back (R115, R312): pins, frames, scratch, its entries of the engine TLBs, and a bin's buffer. -/
def State.giveBack (s : State) (l : Nat) : State :=
  let la := s.launch l
  let mine := (la.shadow.filter (·.marked)).map (·.frame)
  let x := s.ctx la.ctx
  let s := s.setCtx la.ctx { x with snapBusy := x.snapBusy.filter fun f => !mine.contains f }
  let s := ((s.freeScratch l).dropTlb l).modLaunch l fun la => { la with state := .gone, shadow := [], asked := [] }
  match la.node with
  | some n => s.nodeEnded la.ctx n
  | none => s

/-- A launch finishes: what it holds goes back, its signal is updated, and its vector is raised (R91, R115). -/
def State.finishLaunch (s : State) (l : Nat) : State :=
  let la := s.launch l
  let s := s.giveBack l
  let s := if la.donesig = 0 then s else s.signal la.ctx la.donesig la.ended
  let s := if la.irq then s.raise (s.ctx la.ctx).fn (s.queue la.queue).vector else s
  let s := if la.donesig = 0 then s else s.rereadAll (openQueues s)
  s.quiesced la.ctx

/-- LAUNCH_FINISH (R91, R115). -/
def execLaunchFinish (l : Nat) (s : State) : Out :=
  if (s.launch l).state ≠ .finished then .next s else .next (hubStep (fun s => s.finishLaunch l) s)

/-! ## Rolling back (R116) -/

/-- Copied pages are rewritten from their frames. -/
def State.restorePages (s : State) (ctx : Nat) : List ShadowPage → State
  | [] => s
  | p :: r => (if p.marked ∧ p.copied then s.moveFrame p.frame (leafFrame p.leaf) ctx else s).restorePages ctx r

/-- Cells of the attempt that no post has reached go Free (R332). -/
def Ctx.dropCells (x : Ctx) (l : Nat) : Ctx :=
  { x with cells := x.cells.map fun (p : Nat × Cell) =>
      if (p.2.live ∨ p.2.pending) ∧ p.2.creator = l ∧ !p.2.posted then (p.1, { gen := (p.2.gen + 1) % 2 ^ 16, altered := p.2.altered }) else p }

def State.dropCells (s : State) (l : Nat) : State :=
  let c := (s.launch l).ctx
  let mine := ((s.ctx c).cells.filter fun p => p.2.pending && decide (p.2.creator = l)).map (·.1)
  let s := { s with clusters := s.clusters.map fun (p : Nat × Cluster) =>
    (p.1, { p.2 with cellsDue := p.2.cellsDue.filter fun (d : Nat × Nat) => !(decide (d.1 = c) && mine.contains d.2) }) }
  (List.range Config.numClusters).foldl (fun s cl => s.refillCells c cl) (s.setCtx c ((s.ctx c).dropCells l))

/-- The sector that failed still fails when it is read again (R116). -/
def State.stillFails (s : State) (sector : Option Nat) : Bool := match sector with
  | none => false
  | some a => match s.sector (a / 64) with
    | none => false
    | some x => (sectorOwn x (a / 64)).isSome

/-- The record that waited for the reread is written, with the action it decided. -/
def State.flushHeld (s : State) (l action : Nat) : State :=
  let la := s.launch l
  match la.heldFault with
  | none => s
  | some f => (s.record la.ctx f action (some (la.region.ring, la.region.ringlog))).modLaunch l fun la => { la with heldFault := none }

/-- ROLLBACK_COMPLETE (R106, R116). The launch keeps its scratch, which is charged until it ends (R95, R200). -/
def execRollbackComplete (l : Nat) (s : State) : Out :=
  let la := s.launch l
  let ready := (la.shadow.all fun p => !(p.marked && p.copied) || (s.frameRuns p.frame && s.frameRuns (leafFrame p.leaf))) &&
    (la.rereadSector.all fun a => (homeDie a).all s.runs) && la.scratch.all fun p => p.2.frames.isEmpty || s.runs p.1
  if la.state ≠ .rollingBack ∨ s.opsLeft l ∨ !ready then .next s
  else
    let s := s.queuesSettled.restorePages la.ctx la.shadow
    if la.heldFault.isSome ∧ s.stillFails la.rereadSector then
      .next ((s.flushHeld l 2).modLaunch l fun la => { la with state := .draining, ended := true })
    else
      let s := ((((s.dispose l true).queuesSettled).flushHeld l 3).dropCells l).zeroScratch l
      let s := s.modLaunch l fun la =>
        { la with state := .marking, replays := la.replays + 1, nextLin := 0, gbarGen := 0, rereadSector := none, waitingSince := none,
                  reserved := none, shadow := la.shadow.map fun (p : ShadowPage) => { p with copied := false, wanted := false } }
      .next (s.mark l)

end Sys2Proof.Machine
end

