-- ==== Sys2Proof/Machine/Group.lean ====
section
/-! DEFINITION. Halting, saving and resuming groups (R130 to R135), their save area (R132, R203), and lazy saves of slots (R133). -/

namespace Sys2Proof.Machine

/-! ## The save area (R132, R203) -/

/-- Bytes of a save area in use: offset and length of every record and spill backing, those of one group left out. -/
def State.areaUsed (s : State) (l : Launch) (skip : Option Nat) : List (Nat × Nat) :=
  s.groups.zipIdx.flatMap fun (p : Group × Nat) =>
    let la := s.launch p.1.launch
    if la.ctx ≠ l.ctx ∨ la.region.save ≠ l.region.save ∨ skip = some p.2 then []
    else ((p.1.spillAt.map fun a => (a, spillBytes la.hdr)).toList ++ (p.1.record.map fun a => (a, p.1.recordLen)).toList)

/-- First-fit after the control block, in 64 KiB units. -/
def firstFit (used : List (Nat × Nat)) (size len : Nat) : Option Nat :=
  let ok (a : Nat) : Bool := decide (a + len ≤ size) && used.all fun u => decide (a + len ≤ u.1) || decide (u.1 + u.2 ≤ a)
  (64 :: used.map fun u => u.1 + u.2).foldl (fun m a => if ok a && (m.map fun b => decide (a < b)).getD true then some a else m) none

/-- Bytes taken from a launch's save area; the device writes the bytes in use. -/
def State.saveTake (s : State) (l : Launch) (len : Nat) (skip : Option Nat) : State × Option Nat :=
  match s.virtRd (s.ctx l.ctx) l.region.save 16 with
  | none => (s.virtNote l.ctx l.region.save 16, none)
  | some (s, bs) =>
    let n := ofBytes bs
    match firstFit (s.areaUsed l skip) (bits n 63 0) len with
    | none => (s, none)
    | some a => (s.virtPut l.ctx (l.region.save + 8) (bytesOf 8 (bits n 127 64 + len)), some a)

def align (k n : Nat) : Nat := (n + k - 1) / k * k

/-- The parts of a record whose bytes R132 gives, each at its offset: the registers thread by thread, the spill stacks, group memory, and the
tile slots. -/
def regsAt (h : Header) : Nat := 256 + 32 * (32 * h.furrows)
def spillPart (h : Header) : Nat := regsAt h + align 64 (4 * h.regs * (32 * h.furrows)) + 256 * (32 * h.furrows)
def gmemPart (h : Header) : Nat := spillPart h + align 64 (h.spill * (32 * h.furrows))
def slotsPart (h : Header) : Nat := align 32768 (gmemPart h + align 64 h.gmem + 256 + 512 + 512 * h.furrows)

/-- Length of a group's record (R132), in whole 64 KiB units. -/
def recordBytes (h : Header) : Nat := units64K (slotsPart h + 32768 * h.slots)

/-! ## Pre-emption (R130, R131) -/

/-- A thread halts, keeping its state; a BALIDLE wait ends (R119, R131, R357). -/
def Thread.halt (th : Thread) (stamp : Nat) : Thread :=
  match th.status with
  | .exited => th
  | .waiting (.balidle _) => { th.release stamp with halted := true }
  | _ => { th with halted := true }

def State.publishAll (s : State) (scope : Nat) : List TRef → State
  | [] => s
  | r :: rs => (s.publish r scope).publishAll scope rs

/-- The requests of others that a group's home has accepted for its block are performed though it halts (R241). -/
def State.spareReqs (s : State) (g : Nat) : State :=
  let mine (q : Request) : Bool := decide (ptrSpace q.ptr = 2) && decide ((s.targetOf q).map (·.1) = some g)
  { s with clusters := s.clusters.map fun p => (p.1, { p.2 with queue := p.2.queue.map fun (m : Msg) =>
      { m with reqs := m.reqs.map fun (q : Request) => if mine q then { q with spared := true } else q } }) }

/-- A BALIDLE wait, which a halt ends (R357). -/
def Thread.inBalidle (th : Thread) : Bool := match th.status with
  | .waiting (.balidle _) => true
  | _ => false

/-- A group starts Halting, with the record it will be saved to. The end of a BALIDLE wait resets the Headland counter (R74). -/
def State.haltGroup (s : State) (g a len : Nat) : State :=
  let n := s.fresh
  let s := ((s.tick.publishAll 7 (s.refs g)).spareReqs g).leaveWaits g Thread.inBalidle
  s.modGroup g fun gr => { gr with state := .halting, record := some a, recordLen := len, burn := 0, threads := gr.threads.map (Thread.halt · n) }

/-- The groups of a list that are Resident are pre-empted in turn, up to one whose save area has no room. -/
def State.preemptEach (s : State) : List Nat → State × Bool
  | [] => (s, true)
  | g :: gs =>
    if (s.group g).state ≠ .resident then s.preemptEach gs
    else
      let la := s.launchOf g
      let len := recordBytes la.hdr
      match s.saveTake la len none with
      | (s, none) => (s, false)
      | (s, some a) => (s.haltGroup g a len).preemptEach gs

/-- Several groups are pre-empted, or none where a save area has no room (R130). -/
def State.preempt (s : State) (gs : List Nat) : Option State :=
  match s.preemptEach gs with
  | (t, true) => some t
  | (_, false) => none

/-- What the reads of the save areas meet where none of some groups can be pre-empted: a notification of one that fails (R318), or a home that
relocks (R349). -/
def State.preemptNote (s : State) (gs : List Nat) : State :=
  let t := (s.preemptEach gs).1
  gs.foldl (fun s g => let la := s.launchOf g; if (s.group g).state = .resident then s.virtNote la.ctx la.region.save 16 else s)
    { s with hubWaits := t.hubWaits }

/-- The groups of a context, and of a core, that are charged to a core. -/
def State.ctxLive (s : State) (c : Nat) : List Nat := (List.range s.groups.length).filter fun g => s.live g && decide (s.ctxOf g = c)
def State.coreLive (s : State) (c : Nat) : List Nat := (List.range s.groups.length).filter fun g => s.live g && decide ((s.group g).core = c)

/-! ## Commands that wait for saves (R59, R130) -/

/-- SUSPEND is over: every group saved or gone, every FMTSET installed, every restore of a rollback complete (R59, R117). -/
def State.suspendOver (s : State) (c : Nat) : Bool :=
  (s.ctxLive c).isEmpty && !(s.fmtReqs.any fun q => q.ctx = c) && !(s.launches.any fun l => decide (l.ctx = c) && decide (l.state = .rollingBack))

/-- A core that PREEMPT has emptied: kept out for the hold, from now, and for what is left of an earlier one (R130). -/
def Core.held (x : Core) (now hold : Nat) : Core :=
  { x with out := false, outUntil := if hold = 0 then x.outUntil else some (max (x.outUntil.getD 0) (now + 1000 * hold)) }

def State.settlePending (s : State) (fn : Nat) : State :=
  match (s.fn fn).pending with
  | some (.suspend c) => if s.suspendOver c then s.complete fn 0 else s
  | some (.preempt c hold) => if (s.coreLive c).isEmpty then (s.setCore c ((s.core c).held s.refTimer hold)).complete fn 0 else s
  | _ => s

def State.settleAdmin (s : State) : State := (s.fns.map (·.1)).foldl State.settlePending s

/-- PREEMPT (R130). -/
def execPreempt (fn : Nat) (p : Packet) (s : State) : Out :=
  let c := pkt p 264 256
  let hold := pkt p 319 288
  onPf fn (fun s =>
    if 384 ≤ c then .refuse 3
    else match s.preempt (s.coreLive c) with
      | none => .refused (s.preemptNote (s.coreLive c)) 4
      | some s =>
        if (s.coreLive c).isEmpty then .done (s.setCore c ((s.core c).held s.refTimer hold))
        else .wait (s.setCore c { s.core c with out := true }) (.preempt c hold)) s

/-- PREEMPT_HOLD_EXPIRY (R130). -/
def execPreemptHoldExpiry (core : Nat) (s : State) : Out :=
  match (s.core core).outUntil with
  | some t => if s.refTimer < t then .next s else .next (s.setCore core { s.core core with outUntil := none })
  | none => .next s

/-! ## Saving (R132, R134, R253, R277) -/

/-- The group's block of group memory, as addresses. -/
def State.blockOf (s : State) (g : Nat) : Nat × Nat :=
  let gr := s.group g
  let a := gmemAddr gr.core gr.gbase
  (a, a + (s.launch gr.launch).hdr.gmem)

def inBlock (b : Nat × Nat) (a : Nat) : Bool := decide (b.1 ≤ a) && decide (a < b.2)

/-- A pointer of a copy reaches the group's memory (R199). -/
def State.reaches (s : State) (g : Nat) (i : Issuer) (p : Nat) : Bool :=
  let gr := s.group g
  decide (bits p 63 60 = 2) && decide (i.launch = gr.launch) &&
    (if bits p 49 19 = 0 then decide (i.thr.g = g) else decide (bits p 49 19 = gr.lin + 1) && decide (bits p 59 53 * 6 + bits p 52 50 = gr.core))

/-- An entry is the group's own, or a copy with an endpoint or byte barrier in its memory. -/
def State.holdsSave (s : State) (g : Nat) (e : Entry) : Bool :=
  !isMarker e.work && (decide (e.iss.thr.g = g) || match e.work with
    | .copy c => c.pointers.any (s.reaches g e.iss)
    | _ => false)

/-- Everything that must be performed before the save reads the group's memory: what its halt publishes (R134, R223), its entries and kicks, and the
accesses of others to its block, those not accepted before excepted (R241). -/
def State.saveReady (s : State) (g : Nat) : Bool :=
  let b := s.blockOf g
  let msgs := s.outbox ++ s.clusters.flatMap fun p => p.2.queue ++ p.2.ports.flatten
  ((s.refs g).all fun r => (s.publishNeeds r 7).isEmpty) && !(s.stores.any fun e => inBlock b e.addr) &&
    !(msgs.any fun m => m.reqs.any fun q => q.spared && inBlock b q.addr) &&
    !(s.allEntries.any (s.holdsSave g)) && !(s.cores.any fun p => p.2.kicks.any fun q => q.any fun k => decide (k.iss.thr.g = g)) &&
    !(s.clusters.any fun p => p.2.hnews.any fun h => decide (h.iss.thr.g = g))

/-- The location a wait watches, and its pointer as the instruction read it. -/
def watched : Status → Option (Nat × Nat)
  | .waiting (.object p a _ _) => some (a, p.toNat)
  | .backedOff _ (some (.object p a _ _)) => some (a, p.toNat)
  | .waiting (.monw p a _ _ _ _ _) => some (a, p.toNat)
  | _ => none

/-- A group whose threads wait: Resident or Halting, or Saved with its waits to be taken up again. -/
def State.mayWait (s : State) (g : Nat) : Bool := s.live g || decide ((s.group g).state = .saved)

/-- Threads of other groups that wait on the block leave with GMEM_BOUND, those of a Saved group too (R253). -/
def State.evict (s : State) (g : Nat) : State :=
  let b := s.blockOf g
  let hit (r : TRef) : Option LaneFault := match watched (s.thread r).status with
    | some (a, p) => if inBlock b a then some { r := r, code := 0x05, d0 := p, d1 := 2 } else none
    | none => none
  let fs := (List.range s.groups.length).flatMap fun h => if h = g ∨ !s.mayWait h then [] else (s.refs h).filterMap hit
  let s := fs.foldl (fun s f => s.modThread f.r fun th => { th with pc := th.pc - 4 }) s
  raiseFaults fs fs [] s

/-- The header of a save record (R132): sequence number, linear index, resume count and core (log entry 148). -/
def recordHeader (seq : Nat) (gr : Group) : List Byte :=
  bytesOf 8 seq ++ bytesOf 4 gr.lin ++ bytesOf 4 gr.resumes ++ bytesOf 4 gr.core ++ List.replicate 236 0

/-- Bytes written to a group's record at an offset, in its launch's save area. A part that cannot be written is lost, and what the group held
of it stays the model's copy in State (log entry 79). -/
def State.putPart (s : State) (g off : Nat) (bs : List Byte) : State :=
  let la := s.launchOf g
  match (s.group g).record with
  | none => s
  | some a => if bs.isEmpty then s else s.virtPut la.ctx (la.region.save + a + off) bs

/-- Bytes read from a group's record: none where they cannot be. -/
def State.getPart (s : State) (g off n : Nat) : Option (State × List Byte) :=
  let la := s.launchOf g
  match (s.group g).record with
  | none => none
  | some a => if n = 0 then none else s.virtRd (s.ctx la.ctx) (la.region.save + a + off) n

/-- The header of a group's record is written to its save area. -/
def State.putHeader (s : State) (g : Nat) : State := s.putPart g 0 (recordHeader (s.launchOf g).seq (s.group g))

/-- The bytes of a group's registers, thread by thread, of its spill stacks and of its group memory (R132). -/
def State.regBytes (s : State) (g : Nat) : List Byte := (s.group g).threads.flatMap fun th => th.regs.flatMap fun w => bytesOf 4 w.toNat
def State.spillBytesOf (s : State) (g : Nat) : List Byte := (s.refs g).flatMap fun r => s.rds (spillAddr g r.t 0) (s.launchOf g).hdr.spill
def State.gmemBytes (s : State) (g : Nat) : List Byte := s.rds (s.blockOf g).1 (s.launchOf g).hdr.gmem

/-- The record of a group is written: its header and the parts whose bytes R132 gives. -/
def State.putRecord (s : State) (g : Nat) : State :=
  let h := (s.launchOf g).hdr
  (((s.putHeader g).putPart g (regsAt h) (s.regBytes g)).putPart g (spillPart h) (s.spillBytesOf g)).putPart g (gmemPart h) (s.gmemBytes g)

/-- The places in return slots of a group's results, which its record carries from now on, are free (R36, R233). -/
def State.freeResults (s : State) (g : Nat) : State :=
  let gr := s.group g
  (s.freeSlotLanes gr.core (gr.threads.flatMap (·.outs))).modGroup g fun gr =>
    { gr with threads := gr.threads.map fun th => { th with outs := th.outs.map fun (o : Outst) => { o with slot := none } } }

/-- The save of a group (R118, R132): the record holds the group, its block is discarded and its spill backing freed. A fault of a thread that
leaves its wait on the block may stop the group instead. Group memory on a relocking die holds the save back (R349). -/
def State.saveGroup (s : State) (g : Nat) : State :=
  let b := s.blockOf g
  let cells := (s.mem.filter fun c => inBlock b c.1).map fun c => (c.1 - b.1, c.2)
  let l := (s.group g).launch
  let s := s.evict g
  if (s.group g).state ≠ .halting then s
  else
    let s := (((s.meet b.1).putRecord g).freeResults g).clear b.1 b.2
    let s := if (s.group g).spillAt.isSome then s.saveFree (s.launch l) (spillBytes (s.launch l).hdr) else s
    let s := s.modGroup g fun gr => { gr with state := .saved, savedGmem := cells, spillAt := none }
    s.gbarCheck l

/-- GROUP_SAVE_COMPLETE (R118, R132), and with the last of its groups a command that waits. -/
def execGroupSaveComplete (g : Nat) (s : State) : Out :=
  .next (hubStep (fun s => (if (s.group g).state = .halting ∧ s.saveReady g then s.saveGroup g else s).settleAdmin) s)

/-! ## Slots and accumulators of a Saved group (R133, R283) -/

/-- What a group holds in place, as the codes of `displace`. -/
def State.inPlace (s : State) (g : Nat) : List Nat :=
  let c := (s.group g).core
  let on (d base : Nat) : List Nat := (s.core d).slots.filterMap fun p => if keeps g p.2.holder then some (base + p.1) else none
  on c 0 ++ on (mateOf c) 32 ++ ((s.stack (stackOf c)).accs.zipIdx.filterMap fun p => if keeps g p.1.holder then some (64 + p.2) else none)

/-- No entry names it any more. -/
def State.drained (s : State) (c k : Nat) : Bool :=
  let es := s.stackEntries c
  if k < 32 then !es.any fun e => e.namesSlot c k
  else if k < 64 then !es.any fun e => e.namesSlot (mateOf c) (k - 32)
  else !es.any fun e => e.namesAcc (k - 64)

/-- One slot or accumulator is written to the record and becomes Free; sums are dropped. The slots written stand in the record one after
another, in the order of their writing (log entry 163). -/
def State.displaceOne (s : State) (g k : Nat) : State :=
  let c := (s.group g).core
  if k < 64 then
    let d := if k < 32 then c else mateOf c
    let i := k % 32
    let lo := slotAddr d i 0
    let data := (s.mem.filter fun x => inBlock (lo, lo + 32768) x.1).map fun x => (x.1 - lo, x.2)
    let sv : SavedSlot := { mate := decide (32 ≤ k), idx := i, md := { (s.slot d i).md with sums := 0 }, data := data }
    let n := (s.group g).savedSlots.length
    let s := if n < (s.launchOf g).hdr.slots then s.putPart g (slotsPart (s.launchOf g).hdr + 32768 * n) (s.rds lo 32768) else s
    (s.setSlot d i fun _ => {}).modGroup g fun gr => { gr with savedSlots := gr.savedSlots ++ [sv], displace := gr.displace.erase k }
  else
    let cells := (s.acc c (k - 64)).cells
    (s.setAcc c (k - 64) {}).modGroup g fun gr => { gr with savedAcc := gr.savedAcc ++ [(k - 64, cells)], displace := gr.displace.erase k }

def State.displaceAll (s : State) (g : Nat) (ks : List Nat) : State := ks.foldl (fun s k => s.displaceOne g k) s

/-- SLOT_LAZY_SAVE (R133): what another group needs, once no entry names it. -/
def execSlotLazySave (g : Nat) (s : State) : Out :=
  let gr := s.group g
  if gr.state = .saved then
    .next (hubStep (fun s => s.displaceAll g (gr.displace.filter fun k => (s.inPlace g).contains k && s.drained gr.core k)) s)
  else .next s

/-! ## Classes (R350, R355) -/

/-- A group's class stands on its cluster: the moment the cluster's class becomes 2, or leaves it. `was` says that the group had class 2
there before. -/
def State.noteClass (s : State) (g : Nat) (was : Bool) : State :=
  let cl := clusterOf (s.group g).core
  let other := (List.range s.groups.length).any fun h => h ≠ g && (s.group h).state = .resident && clusterOf (s.group h).core = cl && (s.group h).cls = 2
  let c := s.cluster cl
  if (s.group g).cls = 2 then (if was || other then s else s.setCluster cl { c with claimAt := some s.refTimer })
  else if other then s else s.setCluster cl { c with claimAt := none }

/-! ## Resuming (R133, R134, R223, R253) -/

/-- A saved slot or accumulator back at its index, the slot as it stands in the record at place n. -/
def State.restoreSlot (s : State) (g c : Nat) (v : SavedSlot) (n : Nat) : State :=
  let d := if v.mate then mateOf c else c
  let back (s : State) : State :=
    (s.clear (slotAddr d v.idx 0) (slotAddr d v.idx 32768)).setSlot d v.idx fun _ => { holder := some { g := g }, md := v.md }
  match if n < (s.launchOf g).hdr.slots then s.getPart g (slotsPart (s.launchOf g).hdr + 32768 * n) 32768 else none with
  | some (s, bs) => (back s).wrs (slotAddr d v.idx 0) bs
  | none => (back s).setMem (v.data.foldl (fun m x => memWr m (slotAddr d v.idx x.1) x.2) (back s).mem)

/-- What a group's record holds of slots and accumulators, back in place. Sums come back absent (R283), and an accumulator's mode as C (log entry
170). -/
def State.restoreMat (s : State) (g c : Nat) : State :=
  let gr := s.group g
  let s := gr.savedSlots.zipIdx.foldl (fun s v => s.restoreSlot g c v.1 v.2) s
  let s := gr.savedAcc.foldl (fun s v => s.setAcc c v.1 { holder := some { g := g }, cells := v.2 }) s
  s.modGroup g fun gr => { gr with savedSlots := [], savedAcc := [], displace := [] }

/-- The registers of some threads from a record's bytes, thread by thread. -/
def regsFrom : List Thread → List Byte → List Thread
  | [], _ => []
  | th :: ths, bs =>
    { th with regs := (entries 4 th.regs.length bs).map (BitVec.ofNat 32) } :: regsFrom ths (bs.drop (4 * th.regs.length))

def State.putSpills (s : State) (n : Nat) : List TRef → List Byte → State
  | [], _ => s
  | r :: rs, bs => (s.wrs (spillAddr r.g r.t 0) (bs.take n)).putSpills n rs (bs.drop n)

/-- Registers and spill stacks as they stand in the record (R132); what cannot be read back is as it was saved. -/
def State.getThreads (s : State) (g : Nat) : State :=
  let h := (s.launchOf g).hdr
  let n := (s.group g).threads.length
  let s := match s.getPart g (regsAt h) (4 * h.regs * n) with
    | some (s, bs) => s.modGroup g fun gr => { gr with threads := regsFrom gr.threads bs }
    | none => s
  match s.getPart g (spillPart h) (h.spill * n) with
  | some (s, bs) => s.putSpills h.spill (s.refs g) bs
  | none => s

/-- Group memory as it stands in the record, or as it was saved. -/
def State.getGmem (s : State) (g : Nat) : State × List Host.Cell :=
  match s.getPart g (gmemPart (s.launchOf g).hdr) (s.launchOf g).hdr.gmem with
  | some (s, bs) => (s, memWrs [] 0 bs)
  | none => (s, (s.group g).savedGmem)

/-- The checks of R132 on a thread state. -/
def Thread.stateOk (th : Thread) (codebytes : Nat) : Bool :=
  !th.badWait && (decide (th.status = .exited) ||
    (decide (th.pc % 4 = 0) && decide (0 ≤ th.pc) && decide (th.pc < codebytes) && decide (th.base % 8 = 0) && decide (th.base + 8 ≤ th.regs.length) &&
      decide (th.level ≤ 7)))

/-- A thread takes its state up again (R119): a back-off is over, and its poll due at once; a Ready thread becomes Ready now (R124). -/
def Thread.unhalt (th : Thread) (stamp : Nat) : Thread :=
  match th.status with
  | .backedOff _ none => { th.release stamp with halted := false }
  | .backedOff _ p => { th with halted := false, status := .backedOff 0 p }
  | .ready => { th with halted := false, readyAt := stamp }
  | _ => { th with halted := false }

/-- Where a wait's location lies now: own memory moves with the group; memory of a group that is not Resident there is out of reach. -/
def State.moved (s : State) (g : Nat) (old new : Nat × Nat) (a : Nat) : Option Nat :=
  if inBlock old a then some (a - old.1 + new.1)
  else if a < gmemBase ∨ slotBase ≤ a then some a
  else if clusterOf (s.group g).core = homeCluster a ∧ ((List.range s.groups.length).any fun h => s.live h && inBlock (s.blockOf h) a) then some a
  else none

/-- One thread's wait is taken up again, at the resume's moment n. A wait on an object that has moved to a cluster with no tracking entry left is
kept as a poll (R245). -/
def State.rewait (s : State) (g n : Nat) (old new : Nat × Nat) (r : TRef) : State × Option LaneFault :=
  let bad (p : Nat) : LaneFault := { r := r, code := 0x05, d0 := p, d1 := 2 }
  match (s.thread r).status with
  | .waiting (.object p a par poll) => match s.moved g old new a with
    | none => (s, some (bad p.toNat))
    | some a =>
      let late := decide ((s.obj a).phase ≠ (if par then 1 else 0))
      let full := decide (s.objWaiters a = []) && decide (64 ≤ s.objEntriesBut (homeCluster a) (inBlock old))
      let t := s.modThread r fun th => { th with status := .waiting (.object p a par poll) }
      (if late then t.leaveAt n r 7 else if full then s.backOff r (some (.object p a par true)) else t, none)
  | .backedOff d (some (.object p a par poll)) => match s.moved g old new a with
    | none => (s, some (bad p.toNat))
    | some a => (s.modThread r fun th => { th with status := .backedOff d (some (.object p a par poll)) }, none)
  | .waiting (.monw p a k e c sc _) => match s.moved g old new a with
    | none => (s, some (bad p.toNat))
    | some a => ((s.modThread r fun th => { th with status := .waiting (.monw p a k e c sc s.refTimer) }).monwRead n r, none)
  | .waiting (.tags all hi m) => (if tagsHold all (s.group g).tags hi m then s.wakeAt n r else s, none)
  | .waiting .gbar => (if (s.group g).gbarFreed then s.leaveAt n r 7 else s, none)
  | _ => (s, none)

def State.rewaits (s : State) (g n : Nat) (old new : Nat × Nat) : List TRef → List LaneFault → State × List LaneFault
  | [], fs => (s, fs)
  | r :: rs, fs =>
    let (s, f) := s.rewait g n old new r
    s.rewaits g n old new rs (fs ++ f.toList)

/-- A Saved group is Resident again, on a core that fits, with its spill backing (R134): it holds what stands in its record, its waits are taken
up again at the one moment of the resume, and waiters of its channels that can be served are (R131, R253). -/
def State.resumeGroup (s : State) (g c : Nat) (spill : Option Nat) : State :=
  let gr := s.group g
  let la := s.launchOf g
  let old := s.blockOf g
  let s := if c = gr.core then s else s.displaceAll g (s.inPlace g)
  let s := (s.restoreMat g c).getThreads g
  let (s, cells) := s.getGmem g
  let s := if gr.record.isSome then s.saveFree la gr.recordLen else s
  let n := s.fresh
  let s := s.tick.modGroup g fun gr =>
    { gr with state := .resident, core := c, resumes := min (gr.resumes + 1) (2 ^ 32 - 1), record := none, recordLen := 0, spillAt := spill,
              savedGmem := [], placedAt := n, threads := gr.threads.map (Thread.unhalt · n) }
  let new := s.blockOf g
  let s := s.meet new.1
  let s := s.setMem (cells.foldl (fun m x => memWr m (new.1 + x.1) x.2) s.mem)
  let s := ((s.refs g).foldl (fun s r => s.refresh r 7 []) s).noteClass g false
  if gr.threads.all (Thread.stateOk · la.hdr.codebytes) then
    let (s, fs) := s.rewaits g n old new (s.refs g) []
    let s := s.modGroup g fun gr => { gr with gbarFreed := false }
    let s := fs.foldl (fun s f => s.modThread f.r fun th => { th with pc := th.pc - 4 }) s
    (raiseFaults fs fs [] s).serveGroup g
  else
    s.takeFault la.ctx { code := 0x01, kind := 1, d1 := 5, core := c, launch := some gr.launch, group := some g }

end Sys2Proof.Machine
end

