-- ==== Sys2Proof/Machine/Place.lean ====
section
/-! DEFINITION. The partitioning controller (R95 to R97, R122): needs and budgets, the choice of core, placement, and making room. -/

namespace Sys2Proof.Machine

/-! ## Needs, charges and budgets (R95, R96) -/

def Use.plus (a b : Use) : Use :=
  { groups := a.groups + b.groups, regs := a.regs + b.regs, gmem := a.gmem + b.gmem, slots := a.slots + b.slots, furrows := a.furrows + b.furrows }

def Use.le (a b : Use) : Bool :=
  decide (a.groups ≤ b.groups) && decide (a.regs ≤ b.regs) && decide (a.gmem ≤ b.gmem) && decide (a.slots ≤ b.slots) && decide (a.furrows ≤ b.furrows)

/-- What a core has (R96). -/
def coreHas : Use := { groups := 32, regs := 512, gmem := 384, slots := 32, furrows := 32 }

/-- What a group needs (R95). -/
def Header.need (h : Header) : Use :=
  { groups := 1, regs := (h.regs * 32 * h.furrows + 255) / 256, gmem := (h.gmem + 1023) / 1024, slots := h.slots, furrows := h.furrows }

/-- Groups that have retired on a core while kicks of theirs there are still to be fetched: their memory is kept (R277). -/
def State.kickHeld (s : State) (c : Nat) : List Nat :=
  (List.range s.groups.length).filter fun g => decide ((s.group g).core = c) && decide ((s.group g).state = .retired) && (s.core c).kicksOf g

/-- What is charged on a core to the groups that pass a test. -/
def State.charged (s : State) (c : Nat) (ok : Nat → Bool) : Use :=
  let u : Use := ((s.coreLive c).filter ok).foldl (fun (u : Use) g => u.plus (s.launchOf g).hdr.need) {}
  { u with slots := u.slots + s.mateHeld c ok,
           gmem := u.gmem + (((s.kickHeld c).filter ok).map fun g => (s.launchOf g).hdr.need.gmem).sum }

/-- A launch lies in a region or below it. -/
def Launch.under (l : Launch) (ctx addr : Nat) : Bool := decide (l.ctx = ctx) && l.region.chain.any fun b => decide (b.1 = addr)

/-- The need stays within the budget of the launch's region and of each ancestor (R96). -/
def State.budgetOk (s : State) (l : Launch) (c : Nat) (gone : List Nat) : Bool :=
  l.region.chain.all fun b =>
    let has : Use := { groups := b.2.1, regs := b.2.2.1, gmem := b.2.2.2.1, slots := b.2.2.2.2.1, furrows := 32 }
    (l.hdr.need.plus (s.charged c fun g => !gone.contains g && (s.launchOf g).under l.ctx b.1)).le has

/-- Scratch frames charged on a die to launches that pass a test. -/
def State.scratchUse (s : State) (d : Nat) (ok : Launch → Bool) : Nat :=
  (s.launches.map fun l => if ok l then (tget {} l.scratch d).frames.length else 0).sum

/-- The launch's scratch has room on a die, or stands there already (R95, R96). -/
def State.scratchOk (s : State) (l : Launch) (d : Nat) : Bool :=
  (l.scratch.any fun p => decide (p.1 = d)) || decide (l.hdr.scratch = 0) ||
    (decide ((s.die d).frames.length + l.hdr.scratch ≤ 2048) &&
      l.region.chain.all fun b => decide (s.scratchUse d (fun x => x.under l.ctx b.1) + l.hdr.scratch ≤ b.2.2.2.2.2))

/-- The launch still waits for a place. -/
def Launch.placeable (l : Launch) : Bool := decide (l.state = .placing) || decide (l.state = .running)

/-- What groups placed on a core since a stamp took. -/
def State.placedSince (s : State) (c stamp : Nat) : Use :=
  ((List.range s.groups.length).filter fun g => decide ((s.group g).core = c) && decide (stamp ≤ (s.group g).placedAt)).foldl
    (fun (u : Use) g => u.plus (s.launchOf g).hdr.need) {}

/-- The order in which the launches that hold groups to place are served: R92's keys, then their picks (R96). -/
def State.placeKey (s : State) (l : Nat) : Candidate :=
  let la := s.launch l
  { ctx := la.ctx, band := la.region.band, queue := la.queue, node := la.node,
    deadline := if la.node.isSome ∨ la.region.deadlinePol = 2 then 2 ^ 64 - 1 else la.deadline }

def State.placeLe (s : State) (a b : Nat) : Bool :=
  (s.placeKey a).before (s.placeKey b) || (!(s.placeKey b).before (s.placeKey a) && decide (a ≤ b))

/-- Resources that other launches hold back are left alone (R96): a group may take only what was free when the holding began. Of two launches that
both hold, the later in the order of placement does not hold back the earlier. -/
def State.heldBack (s : State) (l : Nat) (need : Use) (c : Nat) : Bool :=
  s.launches.zipIdx.all fun (p : Launch × Nat) => match p.1.reserved with
    | some (stamp, us) => decide (p.2 = l) || !p.1.placeable || ((s.launch l).reserved.isSome && s.placeLe l p.2) ||
        ((need.plus (tget {} us c)).plus (s.placedSince c stamp)).le coreHas
    | none => true

/-- The slots and accumulators of a Saved group find their indices free on a core (R133). -/
def State.indicesOk (s : State) (g c : Nat) : Bool :=
  let gr := s.group g
  let ks := s.inPlace g
  let rec' := gr.savedSlots.map (fun v => if v.mate then 32 + v.idx else v.idx) ++ gr.savedAcc.map fun v => 64 + v.1
  let mine (h : Option Holder) : Bool := h.isNone || holds g h
  let free (k : Nat) : Bool := if k < 32 then mine (s.slot c k).holder else if k < 64 then mine (s.slot (mateOf c) (k - 32)).holder
    else mine (s.acc c (k - 64)).holder
  (ks ++ rec').all free && (decide (c = gr.core) || ks.all (s.drained gr.core)) &&
    decide (s.slotsCharged (mateOf c) + ((ks ++ rec').filter fun k => decide (32 ≤ k ∧ k < 64)).length ≤ 32)

/-- A group of a launch fits on a core (R96), with some groups taken as removed; no core of a Tripped stack (R347) or kept out (R130). -/
def State.fits (s : State) (l : Nat) (saved : Option Nat) (c : Nat) (gone : List Nat) : Bool :=
  let la := s.launch l
  let need := la.hdr.need
  !(s.core c).out && (s.core c).outUntil.isNone && decide ((s.stack (stackOf c)).yoke ≠ .tripped) && (need.plus (s.charged c fun g => !gone.contains g)).le coreHas && s.budgetOk la c gone &&
    s.scratchOk la (dieOfCore c) && s.heldBack l need c && (saved.map fun g => s.indicesOk g c).getD true

/-! ## What is placed next (R96, R97, R122) -/

/-- The next placement of a launch: one group or a mirror pair, each a Saved group or an unplaced linear index; `even` for a lone last
group under mirror pairing. -/
structure Item where
  parts : List (Option Nat)
  even : Bool := false
  deriving DecidableEq, Repr

/-- The Saved groups that may be resumed, those that BRK halted left out. -/
def State.savedOf (s : State) (l : Nat) : List Nat :=
  sortBy (fun a b => decide ((s.group a).lin ≤ (s.group b).lin)) ((s.groupsOf l).filter fun g => (s.group g).state = .saved && !(s.group g).brk)

def State.nextItem (s : State) (l : Nat) : Option Item :=
  let la := s.launch l
  match s.savedOf l with
  | g :: gs =>
    let lin := (s.group g).lin
    let mate := if lin % 2 = 0 then lin + 1 else lin - 1
    match (if la.hdr.free then none else gs.find? fun h => (s.group h).lin = mate) with
    | some h => some { parts := if lin % 2 = 0 then [some g, some h] else [some h, some g] }
    | none => some { parts := [some g] }
  | [] =>
    if la.state = .placing ∧ la.nextLin < la.total then
      if la.hdr.free then some { parts := [none] }
      else if la.nextLin + 1 < la.total then some { parts := [none, none] }
      else some { parts := [none], even := true }
    else none

/-- The item fits on the stack whose core is given first: a pair on both its cores. -/
def State.itemFits (s : State) (l : Nat) (i : Item) (gone : List Nat) (c : Nat) : Bool :=
  match i.parts with
  | [a] => (!i.even || decide (c % 2 = 0)) && s.fits l a c gone
  | [a, b] => decide (c % 2 = 0) && s.fits l a c gone && s.fits l b (c + 1) gone
  | _ => false

/-- The keys of R122, as one number: groups of the launch on the die, groups on the cluster, then the core's rank. -/
def State.coreKey (s : State) (l c : Nat) : Nat :=
  let on (f : Nat → Bool) : Nat := ((s.groupsOf l).filter fun g => s.live g && f (s.group g).core).length
  on (fun x => decide (dieOfCore x = dieOfCore c)) * 2 ^ 48 + on (fun x => decide (clusterOf x = clusterOf c)) * 2 ^ 16 + c

/-- The core that R122 chooses among those where the item fits. -/
def State.bestCore (s : State) (l : Nat) (i : Item) (gone : List Nat) : Option Nat :=
  ((List.range Config.numCores).filter (s.itemFits l i gone)).foldl (fun m c => match m with
    | none => some c
    | some b => if s.coreKey l c < s.coreKey l b then some c else some b) none

/-- The launches that hold groups to place, in their order; of contexts that run (R57, R58). -/
def State.placeOrder (s : State) : List Nat :=
  let runs (l : Nat) : Bool := (s.launch l).placeable && ((s.ctx (s.launch l).ctx).state = .active || (s.ctx (s.launch l).ctx).state = .quiescing)
  sortBy s.placeLe ((List.range s.launches.length).filter runs)

/-! ## Scratch (R200, R201) -/

/-- The frame of a page: the lowest free one of slice q mod 16, or of the die. -/
def freeFrame (used : List Nat) (q : Nat) : Option Nat :=
  match ((List.range 128).map (· + 128 * (q % 16))).find? fun f => !used.contains f with
  | some f => some f
  | none => (List.range 2048).find? fun f => !used.contains f

def takeFrames : Nat → Nat → List Nat → List Nat
  | 0, _, _ => []
  | n + 1, q, used => match freeFrame used q with
    | some f => f :: takeFrames n (q + 1) (f :: used)
    | none => []

/-- A launch's scratch on a die: its frames hold zeros, and their attributes are latched, for the life of the launch (R201). A relocking die
holds the placement back (R349). -/
def State.takeScratch (s : State) (l d : Nat) : State :=
  let la := s.launch l
  let n := la.hdr.scratch
  if la.scratch.any fun p => decide (p.1 = d) then s
  else
    let di := s.die d
    let fs := takeFrames n 0 di.frames
    let table := (s.ctx la.ctx).scratchtab + 16384 * d
    let (s, bs) := if n = 0 then (s, []) else match (s.meet table).physRd table (8 * n) with
      | .ok x => x
      | .error f => ((s.meet table).noteFail (f.2 / 64) f.1 la.ctx, List.replicate (8 * n) 0)
    let s := s.setDie d { s.die d with frames := di.frames ++ fs }
    let s := (if n = 0 then s else s.meet (scratchAddr d 0 0)).zeroFrames d fs
    s.modLaunch l fun la => { la with scratch := tset la.scratch d { frames := fs, attrs := (entries 8 n bs).map (BitVec.ofNat 64) } }

/-! ## Placing (R118, R120) -/

def freshThread (h : Header) (stamp : Nat) : Thread := { regs := List.replicate h.regs 0, sp := .ofNat 32 h.spill, readyAt := stamp }

/-- A group at its placement. -/
def freshGroup (la : Launch) (l c i stamp : Nat) (spill : Option Nat) : Group :=
  let h := la.hdr
  { launch := l, lin := la.nextLin, attempt := la.replays, core := c, threads := List.replicate (32 * h.furrows) (freshThread h stamp),
    gbase := 524288 * i, bars := List.replicate h.nbar { members := 2 ^ h.furrows - 1 }, chans := List.replicate h.chans.length {},
    spillAt := spill, placedAt := stamp }

/-- The launch's next group is placed on a core; the launch is dispatched with its first (R93, R106), and Running with its last. -/
def State.placeGroup (s : State) (l c : Nat) (spill : Option Nat) : State :=
  let s := (s.missLaunch l).takeScratch l (dieOfCore c)
  let la := s.launch l
  let g := s.groups.length
  let s := { s.tick with groups := s.groups ++ [freshGroup la l c g s.fresh spill] }
  let s := if la.node.isSome then s.refreshView c 7 else s
  s.modLaunch l fun la =>
    { la with nextLin := la.nextLin + 1, dispatched := true, state := if la.nextLin + 1 = la.total then .running else la.state }

/-- One part of an item on its core: none where the save area has no room for its spill backing (R203). -/
def State.placePart (s : State) (l c : Nat) (part : Option Nat) : Option State :=
  let la := s.launch l
  let n := spillBytes la.hdr
  let got : Option (State × Option Nat) := if n = 0 then some (s, none)
    else match s.saveTake la n part with
      | (s, some a) => some (s, some a)
      | (_, none) => none
  match got with
  | none => none
  | some (s, spill) => match part with
    | none => some (s.placeGroup l c spill)
    | some g => some ((s.takeScratch l (dieOfCore c)).resumeGroup g c spill)

def State.placeParts (s : State) (l c : Nat) : List (Option Nat) → Option State
  | [] => some s
  | p :: ps => match s.placePart l c p with
    | none => none
    | some s => s.placeParts l (c + 1) ps

/-- A launch's next item fits nowhere: it waits from then on. The reading of a save area that gives no room may fail its check (R318). -/
def State.waitPlace (s : State) (l : Nat) (fit : Bool) : State :=
  let la := s.launch l
  (if fit then s.virtNote la.ctx la.region.save 16 else s).modLaunch l fun la => { la with waitingSince := some (la.waitingSince.getD s.refTimer) }

/-- The first launch whose next item fits has it placed; those before it wait (R96). -/
def State.placeFirst (s : State) : List Nat → State
  | [] => s
  | l :: ls =>
    match s.nextItem l with
    | none => s.placeFirst ls
    | some i =>
      match (s.bestCore l i []).bind fun c => s.placeParts l c i.parts with
      | some s => s.modLaunch l fun la => { la with waitingSince := none, reserved := none }
      | none => (s.waitPlace l (s.bestCore l i []).isSome).placeFirst ls

/-- GROUP_PLACE (R95, R96, R118, R120, R122). -/
def execGroupPlace (s : State) : Out := .next (hubStep (fun s => s.placeFirst s.placeOrder) s)

/-! ## Making room (R96, R97) -/

/-- A launch has waited some ns with a group that fits nowhere (R97): that of a context which is not Active waits too (log entry 173). -/
def State.waited (s : State) (l ns : Nat) : Bool :=
  let la := s.launch l
  la.placeable && (la.waitingSince.map fun t => decide (t + ns ≤ s.refTimer)).getD false

/-- PLACEMENT_RESERVE (R96): after 64 µs, resources freed anywhere are held for the launch. -/
def execPlacementReserve (l : Nat) (s : State) : Out :=
  if !s.waited l 64000 ∨ (s.launch l).reserved.isSome then .next s
  else
    let cores := (((List.range s.groups.length).filter s.live).map fun g => (s.group g).core).eraseDups
    let us := cores.foldl (fun us c => tset us c (s.charged c fun _ => true)) ([] : List (Nat × Use))
    let n := s.fresh
    .next (s.tick.modLaunch l fun la => { la with reserved := some (n, us) })

/-- A group with its mirror partner, if it is Resident. -/
def State.withPartner (s : State) (g : Nat) : List Nat :=
  let gr := s.group g
  let mate := if gr.lin % 2 = 0 then gr.lin + 1 else gr.lin - 1
  if (s.launchOf g).hdr.free then [g]
  else g :: ((s.groupsOf gr.launch).filter fun h => decide ((s.group h).lin = mate) && decide ((s.group h).state = .resident))

/-- Groups of lower band on the cores of a place, youngest first. -/
def State.victims (s : State) (band c : Nat) (pair : Bool) : List Nat :=
  let on (d : Nat) : List Nat := (s.coreLive d).filter fun g => (s.group g).state = .resident && decide ((s.launchOf g).region.band < band)
  sortBy (fun a b => decide ((s.group b).placedAt ≤ (s.group a).placedAt)) (on c ++ if pair then on (c + 1) else [])

/-- The groups to remove until the item fits, with those that are Halting already gone. -/
def State.removal (s : State) (l : Nat) (i : Item) (c : Nat) : List Nat → List Nat → Option (List Nat)
  | [], gone => if s.itemFits l i gone c then some gone else none
  | g :: gs, gone =>
    if s.itemFits l i gone c then some gone
    else s.removal l i c gs (gone ++ (s.withPartner g).filter fun h => !gone.contains h)

/-- The first core, in the order of R122, on which groups of lower band can be pre-empted to make room. -/
def State.makeRoom (s : State) (l : Nat) (i : Item) (halting : List Nat) : List Nat → State
  | [] => s
  | c :: cs =>
    match s.removal l i c (s.victims (s.launch l).region.band c (i.parts.length = 2)) halting with
    | none => s.makeRoom l i halting cs
    | some gone => match s.preempt (gone.filter fun g => !halting.contains g) with
      | some s => s
      | none => s.makeRoom l i halting cs

/-- PLACEMENT_PREEMPT (R97): after 16 µs. -/
def execPlacementPreempt (l : Nat) (s : State) : Out :=
  match s.nextItem l with
  | none => .next s
  | some i =>
    if !s.waited l 16000 ∨ (s.bestCore l i []).isSome then .next s
    else
      let halting := (List.range s.groups.length).filter fun g => (s.group g).state = .halting
      let cores := sortBy (fun a b => decide (s.coreKey l a ≤ s.coreKey l b)) (List.range Config.numCores)
      if cores.any (s.itemFits l i halting) then .next s else .next (hubStep (fun s => s.makeRoom l i halting cores) s)

end Sys2Proof.Machine
end

