-- ==== Sys2Proof/Machine/Power.lean ====
section
/-! DEFINITION. The Yoke of each stack (R345 to R347), the clocks and permits of each die (R348 to R350), the module's power and rack cap
(R351 to R353), and the PWR instructions (R354 to R358). -/

namespace Sys2Proof.Machine

/-! ## Slice ratios (R346, R348) -/

/-- Cluster pulses since the die's last relock (R348). -/
def State.kept (s : State) (cl : Nat) : Nat :=
  let d := s.die (dieOfCluster cl)
  d.pulses * (s.cluster cl).mhz / (if d.f = 0 then 1 else d.f)

/-- A core's ratio changes: its slice counts from here (R348). -/
def State.setRatio (s : State) (core k : Nat) : State :=
  let x := s.core core
  if x.k = k then s else s.setCore core { x with k := k, sliceBase := s.sliceCount core, pulseBase := s.kept (clusterOf core) }

/-! ## The Yoke (R345 to R347) -/

/-- The mismatch in mA at the latest sample: upper minus lower. -/
def Stack.m (k : Stack) : Int := (k.upper : Int) - k.lower
def Stack.abs (k : Stack) : Nat := k.m.natAbs

/-- The cores of a stack, and the busier of them. -/
def lowerOf (stack : Nat) : Nat := 2 * stack
def upperOf (stack : Nat) : Nat := 2 * stack + 1
def Stack.busier (k : Stack) (stack : Nat) : Nat := if 0 < k.m then upperOf stack else lowerOf stack

/-- The busier mate's ratio falls by one, not below 1. -/
def State.slower (s : State) (stack : Nat) : State :=
  let c := (s.stack stack).busier stack
  s.setRatio c (max 1 ((s.core c).k - 1))

/-- One throttled mate's ratio rises by one, the lower ratio first. -/
def State.faster (s : State) (stack : Nat) : State :=
  let a := (s.core (lowerOf stack)).k
  let b := (s.core (upperOf stack)).k
  if a = 8 ∧ b = 8 then s
  else if a ≤ b then s.setRatio (lowerOf stack) (a + 1) else s.setRatio (upperOf stack) (b + 1)

/-- The groups that a trip stops: those charged to either core. -/
def State.stackLive (s : State) (stack : Nat) : List Nat := s.coreLive (lowerOf stack) ++ s.coreLive (upperOf stack)

/-- STACK_TRIP against one group (R347): its record and action, and it stops whatever they are. -/
def State.tripGroup (s : State) (stack g : Nat) : State :=
  let gr := s.group g
  let s := s.takeFault (s.ctxOf g) { code := 0x19, kind := 5, d0 := (wrapInt 64 (s.stack stack).m).toNat, d1 := stack, core := gr.core,
                                     launch := some gr.launch, group := some g }
  s.stopGroup g

def State.trip (s : State) (stack : Nat) : State :=
  let k := s.stack stack
  let s := s.setStack stack { k with yoke := .tripped, calmSince := none }
  let s := (s.setRatio (lowerOf stack) 1).setRatio (upperOf stack) 1
  (s.stackLive stack).foldl (fun s g => s.tripGroup stack g) s

/-- The budget after dt ns of the sampled mismatch: spent 1 to 1, refilled 1 to 4. -/
def Stack.spend (k : Stack) (dt : Nat) : Stack :=
  if 1125 < k.abs then { k with budget := k.budget - dt, refill := 0, calmSince := none }
  else
    let q := k.refill + dt
    { k with budget := min 20000 (k.budget + q / 4), refill := q % 4 }

/-- Threads waiting in BALIDLE on a stack whose mate now draws at least as much (R357). -/
def State.balWaiters (s : State) (stack : Nat) : List TRef :=
  let k := s.stack stack
  let ready (c : Nat) : Bool := if c % 2 = 0 then decide (k.lower ≤ k.upper) else decide (k.upper ≤ k.lower)
  ((List.range s.groups.length).filter fun g => stackOf (s.group g).core = stack && ready (s.group g).core).flatMap fun g =>
    (s.refs g).filter fun r => match (s.thread r).status with
      | .waiting (.balidle _) => !(s.thread r).halted
      | _ => false

/-! ### Currents (R256, R345, R347, R356) -/

/-- A core's burn level: the highest among its resident groups (R356). -/
def State.burnLevel (s : State) (c : Nat) : Nat := (s.groupsOn c).foldl (fun m g => max m (s.group g).burn) 0

/-- The array of a stack serves a matrix operation: its queue holds one (R286; log entry 155). -/
def State.arrayServes (s : State) (stack : Nat) : Bool := (s.stack stack).mq.any fun e => !isMarker e.work

/-- An empty or pre-empted core, and a fallow core with nothing in its copy queues, draws idle current (R256, R347). -/
def State.quiet (s : State) (c : Nat) : Bool :=
  (s.groupsOn c).isEmpty ||
  ((s.core c).copyQ.all List.isEmpty && (s.groupsOn c).all fun g => (s.group g).threads.all fun th => match th.status with
    | .waiting _ => true
    | .exited => true
    | _ => false)

/-- Burn current of a core in mA: none while its array serves a matrix operation or its die's generator is stopped (R345, R356). -/
def State.burnCurrent (s : State) (c : Nat) : Nat :=
  if s.arrayServes (stackOf c) || !s.runs (dieOfCore c) then 0 else 375 * s.burnLevel c

/-- The current of a core in mA, `own` being what its lanes, engines and array draw when they work. While the generator is stopped it is idle
current (R345). -/
def State.current (s : State) (c own : Nat) : Nat :=
  (if !s.runs (dieOfCore c) || (s.quiet c && !s.arrayServes (stackOf c)) then Config.idleCurrent c else own) + s.burnCurrent c

/-- A sample of a stack that is not Tripped: Balanced, Shunting and Throttled (R346). -/
def State.balance (s : State) (stack : Nat) : State :=
  let k := s.stack stack
  if k.yoke = .throttled then s
  else if 2250 < k.abs ∨ (1125 < k.abs ∧ k.budget = 0) then
    (s.setStack stack { k with yoke := .throttled, lastStep := s.refTimer }).slower stack
  else s.setStack stack { k with yoke := if 1125 < k.abs then .shunting else .balanced }

/-- A sample of a Tripped stack (R346). -/
def State.recover (s : State) (stack : Nat) : State :=
  let k := s.stack stack
  let calm := (k.calmSince.map fun t => decide (t + 10000 ≤ s.refTimer)).getD false
  if calm && (s.stackLive stack).isEmpty && (k.mq.filter fun e => !isMarker e.work).isEmpty then
    let s := (s.setRatio (lowerOf stack) 8).setRatio (upperOf stack) 8
    s.setStack stack { k with yoke := .balanced, budget := 20000, refill := 0, tripSince := none, calmSince := none }
  else s

/-- YOKE_SAMPLE (R345, R346, R357): every 16 ns, both mates' currents; the operands are what their work draws. -/
def execYokeSample (stack lower upper : Nat) (s : State) : Out :=
  let k := s.stack stack
  if s.refTimer < k.lastSample + 16 then .next s
  else
    let dt := s.refTimer - k.lastSample
    let k : Stack := { k with lower := s.current (lowerOf stack) lower, upper := s.current (upperOf stack) upper, lastSample := s.refTimer }
    let k : Stack := { k with
      tripSince := if 3375 ≤ k.abs then some (k.tripSince.getD s.refTimer) else none
      calmSince := if k.abs ≤ 1125 then some (k.calmSince.getD s.refTimer) else none }
    let s :=
      if k.yoke = .tripped then (s.setStack stack k).recover stack
      else
        let k := k.spend dt
        let s := s.setStack stack k
        if (k.tripSince.map fun t => decide (t + 2000 < s.refTimer)).getD false then s.trip stack else s.balance stack
    .next (s.wakes (s.balWaiters stack))

/-- YOKE_THROTTLE_STEP (R346): once per µs while Throttled. -/
def execYokeThrottleStep (stack : Nat) (s : State) : Out :=
  let k := s.stack stack
  if k.yoke ≠ .throttled ∨ s.refTimer < k.lastStep + 1000 then .next s
  else
    let s := s.setStack stack { k with lastStep := k.lastStep + 1000 }
    let s := if 1125 < k.abs then s.slower stack
      else if (k.calmSince.map fun t => decide (t + 4000 ≤ s.refTimer)).getD false then s.faster stack
      else s
    if (s.core (lowerOf stack)).k = 8 ∧ (s.core (upperOf stack)).k = 8 then
      .next (s.setStack stack { s.stack stack with yoke := if 1125 < k.abs then .shunting else .balanced })
    else .next s

/-- BALIDLE_TIMEOUT (R357): 64 µs. -/
def execBalidleTimeout (g t : Nat) (s : State) : Out :=
  let r : TRef := { g := g, t := t }
  match (s.thread r).status with
  | .waiting (.balidle since) => if s.refTimer < since + 64000 ∨ (s.thread r).halted then .next s else .next (s.wake r)
  | _ => .next s

/-! ## Clocks (R348, R349) -/

def clustersOf (d : Nat) : List Nat := (List.range 16).map (16 * d + ·)

/-- Groups that are Resident on a cluster. -/
def State.onCluster (s : State) (cl : Nat) : List Nat :=
  (List.range s.groups.length).filter fun g => (s.group g).state = .resident && clusterOf (s.group g).core = cl

/-- The class frequency of a cluster under a ceiling, in 100 MHz units (R348, R350): a claimant that is not charged is held at 2.0 GHz. A
cluster with no resident group has none in the spec: the model takes 2.0 GHz, under the ceiling and f_die (log entry 135). -/
def classFreq (c : Cluster) (ceiling : Nat) : Nat :=
  if !c.held then 20 else if c.boost || (c.cls = 2 && decide (ceiling < 24)) then 24 else if c.cls = 0 then 12 else 20

/-- The cluster runs the first step of a fall. -/
def Cluster.at22 (c : Cluster) : Bool := c.fall = 1 || c.fall = 2

/-- f_die and the frequencies of a die's clusters (R348). -/
def State.target (s : State) (d : Nat) : Nat × List Nat :=
  let cs := (clustersOf d).map s.cluster
  let ceiling := (s.die d).ceiling
  let asks := (cs.filter fun c => c.held && !c.at22).map (classFreq · ceiling)
  let top := min ceiling (if asks.isEmpty then 20 else asks.foldl max 0)
  let f := if cs.any Cluster.at22 then max top 22 else top
  (f, cs.map fun c => if c.at22 then 22 else min (classFreq c ceiling) (min ceiling f))

/-- The frequencies in force. -/
def State.inForce (s : State) (d : Nat) : Nat × List Nat := ((s.die d).f, (clustersOf d).map fun c => (s.cluster c).mhz)

/-- The counts of slices and clusters so far are kept, and pulses count from zero (R348). -/
def State.foldPulses (s : State) (d : Nat) : State :=
  let core (p : Nat × Core) : Nat × Core :=
    if dieOfCore p.1 = d then (p.1, { p.2 with sliceBase := s.sliceCount p.1, pulseBase := 0 }) else p
  let clus (p : Nat × Cluster) : Nat × Cluster := if dieOfCluster p.1 = d then (p.1, { p.2 with cycBase := s.cycles p.1 }) else p
  let s := { s with cores := s.cores.map core, clusters := s.clusters.map clus }
  s.setDie d { s.die d with pulses := 0 }

/-- The time that a falling cluster has still to run at 2.2 GHz stands still while the generator is stopped (R350). -/
def State.holdFalls (s : State) (d : Nat) : State :=
  { s with clusters := s.clusters.map fun p => if dieOfCluster p.1 = d ∧ p.2.fall = 2 then (p.1, { p.2 with fallAt := p.2.fallAt + 2500 }) else p }

/-- A relock starts where the frequencies change and none is in progress (R349). -/
def State.relockIf (s : State) (d : Nat) : State :=
  if (s.die d).relock.isSome ∨ s.target d = s.inForce d then s
  else
    let goal := s.target d
    let s := (s.foldPulses d).holdFalls d
    s.setDie d { s.die d with relock := some (s.refTimer + 2500), goal := goal }

/-- The falls of a die against the frequencies in force (R350): a cluster whose further relock has ended has ended its fall. -/
def State.settleFalls (s : State) (d : Nat) : State :=
  (clustersOf d).foldl (fun s cl =>
    let c := s.cluster cl
    if c.fall = 1 ∧ c.mhz = 22 then s.setCluster cl { c with fall := 2, fallAt := s.refTimer + 1000 }
    else if (c.fall = 1 ∧ c.mhz < 22) ∨ c.fall = 3 then s.setCluster cl { c with fall := 0 }
    else s) s

/-- Claimants in order of claim time and rank (R350). -/
def State.claimants (s : State) (d : Nat) : List Nat :=
  if (s.die d).ceiling < 24 then []
  else
    let t (cl : Nat) : Nat := ((s.cluster cl).claimAt).getD 0
    sortBy (fun a b => decide (t a < t b) || (decide (t a = t b) && decide (a ≤ b)))
      ((clustersOf d).filter fun cl => (s.cluster cl).held && (s.cluster cl).cls = 2 && (s.cluster cl).fall = 0)

/-- What a cluster latches at a boundary (R348, R350, R355). -/
def State.latchClass (s : State) (cl : Nat) : State :=
  let c := s.cluster cl
  let gs := s.onCluster cl
  let cls := if gs.isEmpty then 1 else gs.foldl (fun m g => max m (s.group g).cls) 0
  let c' : Cluster := { c with cls := cls, held := !gs.isEmpty, claimAt := if cls = 2 then some (c.claimAt.getD s.refTimer) else none }
  if c' = c then s else s.setCluster cl c'

/-- A cluster charged or not at a boundary (R350): one that leaves boost for less than 2.2 GHz falls. -/
def State.chargeCluster (s : State) (d : Nat) (charged : List Nat) (cl : Nat) : State :=
  let c := s.cluster cl
  let c' : Cluster := { c with boost := charged.contains cl }
  let c' : Cluster := if c.boost ∧ !c'.boost ∧ min (classFreq c' (s.die d).ceiling) (s.die d).ceiling < 22 then { c' with fall := 1 } else c'
  if c' = c then s else s.setCluster cl c'

/-- CLOCK_BOUNDARY (R349, R350): ceilings and classes are latched, permits charged, falls begun, and one relock started if any frequency
changes. -/
def execClockBoundary (d : Nat) (s : State) : Out :=
  let di := s.die d
  if s.refTimer % 5000 ≠ 0 ∨ s.refTimer ≤ di.lastBoundary then .next s
  else
    let s := s.setDie d { di with lastBoundary := s.refTimer, ceiling := di.ceilingNext.getD di.ceiling, ceilingNext := none }
    let s := (clustersOf d).foldl (fun s cl => s.latchClass cl) s
    let charged := (s.claimants d).take (s.die d).pool
    let s := s.setDie d { s.die d with pool := (s.die d).pool - charged.length }
    let s := (clustersOf d).foldl (fun s cl => s.chargeCluster d charged cl) s
    let s := s.relockIf d
    .next (if (s.die d).relock.isSome then s else s.settleFalls d)

/-- The nominal increment of a die cycle in 16.16 (R349). -/
def nominalInc (f : Nat) : Nat := (2 * 2000 * 65536 + 100 * f) / (2 * (100 * f))

/-- What the hub owes, done (R349). -/
def State.doOwed (s : State) : Owed → State
  | .record ctx f la action lin ring => s.toRing ctx f la action lin ring
  | .free ctx save n => s.areaFree ctx save n
  | .post kind addr info ctx => s.post kind addr info ctx
  | .door fn q v => s.ringDoor fn q v

def State.payOwed (s : State) : List Owed → State
  | [] => s
  | o :: os => (s.orOwe o fun s => s.doOwed o).payOwed os

/-- What waited for the end of a die's relock: grants to its clusters (R248), what the hub owes, and channel waiters (R349). -/
def State.afterRelock (s : State) (d : Nat) : State :=
  let (mine, rest) := s.granted.partition fun g => dieOfCluster g.cl = d
  let s := { s with granted := rest }.freeGrants mine
  ({ s with owed := [] }.payOwed s.owed).serveAll

/-- RELOCK_END (R349): the new frequencies are in force; the nominal counter advances by twice the ticks the relock took. What waited for
the die goes on, unless a further relock starts at once. -/
def execRelockEnd (d : Nat) (s : State) : Out :=
  let di := s.die d
  if (di.relock.map fun t => decide (s.refTimer < t)).getD true then .next s
  else
    let fast (s : State) : Bool := (clustersOf d).any fun cl => decide (20 < (s.cluster cl).mhz)
    let before := fast s
    let s := ((clustersOf d).zip di.goal.2).foldl (fun s p =>
      if (s.cluster p.1).mhz = p.2 then s else s.setCluster p.1 { s.cluster p.1 with mhz := p.2 }) s
    let s := s.setDie d { di with f := di.goal.1, relock := none, rawFrac := 0, nominal := di.nominal + 5000 * 65536,
                                  refillAt := if before && !fast s then s.refTimer else di.refillAt }
    let s := (s.settleFalls d).relockIf d
    .next (if s.runs d then s.afterRelock d else s)

/-- BOOST_FALL_STEP (R350): after 1 µs of running at 2.2 GHz a further relock brings the cluster to its new frequency. -/
def execBoostFallStep (d : Nat) (s : State) : Out :=
  let due := (clustersOf d).filter fun cl => (s.cluster cl).fall = 2 && decide ((s.cluster cl).fallAt ≤ s.refTimer)
  if due.isEmpty || !s.runs d then .next s
  else
    let set (v : Nat) (s : State) : State := due.foldl (fun s cl => s.setCluster cl { s.cluster cl with fall := v }) s
    let s := (set 3 s).relockIf d
    .next (if (s.die d).relock.isSome then s else set 0 s)

/-- PERMIT_REFILL (R350): a permit for each 25 µs with no cluster above 2.0 GHz. -/
def execPermitRefill (d : Nat) (s : State) : Out :=
  let di := s.die d
  if (clustersOf d).any (fun cl => decide (20 < (s.cluster cl).mhz)) ∨ s.refTimer < di.refillAt + 25000 then .next s
  else .next (s.setDie d { di with pool := min 64 (di.pool + 1), refillAt := di.refillAt + 25000 })

/-! ## Power and the rack cap (R351 to R353) -/

/-- Burn power of the module in tenths of a milliwatt: each core's burn current at its layer's 0.70 V (R9, R356). -/
def State.burnPower (s : State) : Nat := ((s.groups.map (·.core)).eraseDups.map fun c => 7 * s.burnCurrent c).sum

/-- POWER_PERIOD (R351): 10 µs of measured power, the operand being the watts of all but burn current, which counts as in force at the
period's end (R356; log entry 155). -/
def execPowerPeriod (watts : Nat) (s : State) : Out :=
  if s.refTimer < s.powerAt + 10000 then .next s
  else
    let lim := s.copyLimit
    let p := 10000 * watts + s.burnPower
    let full := 10000 * s.budget
    let lim := if full < p then max 65536 (lim - lim / 8) else if p * 100 < 95 * full then min 4194304 (lim + lim / 8) else lim
    .next { s with powerAt := s.powerAt + 10000, copyLimit := lim }

/-- RACK_CAP_MESSAGE (R352). -/
def execRackCapMessage (msg : BitVec 64) (s : State) : Out :=
  let n := msg.toNat
  let expiry := bits n 63 48
  let w := min 2400 (max 600 (bits n 47 32))
  let seq := bits n 31 0
  let newer := s.cap.stage = 0 || (let d := (seq + (2 ^ 32 - s.cap.seq % 2 ^ 32)) % 2 ^ 32; decide (1 ≤ d) && decide (d ≤ 2 ^ 31 - 1))
  if expiry = 0 ∨ !newer then .next s
  else .next { s with cap := { stage := 1, cap := w, seq := seq, due := s.refTimer + 1000000 * expiry }, budget := w }

/-- CAP_EXPIRY (R352): the budget falls half way to the floor. -/
def execCapExpiry (s : State) : Out :=
  if s.cap.stage ≠ 1 ∨ s.refTimer < s.cap.due then .next s
  else .next { s with cap := { s.cap with stage := 2, due := s.cap.due + 1000000 }, budget := (s.cap.cap + s.floor) / 2 }

/-- CAP_FLOOR_STEP (R352): the floor, 1 ms later. -/
def execCapFloorStep (s : State) : Out :=
  if s.cap.stage ≠ 2 ∨ s.refTimer < s.cap.due then .next s
  else .next { s with cap := { s.cap with stage := 3 }, budget := s.floor }

/-- PWRCFG (R353): ceilings act at the next boundary, the floor at once. -/
def execPwrcfg (fn : Nat) (p : Packet) (s : State) : Out :=
  let floor := pkt p 511 496
  let ceil (d : Nat) : Nat := pkt p (471 + 8 * d) (464 + 8 * d)
  onPf fn (fun s =>
    if (floor ≠ 0 ∧ (floor < 600 ∨ 2400 < floor)) ∨ (List.range 4).any fun d => ceil d ≠ 0 && (decide (ceil d < 12) || decide (24 < ceil d)) then .refuse 3
    else
      let s := (List.range 4).foldl (fun s d => if ceil d = 0 then s else s.setDie d { s.die d with ceilingNext := some (ceil d) }) s
      .done (if floor = 0 then s
        else { s with floor := floor, budget := if s.cap.stage = 3 then floor else s.budget })) s

/-! ## PWR instructions (R354 to R358) -/

/-- PCLS (R355). -/
def execPcls (sw : Bool) (c : BitVec 2) (s : State) : Out :=
  runSheaf { sw := sw } (fun s r =>
    let was : Bool := (s.group r.g).cls = 2
    .done ((s.modGroup r.g fun gr => { gr with cls := c.toNat, clsAt := s.refTimer }).noteClass r.g was)) s

/-- BURN (R356). -/
def execBurn (sw : Bool) (l : BitVec 3) (s : State) : Out :=
  runSheaf { sw := sw } (fun s r => .done (s.modGroup r.g fun gr => { gr with burn := l.toNat })) s

/-- BALIDLE (R357). -/
def execBalidle (sw : Bool) (s : State) : Out :=
  runSheaf { sw := sw } (fun s r =>
    let c := (s.group r.g).core
    let k := s.stack (stackOf c)
    let less : Bool := if c % 2 = 0 then decide (k.upper < k.lower) else decide (k.lower < k.upper)
    .done (if less then s.waitOn r (.balidle s.refTimer) else s)) s

def yokeCode : Yoke → Nat
  | .balanced => 0 | .shunting => 1 | .throttled => 2 | .tripped => 3

/-- The word of YKRD (R358). -/
def State.yokeWord (s : State) (stack : Nat) : Nat :=
  let k := s.stack stack
  let m : Int := max (-32767) (min 32767 k.m)
  yokeCode k.yoke * 2 ^ 30 + (s.core (lowerOf stack)).k * 2 ^ 26 + (s.core (upperOf stack)).k * 2 ^ 22 + k.budget / 1000 * 2 ^ 16 +
    (wrapInt 16 m).toNat

def execYkrd (sw : Bool) (d : BitVec 7) (s : State) : Out :=
  runSheaf { sw := sw, writes := [f1 d], var := true } (fun s r => .done (s.issueVal r d 1 (s.yokeWord (stackOf (s.group r.g).core)))) s

/-- The word of PERMITS (R358). -/
def State.permitWord (s : State) (d : Nat) : Nat :=
  let n := ((clustersOf d).filter fun cl => (s.cluster cl).boost || decide ((s.cluster cl).fall ≠ 0)).length
  (s.die d).f * 2 ^ 16 + n * 2 ^ 8 + (s.die d).pool

def execPermits (sw : Bool) (d : BitVec 7) (s : State) : Out :=
  runSheaf { sw := sw, writes := [f1 d], var := true } (fun s r => .done (s.issueVal r d 1 (s.permitWord (dieOfCore (s.group r.g).core)))) s

end Sys2Proof.Machine
end

