-- ==== Sys2Proof/Machine/System.lean ====
section
/-! DEFINITION. The system instructions (R76 to R83), the monitor units' mid-rail samples (R82), and the Headland (R74, R75). -/

namespace Sys2Proof.Machine

/-! ## SYSRD and SYSWR (R77) -/

/-- The value of a selector for a thread. -/
def State.sysValue (s : State) (r : TRef) (sel : Nat) : Nat :=
  let gr := s.group r.g
  let la := s.launch gr.launch
  let th := s.thread r
  match sel with
  | 0x00 => r.t % 32
  | 0x01 => r.t / 32
  | 0x02 => r.t
  | 0x03 => gr.lin % la.gx
  | 0x04 => gr.lin / la.gx % la.gy
  | 0x05 => gr.lin / (la.gx * la.gy)
  | 0x06 => la.gx
  | 0x07 => la.gy
  | 0x08 => la.gz
  | 0x09 => gr.core
  | 0x0A => clusterOf gr.core
  | 0x0B => dieOfCore gr.core
  | 0x0C => stackOf gr.core
  | 0x0D => gr.core % 2
  | 0x0E => th.base
  | 0x0F => th.regs.length
  | 0x10 => th.sp.toNat
  | 0x11 => th.usertag.toNat
  | 0x12 => la.ctx
  | 0x13 => la.seq % 2 ^ 32
  | 0x14 => la.seq / 2 ^ 32
  | 0x15 => (s.core gr.core).k + (s.cluster (clusterOf gr.core)).cls * 2 ^ 4
  | _ => gr.resumes

def execSysrd (sw : Bool) (d b : BitVec 7) (s : State) : Out :=
  runSheaf { sw := sw, writes := [f1 d], var := true } (fun s r => .done (s.issueVal r d 1 (s.sysValue r b.toNat))) s

def execSyswr (sw : Bool) (a b : BitVec 7) (s : State) : Out :=
  runSheaf { sw := sw, reads := [f1 a] } (fun s r =>
    let w := s.reg r a
    .done (s.modThread r fun th => if b = 0x10 then { th with sp := w &&& 0xFFFFFFF0 } else { th with usertag := w })) s

/-! ## TRAP and BRK (R78, R79) -/

/-- The threads of a sheaf that executed its instruction: their counters moved on. -/
def executed (s t : State) : List TRef := s.sheaf.filter fun r => decide ((t.thread r).pc = (s.thread r).pc + 4)

/-- A record of USER_TRAP for one thread (R71). -/
def State.trapRecord (s : State) (r : TRef) (d0 d1 : Nat) : State :=
  let gr := s.group r.g
  let la := s.launch gr.launch
  let th := s.thread r
  s.record la.ctx { code := 0x1C, d0 := d0, d1 := d1, pc := th.pc, lanes := 2 ^ (r.t % 32), furrow := r.t / 32, core := gr.core,
                    usertag := th.usertag.toNat, launch := some gr.launch, group := some r.g }
    (actionOf la 0x1C) (some (la.region.ring, la.region.ringlog))

/-- The action of USER_TRAP on a group, its records written (R69). -/
def State.trapAct (s : State) (g : Nat) : State :=
  let act := actionOf (s.launchOf g) 0x1C
  if act = 0 then s else if act = 1 then s.stopGroup g else s.endLaunch (s.group g).launch

/-- TRAP (R78): one record for each thread of the sheaf, then the action on each of its groups. It faults, so no thread parks under its marker
(R34). -/
def execTrap (_sw : Bool) (a b : BitVec 7) (s : State) : Out :=
  match runSheaf { sw := false, reads := [f1 a] } (fun s r => .done (s.trapRecord r (s.reg r a).toNat b.toNat)) s with
  | .next t => .next (((executed s t).map (·.g)).eraseDups.foldl State.trapAct t)
  | o => o

/-- BRK of a group (R79): one record, and the group halts until ACTIVATE; where its save area has no room it is not halted (R130). -/
def State.brkGroup (s : State) (before : State) (code : Nat) (rs : List TRef) (g : Nat) : State :=
  let mine := rs.filter fun r => r.g = g
  match mine with
  | [] => s
  | r :: _ =>
    let gr := s.group g
    let s := s.takeFault (s.ctxOf g)
      { code := 0x1C, d1 := 2 ^ 63 + code, pc := (before.thread r).pc, lanes := laneMask g (r.t / 32) mine, furrow := r.t / 32, core := gr.core,
        usertag := (s.thread r).usertag.toNat, launch := some gr.launch, group := some g }
    if (s.group g).state ≠ .resident then s
    else match s.preempt [g] with
      | some s => s.modGroup g fun gr => { gr with brk := true }
      | none => s.preemptNote [g]

/-- A thread that the marker of a faulting instruction would have parked (R34). -/
def Thread.unpark (th : Thread) : Thread := { th with marked := false, status := if th.status = .parked then .ready else th.status }

/-- BRK (R79): a fault in a debug context, where its marker parks nothing (R34), and a NOP in others. -/
def execBrk (sw : Bool) (b : BitVec 7) (s : State) : Out :=
  match runSheaf { sw := sw } (fun s _ => .done s) s with
  | .next t =>
    let rs := (executed s t).filter fun r => (s.ctx (s.ctxOf r.g)).debug
    let t := rs.foldl (fun t r => t.modThread r Thread.unpark) t
    let u := (rs.map (·.g)).eraseDups.foldl (fun t g => t.brkGroup s b.toNat rs g) t
    .next (if u.hubWaits && !s.hubWaits then s else u)
  | o => o

/-! ## ERRRD, CLKRD, REFRD (R80, R81) -/

/-- ERRRD: the word is read when the result is written, at the hub. -/
def execErrrd (sw : Bool) (d b : BitVec 7) (s : State) : Out :=
  runSheaf { sw := sw, writes := [f1 d], var := true } (fun s r => .done (s.issueOut r (f1 d) (.sticky b.toNat))) s

def execClkrd (sw : Bool) (d : BitVec 7) (s : State) : Out :=
  runSheaf { sw := sw, writes := [f2 d] } (fun s r => .done (s.setRegs r d (wordsOf 2 (s.die (dieOfCore (s.group r.g).core)).raw))) s

def execClkrdNom (sw : Bool) (d : BitVec 7) (s : State) : Out :=
  runSheaf { sw := sw, writes := [f2 d] }
    (fun s r => .done (s.setRegs r d (wordsOf 2 ((s.die (dieOfCore (s.group r.g).core)).nominal / 65536)))) s

/-- REFRD (R81). R15 keeps each die's copy within one tick of the hub's count; the model has every die read the hub's count itself (log entry
134). -/
def execRefrd (sw : Bool) (d : BitVec 7) (s : State) : Out :=
  runSheaf { sw := sw, writes := [f2 d], var := true } (fun s r => .done (s.issueVal r d 2 s.refTimer)) s

/-! ## Monitor units (R82, R83) -/

/-- A configuration word that names a reserved source or sets a reserved bit. -/
def monBad (w : Nat) : Bool := decide (8 ≤ bits w 31 28) || decide (bits w 21 2 ≠ 0)

/-- A unit configured for a context: results are kept unless the word clears them or the unit was free. -/
def Monitor.configure (m : Monitor) (c w : Nat) : Monitor :=
  let base : Monitor := if m.ctx.isNone ∨ bits w 1 1 = 1 then {} else m
  { base with ctx := some c, source := bits w 31 28, cores := bits w 27 22, enable := bits w 0 0 = 1 }

/-- A unit's claim falls to a lower context of the same cluster cycle: its MONCFG's status becomes 1 (R83). -/
def State.outclaimed (s : State) (m : Monitor) : State :=
  ((m.setAt.map (·.2)).getD []).foldl (fun s p => s.modThread p.1 fun th => th.puts p.2 [1]) s

/-- A unit as a MONCFG of context c in a cluster cycle leaves it, with where its status goes. -/
def Monitor.claimed (m : Monitor) (c w now : Nat) (at' : List (TRef × Nat)) : Monitor :=
  { m.configure c w with
    sampledAt := now
    setAt := if m.ctx.isNone then some (now, at') else m.setAt.map fun p => if p.1 = now then (now, p.2 ++ at') else p }

/-- MONCFG's effect for a thread whose status goes to a register: the state after, and the status. Of two contexts that claim a free unit in
one cluster cycle the lower has it (R83). -/
def State.moncfg (s : State) (r : TRef) (d : BitVec 7) (u w : Nat) : State × Nat :=
  let c := s.ctxOf r.g
  let cl := clusterOf (s.group r.g).core
  let x := s.cluster cl
  let m := x.monitors.getD u {}
  let now := s.cycles cl
  let other : Bool := m.ctx.any fun o => decide (o ≠ c)
  let first : Bool := m.ctx.any (fun o => decide (c < o)) && m.setAt.any fun p => decide (p.1 = now)
  if other && !first then (s, 1)
  else if monBad w then (s, 2)
  else if bits w 31 28 = 0 then (if other then s else s.setCluster cl { x with monitors := x.monitors.set u {} }, 0)
  else
    let s := if other then s.outclaimed m else s
    let m : Monitor := if other then {} else m
    (s.setCluster cl { x with monitors := x.monitors.set u (m.claimed c w now (if d = 0 then [] else [(r, (s.thread r).base + d.toNat)])) }, 0)

def execMoncfg (sw : Bool) (d a : BitVec 7) (u : BitVec 3) (s : State) : Out :=
  runSheaf { sw := sw, reads := [f1 a], writes := [f1 d] } (fun s r =>
    let (s, st) := s.moncfg r d u.toNat (s.reg r a).toNat
    .done (s.setReg r d (.ofNat 32 st))) s

/-- The result of a unit that an item names. -/
def Monitor.item (m : Monitor) (i : Nat) : Nat :=
  if i = 0 then m.min else if i = 1 then m.max else if i = 2 then m.count else m.hist.getD (i - 16) 0

def execMonrd (sw : Bool) (d a : BitVec 7) (u : BitVec 3) (s : State) : Out :=
  runSheaf { sw := sw, writes := [f1 d], var := true } (fun s r =>
    let m := (s.cluster (clusterOf (s.group r.g).core)).monitors.getD u.toNat {}
    .done (s.issueVal r d 1 (if m.ctx = some (s.ctxOf r.g) then m.item a.toNat else 0))) s

/-- The stacks of a cluster that hold a group of a context, one of whose cores a unit samples. -/
def State.sampledStacks (s : State) (cl c cores : Nat) : List Nat :=
  ((List.range 3).map (3 * cl + ·)).filter fun k => ((s.stackLive k).any fun g => s.ctxOf g = c) &&
    (cores = 0 || cores.testBit (lowerOf k % 6) || cores.testBit (upperOf k % 6))

/-- MONITOR_SAMPLE (R82): the mid-rail mismatch, every 64 cluster cycles. -/
def execMonitorSample (cl u : Nat) (s : State) : Out :=
  let x := s.cluster cl
  let m := x.monitors.getD u {}
  match m.ctx with
  | none => .next s
  | some c =>
    if !m.enable ∨ m.source ≠ 5 ∨ s.cycles cl < m.sampledAt + 64 then .next s
    else
      let m' := (s.sampledStacks cl c m.cores).foldl (fun m k => m.count1 (s.stack k).abs) { m with sampledAt := m.sampledAt + 64 }
      .next (s.setCluster cl { x with monitors := x.monitors.set u m' })

/-! ## The Headland (R74, R75) -/

/-- A thread waits in the sense of the Headland: at a barrier or channel, on tags, in MONW, or polling with a failing result. -/
def Thread.idle (th : Thread) : Bool := decide (th.status = .exited) || th.waits

/-- A group whose every thread waits. -/
def Group.idle (g : Group) : Bool := g.threads.all Thread.idle

/-- Where a pointer that a request holds lies, for an engine write (R199). -/
def State.engAt (s : State) (e : Entry) (p : DWord) (off : Int) (n : Nat) : Option Nat := (s.engPlace e.iss.thr p off n).toOption

/-- One of k elements from n on has a property. -/
def someElem (p : Nat → Bool) : Nat → Nat → Bool
  | 0, _ => false
  | k + 1, n => p n || someElem p k (n + 1)

/-- Two ranges of bytes meet. -/
def overlap (a n b m : Nat) : Bool := decide (a < b + m) && decide (b < a + n)

/-- A wait of a thread awaits the end of a request: through its copy tag or its stamp (R74). -/
def State.awaitsEnd (s : State) (r : TRef) (e : Entry) (c : Copy) : Bool :=
  match (s.thread r).status with
  | .waiting (.tags _ hi m) => decide (e.iss.thr.g = r.g) && decide (c.tag / 32 = hi) && m.getLsbD (c.tag % 32)
  | .waiting (.monw _ a n _ _ _ _) =>
    decide (c.stamp ≠ 0) && decide (c.stkind = 1) && (s.engAt e (.ofNat 64 c.stamp) (ptrOff (.ofNat 64 c.stamp)) 8).any fun x => overlap x 8 a n
  | _ => false

/-- A wait of a thread awaits elements of a request: through its byte barrier, or through bytes that they write (R371). -/
def State.awaitsElems (s : State) (r : TRef) (e : Entry) (c : Copy) : Bool :=
  match (s.thread r).status with
  | .waiting (.object _ a _ _) | .backedOff _ (some (.object _ a _ _)) =>
    decide (c.bbar ≠ 0) && decide (s.engAt e c.bbar (ptrOff c.bbar) 16 = some a)
  | .waiting (.monw _ a n _ _ _ _) =>
    decide (c.dkind = 1) && someElem (fun k => (s.engAt e (.ofNat 64 c.dstBase) (c.dst.byteOf (c.dstBit k)) c.dst.bytes).any fun x =>
      overlap x c.dst.bytes a n) (c.total - c.next) c.next
  | _ => false

/-- A request with an element outstanding on a link in Recovering, sent there or asked of its peer (R371). -/
def State.onRecovering (s : State) (e : Entry) : Bool :=
  (List.range 12).any fun n => (s.link n).state = .recovering && (s.link n).replay.any fun t => decide (e.id = t.entry)

/-- A request that reaches host memory: an element of its source or destination, or its stamp. -/
def Copy.onHost (c : Copy) : Bool :=
  let host (e : Endpoint) (bit : Nat → Int) : Bool :=
    decide (e.kind = 3) && someElem (fun n => decide (extTarget (wrapInt 64 (e.byteOf (bit n))).toNat = 0)) c.total 0
  host c.src c.srcBit || host c.dst c.dstBit || (decide (c.stamp ≠ 0) && decide (c.stkind = 3) && decide (extTarget c.stamp = 0))

/-- A thread waits on what the Headland does not count (R74). -/
def State.uncounted (s : State) (r : TRef) : Bool :=
  let remote (e : Entry) : Bool := match e.work with
    | .copy c => (s.awaitsEnd r e c && (c.onHost || s.onRecovering e)) || (s.onRecovering e && s.awaitsElems r e c)
    | _ => false
  match (s.thread r).status with
  | .waiting (.monw _ _ _ _ _ sc _) => decide (sc = 9 ∨ sc = 0xA) || s.allEntries.any remote
  | .waiting _ | .backedOff _ (some _) => s.allEntries.any remote
  | _ => false

/-- A cycle is counted (R74). -/
def State.counts (s : State) (c : Nat) : Bool :=
  let mine := (List.range s.groups.length).filter fun g => s.ctxOf g = c
  let res := mine.filter fun g => (s.group g).state = .resident
  let pre := mine.filter fun g => (s.group g).state = .halting || (s.group g).state = .saved
  decide ((s.ctx c).state ≠ .suspended) && !res.isEmpty && res.all (fun g => (s.group g).idle) && pre.all (fun g => (s.group g).idle) &&
    !((res ++ pre).any fun g => (s.refs g).any s.uncounted)

/-- The Headland counts the cycles of some ticks: 2 per tick. -/
def State.countHeadland (s : State) (ticks : Nat) : State :=
  (s.ctxs.map (·.1)).foldl (fun s c => if s.counts c then s.setCtx c { s.ctx c with headland := (s.ctx c).headland + 2 * ticks } else s) s

/-- Wait code, object and missing of a waiting thread (R75, R119, R245, R255); what no rule gives is free. -/
def State.waitEntry (s : State) (r : TRef) : Nat × Nat × Nat :=
  let gr := s.group r.g
  let chan (ch : Nat) : Chan := gr.chans.getD ch {}
  let free := Config.freeValue (s.fresh * 2 ^ 40 + r.g * 1024 + r.t) % 2 ^ 64
  match (s.thread r).status with
  | .waiting (.collective mask minor) =>
    let rdv := gr.rdvs.find? fun v => v.furrow = r.t / 32 && v.mask = mask && v.minor = minor
    let here := ((rdv.map (·.arrived)).getD []).foldl (fun m a => m ||| 2 ^ a.1) 0
    (1, 0, (mask &&& ~~~ (BitVec.ofNat 32 here)).toNat)
  | .waiting (.namedBar b) =>
    (1, 0x20 + b, ((gr.missing (gr.bars.getD b {})).map (· / 32)).foldl (fun m f => m ||| 2 ^ f) 0)
  | .waiting (.object p a _ _) | .backedOff _ (some (.object p a _ _)) => (1, p.toNat, (s.obj a).arrivals + if (s.obj a).pending = 0 then 0 else 2 ^ 31)
  | .waiting .gbar =>
    let la := s.launch gr.launch
    let gs := s.groupsOf gr.launch
    (1, 0x40, min ((gs.filter fun g => !s.gbarArrived g).length + (la.total - la.nextLin)) (2 ^ 32 - 1))
  | .waiting (.chanPop ch _ _ _) => (2, ch, (chan ch).vis % 2 ^ 32)
  | .waiting (.chanRes ch _ _) | .waiting (.chanPush ch _ _) => (2, ch, (chan ch).pop % 2 ^ 32)
  | .waiting (.tags _ _ _) => (3, free, 0)
  | .waiting (.monw p _ _ _ _ _ _) => (4, p.toNat, 0)
  | .waiting (.balidle _) => (5, free, 0)
  | _ => match (s.thread r).pollCh with
    | some ch => (2, ch, (chan ch).vis % 2 ^ 32)
    | none => (5, free, 0)

/-- The 16 bytes of a waiting furrow's entry: that of its lowest thread that waits. -/
def State.graphEntry (s : State) (g f : Nat) : Option Nat :=
  let rs := (s.refs g).filter fun r => r.t / 32 = f && (s.thread r).status ≠ .exited
  match rs with
  | [] => none
  | r :: _ =>
    if rs.all fun r => (s.thread r).idle then
      let (w, obj, miss) := s.waitEntry r
      some (obj % 2 ^ 64 * 2 ^ 64 + miss % 2 ^ 32 * 2 ^ 32 + w * 2 ^ 24 + (s.group g).core * 2 ^ 15 + f * 2 ^ 10)
    else none

/-- The wait-for graph of a context: its waiting resident furrows in ascending core rank and furrow order. Furrows of Halting and Saved groups
have no entry (log entry 144). -/
def State.graph (s : State) (c : Nat) : List Nat :=
  let gs := (List.range s.groups.length).filter fun g => decide (s.ctxOf g = c) && decide ((s.group g).state = .resident)
  let fs := gs.flatMap fun g => (List.range ((s.group g).threads.length / 32)).map fun f => (g, f)
  let le (a b : Nat × Nat) : Bool := decide (32 * (s.group a.1).core + a.2 ≤ 32 * (s.group b.1).core + b.2)
  ((sortBy le fs).filterMap fun p => s.graphEntry p.1 p.2).take 4096

/-- The launches of a context that hold a Resident group. -/
def State.hung (s : State) (c : Nat) : List Nat :=
  (List.range s.launches.length).filter fun l =>
    decide ((s.launch l).ctx = c) && (s.groupsOf l).any fun g => (s.group g).state = .resident

/-- The action of HANG on one launch, by its own region's policy (R69, log entry 93). -/
def State.hangAct (s : State) (l : Nat) : State :=
  match actionOf (s.launch l) 0x1A with
  | 0 => s
  | 1 => s.stopGroups ((s.groupsOf l).filter fun g => (s.group g).state = .resident)
  | 2 => s.endLaunch l
  | _ => s.rollback l none

/-- HANG (R75): a record, the graph, and the counter starts again; then the action on each launch (R69). -/
def execHang (c : Nat) (s : State) : Out :=
  let x := s.ctx c
  if x.state = .free ∨ x.headland < 2 ^ x.hlog then .next s
  else
    let es := s.graph c
    let n := if x.hangbuf = 0 then 0 else es.length
    let ls := s.hung c
    let act := ls.foldl (fun m l => max m (actionOf (s.launch l) 0x1A)) 0
    .next (hubStep (fun s =>
      let s := s.record c { code := 0x1A, kind := 4, d0 := x.hangbuf, d1 := n } act none
      let s := if x.hangbuf = 0 then s else s.virtPut c x.hangbuf (es.flatMap (bytesOf 16))
      ls.foldl State.hangAct ((s.tick).setCtx c { s.ctx c with headland := 0 })) s)

end Sys2Proof.Machine
end

