-- ==== Sys2Proof/Machine/Context.lean ====
section
/-! DEFINITION. Admin commands on contexts and keys (R56 to R62, R66 to R68, R330), and the ends of teardown and zeroizing. -/

namespace Sys2Proof.Machine

/-! ## CREATE (R58, R61) -/

/-- A Headland exponent as a command gives it (R61, R62): 0 selects 30, none outside 20 to 40. -/
def hlogOf (n : Nat) : Option Nat := if n = 0 then some 30 else if 20 ≤ n ∧ n ≤ 40 then some n else none

/-- Entries 16 to 63 from the descriptors at fmtinit: none where one fails the validity rules (R163), or where they cannot be read. -/
def State.readFormats (s : State) (c a : Nat) : State × Option (List (BitVec 64)) :=
  if a = 0 then (s, some (List.replicate 48 0))
  else match s.cmdRd c a 384 with
    | (s, none) => (s, none)
    | (s, some bs) =>
      let ds := (entries 8 48 bs).map fun v => Desc.offered (.ofNat 64 v)
      (s, if ds.all Option.isSome then some (ds.filterMap id) else none)

/-- A slot is Loaded and bound, with its function, to a context number (R61, R62). -/
def KeySlot.boundTo (k : KeySlot) (fn c : Nat) : Bool := decide (k.state = .loaded) && decide (k.fn = fn) && k.ctxmask.getLsbD c

/-- A protected context may be created: on a keyed stream, and for a VF with its TDI in RUN (R364). -/
def Fn.mayProtect (f : Fn) (fn : Nat) : Bool := f.keyed && (decide (fn = 0) || decide (f.tdi = .run))

def execCreate (fn : Nat) (p : Packet) (s : State) : Out :=
  let prot := pkt p 55 55 = 1
  let debug := pkt p 54 54 = 1
  let slot := pkt p 71 66
  onCtx fn p (· = .free) (fun c s =>
    match s.readFormats c (pkt p 319 256), hlogOf (pkt p 65 60) with
    | (t, some fmt), some hlog =>
      if !(s.key slot).boundTo fn c ∨ (prot ∧ debug) ∨ (prot ∧ !(s.fn fn).mayProtect fn) then .refused t 3
      else
        let x : Ctx := { state := .opened, fn := fn, rootrcb := pkt p 511 448, ptroot := pkt p 447 384, scratchtab := pkt p 383 320,
                         hangbuf := pkt p 255 192, savebase := pkt p 191 128, keyslot := slot, sealKey := t.fresh, hlog := hlog, prot := prot,
                         debug := debug, stale := pkt p 53 53 = 1, fmt := fmt }
        .done (t.tick.setCtx c x)
    | (t, _), _ => .refused t 3) s

/-! ## LOADKERNEL (R55, R58, R62, R68) -/

/-- The bytes that a relocation entry patches (R53): none for a reserved kind. -/
def relocSite (v : Nat) : Option (Nat × Nat) :=
  let k := bits v 31 24
  if k = 1 ∨ k = 2 then some (bits v 127 64, 8) else if k = 3 then some (bits v 127 64, 4) else none

/-- A site lies wholly within the section (R55). -/
def siteOk (len v : Nat) : Bool := match relocSite v with
  | some (a, n) => decide (a + n ≤ len)
  | none => false

/-- Every byte at a site is zero. -/
def zeroSites (bs : List Byte) (es : List Nat) : List Byte :=
  bs.zipIdx.map fun p => if es.any fun v => (match relocSite v with | some (a, n) => decide (a ≤ p.2 ∧ p.2 < a + n) | none => false) then 0 else p.1

/-- A measurement entered in the table: in place for a descriptor that has one (R58). The pages of its section lose their write permission for
the life of the context (R68). -/
def Ctx.enter (x : Ctx) (m : Measured) : Ctx :=
  let x : Ctx := { x with measured := x.measured ++ [(m.desc, m.len)] }
  if x.kernels.any fun k => k.desc = m.desc then { x with kernels := x.kernels.map fun k => if k.desc = m.desc then m else k }
  else { x with kernels := x.kernels ++ [m] }

def execLoadkernel (fn : Nat) (p : Packet) (s : State) : Out :=
  let desc := pkt p 511 448
  let len := pkt p 447 416
  let reloc := pkt p 415 352
  let n := pkt p 351 336
  onCtx fn p (fun st => st = .opened || st = .active) (fun c s =>
    let x := s.ctx c
    if desc % 64 ≠ 0 ∨ reloc % 16 ≠ 0 then .refuse 3
    else match s.virtRd x desc len with
      | none => .refused (s.virtNote c desc len) 3
      | some (s, bs) =>
        match (if n = 0 then some (s, []) else s.virtRd x reloc (16 * n)) with
        | none => .refused (s.virtNote c reloc (16 * n)) 3
        | some (s, rs) =>
          let es := entries 16 n rs
          if !es.all (siteOk len) then .refused s 3
          else if 256 ≤ x.kernels.length ∧ !x.kernels.any fun k => k.desc = desc then .refused s 4
          else .done (s.setCtx c (x.enter { desc := desc, len := len, digest := sha384 (zeroSites bs es ++ rs) }))) s

/-! ## ACTIVATE, QUIESCE, SUSPEND (R58, R59) -/

/-- The groups of a context that BRK halted may be placed again (R79). -/
def State.unbrk (s : State) (c : Nat) : State :=
  { s with groups := s.groups.map fun (g : Group) => if (s.launch g.launch).ctx = c then { g with brk := false } else g }

def execActivate (fn : Nat) (p : Packet) (s : State) : Out :=
  onCtx fn p (fun st => st = .opened || st = .suspended || st = .active) (fun c s =>
    let s := (s.setCtx c { s.ctx c with state := .active, headland := 0 }).unbrk c
    .done (s.settleQueues (s.ctxQueues c))) s

def execQuiesce (fn : Nat) (p : Packet) (s : State) : Out :=
  onCtx fn p (· = .active) (fun c s => .done ((s.setCtx c { s.ctx c with state := .quiescing }).quiesced c)) s

/-- Every group of a context is pre-empted (R59): none where a save area has no room. -/
def State.suspend (s : State) (c : Nat) : Option State :=
  (s.preempt (s.ctxLive c)).map fun s => s.setCtx c { s.ctx c with state := .suspended }

def execSuspend (fn : Nat) (p : Packet) (s : State) : Out :=
  onCtx fn p (fun st => st = .active || st = .quiescing) (fun c s =>
    match s.suspend c with
    | none => .refused (s.preemptNote (s.ctxLive c)) 4
    | some s => if s.suspendOver c then .done s else .wait s (.suspend c)) s

/-! ## CLEARERR, SETHEADLAND, HANDLEAREA (R58, R62, R330) -/

def execClearerr (fn : Nat) (p : Packet) (s : State) : Out :=
  onCtx fn p CtxState.inUse (fun c s => .done (s.setCtx c { s.ctx c with sticky := 0 })) s

def execSetheadland (fn : Nat) (p : Packet) (s : State) : Out :=
  onCtx fn p CtxState.inUse (fun c s => match hlogOf (pkt p 261 256) with
    | none => .refuse 3
    | some h => .done (s.setCtx c { s.ctx c with hlog := h })) s

/-- The device writes an area's entries under a key slot (R330, log entry 166): every sector of it holds that slot from then on. -/
def State.placeArea (s : State) (base len key : Nat) : State :=
  let a : Area := { first := base / 64, count := len / 64, key := key, pair := (s.key key).key }
  { s with areas := a :: s.areas
           sectors := s.sectors.map fun e => if a.has e.1 then (e.1, { tag := e.2.tag, key := a.key, addr := e.1, pair := a.pair }) else e }

def execHandlearea (fn : Nat) (p : Packet) (s : State) : Out :=
  let base := pkt p 511 448
  let ntens := pkt p 447 424
  let ncell := pkt p 423 408
  onCtx fn p (· = .opened) (fun c s =>
    let x := s.ctx c
    if x.usedHnew then .refuse 1
    else if base % 65536 ≠ 0 ∨ ntens = 0 then .refuse 3
    else .done (((s.meet base).placeArea base (8192 * (ntens + ncell)) x.keyslot).setCtx c
      { x with harea := some (base, ntens, ncell), tensors := [], cells := [] })) s

/-! ## DESTROY (R60, R85, R99, R106, R117) -/

/-- A launch of a destroyed context: its groups stop, its queued operations are discarded but for handle posts, and it finishes, ended, with no
signal; one that has finished and not signalled ends without it (R106, R117). -/
def State.destroyLaunch (s : State) (l : Nat) : State :=
  let quiet (la : Launch) : Launch := { la with ended := true, donesig := 0, irq := false }
  if (s.launch l).state = .finished then s.modLaunch l quiet
  else if !(s.launch l).unfinished then s
  else
    let s := (s.stopGroups (s.groupsOf l)).dispose l false
    let s := s.flushHeld l 2
    s.modLaunch l fun la => { quiet la with state := .draining }

/-- Step 1 of R60, and the close of the context's queues (R85). -/
def State.destroyCtx (s : State) (c : Nat) : State :=
  let s := s.setCtx c { s.ctx c with state := .closing }
  let mine := (List.range s.launches.length).filter fun l => (s.launch l).ctx = c
  let s := mine.foldl (fun s l => s.destroyLaunch l) s
  let s := (s.ctxQueues c).foldl (fun s q => s.setQueue q {}) s
  let x := s.ctx c
  { s.setCtx c { x with bins := [], nodeReady := [] } with fmtReqs := s.fmtReqs.filter fun q => q.ctx ≠ c }

def execDestroy (fn : Nat) (p : Packet) (s : State) : Out :=
  onCtx fn p (· ≠ .free) (fun c s => .done (if (s.ctx c).state = .closing then s else s.destroyCtx c)) s

/-- The reports of handles whose weight has not all returned (R60 step 3); the device reads their entries, and one that software altered fails its
check (R330, log entry 167). -/
def State.killTensors (s : State) (c : Nat) : List (Nat × Tensor) → State
  | [] => s
  | (k, t) :: r =>
    (if t.state ≠ .live then s
     else if t.altered then s.record c { code := 0x13, kind := 4, d0 := k, d1 := 0xB } 0 none
     else s.record c { code := 0x14, kind := 4, d0 := k, d1 := fullWeight - t.returned } 0 none).killTensors c r

/-- A context that a binding names exists and belongs to the binding's function (R66). -/
def State.hasBound (s : State) (k : KeySlot) (ok : CtxState → Bool) : Bool :=
  (List.range 64).any fun c => k.ctxmask.getLsbD c && decide ((s.ctx c).state ≠ .free) && decide ((s.ctx c).fn = k.fn) && ok (s.ctx c).state

/-- The context is unbound from every slot; a slot with no bound context left begins zeroizing (R60 step 4). -/
def State.unbind (s : State) (c : Nat) : State :=
  let fn := (s.ctx c).fn
  (List.range 64).foldl (fun s i =>
    let k := s.key i
    if !k.boundTo fn c then s
    else
      let k : KeySlot := { k with ctxmask := k.ctxmask &&& ~~~ (BitVec.ofNat 64 (2 ^ c)) }
      s.setKey i (if s.hasBound k fun _ => true then k else { k with state := .zeroizing })) s

/-- The context that something the hub owes belongs to. -/
def Owed.ofCtx (o : Owed) (c : Nat) : Bool :=
  match o with
  | .record x _ _ _ _ _ => decide (x = c)
  | .free x _ _ => decide (x = c)
  | .post _ _ _ _ => false
  | .door _ _ _ => false

/-- Steps 2 of R60 are over: no launch, post or request of the context is left, and nothing the hub owes it. -/
def State.torn (s : State) (c : Nat) : Bool :=
  !(s.owed.any fun o => o.ofCtx c) &&
  !(s.launches.any fun l => decide (l.ctx = c) && decide (l.state ≠ .gone)) && !(s.hubPosts.any fun p => decide (p.1 = c)) &&
    !(s.clusters.any fun p => p.2.hnews.any fun h => decide (h.ctx = c))

/-- TEARDOWN_COMPLETE (R60): steps 3 to 5, and the number is Free. It waits while its reports meet a home in a relock (R349). -/
def execTeardownComplete (c : Nat) (s : State) : Out :=
  let t := s.killTensors c (s.ctx c).tensors
  if (s.ctx c).state ≠ .closing ∨ !s.torn c ∨ t.owed.any fun o => o.ofCtx c then .next s
  else
    let s := (t.unbind c).freeMonitors c
    let s := { s with clusters := s.clusters.map fun (p : Nat × Cluster) =>
                 (p.1, { p.2 with cellsDue := p.2.cellsDue.filter fun (d : Nat × Nat) => decide (d.1 ≠ c) }) }
    .next (s.setCtx c {})

/-! ## Keys (R62, R66, R67) -/

/-- The parts of a wrapped-key blob (R67). -/
def blobFld (b : List Byte) (hi lo : Nat) : Nat := bits (ofBytes b) hi lo

/-- IMPORTKEY: the Afhel root unwraps the key pair and checks the approved list against the policy. A list of no digest or of more than 16 has
status 0x3, ahead of the tag (log entry 109). -/
def execImportkey (fn : Nat) (p : Packet) (s : State) : Out :=
  let blob := pkt p 511 448
  let mask : BitVec 64 := .ofNat 64 (pkt p 447 384)
  let slot := pkt p 383 378
  let other := (List.range 64).any fun c => mask.getLsbD c && decide ((s.ctx c).state ≠ .free) && decide ((s.ctx c).fn ≠ fn)
  .next <| s.finishAdm fn <|
    if (s.key slot).state ≠ .empty then .refuse 1
    else if mask = 0 then .refuse 3
    else if other then .refuse 2
    else if blob % 16 ≠ 0 then .refuse 3
    else match s.cmdRd 0x3F blob 148 with
      | (s, none) => .refused s 3
      | (s, some bs) =>
        let n := ofBytes ((bs.drop 144).take 4)
        if n = 0 ∨ 16 < n then .refused s 3
        else match s.cmdRd 0x3F (blob + 148) (48 * n) with
          | (s, none) => .refused s 3
          | (s, some ds) =>
            let key := Config.unwrapKey (blobFld bs 31 0) (.ofNat 96 (blobFld bs 127 32)) (.ofNat 512 (blobFld bs 639 128))
              (.ofNat 128 (ofBytes ((bs.drop 128).take 16)))
            match key with
            | none => .refused s 5
            | some key =>
              if sha384 ((bs.drop 144).take 4 ++ ds) ≠ .ofNat 384 (blobFld bs 1023 640) then .refused s 5
              else .done (s.setKey slot { state := .loaded, fn := fn, ctxmask := mask, key := key,
                                          approved := (entries 48 n ds).map (BitVec.ofNat 384) })

/-- DROPKEY. -/
def execDropkey (fn : Nat) (p : Packet) (s : State) : Out :=
  let slot := pkt p 261 256
  let k := s.key slot
  .next <| s.finishAdm fn <|
    if k.state ≠ .empty ∧ k.fn ≠ fn then .refuse 2
    else if k.state ≠ .loaded then .refuse 1
    else if s.hasBound k fun st => st = .active || st = .quiescing || st = .suspended then .refuse 4
    else .done (s.setKey slot { k with state := .zeroizing })

/-- KEY_ZEROIZE_COMPLETE (R66): every engine operation under the key has been performed or discarded. -/
def execKeyZeroizeComplete (slot : Nat) (s : State) : Out :=
  let k := s.key slot
  let uses (l : Launch) : Bool := decide ((s.ctx l.ctx).fn = k.fn) && (k.ctxmask.getLsbD l.ctx || l.shadow.any fun p => leafKey p.leaf = slot)
  if k.state ≠ .zeroizing ∨ (s.allEntries.any fun e => !isMarker e.work && uses (s.launch e.iss.launch)) then .next s
  else .next (s.setKey slot {})

end Sys2Proof.Machine
end

