-- ==== Sys2Proof/Machine/Link.lean ====
section
/-! DEFINITION. What reaches the module from outside (R19, R68, R360 to R371): reset and start-up, function registers, SPDM and TDISP, the
two PCIe links, the twelve fabric links and the windows that peers reach. -/

namespace Sys2Proof.Machine

/-! ## Reset and start-up (R19) -/

/-- Host memory of a list of cells: it stands outside the module. -/
def hostCells (m : List Host.Cell) : List Host.Cell := m.filter fun c => decide (hostBase ≤ c.1) && decide (c.1 < scratchBase)

def execFundamentalReset (s : State) : Out :=
  .next { State.reset with turns := s.turns, turnNo := s.turnNo, fresh := s.fresh + 1, mem := hostCells s.mem }

/-- Reports made over the management bus. -/
def mgmtStart : Nat := 0x100
def mgmtPcie (n : Nat) : Nat := 0x200 + n
def mgmtLink (n : Nat) : Nat := 0x300 + n

def State.report1 (s : State) (x : Nat) : State := { s with mgmt := s.mgmt ++ [x] }

def execStartUpComplete (ok : Bool) (s : State) : Out :=
  .next <|
    if s.phase ≠ .starting then s
    else if ok then { s with phase := .up, measured := true }
    else { s with phase := .failed }.report1 mgmtStart

/-- Ticks from reset to the first answer to a configuration request. -/
def answersFrom : Nat := 100000000

/-- CONFIGURATION_REQUEST: answered over link 0 (R361) from 100 ms on, with Request Retry Status until start-up is over; after a failure only the
error-reporting capability answers. -/
def execConfigurationRequest (aer : Bool) (s : State) : Out :=
  .next <|
    if s.refTimer < answersFrom ∨ !s.pcieUp.contains 0 then s
    else
      let retry : Bool := match s.phase with
        | .starting => true
        | .up => false
        | .failed => !aer
      { s with cfgAnswers := s.cfgAnswers ++ [retry] }

/-! ## Function registers (R362) -/

/-- The contexts that a function owns. -/
def State.ownedBy (s : State) (fn : Nat) : List Nat :=
  (s.ctxs.map (·.1)).filter fun c => decide ((s.ctx c).state ≠ .free) && decide ((s.ctx c).fn = fn)

/-- A context is destroyed unless that has begun (R60). -/
def State.destroyOnce (s : State) (c : Nat) : State := if (s.ctx c).state = .closing then s else s.destroyCtx c

/-- A function's registers and configuration space can be reached: over link 0, which carries them, once start-up is over (R361). -/
def State.barUp (s : State) : Bool := decide (s.phase = .up) && s.pcieUp.contains 0

/-- FUNCTION_LEVEL_RESET, which configuration space asks for over link 0 (R361). -/
def execFunctionLevelReset (fn : Nat) (s : State) : Out :=
  if !s.barUp then .next s
  else
    let s := (s.ownedBy fn).foldl (fun s c => s.destroyOnce c) s
    let f := s.fn fn
    .next (s.setFn fn { keyed := f.keyed, tdi := f.tdi, sessions := f.sessions })

/-- An index write is accepted under the rule of R87, on an enabled ring. -/
def Fn.tailOk (f : Fn) (v : Nat) : Bool := f.ringOn && decide (f.admtail < v) && decide (v - f.admhead ≤ 2 ^ f.admlog)

/-- A write of ADMTAIL. -/
def State.writeTail (s : State) (fn v : Nat) : State := if (s.fn fn).tailOk v then s.setFn fn { s.fn fn with admtail := v } else s

def execAdmtail (fn v : Nat) (s : State) : Out := .next (if s.barUp then s.writeTail fn v else s)

/-- The ring of a function after a write to one of its three registers: enabling it counts the indices from 0. -/
def Fn.enabled (old new : Fn) : Fn := if !old.ringOn && new.ringOn then { new with admhead := 0, admtail := 0 } else new

/-- A write to a register of BAR0: the ring's registers hold while commands are offered; reserved and read-only offsets ignore it. -/
def Fn.write (f : Fn) (off v : Nat) : Fn :=
  let idle : Bool := f.admhead = f.admtail
  if off = 0x28 then { f with admvec := v % 2048 }
  else if !idle then f
  else if off = 0 then f.enabled { f with admring := .ofNat 64 v }
  else if off = 8 then f.enabled { f with admlog := v % 16 }
  else if off = 0x10 then f.enabled { f with admcpl := .ofNat 64 v }
  else f

/-- Offsets of the doorbells in BAR0 (R87, R362). -/
def isDoor (off : Nat) : Bool := decide (0x2000 ≤ off) && decide (off < 0x4000) && decide (off % 8 = 0)

/-- BAR0_REGISTER_WRITE: ADMTAIL and the doorbells act as their own steps do. -/
def execBar0RegisterWrite (fn off v : Nat) (s : State) : Out :=
  .next <|
    if !s.barUp then s
    else if off = 0x18 then s.writeTail fn v
    else if isDoor off then s.orOwe (.door fn ((off - 0x2000) / 8) v) fun s => s.ringDoor fn ((off - 0x2000) / 8) v
    else s.setFn fn ((s.fn fn).write off v)

/-- INFO at an offset: installed frames of die d and tier t at 0x100 + 16 d + 8 t (R309, R362, R385). -/
def infoAt (off : Nat) : Nat := if off / 8 % 2 = 0 then Config.nearFrames else Config.granaryFrames

/-- A read of a register of BAR0: INFO is the physical function's; reserved offsets, and the doorbells, which hold nothing, read zero (R362). -/
def Fn.read (f : Fn) (fn off : Nat) : Nat :=
  if off = 0 then f.admring.toNat
  else if off = 8 then f.admlog
  else if off = 0x10 then f.admcpl.toNat
  else if off = 0x18 then f.admtail
  else if off = 0x20 then f.admhead
  else if off = 0x28 then f.admvec
  else if 0x100 ≤ off ∧ off < 0x140 ∧ off % 8 = 0 ∧ fn = 0 then infoAt off
  else 0

/-- System software reads a register. The one function of link 1 has no BARs (R361). -/
def State.barRead (s : State) (link fn off : Nat) : State :=
  if link ≠ 0 ∨ Config.numFns ≤ fn ∨ 0x4000 ≤ off ∨ !s.barUp then s
  else { s with barAnswers := s.barAnswers ++ [(s.fn fn).read fn off] }

/-! ## SPDM and TDISP (R68, R364, R365) -/

/-- What the root answers: the index it reports, and the digest. -/
def State.spdm (s : State) (fn : Nat) (r : SpdmReq) : Nat × BitVec 384 :=
  match r with
  | .certificate => (0, Config.spdmAnswer fn 0)
  | .challenge => (0, Config.spdmAnswer fn 1)
  | .keyExchange => (0, Config.spdmAnswer fn 2)
  | .measurement i =>
    if 1 ≤ i ∧ i ≤ 3 then (i, Config.firmware i)
    else if 16 ≤ i ∧ i ≤ 79 then
      let x := s.ctx (i - 16)
      (i + (if x.prot then 256 else 0), Config.tableDigest (x.kernels.map fun k => (k.desc, k.len, k.digest)) x.prot)
    else (i, Config.spdmAnswer fn (16 + i))

/-- SPDM_REQUEST: carried over DOE of the function, which link 0 reaches (R360, R361). -/
def execSpdmRequest (fn : Nat) (r : SpdmReq) (s : State) : Out :=
  .next <|
    if !s.barUp then s
    else
      let s := { s with spdmAnswers := s.spdmAnswers ++ [s.spdm fn r] }
      if r = .keyExchange then s.setFn fn { s.fn fn with sessions := (s.fn fn).sessions + 1 } else s

/-- The contexts of a function that lost its stream: protected ones are destroyed, the others suspended (R365). -/
def State.loseStream (s : State) (fn : Nat) : State :=
  (s.ownedBy fn).foldl (fun s c =>
    let x := s.ctx c
    if x.prot then s.destroyOnce c
    else if x.state = .active ∨ x.state = .quiescing then (s.suspend c).getD (s.preemptNote (s.ctxLive c))
    else s) s

/-- TDI_STATE_CHANGE: a command in progress completes first. -/
def execTdiStateChange (fn : Nat) (tdi : TdiState) (keyed : Bool) (s : State) : Out :=
  let f := s.fn fn
  let leaves : Bool := f.tdi = .run && (tdi = .error || tdi = .configUnlocked)
  .next <|
    if f.pending.isSome then s
    else hubStep (fun s =>
      let s := s.setFn fn { f with tdi := tdi, keyed := keyed }
      if leaves || (f.keyed && !keyed) then s.loseStream fn else s) s

/-! ## PCIe links (R360, R361) -/

def execPcieLinkDown (n : Nat) (s : State) : Out :=
  .next { s with pcieUp := s.pcieUp.filter fun k => k ≠ n, pcieStatus := s.pcieStatus.filter fun p => p.1 ≠ n }

/-- The rate and width that a link reaches: any that the standard allows, which the spec leaves to the link's partner and its channel. -/
def trained (n : Nat) : Nat × Nat := (1 + Config.freeValue n % 7, 2 ^ (Config.freeValue (n + 1) % 5))

/-- PCIE_LINK_UP: a link that trains without flit mode stays in Detect; the others report the rate and width they reach. -/
def execPcieLinkUp (n : Nat) (flit : Bool) (s : State) : Out :=
  .next <|
    if !flit then s.report1 (mgmtPcie n)
    else if 2 ≤ n ∨ s.pcieUp.contains n then s
    else { s with pcieUp := s.pcieUp ++ [n], pcieStatus := s.pcieStatus ++ [(n, trained s.fresh)], fresh := s.fresh + 2 }

/-- The rate and the width that a link reports: 0 and 0 while it has not trained (log entry 176). -/
def State.linkStatus (s : State) (n : Nat) : Nat × Nat := tget (0, 0) s.pcieStatus n

/-- What a register of configuration space holds. The one function of link 1 has the serial number of link 0's physical function (R361); the link
status register holds the rate in bits 3:0 and the width in bits 9:4 (log entry 176). -/
def State.cfgValue (s : State) (n : Nat) : CfgReg → Nat
  | .serial => Config.serialNumber.toNat
  | .linkStatus => (s.linkStatus n).1 + 16 * (s.linkStatus n).2

/-- System software reads a register of configuration space, over the link whose function holds it (R19, R360, R361). -/
def State.cfgRead (s : State) (n : Nat) (r : CfgReg) : State :=
  if 2 ≤ n ∨ !s.pcieUp.contains n ∨ s.phase ≠ .up then s else { s with cfgReads := s.cfgReads ++ [s.cfgValue n r] }

/-! ## Fabric links (R368 to R370) -/

/-- Where a copy entry stands: core, queue, entry and request. -/
def State.findCopy (s : State) (id : Nat) : Option (Nat × Nat × Entry × Copy) :=
  s.cores.findSome? fun p => (List.range 4).findSome? fun q => (p.2.copyQ.getD q []).findSome? fun e =>
    match e.work with
    | .copy c => if e.id = id then some (p.1, q, e, c) else none
    | _ => none

/-- Elements of one request have been acknowledged: they are performed and counted, and a stamp among them is written (R368, R370). -/
def State.ackElems (s : State) (id : Nat) (elems : List Nat) : State :=
  match s.findCopy id with
  | none => s
  | some (core, q, e, c) =>
    let n := (elems.filter fun i => decide (i < c.total)).length
    let c := if elems.any fun i => decide (c.total ≤ i) then { c with stamped := true } else c
    s.landed core q e { c with landed := c.landed + n }

/-- A peer has answered with elements of a source: their codes are free, since a flit's payload is not among the step's fields (log entry
153). -/
def State.gotElems (s : State) (id : Nat) : List Nat → State
  | [] => s
  | n :: r =>
    (match s.findCopy id with
      | none => s
      | some (core, q, e, c) =>
        s.tick.putEntry core q { e with work := .copy { c with got := (n, Config.freeValue s.fresh % 2 ^ c.src.w) :: c.got } }).gotElems id r

/-- What failed at an element, in the source where it was asked of a peer; a stamp names its own address (R268, R370). -/
def State.failElem (s : State) (id n code : Nat) (read : Bool) : State :=
  match s.findCopy id with
  | none => s
  | some (core, q, e, c) =>
    s.failCopy core q e c n {
      code := code
      d0 := if read then c.src.detail (c.srcBit n) else if c.total ≤ n then c.stampEnd.detail 0 else c.dst.detail (c.dstBit n) }

/-- The elements of a flit are acknowledged. -/
def State.ackTx (s : State) (t : Tx) (elems : List Nat) : State := if t.read then s.gotElems t.entry elems else s.ackElems t.entry elems

/-- The flits up to and with the acknowledged one, and those after it; none acknowledged where no flit has that number. -/
def splitAck (seq : Nat) (l : List Tx) : List Tx × List Tx :=
  match l.findIdx? fun t => t.seq = seq with
  | some i => (l.take (i + 1), l.drop (i + 1))
  | none => ([], l)

/-- Flits answered: their elements land, but for one that the peer refused, with which its request fails (R367). -/
def State.ackFlits (s : State) (refused : Option (Nat × Nat)) : List Tx → State
  | [] => s
  | t :: r =>
    let s := match refused with
      | some (sq, i) =>
        if t.seq = sq ∧ i < t.elems.length then (s.ackTx t (t.elems.take i)).failElem t.entry (t.elems.getD i 0) 0x0E t.read
        else s.ackTx t t.elems
      | none => s.ackTx t t.elems
    s.ackFlits refused r

/-- The lowest element of each request in these flits, and whether it was asked of the peer. -/
def lowestElems (l : List Tx) : List (Nat × Nat × Bool) :=
  l.foldl (fun acc (t : Tx) =>
    let m := t.elems.foldl min (t.elems.headD 0)
    match acc.find? fun p => p.1 = t.entry with
    | some _ => acc.map fun p => if p.1 = t.entry ∧ m < p.2.1 then (p.1, m, t.read) else p
    | none => acc ++ [(t.entry, m, t.read)]) []

/-- A link goes Fenced or Down (R370): each request with an element not acknowledged on it fails at the lowest such element. -/
def State.linkLost (s : State) (n : Nat) : State :=
  let l := s.link n
  let s := s.setLink n { l with replay := [], failures := 0 }
  (lowestElems l.replay).foldl (fun s p => s.failElem p.1 p.2.1 0x1E p.2.2) s

/-- The link carries flits. -/
def Link.carries (l : Link) : Bool := l.state = .up || l.state = .degraded

/-- PEERWIN (R367). -/
def execPeerwin (fn : Nat) (p : Packet) (s : State) : Out :=
  let base := pkt p 511 448
  let pages := pkt p 447 416
  onPf fn (fun s =>
    if base % 65536 ≠ 0 ∨ 2 ^ 24 < pages then .refuse 3
    else .done { s with windows := tset s.windows (pkt p 415 408) { base := base, pages := pages, ctx := pkt p 407 402, write := pkt p 401 401 = 1 } }) s

/-- LINKCFG (R369). -/
def execLinkcfg (fn : Nat) (p : Packet) (s : State) : Out :=
  let n := pkt p 259 256
  let ms := if pkt p 303 288 = 0 then 10 else pkt p 303 288
  let l := s.link n
  onPf fn (fun s =>
    if 12 ≤ n ∨ 1000 < ms then .refuse 3
    else if pkt p 260 260 = 1 then
      if l.state = .down ∨ l.state = .fenced then
        .done (s.setLink n { l with state := .training, since := s.refTimer, domain := pkt p 271 264, pkg := pkt p 279 272, timeout := ms,
                                    lanes := 0, peer := none })
      else .refuse 1
    else if l.state = .down ∨ l.state = .training then .refuse 1
    else
      let s := s.linkLost n
      .done (s.setLink n { s.link n with state := .down, lanes := 0 })) s

/-- Receive credits that a link starts with (log entry 149). -/
def firstCredits : Nat := 2048

/-- LINK_TRAINED (R369): from Training with both ends in one domain, or from Recovering, where every flit not acknowledged is sent again. -/
def execLinkTrained (n lanes domain pkg : Nat) (s : State) : Out :=
  let l := s.link n
  let goal : LinkState := if lanes = 8 then .up else .degraded
  .next <|
    if lanes < 4 ∨ 8 < lanes then s
    else match l.state with
      | .training =>
        if domain = l.domain then
          s.setLink n { l with state := goal, lanes := lanes, peer := some pkg, failures := 0, txSeq := 0, rxSeq := 0, credit := firstCredits, owed := 0 }
        else s
      | .recovering => s.setLink n { l with state := goal, lanes := lanes, failures := 0, resent := l.resent + l.replay.length }
      | _ => s

/-- Ticks of a training attempt. -/
def trainTicks : Nat := 100000000

/-- LINK_TRAINING_RETRY (R369). -/
def execLinkTrainingRetry (n : Nat) (s : State) : Out :=
  let l := s.link n
  .next <|
    if l.state ≠ .training ∨ s.refTimer < l.since + trainTicks then s
    else (s.setLink n { l with since := s.refTimer, reports := l.reports + 1 }).report1 (mgmtLink n)

/-- The link stops sending and retrains (R369). -/
def State.retrain (s : State) (n : Nat) : State := s.setLink n { s.link n with state := .recovering, since := s.refTimer }

def execLaneLoss (n : Nat) (s : State) : Out := .next (if (s.link n).carries then s.retrain n else s)

/-- A replay request (R368, R369): every flit from the one it names onward is sent again, in order; a request after the third replay of one
flit retrains the link. -/
def State.replayAsked (s : State) (n seq : Nat) : State :=
  let l := s.link n
  match l.replay.findIdx? fun t => t.seq = seq with
  | none => s
  | some i =>
    let again := if l.failSeq = seq then l.failures else 0
    if 3 ≤ again then s.retrain n
    else s.setLink n { l with failSeq := seq, failures := again + 1, resent := l.resent + (l.replay.length - i) }

/-- A flit that passed its check, and stands in sequence if it carries data, is taken: data owes a receive credit, and the flit returns those it
carries. A data flit sent again returns what it returned before, and counts once (R368). -/
def Link.take (l : Link) (f : Flit) : Link :=
  if f.type = 1 then { l with rxSeq := (l.rxSeq + 1) % 4096, owed := l.owed + 1, credit := l.credit + f.credit }
  else { l with credit := l.credit + f.credit }

/-- FLIT_RECEIVE (R368): a Recovering link resumes its replay buffers, and an acknowledgement that meets the fence counts (R369, R370). A data flit
out of sequence is not accepted, whatever it acknowledges. -/
def execFlitReceive (n : Nat) (flit : Flit) (s : State) : Out :=
  let l := s.link n
  .next <|
    if !(l.carries || l.state = .recovering) then s
    else if !flit.crcOk then s.setLink n { l with replaysSent := l.replaysSent + 1 }
    else if flit.type = 1 ∧ flit.seq ≠ l.rxSeq then s
    else
      let (done, left) := splitAck flit.ack l.replay
      let s := s.setLink n ({ l with replay := left, failures := if done.any fun t => t.seq = l.failSeq then 0 else l.failures }.take flit)
      let s := s.ackFlits flit.refused done
      if flit.type = 2 ∧ (s.link n).carries then s.replayAsked n flit.seq else s

/-- LINK_TIMEOUT (R369, R370). -/
def execLinkTimeout (n : Nat) (s : State) : Out :=
  let l := s.link n
  .next <|
    if l.state ≠ .recovering ∨ s.refTimer < l.since + l.timeout * 1000000 then s
    else (s.setLink n { l with state := .fenced, lanes := 0 }).linkLost n

/-! ## Peer accesses (R367) -/

/-- Why a peer access is not performed: refused, with the notification that a failed memory check posts. -/
abbrev PeerFail := Option (MemFail × Nat)

/-- Where a run of bytes in one page lies: translated through the context's tree, under a key slot and with a right that let the access be made. -/
def State.peerPlace (s : State) (c : Nat) (a : PeerAccess) (va : Nat) : Except (State × PeerFail) (State × Nat × BitVec 64) :=
  let x := s.ctx c
  match s.walk x va with
  | .error (s, f) => .error (s, some f)
  | .ok (s, none) => .error (s, none)
  | .ok (s, some leaf) =>
    if !(s.key (leafKey leaf)).boundTo x.fn c ∨ (a.write ∧ (!leafWrite leaf ∨ x.measuredPage va)) then .error (s, none)
    else .ok (s, leafFrame leaf * 65536 + va % 65536, leaf)

/-- One run of bytes in one page, checked under the leaf's key slot and the flit's tag. -/
def State.peerRun (s : State) (c : Nat) (a : PeerAccess) (va : Nat) (bs : List Byte) (n : Nat) : Except (State × PeerFail) (State × List Byte) :=
  match s.peerPlace c a va with
  | .error e => .error e
  | .ok (s, pa, leaf) =>
    if a.write then match s.mainWr pa bs (leafKey leaf) a.tag with
      | .error f => .error (s, some f)
      | .ok s => .ok ((s.touches (5 + a.link / 4) (sectorsOf pa n)).monwReads (s.watchers pa n), [])
    else match s.mainRd pa n (leafKey leaf) a.tag with
      | .error f => .error (s, some f)
      | .ok (s, rs) => .ok (s.touches (5 + a.link / 4) (sectorsOf pa n), rs)

def State.peerRuns (s : State) (c : Nat) (a : PeerAccess) : List (Nat × Nat) → List Byte → Except (State × PeerFail) (State × List Byte)
  | [], _ => .ok (s, [])
  | (va, n) :: r, bs => match s.peerRun c a va (bs.take n) n with
    | .error e => .error e
    | .ok (s, xs) => match s.peerRuns c a r (bs.drop n) with
      | .error e => .error e
      | .ok (s, ys) => .ok (s, xs ++ ys)

/-- The checks of a write's runs, made before any of it is performed (R317): a write that one of them fails changes no byte. -/
def State.peerTests (s : State) (c : Nat) (a : PeerAccess) : List (Nat × Nat) → Except (State × PeerFail) State
  | [] => .ok s
  | (va, n) :: r => match s.peerPlace c a va with
    | .error e => .error e
    | .ok (s, pa, leaf) => match s.mainRd pa n (leafKey leaf) a.tag with
      | .error f => .error (s, some f)
      | .ok (s, _) => s.peerTests c a r

/-- A peer access by runs: what it reads, or why it is refused, with the corrections and the counts of what was read before that (R318, R324). -/
def State.peerSpan (s : State) (c : Nat) (a : PeerAccess) (runs : List (Nat × Nat)) : Except (State × PeerFail) (State × List Byte) :=
  match (if a.write then s.peerTests c a runs else .ok s) with
  | .error e => .error e
  | .ok _ => s.peerRuns c a runs a.data

/-- A window takes the access: enabled, wide enough, of a context in use, and writable for a write. -/
def State.windowOk (s : State) (w : Window) (a : PeerAccess) (n : Nat) : Bool :=
  decide (w.pages ≠ 0) && decide (a.offset + n ≤ w.pages * 65536) && decide (w.base + a.offset + n ≤ 2 ^ 64) && (!a.write || w.write) &&
    (s.ctx w.ctx).state.inUse

def State.answerPeer (s : State) (ok : Bool) (bs : List Byte) : State := { s with peerAnswers := s.peerAnswers ++ [(ok, bs)] }

def execPeerAccess (a : PeerAccess) (s : State) : Out :=
  let w := tget {} s.windows a.win
  let n := if a.write then a.data.length else a.len
  .next <|
    if 12 ≤ a.link ∨ !(s.link a.link).carries ∨ !(List.range 4).all s.runs then s
    else if !s.windowOk w a n then s.answerPeer false []
    else match s.peerSpan w.ctx a (pageChunks (n / 65536 + 2) (w.base + a.offset) n) with
      | .ok (t, bs) => t.answerPeer true bs
      | .error (t, none) => t.answerPeer false []
      | .error (t, some f) => (t.noteFail (f.2 / 64) f.1 w.ctx).answerPeer false []

end Sys2Proof.Machine
end

