-- ==== Sys2Proof/Machine/Dispatch.lean ====
section
/-! DEFINITION. One arm per step of the table, each the direct call of that step's meaning. -/

namespace Sys2Proof.Machine

def exec (i : Instr) (s : State) : Host.Outcome State Fault Refusal :=
  match i with
  | .add sw d a b => Sys2Proof.Machine.execAdd sw d a b s
  | .sub sw d a b => Sys2Proof.Machine.execSub sw d a b s
  | .mul sw d a b => Sys2Proof.Machine.execMul sw d a b s
  | .mulh sw d a b => Sys2Proof.Machine.execMulh sw d a b s
  | .mulhu sw d a b => Sys2Proof.Machine.execMulhu sw d a b s
  | .mad sw d a b => Sys2Proof.Machine.execMad sw d a b s
  | .and sw d a b => Sys2Proof.Machine.execAnd sw d a b s
  | .or sw d a b => Sys2Proof.Machine.execOr sw d a b s
  | .xor sw d a b => Sys2Proof.Machine.execXor sw d a b s
  | .andn sw d a b => Sys2Proof.Machine.execAndn sw d a b s
  | .shl sw d a b => Sys2Proof.Machine.execShl sw d a b s
  | .shr sw d a b => Sys2Proof.Machine.execShr sw d a b s
  | .sra sw d a b => Sys2Proof.Machine.execSra sw d a b s
  | .rot sw d a b => Sys2Proof.Machine.execRot sw d a b s
  | .min sw d a b => Sys2Proof.Machine.execMin sw d a b s
  | .max sw d a b => Sys2Proof.Machine.execMax sw d a b s
  | .minu sw d a b => Sys2Proof.Machine.execMinu sw d a b s
  | .maxu sw d a b => Sys2Proof.Machine.execMaxu sw d a b s
  | .seq sw d a b => Sys2Proof.Machine.execSeq sw d a b s
  | .sne sw d a b => Sys2Proof.Machine.execSne sw d a b s
  | .slt sw d a b => Sys2Proof.Machine.execSlt sw d a b s
  | .sltu sw d a b => Sys2Proof.Machine.execSltu sw d a b s
  | .sel sw d a b => Sys2Proof.Machine.execSel sw d a b s
  | .clz sw d a => Sys2Proof.Machine.execClz sw d a s
  | .popc sw d a => Sys2Proof.Machine.execPopc sw d a s
  | .brev sw d a => Sys2Proof.Machine.execBrev sw d a s
  | .divu sw d a b => Sys2Proof.Machine.execDivu sw d a b s
  | .remu sw d a b => Sys2Proof.Machine.execRemu sw d a b s
  | .shli sw d a n => Sys2Proof.Machine.execShli sw d a n s
  | .shri sw d a n => Sys2Proof.Machine.execShri sw d a n s
  | .srai sw d a n => Sys2Proof.Machine.execSrai sw d a n s
  | .roti sw d a n => Sys2Proof.Machine.execRoti sw d a n s
  | .bfe sw d a b => Sys2Proof.Machine.execBfe sw d a b s
  | .bfi sw d a b => Sys2Proof.Machine.execBfi sw d a b s
  | .add64 sw d a b => Sys2Proof.Machine.execAdd64 sw d a b s
  | .sub64 sw d a b => Sys2Proof.Machine.execSub64 sw d a b s
  | .shl64 sw d a b => Sys2Proof.Machine.execShl64 sw d a b s
  | .shr64 sw d a b => Sys2Proof.Machine.execShr64 sw d a b s
  | .mul64 sw d a b => Sys2Proof.Machine.execMul64 sw d a b s
  | .ptr sw d a b => Sys2Proof.Machine.execPtr sw d a b s
  | .ptrsp sw d a => Sys2Proof.Machine.execPtrsp sw d a s
  | .ptrrk sw d a => Sys2Proof.Machine.execPtrrk sw d a s
  | .ptrof sw d a => Sys2Proof.Machine.execPtrof sw d a s
  | .addH2 sw d a b => Sys2Proof.Machine.execAddH2 sw d a b s
  | .subH2 sw d a b => Sys2Proof.Machine.execSubH2 sw d a b s
  | .maxH2 sw d a b => Sys2Proof.Machine.execMaxH2 sw d a b s
  | .minH2 sw d a b => Sys2Proof.Machine.execMinH2 sw d a b s
  | .maxuH2 sw d a b => Sys2Proof.Machine.execMaxuH2 sw d a b s
  | .minuH2 sw d a b => Sys2Proof.Machine.execMinuH2 sw d a b s
  | .packH2 sw d a b => Sys2Proof.Machine.execPackH2 sw d a b s
  | .acsH2 sw d a b => Sys2Proof.Machine.execAcsH2 sw d a b s
  | .addi sw d a im => Sys2Proof.Machine.execAddi sw d a im s
  | .andi sw d a im => Sys2Proof.Machine.execAndi sw d a im s
  | .ori sw d a im => Sys2Proof.Machine.execOri sw d a im s
  | .xori sw d a im => Sys2Proof.Machine.execXori sw d a im s
  | .slti sw d a im => Sys2Proof.Machine.execSlti sw d a im s
  | .sltiu sw d a im => Sys2Proof.Machine.execSltiu sw d a im s
  | .movhi sw d im => Sys2Proof.Machine.execMovhi sw d im s
  | .bcc sw c a im => Sys2Proof.Machine.execBcc sw c a im s
  | .jmp sw im => Sys2Proof.Machine.execJmp sw im s
  | .call sw im => Sys2Proof.Machine.execCall sw im s
  | .jmpr sw a => Sys2Proof.Machine.execJmpr sw a s
  | .callr sw a => Sys2Proof.Machine.execCallr sw a s
  | .ret sw => Sys2Proof.Machine.execRet sw s
  | .exit sw => Sys2Proof.Machine.execExit sw s
  | .yield sw => Sys2Proof.Machine.execYield sw s
  | .nop sw => Sys2Proof.Machine.execNop sw s
  | .winb sw x a b => Sys2Proof.Machine.execWinb sw x a b s
  | .elect sw d a => Sys2Proof.Machine.execElect sw d a s
  | .fsync sw a => Sys2Proof.Machine.execFsync sw a s
  | .fshfl sw d a b => Sys2Proof.Machine.execFshfl sw d a b s
  | .fballot sw d a => Sys2Proof.Machine.execFballot sw d a s
  | .poll sw d a => Sys2Proof.Machine.execPoll sw d a s
  | .ld sw d a z o => Sys2Proof.Machine.execLd sw d a z o s
  | .st sw d a z o => Sys2Proof.Machine.execSt sw d a z o s
  | .ldf sw d a b => Sys2Proof.Machine.execLdf sw d a b s
  | .stf sw d a b => Sys2Proof.Machine.execStf sw d a b s
  | .lds sw d a o => Sys2Proof.Machine.execLds sw d a o s
  | .sts sw d a o => Sys2Proof.Machine.execSts sw d a o s
  | .fadd sw d a b => Sys2Proof.Machine.execFadd sw d a b s
  | .fsub sw d a b => Sys2Proof.Machine.execFsub sw d a b s
  | .fmul sw d a b => Sys2Proof.Machine.execFmul sw d a b s
  | .ffma sw d a b => Sys2Proof.Machine.execFfma sw d a b s
  | .fmin sw d a b => Sys2Proof.Machine.execFmin sw d a b s
  | .fmax sw d a b => Sys2Proof.Machine.execFmax sw d a b s
  | .fabs sw d a => Sys2Proof.Machine.execFabs sw d a s
  | .fneg sw d a => Sys2Proof.Machine.execFneg sw d a s
  | .fcmp sw d a b => Sys2Proof.Machine.execFcmp sw d a b s
  | .fsel sw d a b => Sys2Proof.Machine.execFsel sw d a b s
  | .frcp sw d a => Sys2Proof.Machine.execFrcp sw d a s
  | .frsq sw d a => Sys2Proof.Machine.execFrsq sw d a s
  | .fsqrt sw d a => Sys2Proof.Machine.execFsqrt sw d a s
  | .fexp2 sw d a => Sys2Proof.Machine.execFexp2 sw d a s
  | .flog2 sw d a => Sys2Proof.Machine.execFlog2 sw d a s
  | .fsin sw d a => Sys2Proof.Machine.execFsin sw d a s
  | .fcos sw d a => Sys2Proof.Machine.execFcos sw d a s
  | .fdiv sw d a b => Sys2Proof.Machine.execFdiv sw d a b s
  | .hadd2B sw d a b => Sys2Proof.Machine.execHadd2B sw d a b s
  | .hmul2B sw d a b => Sys2Proof.Machine.execHmul2B sw d a b s
  | .hfma2B sw d a b => Sys2Proof.Machine.execHfma2B sw d a b s
  | .hadd2F sw d a b => Sys2Proof.Machine.execHadd2F sw d a b s
  | .hmul2F sw d a b => Sys2Proof.Machine.execHmul2F sw d a b s
  | .hfma2F sw d a b => Sys2Proof.Machine.execHfma2F sw d a b s
  | .cvti sw d a v r => Sys2Proof.Machine.execCvti sw d a v r s
  | .cvtu sw d a v r => Sys2Proof.Machine.execCvtu sw d a v r s
  | .cvta sw d a v => Sys2Proof.Machine.execCvta sw d a v s
  | .cvtf sw d a e p => Sys2Proof.Machine.execCvtf sw d a e p s
  | .cvtn sw d a e r p => Sys2Proof.Machine.execCvtn sw d a e r p s
  | .fmtset sw a b => Sys2Proof.Machine.execFmtset sw a b s
  | .fmtget sw d a => Sys2Proof.Machine.execFmtget sw d a s
  | .fmtgetSt sw d c => Sys2Proof.Machine.execFmtgetSt sw d c s
  | .fmtchk sw d a x e => Sys2Proof.Machine.execFmtchk sw d a x e s
  | .aadd sw d a n r c => Sys2Proof.Machine.execAadd sw d a n r c s
  | .aand sw d a n r c => Sys2Proof.Machine.execAand sw d a n r c s
  | .aor sw d a n r c => Sys2Proof.Machine.execAor sw d a n r c s
  | .axor sw d a n r c => Sys2Proof.Machine.execAxor sw d a n r c s
  | .amin sw d a n r c => Sys2Proof.Machine.execAmin sw d a n r c s
  | .amax sw d a n r c => Sys2Proof.Machine.execAmax sw d a n r c s
  | .aminu sw d a n r c => Sys2Proof.Machine.execAminu sw d a n r c s
  | .amaxu sw d a n r c => Sys2Proof.Machine.execAmaxu sw d a n r c s
  | .axchg sw d a n r c => Sys2Proof.Machine.execAxchg sw d a n r c s
  | .acas sw d a n r c => Sys2Proof.Machine.execAcas sw d a n r c s
  | .acas64 sw d a n r c => Sys2Proof.Machine.execAcas64 sw d a n r c s
  | .acas128 sw d a n r c => Sys2Proof.Machine.execAcas128 sw d a n r c s
  | .afadd sw d a n r c => Sys2Proof.Machine.execAfadd sw d a n r c s
  | .afaddB2 sw d a n r c => Sys2Proof.Machine.execAfaddB2 sw d a n r c s
  | .ald sw d a z r c => Sys2Proof.Machine.execAld sw d a z r c s
  | .ast sw d a z r c => Sys2Proof.Machine.execAst sw d a z r c s
  | .phase sw c k => Sys2Proof.Machine.execPhase sw c k s
  | .fence sw c k => Sys2Proof.Machine.execFence sw c k s
  | .qfence sw m => Sys2Proof.Machine.execQfence sw m s
  | .monw sw d a c k w => Sys2Proof.Machine.execMonw sw d a c k w s
  | .barinit sw a b => Sys2Proof.Machine.execBarinit sw a b s
  | .barinitM sw d a => Sys2Proof.Machine.execBarinitM sw d a s
  | .bararr sw b => Sys2Proof.Machine.execBararr sw b s
  | .bararrM sw a => Sys2Proof.Machine.execBararrM sw a s
  | .barwait sw b => Sys2Proof.Machine.execBarwait sw b s
  | .barwaitM sw d a => Sys2Proof.Machine.execBarwaitM sw d a s
  | .barsync sw b => Sys2Proof.Machine.execBarsync sw b s
  | .barsyncM sw a => Sys2Proof.Machine.execBarsyncM sw a s
  | .barexpM sw d a => Sys2Proof.Machine.execBarexpM sw d a s
  | .gbar sw => Sys2Proof.Machine.execGbar sw s
  | .chinit sw a h => Sys2Proof.Machine.execChinit sw a h s
  | .chpush sw a h => Sys2Proof.Machine.execChpush sw a h s
  | .chpop sw d a h => Sys2Proof.Machine.execChpop sw d a h s
  | .chres sw d h => Sys2Proof.Machine.execChres sw d h s
  | .chpub sw a h => Sys2Proof.Machine.execChpub sw a h s
  | .chpoll sw d a h => Sys2Proof.Machine.execChpoll sw d a h s
  | .ckick sw q a n => Sys2Proof.Machine.execCkick sw q a n s
  | .ctagwAny sw a h => Sys2Proof.Machine.execCtagwAny sw a h s
  | .ctagwAll sw a h => Sys2Proof.Machine.execCtagwAll sw a h s
  | .ctagff sw d a h => Sys2Proof.Machine.execCtagff sw d a h s
  | .ctagclr sw a h => Sys2Proof.Machine.execCtagclr sw a h s
  | .cstat sw d q => Sys2Proof.Machine.execCstat sw d q s
  | .mzero sw c => Sys2Proof.Machine.execMzero sw c s
  | .mmaP sw h c x y => Sys2Proof.Machine.execMmaP sw h c x y s
  | .mmaC sw h c x y => Sys2Proof.Machine.execMmaC sw h c x y s
  | .mrd sw d a c => Sys2Proof.Machine.execMrd sw d a c s
  | .mwr sw d a c => Sys2Proof.Machine.execMwr sw d a c s
  | .mstore sw r c a e => Sys2Proof.Machine.execMstore sw r c a e s
  | .mstoreS sw x a => Sys2Proof.Machine.execMstoreS sw x a s
  | .mqnt sw r c a q x => Sys2Proof.Machine.execMqnt sw r c a q x s
  | .had sw p r n x => Sys2Proof.Machine.execHad sw p r n x s
  | .mchk sw d c => Sys2Proof.Machine.execMchk sw d c s
  | .mwait sw => Sys2Proof.Machine.execMwait sw s
  | .sclaim sw d k n => Sys2Proof.Machine.execSclaim sw d k n s
  | .srel sw k a n => Sys2Proof.Machine.execSrel sw k a n s
  | .mld sw m x a c g => Sys2Proof.Machine.execMld sw m x a c g s
  | .sinfo sw d a k => Sys2Proof.Machine.execSinfo sw d a k s
  | .hnew sw d a => Sys2Proof.Machine.execHnew sw d a s
  | .hsplit sw d a m => Sys2Proof.Machine.execHsplit sw d a m s
  | .hdrop sw a => Sys2Proof.Machine.execHdrop sw a s
  | .hrec sw d a t => Sys2Proof.Machine.execHrec sw d a t s
  | .hinfo sw d a => Sys2Proof.Machine.execHinfo sw d a s
  | .hbind sw d a b => Sys2Proof.Machine.execHbind sw d a b s
  | .pcls sw c => Sys2Proof.Machine.execPcls sw c s
  | .burn sw l => Sys2Proof.Machine.execBurn sw l s
  | .balidle sw => Sys2Proof.Machine.execBalidle sw s
  | .ykrd sw d => Sys2Proof.Machine.execYkrd sw d s
  | .permits sw d => Sys2Proof.Machine.execPermits sw d s
  | .sysrd sw d b => Sys2Proof.Machine.execSysrd sw d b s
  | .syswr sw a b => Sys2Proof.Machine.execSyswr sw a b s
  | .trap sw a b => Sys2Proof.Machine.execTrap sw a b s
  | .errrd sw d b => Sys2Proof.Machine.execErrrd sw d b s
  | .clkrd sw d => Sys2Proof.Machine.execClkrd sw d s
  | .clkrdNom sw d => Sys2Proof.Machine.execClkrdNom sw d s
  | .refrd sw d => Sys2Proof.Machine.execRefrd sw d s
  | .moncfg sw d a u => Sys2Proof.Machine.execMoncfg sw d a u s
  | .monrd sw d a u => Sys2Proof.Machine.execMonrd sw d a u s
  | .brk sw b => Sys2Proof.Machine.execBrk sw b s
  | .nrec sw d a n => Sys2Proof.Machine.execNrec sw d a n s
  | .binflush sw a => Sys2Proof.Machine.execBinflush sw a s
  | .enq sw d a => Sys2Proof.Machine.execEnq sw d a s
  | .create fn pkt => Sys2Proof.Machine.execCreate fn pkt s
  | .loadkernel fn pkt => Sys2Proof.Machine.execLoadkernel fn pkt s
  | .activate fn pkt => Sys2Proof.Machine.execActivate fn pkt s
  | .quiesce fn pkt => Sys2Proof.Machine.execQuiesce fn pkt s
  | .suspend fn pkt => Sys2Proof.Machine.execSuspend fn pkt s
  | .snappool fn pkt => Sys2Proof.Machine.execSnappool fn pkt s
  | .destroy fn pkt => Sys2Proof.Machine.execDestroy fn pkt s
  | .clearerr fn pkt => Sys2Proof.Machine.execClearerr fn pkt s
  | .importkey fn pkt => Sys2Proof.Machine.execImportkey fn pkt s
  | .setheadland fn pkt => Sys2Proof.Machine.execSetheadland fn pkt s
  | .dropkey fn pkt => Sys2Proof.Machine.execDropkey fn pkt s
  | .qopen fn pkt => Sys2Proof.Machine.execQopen fn pkt s
  | .qclose fn pkt => Sys2Proof.Machine.execQclose fn pkt s
  | .qstop fn pkt => Sys2Proof.Machine.execQstop fn pkt s
  | .qstart fn pkt => Sys2Proof.Machine.execQstart fn pkt s
  | .preempt fn pkt => Sys2Proof.Machine.execPreempt fn pkt s
  | .pagehold fn pkt => Sys2Proof.Machine.execPagehold fn pkt s
  | .tagset fn pkt => Sys2Proof.Machine.execTagset fn pkt s
  | .notifyring fn pkt => Sys2Proof.Machine.execNotifyring fn pkt s
  | .hotcfg fn pkt => Sys2Proof.Machine.execHotcfg fn pkt s
  | .handlearea fn pkt => Sys2Proof.Machine.execHandlearea fn pkt s
  | .pwrcfg fn pkt => Sys2Proof.Machine.execPwrcfg fn pkt s
  | .peerwin fn pkt => Sys2Proof.Machine.execPeerwin fn pkt s
  | .linkcfg fn pkt => Sys2Proof.Machine.execLinkcfg fn pkt s
  | .startUpComplete ok => Sys2Proof.Machine.execStartUpComplete ok s
  | .configurationRequest aer => Sys2Proof.Machine.execConfigurationRequest aer s
  | .functionLevelReset fn => Sys2Proof.Machine.execFunctionLevelReset fn s
  | .admtail fn v => Sys2Proof.Machine.execAdmtail fn v s
  | .bar0RegisterWrite fn off v => Sys2Proof.Machine.execBar0RegisterWrite fn off v s
  | .doorbell fn q v => Sys2Proof.Machine.execDoorbell fn q v s
  | .spdmRequest fn req => Sys2Proof.Machine.execSpdmRequest fn req s
  | .tdiStateChange fn tdi keyed => Sys2Proof.Machine.execTdiStateChange fn tdi keyed s
  | .pcieLinkDown n => Sys2Proof.Machine.execPcieLinkDown n s
  | .rackCapMessage msg => Sys2Proof.Machine.execRackCapMessage msg s
  | .dependenceReread q => Sys2Proof.Machine.execDependenceReread q s
  | .deadlineMissed q => Sys2Proof.Machine.execDeadlineMissed q s
  | .hang ctx => Sys2Proof.Machine.execHang ctx s
  | .yokeSample stack lower upper => Sys2Proof.Machine.execYokeSample stack lower upper s
  | .yokeThrottleStep stack => Sys2Proof.Machine.execYokeThrottleStep stack s
  | .powerPeriod watts => Sys2Proof.Machine.execPowerPeriod watts s
  | .monitorSample cl u => Sys2Proof.Machine.execMonitorSample cl u s
  | .pageholdDrained fn => Sys2Proof.Machine.execPageholdDrained fn s
  | .linkTrained n lanes domain pkg => Sys2Proof.Machine.execLinkTrained n lanes domain pkg s
  | .linkTrainingRetry n => Sys2Proof.Machine.execLinkTrainingRetry n s
  | .flitReceive n flit => Sys2Proof.Machine.execFlitReceive n flit s
  | .laneLoss n => Sys2Proof.Machine.execLaneLoss n s
  | .linkTimeout n => Sys2Proof.Machine.execLinkTimeout n s
  | .peerAccess acc => Sys2Proof.Machine.execPeerAccess acc s
  | .pcieLinkUp n flit => Sys2Proof.Machine.execPcieLinkUp n flit s
  | .scrub pa => Sys2Proof.Machine.execScrub pa s
  | .relockEnd die => Sys2Proof.Machine.execRelockEnd die s
  | .boostFallStep die => Sys2Proof.Machine.execBoostFallStep die s
  | .clockBoundary die => Sys2Proof.Machine.execClockBoundary die s
  | .permitRefill die => Sys2Proof.Machine.execPermitRefill die s
  | .leafReread l => Sys2Proof.Machine.execLeafReread l s
  | .pageRequestRepost l => Sys2Proof.Machine.execPageRequestRepost l s
  | .markingResume l => Sys2Proof.Machine.execMarkingResume l s
  | .placementPreempt l => Sys2Proof.Machine.execPlacementPreempt l s
  | .placementReserve l => Sys2Proof.Machine.execPlacementReserve l s
  | .groupSaveComplete g => Sys2Proof.Machine.execGroupSaveComplete g s
  | .slotLazySave g => Sys2Proof.Machine.execSlotLazySave g s
  | .preemptHoldExpiry core => Sys2Proof.Machine.execPreemptHoldExpiry core s
  | .launchDrained l => Sys2Proof.Machine.execLaunchDrained l s
  | .launchFinish l => Sys2Proof.Machine.execLaunchFinish l s
  | .rollbackComplete l => Sys2Proof.Machine.execRollbackComplete l s
  | .snapshotPageCopy l page => Sys2Proof.Machine.execSnapshotPageCopy l page s
  | .binTimer ctx bin => Sys2Proof.Machine.execBinTimer ctx bin s
  | .resultWriteback g t id => Sys2Proof.Machine.execResultWriteback g t id s
  | .backoffExpiry g t => Sys2Proof.Machine.execBackoffExpiry g t s
  | .monwTimeout g t => Sys2Proof.Machine.execMonwTimeout g t s
  | .serviceMessageAccept cl => Sys2Proof.Machine.execServiceMessageAccept cl s
  | .serviceFurrowPerform cl => Sys2Proof.Machine.execServiceFurrowPerform cl s
  | .drillFetch core q => Sys2Proof.Machine.execDrillFetch core q s
  | .copyElement core q => Sys2Proof.Machine.execCopyElement core q s
  | .transposerBlock core q => Sys2Proof.Machine.execTransposerBlock core q s
  | .reductionElement core q => Sys2Proof.Machine.execReductionElement core q s
  | .copyComplete core q => Sys2Proof.Machine.execCopyComplete core q s
  | .mEntryPerform stack => Sys2Proof.Machine.execMEntryPerform stack s
  | .harrowMld cl => Sys2Proof.Machine.execHarrowMld cl s
  | .hnewAtHome cl => Sys2Proof.Machine.execHnewAtHome cl s
  | .hrecAtTarget core => Sys2Proof.Machine.execHrecAtTarget core s
  | .hbindAtHome core => Sys2Proof.Machine.execHbindAtHome core s
  | .handlePostApply src => Sys2Proof.Machine.execHandlePostApply src s
  | .cellCreate cl => Sys2Proof.Machine.execCellCreate cl s
  | .tensorRetagComplete ctx cl idx => Sys2Proof.Machine.execTensorRetagComplete ctx cl idx s
  | .fmtsetInstall ctx => Sys2Proof.Machine.execFmtsetInstall ctx s
  | .balidleTimeout g t => Sys2Proof.Machine.execBalidleTimeout g t s
  | .keyZeroizeComplete slot => Sys2Proof.Machine.execKeyZeroizeComplete slot s
  | .teardownComplete ctx => Sys2Proof.Machine.execTeardownComplete ctx s
  | .fundamentalReset => Sys2Proof.Machine.execFundamentalReset s
  | .capExpiry => Sys2Proof.Machine.execCapExpiry s
  | .capFloorStep => Sys2Proof.Machine.execCapFloorStep s
  | .dispatchPick => Sys2Proof.Machine.execDispatchPick s
  | .groupPlace => Sys2Proof.Machine.execGroupPlace s
  | .slewGrant => Sys2Proof.Machine.execSlewGrant s
  | .hotnessEpoch => Sys2Proof.Machine.execHotnessEpoch s
  | .illegalInstruction => Sys2Proof.Machine.execIllegalInstruction s

end Sys2Proof.Machine
end

