-- ==== Sys2Proof/Machine/Schedule.lean ====
section
/-! DEFINITION. The schedule: which agent of the package moves next. The spec lets its agents move concurrently; the state lists the order in
which they do, and where it lists nothing more, the module's own agents take turns. -/

namespace Sys2Proof.Machine

/-- What the agent whose turn it is does: it executes a step of the table on a state, or it has acted. -/
inductive Act
  | run (i : Instr) (s : State)
  | did (o : Out)

/-- A step, if there is one. -/
def Act.opt (s : State) : Option Instr → Act
  | some i => .run i s
  | none => .did (.next s)

/-! ## Admin commands (R58, R362) -/

/-- The commands by code (R58 and the rules of the other chapters). -/
def adminCmd (code fn : Nat) (p : Packet) : Option Instr :=
  match code with
  | 0x01 => some (.create fn p)
  | 0x02 => some (.loadkernel fn p)
  | 0x03 => some (.activate fn p)
  | 0x04 => some (.quiesce fn p)
  | 0x05 => some (.suspend fn p)
  | 0x06 => some (.snappool fn p)
  | 0x07 => some (.destroy fn p)
  | 0x08 => some (.clearerr fn p)
  | 0x09 => some (.importkey fn p)
  | 0x0A => some (.setheadland fn p)
  | 0x0B => some (.dropkey fn p)
  | 0x0C => some (.qopen fn p)
  | 0x0D => some (.qclose fn p)
  | 0x0E => some (.qstop fn p)
  | 0x0F => some (.qstart fn p)
  | 0x10 => some (.preempt fn p)
  | 0x11 => some (.pagehold fn p)
  | 0x12 => some (.tagset fn p)
  | 0x13 => some (.notifyring fn p)
  | 0x14 => some (.hotcfg fn p)
  | 0x15 => some (.handlearea fn p)
  | 0x16 => some (.pwrcfg fn p)
  | 0x17 => some (.peerwin fn p)
  | 0x18 => some (.linkcfg fn p)
  | _ => none

/-- The step is a command of an admin ring. -/
def isAdmin (i : Instr) : Bool :=
  match i with
  | .create _ _ | .loadkernel _ _ | .activate _ _ | .quiesce _ _ | .suspend _ _ | .snappool _ _ | .destroy _ _ | .clearerr _ _
  | .importkey _ _ | .setheadland _ _ | .dropkey _ _ | .qopen _ _ | .qclose _ _ | .qstop _ _ | .qstart _ _ | .preempt _ _
  | .pagehold _ _ | .tagset _ _ | .notifyring _ _ | .hotcfg _ _ | .handlearea _ _ | .pwrcfg _ _ | .peerwin _ _ | .linkcfg _ _ => true
  | _ => false

/-- Where a function's next command stands in host memory. -/
def Fn.packetAt (f : Fn) : Nat := hostBase + (f.admring.toNat + 64 * (f.admhead % 2 ^ f.admlog)) % 2 ^ 60

/-- The function has a command to read: its ring is enabled, link 0 carries it, and no command of its own is in progress. -/
def State.adminReady (s : State) (fn : Nat) : Bool :=
  let f := s.fn fn
  decide (fn < Config.numFns) && f.ringOn && decide (f.admhead ≠ f.admtail) && f.pending.isNone && s.pcieUp.contains 0 &&
    decide (s.phase = .up)

/-- The next command of a function (R362): an unknown code completes with status 0x3. -/
def State.readAdmin (s : State) (fn : Nat) : Act :=
  if !s.adminReady fn then .did (.next s)
  else
    let f := s.fn fn
    let p : Packet := .ofNat 512 (ofBytes (s.rds f.packetAt 64))
    let s := s.setFn fn { f with admhead := f.admhead + 1 }
    match adminCmd (pkt p 7 0) fn p with
    | some i => .run i s
    | none => .did (.next (s.complete fn 3))

/-! ## Time (R15, R348, R349) -/

/-- The next event of a die's clock that is due by itself, and when. -/
def State.dieDue (s : State) (d : Nat) : List (Nat × (State → Out)) :=
  let di := s.die d
  let cls := clustersOf d
  (di.relock.toList.map fun t => (t, execRelockEnd d)) ++
  ((cls.filter fun cl => (s.cluster cl).fall = 2).map fun cl => ((s.cluster cl).fallAt, execBoostFallStep d)) ++
  [((di.lastBoundary / 5000 + 1) * 5000, execClockBoundary d)] ++
  (if cls.any fun cl => decide (20 < (s.cluster cl).mhz) then [] else [(di.refillAt + 25000, execPermitRefill d)])

/-- The events due by themselves: those of the clocks, the end of a hotness epoch, and the two of a rack cap. -/
def State.dues (s : State) : List (Nat × (State → Out)) :=
  (List.range Config.numDies).flatMap s.dieDue ++
  (if s.epoch = 0 then [] else [(s.epochAt + 1000 * s.epoch, execHotnessEpoch)]) ++
  (if s.cap.stage = 1 then [(s.cap.due, execCapExpiry)] else if s.cap.stage = 2 then [(s.cap.due, execCapFloorStep)] else [])

/-- The earliest of some events, the first of those at one time. -/
def earliest : List (Nat × (State → Out)) → Option (Nat × (State → Out))
  | [] => none
  | e :: r => match earliest r with
    | none => some e
    | some f => if e.1 ≤ f.1 then some e else some f

/-- A die's counters advance while its generator runs (R348, R349). -/
def Die.run (d : Die) (ticks : Nat) : Die :=
  if d.relock.isSome then d
  else
    let tenths := d.rawFrac + ticks * d.f
    let n := tenths / 10
    { d with rawFrac := tenths % 10, raw := d.raw + n, pulses := d.pulses + n, nominal := d.nominal + n * nominalInc d.f }

/-- Ticks of the reference timer pass. -/
def State.pass (s : State) (ticks : Nat) : State :=
  let s := { s with refTimer := s.refTimer + ticks }
  let s := (List.range Config.numDies).foldl (fun s d => s.setDie d ((s.die d).run ticks)) s
  (s.countHeadland ticks).settleAdmin

/-- Time passes up to the next event that is due by itself; where one is due already, it is executed first. -/
def State.elapse (s : State) (ticks : Nat) : Out :=
  match earliest s.dues with
  | none => .next (s.pass ticks)
  | some (t, f) =>
    if t ≤ s.refTimer then f { s with turns := .elapse ticks :: s.turns }
    else .next (s.pass (min ticks (t - s.refTimer)))

/-! ## What hosts, physics and software do -/

/-- The host reads or writes main memory (R318, R324). -/
def State.hostMain (s : State) (pa n : Nat) (r : Except (MemFail × Nat) State) : State :=
  if !(homeDie pa).all s.runs then s
  else match r with
    | .error f => s.noteFail (f.2 / 64) f.1 0x3F
    | .ok t => t.touches 4 (sectorsOf pa n)

/-- Data bits of a written sector flip. -/
def State.flipBits (s : State) (pa n : Nat) : State :=
  match s.sector (pa / 64) with
  | none => s
  | some x => { s with sectors := tset s.sectors (pa / 64) { x with errors := x.errors + n } }

/-- A written sector comes to hold the code word of another address. -/
def State.misplaceSector (s : State) (pa other : Nat) : State :=
  match s.sector (pa / 64) with
  | none => s
  | some x => { s with sectors := tset s.sectors (pa / 64) { x with addr := other / 64 } }

/-- A pointer of a Saved group's thread resolved as it will be once the group is Resident where it was: out of the group's reach otherwise. -/
def State.reached (s : State) (r : TRef) (p : DWord) (n : Nat) : Option Nat :=
  ((s.modGroup r.g fun gr => { gr with state := .resident }).engPlace r p (ptrOff p) n false).toOption

/-- The status that an altered wait state stands for: none where it is none of R119, or names memory that the thread cannot reach, since an
altered record reaches its own group only (R132). -/
def State.alteredStatus (s : State) (r : TRef) : Altered → Option Status
  | .unknown => none
  | .status st => match st with
    | .waiting (.object p _ par poll) => (s.reached r p 16).map fun a => .waiting (.object p a par poll)
    | .backedOff d (some (.object p _ par poll)) => (s.reached r p 16).map fun a => .backedOff d (some (.object p a par poll))
    | .waiting (.monw p _ n e c sc t) => (s.reached r p n).map fun a => .waiting (.monw p a n e c sc t)
    | st => some st

/-- A thread with another status, or with a wait state that the check at its resume finds. -/
def Thread.altered (th : Thread) : Option Status → Thread
  | some st => { th with status := st, badWait := false }
  | none => { th with badWait := true }

/-- Outstanding writes with other values, by name. -/
def alterOuts (outs : List (Nat × List Word)) (l : List Outst) : List Outst :=
  l.map fun o => match outs.find? fun p => p.1 = o.id with
    | some p => { o with val := .have p.2 }
    | none => o

/-- A thread's part of a Saved group's record altered (R132). -/
def State.alterThread (s : State) (r : TRef) (st : Altered) (f : Thread → Thread) : State :=
  if (s.group r.g).state ≠ .saved then s
  else
    let new := s.alteredStatus r st
    s.modThread r fun th => (f th).altered new

/-- The group's part of a Saved group's record altered: its channels keep their rings (R132). -/
def State.alterGroup (s : State) (g : Nat) (bars : List NBar) (chans : List Chan) (rdvs : List Rdv) : State :=
  if (s.group g).state ≠ .saved then s
  else
    s.modGroup g fun gr => { gr with
      bars := gr.bars.zipIdx.map fun p => bars.getD p.2 p.1
      chans := gr.chans.zipIdx.map fun p => { chans.getD p.2 p.1 with opened := p.1.opened, ring := p.1.ring }
      rdvs := if rdvs.isEmpty then gr.rdvs else rdvs }

/-! ## The default schedule -/

/-- Threads of a group that back off, or whose results can be written. -/
def State.threadChores (s : State) (r : TRef) : List (State → Out) :=
  let th := s.thread r
  ((th.outs.filter fun o => decide (o.val ≠ .awaited)).map fun o => execResultWriteback r.g r.t o.id) ++
  (match th.status with
    | .backedOff _ _ => [execBackoffExpiry r.g r.t]
    | .waiting (.monw _ _ _ _ _ _ _) => [execMonwTimeout r.g r.t]
    | .waiting (.balidle _) => [execBalidleTimeout r.g r.t]
    | _ => [])

def State.groupChores (s : State) (g : Nat) : List (State → Out) :=
  match (s.group g).state with
  | .halting =>  execGroupSaveComplete g :: (s.refs g).flatMap s.threadChores
  | .saved => execGroupPlace :: (if (s.group g).displace.isEmpty then [] else [execSlotLazySave g])
  | .resident => (s.refs g).flatMap s.threadChores
  | _ => []

def State.coreChores (s : State) (c : Nat) : List (State → Out) :=
  let x := s.core c
  (List.range 4).flatMap (fun q =>
    (if (x.kicks.getD q []).isEmpty then [] else [execDrillFetch c q]) ++
    (if (x.copyQ.getD q []).isEmpty then []
     else [execCopyElement c q, execTransposerBlock c q, execReductionElement c q, execCopyComplete c q])) ++
  (if (x.copyQ.getD 3 []).isEmpty then [] else [execHarrowMld (clusterOf c), execHrecAtTarget c]) ++
  (if x.hq.isEmpty then [] else [execHbindAtHome c, execHandlePostApply c]) ++
  (if x.outUntil.isSome then [execPreemptHoldExpiry c] else [])

def Cluster.chores (x : Cluster) (cl : Nat) : List (State → Out) :=
  (if x.ports.all List.isEmpty then [] else [execServiceMessageAccept cl]) ++
  (if x.queue.isEmpty && x.busy.isEmpty then [] else [execServiceFurrowPerform cl]) ++
  (if x.hnews.isEmpty then [] else [execHnewAtHome cl]) ++
  (if x.cellsDue.isEmpty then [] else [execCellCreate cl])

def State.launchChores (s : State) (l : Nat) : List (State → Out) :=
  let la := s.launch l
  (match la.state with
    | .leasing => [execLeafReread l, execPageRequestRepost l]
    | .marking => [execMarkingResume l]
    | .placing => [execGroupPlace, execPlacementPreempt l, execPlacementReserve l]
    | .draining => [execLaunchDrained l]
    | .rollingBack => [execRollbackComplete l]
    | .finished => [execLaunchFinish l]
    | _ => []) ++
  ((la.shadow.filter fun p => p.wanted && !p.copied).map fun p => execSnapshotPageCopy l p.page)

/-- What a context's bins, tensors and teardown call for. -/
def State.ctxChores (s : State) (c : Nat) : List (State → Out) :=
  let x := s.ctx c
  ((List.range x.bins.length).map fun b => execBinTimer c b) ++
  ((x.tensors.filter fun p => decide (p.2.state = .dying)).map fun p => execTensorRetagComplete c (p.1 / 2 ^ 24) (p.1 % 2 ^ 24)) ++
  (if x.state = .closing then [execTeardownComplete c] else [])

/-- What a rotation consists of: turns, and steps of the module's own agents. -/
inductive Chore
  | turn (t : Turn)
  | step (f : State → Out)

/-- The agents that may have something to do. The last lets a tick pass. -/
def State.chores (s : State) : List Chore :=
  ((s.cores.map (·.1) ++ s.groups.map (·.core)).eraseDups.filter fun c => !(s.readyOn c).isEmpty).map (fun c => .turn (.issue c)) ++
  (List.range s.stores.length).map (fun n => .turn (.drain n)) ++ (List.range s.outbox.length).map (fun n => .turn (.arrive n)) ++
  ((s.fns.map (·.1)).filter s.adminReady).map (fun f => .turn (.admin f)) ++
  ((List.range s.groups.length).flatMap s.groupChores ++ (s.cores.map (·.1)).flatMap s.coreChores ++
    (s.clusters.flatMap fun p => p.2.chores p.1) ++
    ((s.stackTbl.filter fun p => !p.2.mq.isEmpty).map fun p => execMEntryPerform p.1) ++
    (List.range s.launches.length).flatMap s.launchChores ++ (s.ctxs.map (·.1)).flatMap s.ctxChores ++
    (if s.queues.isEmpty && (s.ctxs.all fun p => p.2.nodeReady.isEmpty) then [] else [execDispatchPick]) ++
    (if s.grants.isEmpty then [] else [execSlewGrant]) ++ s.fmtReqs.map (fun q => execFmtsetInstall q.ctx) ++
    (if s.hubPosts.isEmpty then [] else [execHandlePostApply Config.numCores]) ++
    ((s.keys.filter fun p => decide (p.2.state = .zeroizing)).map fun p => execKeyZeroizeComplete p.1)).map Chore.step ++
  [.turn (.elapse 1)]

/-! ## One turn -/

/-- The contexts whose groups are resident on a core. -/
def State.ctxsOn (s : State) (c : Nat) : List Nat := ((s.groupsOn c).map s.ctxOf).eraseDups

/-- A core's pick, with the cell that it keeps reserved for a split (R332). -/
def State.issueTurn (s : State) (c : Nat) : State × Option Instr :=
  let s := (s.ctxsOn c).foldl (fun s x => s.reserveCell x c) s
  let (s, i) := s.pick c
  (s, i.map fun i => i.getD .illegalInstruction)

/-- A checked sheaf whose two passes differ in some of its lanes (R129). -/
def State.mismatchTurn (s : State) (c lanes : Nat) : Act :=
  let (s, i) := s.issueTurn c
  let checked : Bool := match s.sheaf with
    | r :: _ => (s.launchOf r.g).region.checked
    | [] => false
  if i.isSome && checked && decide (i ≠ some .illegalInstruction) then .opt { s with differ := lanes % 2 ^ s.sheaf.length } i else .opt s i

/-- A step of another agent, which no turn of its own stands for: one without a word that is no command of a ring. -/
def isEvent (i : Instr) : Bool := !((encode i).isSome || isAdmin i || decide (i = .illegalInstruction))

/-- One turn. -/
def State.turn (s : State) (t : Turn) : Act :=
  match t with
  | .issue c => let (s, i) := s.issueTurn c; .opt s i
  | .event i => if isEvent i then .run i s else .did (.next s)
  | .admin fn => s.readAdmin fn
  | .drain n => .did (.next (s.drain n))
  | .arrive n => .did (.next (s.arrive n))
  | .elapse n => .did (s.elapse n)
  | .hostWrite a bs => .did (.next (s.homeWr (hostBase + a % 2 ^ 60) bs))
  | .mainRead pa n key tag => .did (.next (s.hostMain pa n ((s.mainRd pa n key tag).map (·.1))))
  | .mainWrite pa bs key tag =>
    .did (.next (s.hostMain pa bs.length ((s.mainWr pa bs key tag).map fun t => t.monwReads (t.watchers pa bs.length))))
  | .bitError pa n => .did (.next (s.flipBits pa n))
  | .misplace pa o => .did (.next (s.misplaceSector pa o))
  | .alterThread g t pc base level sp tag st outs =>
    .did (.next (s.alterThread { g := g, t := t } st fun th =>
      { th with pc := pc, base := base, level := level, sp := sp, usertag := tag, outs := alterOuts outs th.outs }))
  | .alterGroup g bars chans rdvs => .did (.next (s.alterGroup g bars chans rdvs))
  | .barRead link fn off => .did (.next (s.barRead link fn off))
  | .cfgRead link r => .did (.next (s.cfgRead link r))
  | .mismatch c lanes => s.mismatchTurn c lanes

/-- The next turn, taken: the first of the schedule, or that of the next agent in rotation. No access of it has waited yet (R349). -/
def State.act (s : State) : Act :=
  match s.turns with
  | t :: ts => { s with turns := ts, hubWaits := false }.turn t
  | [] =>
    let r : State := { s with turnNo := s.turnNo + 1, hubWaits := false }
    match s.chores.getD (s.turnNo % s.chores.length) (.turn (.elapse 1)) with
    | .turn t => r.turn t
    | .step f => .did (f r)

end Sys2Proof.Machine
end

