-- ==== Sys2Proof/Machine/Step.lean ====
section
/-! DEFINITION. One step of the module: the next turn of its schedule; and the placing of an instruction that the next step issues. -/

namespace Sys2Proof.Machine

/-- The next turn, with the step of the table that it executes. -/
def step (s : State) : Host.Outcome State Fault Refusal :=
  match s.act with
  | .run i t => exec i t
  | .did o => o

/-- Where the word of the next turn's pick stands, if that turn is a pick and the word lies in its launch's code. -/
def State.nextFetch (s : State) : Option Nat :=
  match s.turns with
  | .issue c :: ts =>
    match { s with turns := ts }.issueTurn c with
    | (t, some _) => match t.sheaf with
      | r :: _ =>
        let la := t.launchOf r.g
        let pc := (t.thread r).pc
        if 0 ≤ pc ∧ pc + 4 ≤ (la.hdr.codebytes : Int) then some (la.fetchAddr pc) else none
      | [] => none
    | _ => none
  | _ => none

/-- The kernel header of the launch that `withRunner` installs. -/
def runnerHeader : Header :=
  { regs := 128, furrows := 1, nbar := 16, slots := 4, producer := some 0, gmem := 4096, spill := 256, codebytes := 4, codeoff := 64 }

/-- A context with one launch of one group, resident on core 0, whose thread 0 is Ready at its first instruction, in frame 0; core 0 issues
next. -/
def State.withRunner (s : State) : State :=
  let l := s.launches.length
  let g := s.groups.length
  let la : Launch := { state := .running, hdr := runnerHeader, codeFrames := [0], nextLin := 1, dispatched := true }
  let gr := freshGroup { la with nextLin := 0 } l 0 g s.fresh none
  let th := freshThread runnerHeader s.fresh
  let gr : Group := { gr with threads := th :: List.replicate 31 { th with status := .exited } }
  { s.tick.setCtx 0 { s.ctx 0 with state := .active } with
    launches := s.launches ++ [la], groups := s.groups ++ [gr], turns := .issue 0 :: s.turns }

/-- The state with an instruction where the next step fetches it: at the next turn's pick, or in the code of a launch installed for it. -/
def State.withFetchWord (s : State) (_nbits w : Nat) : State :=
  match s.nextFetch with
  | some a => s.wrs a (bytesOf 4 w)
  | none => s.withRunner.wrs 64 (bytesOf 4 w)

end Sys2Proof.Machine
end

