-- ==== Sys2Proof/Safety.lean ====
section
/-! DEFINITION. The terms of the statements: when a sheaf issues with nothing in the way of its instruction's own effect, what its threads may
read, and what a step leaves alone. -/

namespace Sys2Proof.Machine

/-! ## A sheaf that issues -/

/-- A lane issues an instruction of this form and reaches its effect: the thread is Ready in a Resident group (R119), its registers lie in
its allocation (R26), no refresh holds it (R226), it has room for a result (R121), and it reads no stale register that its context
traps (R35). -/
def State.laneOk (s : State) (f : Form) (r : TRef) : Bool :=
  s.canIssue r && (f.reads ++ f.writes).all (s.thread r).inBounds && (!f.access || (s.thread r).pend.isEmpty)
    && (!f.var || decide ((s.thread r).outs.length < Config.maxOutstanding))
    && !((s.ctx (s.ctxOf r.g)).stale && (s.thread r).staleRead f.reads)

/-- The present sheaf issues: its passes agree (R129), a return slot is free where one is taken (R233), its threads are distinct (R125), and
every lane reaches the effect. -/
def State.sheafOk (s : State) (f : Form) : Bool :=
  decide (s.differ = 0) && (!f.slot || decide ((s.core s.sheafCore).retSlots.length < Config.returnSlots))
    && decide s.sheaf.Nodup && s.sheaf.all (s.laneOk f)

/-- The present sheaf is the one lane r, and it issues. -/
def State.oneOk (s : State) (f : Form) (r : TRef) : Bool := decide (s.sheaf = [r]) && s.sheafOk f

/-- The state in which the lanes of a sheaf run: a fresh name for its messages has been taken. -/
def State.inSheaf (s : State) : State := { s.tick with sheafId := s.fresh }

/-- The state after the one lane of a sheaf has faulted with a code and two details: the fault is taken for its group (R69, R71). -/
def State.faultOf (s : State) (r : TRef) (code d0 d1 : Nat) : State :=
  let e : LaneFault := { r := r, code := code, d0 := d0, d1 := d1 }
  raiseFaults [e] [e] [] s

/-- The same for SYNC_MASK, whose record names the lanes of a mask (R137). -/
def State.faultMaskOf (s : State) (r : TRef) (code mask : Nat) : State :=
  let e : LaneFault := { r := r, code := code, d0 := 0, d1 := 0, lanes := some (r.t / 32, mask) }
  raiseFaults [e] [e] [] s

/-! ## What a thread reads and writes -/

/-- A value that a read of register v + k may return (R24, R35): zero for field 0; otherwise what the register holds, or a value that R35
allows while a write to it is outstanding. -/
def Thread.reads (th : Thread) (v : BitVec 7) (k : Nat) (w : Word) : Prop :=
  if v = 0 then w = 0
  else w = th.regs.getD (th.base + v.toNat + k) 0 ∨ ∃ c ∈ th.cands, c.reg = th.base + v.toNat + k ∧ w ∈ c.vals

/-- A thread after a fixed-latency write of a group: field 0 discards it (R24, R25). -/
def Thread.write (th : Thread) (d : BitVec 7) (ws : List Word) : Thread := if d = 0 then th else th.puts (th.base + d.toNat) ws

/-- A thread after a variable-latency result of a group has become outstanding under a name (R35, R121): the registers keep their values
until it is written back, and each may be read as what it held. -/
def Thread.await (th : Thread) (f : RegField) (id : Nat) (val : ResVal) (slot : Option Nat) : Thread :=
  { th with
    seq := th.seq + 1
    cands := th.cands ++ ((th.regNums f).filterMap (·)).map (th.candFor id)
    outs := th.outs ++ [{ id := id, regs := th.regNums f, val := val, seq := th.seq + 1, slot := slot }] }

/-! ## Frames -/

/-- Everything but the threads of these names is as before: every register of other threads, all memory, every other part of the module.
Fresh names may be spent. -/
def SameBut (rs : List TRef) (s t : State) : Prop :=
  t = { s with groups := t.groups, fresh := t.fresh, sheafId := t.sheafId } ∧ t.groups.length = s.groups.length ∧
    (∀ g, t.group g = { s.group g with threads := (t.group g).threads }) ∧ ∀ r, r ∉ rs → t.thread r = s.thread r

/-- Each thread of the sheaf does what `eff` says, and nothing else changes. -/
def SheafDoes (s t : State) (eff : TRef → Thread → Thread → Prop) : Prop :=
  SameBut s.sheaf s t ∧ ∀ r ∈ s.sheaf, eff r (s.thread r) (t.thread r)

/-- The thread writes ws to the group at d and goes on to the next instruction, parking under the marker if results are outstanding (R34). -/
def WritesNext (sw : Bool) (d : BitVec 7) (val : Thread → List Word → Prop) (_r : TRef) (th th' : Thread) : Prop :=
  ∃ ws, val th ws ∧ th' = (th.write d ws).issued sw (th.pc + 4)

/-- The thread has a result outstanding to the group at d, and goes on to the next instruction. -/
def AwaitsNext (sw : Bool) (d : BitVec 7) (n : Nat) (val : Thread → List Word → Prop) (_r : TRef) (th th' : Thread) : Prop :=
  ∃ ws id, val th ws ∧ th' = (th.await { v := d, n := n } id (.have ws) none).issued sw (th.pc + 4)

/-- The thread goes on at pc with nothing else changed. -/
def GoesTo (sw : Bool) (pc : Thread → Int → Prop) (_r : TRef) (th th' : Thread) : Prop :=
  ∃ p, pc th p ∧ th' = th.issued sw p

end Sys2Proof.Machine
end

