-- ==== Sys2Proof/Certificates/Slice0/Obligations.lean ====
section
/-! DEFINITION. The statements about the model, rule by rule, and the terms they share. -/

open Sys2Proof Sys2Proof.Machine

/-! ## Integer instructions -/

namespace Sys2Proof.Machine

/-- An instruction of D, A and B. -/
abbrev RegRegReg := Bool → BitVec 7 → BitVec 7 → BitVec 7 → Instr

/-- INT and INTX minors that write one register from W[a] = x and W[b] = y (R147, R152, R155). -/
def twoOperand : List (RegRegReg × (Word → Word → Word)) :=
  [(.add, fun x y => x + y), (.sub, fun x y => x - y), (.mul, fun x y => x * y),
   (.mulh, fun x y => ((x.signExtend 64 * y.signExtend 64) >>> 32).setWidth 32),
   (.mulhu, fun x y => ((x.setWidth 64 * y.setWidth 64) >>> 32).setWidth 32),
   (.and, fun x y => x &&& y), (.or, fun x y => x ||| y), (.xor, fun x y => x ^^^ y), (.andn, fun x y => x &&& ~~~y),
   (.shl, fun x y => x <<< (y.toNat % 32)), (.shr, fun x y => x >>> (y.toNat % 32)), (.sra, fun x y => x.sshiftRight (y.toNat % 32)),
   (.rot, fun x y => x.rotateLeft (y.toNat % 32)),
   (.min, fun x y => .ofInt 32 (min x.toInt y.toInt)), (.max, fun x y => .ofInt 32 (max x.toInt y.toInt)),
   (.minu, fun x y => .ofNat 32 (min x.toNat y.toNat)), (.maxu, fun x y => .ofNat 32 (max x.toNat y.toNat)),
   (.seq, fun x y => if x = y then 1 else 0), (.sne, fun x y => if x = y then 0 else 1),
   (.slt, fun x y => if x.toInt < y.toInt then 1 else 0), (.sltu, fun x y => if x.toNat < y.toNat then 1 else 0)]

/-- The packed forms: one operation on each 16-bit half (R155). -/
def packedForms : List (RegRegReg × (BitVec 16 → BitVec 16 → BitVec 16)) :=
  [(.addH2, fun x y => x + y), (.subH2, fun x y => x - y),
   (.maxH2, fun x y => .ofInt 16 (max x.toInt y.toInt)), (.minH2, fun x y => .ofInt 16 (min x.toInt y.toInt)),
   (.maxuH2, fun x y => .ofNat 16 (max x.toNat y.toNat)), (.minuH2, fun x y => .ofNat 16 (min x.toNat y.toNat))]

/-- Exec answers a next state in which each thread of the sheaf writes g of its W[a] and W[b] to W[d], and nothing else changes. -/
def WritesOfTwo (i : RegRegReg) (g : Word → Word → Word) : Prop :=
  ∀ (s : State) (sw : Bool) (d a b : BitVec 7),
    s.sheafOk { sw := sw, reads := [{ v := a }, { v := b }], writes := [{ v := d }] } = true →
    ∃ t, exec (i sw d a b) s = .next t ∧
      SheafDoes s t (WritesNext sw d fun th ws => ∃ x y, th.reads a 0 x ∧ th.reads b 0 y ∧ ws = [g x y])

end Sys2Proof.Machine

/-- Every two-operand integer instruction writes the value of its rule and changes nothing else (R147, R155). -/
def Obligations.IntegerResults : Prop :=
  (∀ p ∈ twoOperand, WritesOfTwo p.1 p.2) ∧
  (∀ p ∈ packedForms, WritesOfTwo p.1 fun x y => p.2 (x.extractLsb' 16 16) (y.extractLsb' 16 16) ++ p.2 (x.extractLsb' 0 16) (y.extractLsb' 0 16)) ∧
  WritesOfTwo .packH2 (fun x y => y.extractLsb' 0 16 ++ x.extractLsb' 0 16) ∧
  (∀ p ∈ ([(.mad, fun z x y => z + x * y), (.sel, fun z x y => if z ≠ 0 then x else y)] : List (RegRegReg × (Word → Word → Word → Word))),
    ∀ (s : State) (sw : Bool) (d a b : BitVec 7),
      s.sheafOk { sw := sw, reads := [{ v := d }, { v := a }, { v := b }], writes := [{ v := d }] } = true →
      ∃ t, exec (p.1 sw d a b) s = .next t ∧
        SheafDoes s t (WritesNext sw d fun th ws => ∃ z x y, th.reads d 0 z ∧ th.reads a 0 x ∧ th.reads b 0 y ∧ ws = [p.2 z x y])) ∧
  (∀ p ∈ ([(.clz, fun x => if x = 0 then 32 else .ofNat 32 (31 - x.toNat.log2)), (.popc, fun x => .ofNat 32 (((List.range 32).filter fun i => x.getLsbD i).length)),
      (.brev, fun x => .ofFnLE fun i : Fin 32 => x.getLsbD (31 - i))] : List ((Bool → BitVec 7 → BitVec 7 → Instr) × (Word → Word))),
    ∀ (s : State) (sw : Bool) (d a : BitVec 7), s.sheafOk { sw := sw, reads := [{ v := a }], writes := [{ v := d }] } = true →
      ∃ t, exec (p.1 sw d a) s = .next t ∧ SheafDoes s t (WritesNext sw d fun th ws => ∃ x, th.reads a 0 x ∧ ws = [p.2 x]))

namespace Sys2Proof.Machine

/-- Forms of D, A and a count of 5 bits (R152). -/
def countForms : List ((Bool → BitVec 7 → BitVec 7 → BitVec 5 → Instr) × (Word → Nat → Word)) :=
  [(.shli, fun x c => x <<< c), (.shri, fun x c => x >>> c), (.srai, fun x c => x.sshiftRight c), (.roti, fun x c => x.rotateLeft c)]

/-- The immediate majors, on x and the immediate field (R149). -/
def immediateForms : List ((Bool → BitVec 7 → BitVec 7 → BitVec 12 → Instr) × (Word → BitVec 12 → Word)) :=
  [(.addi, fun x i => x + i.signExtend 32), (.andi, fun x i => x &&& i.setWidth 32), (.ori, fun x i => x ||| i.setWidth 32),
   (.xori, fun x i => x ^^^ i.setWidth 32), (.slti, fun x i => if x.toInt < (i.signExtend 32).toInt then 1 else 0),
   (.sltiu, fun x i => if x.toNat < i.toNat then 1 else 0)]

/-- Exec answers a next state in which each thread writes g of its W[a] to W[d], and nothing else changes. -/
def WritesOfOne (i : Bool → BitVec 7 → BitVec 7 → Instr) (g : Word → Word) : Prop :=
  ∀ (s : State) (sw : Bool) (d a : BitVec 7), s.sheafOk { sw := sw, reads := [{ v := a }], writes := [{ v := d }] } = true →
    ∃ t, exec (i sw d a) s = .next t ∧ SheafDoes s t (WritesNext sw d fun th ws => ∃ x, th.reads a 0 x ∧ ws = [g x])

/-- The width that a control word of BFE and BFI gives (R152). -/
def ctlWidth (c : Word) : Nat := min (c.extractLsb' 8 6).toNat (32 - (c.extractLsb' 0 5).toNat)

/-- A value of a register pair that a read may return (R25, R35). -/
def Thread.readsPair (th : Thread) (v : BitVec 7) (p : DWord) : Prop := th.reads v 0 (p.setWidth 32) ∧ th.reads v 1 ((p >>> 32).setWidth 32)

/-- The two words of a pair, the low word first (R25). -/
def pairWords (p : DWord) : List Word := [p.setWidth 32, (p >>> 32).setWidth 32]

end Sys2Proof.Machine

/-- The immediate forms, MOVHI, the counted shifts, BFE, BFI, the 64-bit forms, the pointer forms and ACS.H2 write the values of their rules (R149,
R150, R152, R153, R154, R156). -/
def Obligations.ImmediateFieldAndPairResults : Prop :=
  ((∀ p ∈ immediateForms, ∀ i, WritesOfOne (fun sw d a => p.1 sw d a i) fun x => p.2 x i) ∧
  ∀ (s : State) (sw : Bool) (d : BitVec 7) (i : BitVec 19), s.sheafOk { sw := sw, writes := [{ v := d }] } = true →
    ∃ t, exec (.movhi sw d i) s = .next t ∧ SheafDoes s t (WritesNext sw d fun _ ws => ws = [i.setWidth 32 <<< 13])) ∧
  ((∀ p ∈ countForms, ∀ n, WritesOfOne (fun sw d a => p.1 sw d a n) fun x => p.2 x n.toNat) ∧
  ∀ (s : State) (sw : Bool) (d a b : BitVec 7),
    (s.sheafOk { sw := sw, reads := [{ v := a }, { v := b }], writes := [{ v := d }] } = true →
      ∃ t, exec (.bfe sw d a b) s = .next t ∧ SheafDoes s t (WritesNext sw d fun th ws => ∃ x c v : Word, th.reads a 0 x ∧ th.reads b 0 c ∧ ws = [v] ∧
        ∀ i < 32, v.getLsbD i = (if i < ctlWidth c then x.getLsbD ((c.extractLsb' 0 5).toNat + i)
          else c.getLsbD 16 && decide (0 < ctlWidth c) && x.getLsbD ((c.extractLsb' 0 5).toNat + ctlWidth c - 1)))) ∧
    (s.sheafOk { sw := sw, reads := [{ v := d }, { v := a }, { v := b }], writes := [{ v := d }] } = true →
      ∃ t, exec (.bfi sw d a b) s = .next t ∧ SheafDoes s t (WritesNext sw d fun th ws => ∃ z x c v : Word, th.reads d 0 z ∧ th.reads a 0 x ∧
        th.reads b 0 c ∧ ws = [v] ∧ ∀ i < 32, v.getLsbD i =
          (if (c.extractLsb' 0 5).toNat ≤ i ∧ i < (c.extractLsb' 0 5).toNat + ctlWidth c then x.getLsbD (i - (c.extractLsb' 0 5).toNat) else z.getLsbD i)))) ∧
  (∀ (s : State) (sw : Bool) (d a b : BitVec 7),
    (∀ p ∈ ([(.add64, fun x y => x + y), (.sub64, fun x y => x - y), (.mul64, fun x y => x * y)] : List (RegRegReg × (DWord → DWord → DWord))),
      s.sheafOk { sw := sw, reads := [{ v := a, n := 2 }, { v := b, n := 2 }], writes := [{ v := d, n := 2 }] } = true →
      ∃ t, exec (p.1 sw d a b) s = .next t ∧
        SheafDoes s t (WritesNext sw d fun th ws => ∃ x y, th.readsPair a x ∧ th.readsPair b y ∧ ws = pairWords (p.2 x y))) ∧
    (∀ p ∈ ([(.shl64, fun x c => x <<< c), (.shr64, fun x c => x >>> c)] : List (RegRegReg × (DWord → Nat → DWord))),
      s.sheafOk { sw := sw, reads := [{ v := a, n := 2 }, { v := b }], writes := [{ v := d, n := 2 }] } = true →
      ∃ t, exec (p.1 sw d a b) s = .next t ∧
        SheafDoes s t (WritesNext sw d fun th ws => ∃ x y, th.readsPair a x ∧ th.reads b 0 y ∧ ws = pairWords (p.2 x (y.toNat % 64)))) ∧
    (s.sheafOk { sw := sw, reads := [{ v := a }, { v := b }], writes := [{ v := d, n := 2 }] } = true →
      ∃ t, exec (.ptr sw d a b) s = .next t ∧ SheafDoes s t fun r th th' => WritesNext sw d (fun th ws => ∃ x c : Word, th.reads a 0 x ∧ th.reads b 0 c ∧
        ws = [x, .ofNat 32 ((c.extractLsb' 16 4).toNat * 2 ^ 28 + (if c.getLsbD 31 then (s.group r.g).core / 6 * 8 + (s.group r.g).core % 6
          else (c.extractLsb' 0 10).toNat) * 2 ^ 18)]) r th th') ∧
    (∀ p ∈ ([(.ptrsp, fun x => x >>> 60), (.ptrrk, fun x => (x >>> 50) &&& 0x3FF#64), (.ptrof, fun x => x)] :
        List ((Bool → BitVec 7 → BitVec 7 → Instr) × (DWord → DWord))),
      s.sheafOk { sw := sw, reads := [{ v := a, n := 2 }], writes := [{ v := d }] } = true →
      ∃ t, exec (p.1 sw d a) s = .next t ∧ SheafDoes s t (WritesNext sw d fun th ws => ∃ x, th.readsPair a x ∧ ws = [(p.2 x).setWidth 32])) ∧
    (s.sheafOk { sw := sw, reads := [{ v := a }, { v := b }], writes := [{ v := d, n := 2 }] } = true →
      ∃ t, exec (.acsH2 sw d a b) s = .next t ∧ SheafDoes s t (WritesNext sw d fun th ws => ∃ x y : Word, th.reads a 0 x ∧ th.reads b 0 y ∧
        let m0 := x.extractLsb' 0 16
        let m1 := x.extractLsb' 16 16
        let b0 := y.extractLsb' 0 16
        let b1 := y.extractLsb' 16 16
        let lo : Bool := decide (0 < (m1 + b1 - (m0 + b0)).toInt)
        let hi : Bool := decide (0 < (m1 + b0 - (m0 + b1)).toInt)
        ws = [(if hi then m1 + b0 else m0 + b1) ++ (if lo then m1 + b1 else m0 + b0), .ofNat 32 (lo.toNat + 2 * hi.toNat)])))

/-- DIVU and REMU leave the quotient or remainder outstanding to W[d], with all ones and the dividend for a zero divisor (R148). -/
def Obligations.DivisionResults : Prop :=
  ∀ (s : State) (sw : Bool) (d a b : BitVec 7),
    s.sheafOk { sw := sw, reads := [{ v := a }, { v := b }], writes := [{ v := d }], var := true } = true →
    (∃ t, exec (.divu sw d a b) s = .next t ∧ SheafDoes s t (AwaitsNext sw d 1 fun th ws => ∃ x y : Word, th.reads a 0 x ∧ th.reads b 0 y ∧
      ws = [if y = 0 then 0xFFFFFFFF else x / y])) ∧
    (∃ t, exec (.remu sw d a b) s = .next t ∧ SheafDoes s t (AwaitsNext sw d 1 fun th ws => ∃ x y : Word, th.reads a 0 x ∧ th.reads b 0 y ∧
      ws = [if y = 0 then x else x % y]))

/-- A register written is read back by the next instruction, other registers stay, and w0 discards writes and reads as zero (R24, R25, R35). -/
def Obligations.RegisterWriteAndRead : Prop :=
  (∀ (th : Thread) (d : BitVec 7) (ws : List Word) (i : Nat), d ≠ 0 → th.base + d.toNat + ws.length ≤ th.regs.length →
    (th.write d ws).regs.getD i 0 = if th.base + d.toNat ≤ i ∧ i < th.base + d.toNat + ws.length then ws.getD (i - (th.base + d.toNat)) 0 else th.regs.getD i 0) ∧
  (∀ (th : Thread) (ws : List Word), th.write 0 ws = th) ∧
  (∀ (th : Thread) (k : Nat) (w : Word), th.reads 0 k w ↔ w = 0) ∧
  (∀ (s : State) (r : TRef) (v : BitVec 7) (k : Nat), (s.thread r).cands = [] → v ≠ 0 → s.reg r v k = (s.thread r).regs.getD ((s.thread r).base + v.toNat + k) 0) ∧
  ∀ (s : State) (r : TRef) (v : BitVec 7) (k : Nat), (s.thread r).reads v k (s.reg r v k)

/-! ## Control -/

namespace Sys2Proof.Machine

/-- As SameBut, but for values of die copies that a publish at die scope or wider drops (R217). -/
def SameButCopies (rs : List TRef) (s t : State) : Prop :=
  SameBut rs { s with dies := t.dies } t ∧ ∀ d, t.die d = { s.die d with copies := (t.die d).copies }

/-- When BCC is taken, by condition (R157). -/
def branchTaken (c : BitVec 3) (x : Word) : Prop :=
  match c.toNat with
  | 0 => x = 0
  | 1 => x ≠ 0
  | 2 => x.toInt < 0
  | 3 => 0 ≤ x.toInt
  | 4 => 0 < x.toInt
  | 5 => x.toInt ≤ 0
  | 6 => x.getLsbD 0 = true
  | _ => x.getLsbD 0 = false

end Sys2Proof.Machine

/-- BCC, JMP, JMPR, NOP and YIELD move the program counter as their rules say and change nothing else (R157, R158, R160, R143). -/
def Obligations.BranchesAndJumps : Prop :=
  ∀ (s : State) (sw : Bool),
    (∀ (c : BitVec 3) (a : BitVec 7) (i : BitVec 12), s.sheafOk { sw := sw, reads := [{ v := a }] } = true →
      ∃ t, exec (.bcc sw c a i) s = .next t ∧ SheafDoes s t (GoesTo sw fun th pc => ∃ x, th.reads a 0 x ∧
        (branchTaken c x → pc = th.pc + 4 * i.toInt) ∧ (¬branchTaken c x → pc = th.pc + 4))) ∧
    (∀ a : BitVec 7, s.sheafOk { sw := sw, reads := [{ v := a }] } = true → (∀ r ∈ s.sheaf, ∀ x, (s.thread r).reads a 0 x → x.toNat % 4 = 0) →
      ∃ t, exec (.jmpr sw a) s = .next t ∧ SheafDoes s t (GoesTo sw fun th pc => ∃ x : Word, th.reads a 0 x ∧ pc = x.toNat)) ∧
    (s.sheafOk { sw := sw } = true →
      (∀ i, ∃ t, exec (.jmp sw i) s = .next t ∧ SheafDoes s t (GoesTo sw fun th pc => pc = th.pc + 4 * i.toInt)) ∧
      (∃ t, exec (.nop sw) s = .next t ∧ SheafDoes s t (GoesTo sw fun th pc => pc = th.pc + 4)) ∧
      ∃ t, exec (.yield sw) s = .next t ∧ SheafDoes s t fun _ th th' => th' = ({ th with readyAt := s.fresh } : Thread).issued sw (th.pc + 4))

/-- WINB moves the window base by 8 times the exact sum of its step and W[a], and faults outside the allocation (R141). -/
def Obligations.WindowMoves : Prop :=
  ∀ (s : State) (sw : Bool) (x : BitVec 1) (a b : BitVec 7),
    let newBase (th : Thread) (w : Word) : Int := if x = 1 then 8 * (b.toInt + w.toInt) else th.base + 8 * (b.toInt + w.toInt)
    (s.sheafOk { sw := sw, reads := [{ v := a }] } = true →
      (∀ r ∈ s.sheaf, ∀ w, (s.thread r).reads a 0 w → 0 ≤ newBase (s.thread r) w ∧ newBase (s.thread r) w ≤ (s.thread r).regs.length - 8) →
      ∃ t, exec (.winb sw x a b) s = .next t ∧ SheafDoes s t fun _ th th' => ∃ w n, th.reads a 0 w ∧ (n : Nat) = newBase th w ∧
        th' = ({ th with base := n } : Thread).issued sw (th.pc + 4)) ∧
    ∀ r, s.oneOk { sw := sw, reads := [{ v := a }] } r = true →
      (∀ w, (s.thread r).reads a 0 w → newBase (s.thread r) w < 0 ∨ (s.thread r).regs.length - 8 < newBase (s.thread r) w) →
      ∃ w, (s.thread r).reads a 0 w ∧ exec (.winb sw x a b) s = .next (s.inSheaf.faultOf r 0x03 (BitVec.ofInt 64 (newBase (s.thread r) w)).toNat 0)

namespace Sys2Proof.Machine

/-- The frame that CALL and CALLR push: the return offset and the window base, in 16 bytes (R159). -/
def frameBytes (th : Thread) : List Byte :=
  let ret : Word := .ofInt 32 (th.pc + 4)
  [ret.extractLsb' 0 8, ret.extractLsb' 8 8, ret.extractLsb' 16 8, ret.extractLsb' 24 8, .ofNat 8 th.base, .ofNat 8 (th.base / 256)] ++ List.replicate 10 0

end Sys2Proof.Machine

/-- CALL and CALLR push a 16-byte frame below SP, RET pops it, and each faults by its checks with nothing changed (R159, R160, R203). -/
def Obligations.CallsAndReturns : Prop :=
  ∀ (s : State) (sw : Bool) (r : TRef),
    let th := s.thread r
    let sp := th.sp.toNat
    let spill := (s.launchOf r.g).hdr.spill
    (s.oneOk { sw := sw } r = true →
      (∀ i : BitVec 19, (16 ≤ sp ∧ sp ≤ spill → ∃ t, exec (.call sw i) s = .next t ∧ SameBut [r] (s.wrs (spillAddr r.g r.t (sp - 16)) (frameBytes th)) t ∧
          t.thread r = ({ th with sp := th.sp - 16 } : Thread).issued sw (th.pc + 4 * i.toInt)) ∧
        (sp < 16 ∨ spill < sp → exec (.call sw i) s = .next (s.inSheaf.faultOf r 0x05 sp 1))) ∧
      (spill < sp + 16 → exec (.ret sw) s = .next (s.inSheaf.faultOf r 0x05 sp 1)) ∧
      (sp + 16 ≤ spill →
        let frame := s.rdNat (spillAddr r.g r.t sp) 16
        let ret : Nat := frame % 2 ^ 32
        let base : Nat := frame / 2 ^ 32 % 2 ^ 16
        (ret % 4 = 0 → base % 8 = 0 → base + 8 ≤ th.regs.length → ∃ t, exec (.ret sw) s = .next t ∧ SameBut [r] s t ∧
          t.thread r = ({ th with sp := th.sp + 16, base := base } : Thread).issued sw ret) ∧
        (ret % 4 ≠ 0 → exec (.ret sw) s = .next (s.inSheaf.faultOf r 0x09 ret 4)) ∧
        (ret % 4 = 0 → base % 8 ≠ 0 ∨ th.regs.length < base + 8 → exec (.ret sw) s = .next (s.inSheaf.faultOf r 0x03 base 0)))) ∧
    ∀ a : BitVec 7, s.oneOk { sw := sw, reads := [{ v := a }] } r = true →
      let target := s.inSheaf.reg r a
      (target.toNat % 4 = 0 → 16 ≤ sp → sp ≤ spill → ∃ t, exec (.callr sw a) s = .next t ∧
        SameBut [r] (s.wrs (spillAddr r.g r.t (sp - 16)) (frameBytes th)) t ∧ t.thread r = ({ th with sp := th.sp - 16 } : Thread).issued sw target.toNat) ∧
      (target.toNat % 4 ≠ 0 → exec (.callr sw a) s = .next (s.inSheaf.faultOf r 0x09 target.toNat 4)) ∧
      (target.toNat % 4 ≠ 0 → exec (.jmpr sw a) s = .next (s.inSheaf.faultOf r 0x09 target.toNat 4)) ∧
      (target.toNat % 4 = 0 → sp < 16 ∨ spill < sp → exec (.callr sw a) s = .next (s.inSheaf.faultOf r 0x05 sp 1))

namespace Sys2Proof.Machine

/-- The value that a completed rendezvous gives a member lane (R138 to R140): minors 7 ELECT, 9 FSHFL and 10 FBALLOT, from the lanes that
arrived with their value and source operands. -/
def memberResult (minor : Nat) (mask : Word) (arrived : List (Nat × Word × Word × Nat)) (lane : Nat) (val src : Word) (w : Word) : Prop :=
  match minor with
  | 7 => w = if ∀ l < lane, mask.getLsbD l = false then 1 else 0
  | 9 =>
    (mask.getLsbD (src.toNat % 32) = true → ∃ m ∈ arrived, m.1 = src.toNat % 32 ∧ w = m.2.1) ∧ (mask.getLsbD (src.toNat % 32) = false → w = val)
  | _ => ∀ l < 32, (w.getLsbD l = true ↔ ∃ m ∈ arrived, m.1 = l ∧ m.2.1 ≠ 0)

/-- A furrow collective of a thread: its mask, and its value and source operands, as State.reg reads them (R137 to R140). -/
structure Gather where
  instr : Instr
  minor : Nat
  form : Form
  d : BitVec 7
  mask : Word
  val : Word
  src : Word

/-- The four collectives. -/
def gathers (s : State) (r : TRef) (sw : Bool) (d a b : BitVec 7) : List Gather :=
  let w (v : BitVec 7) : Word := s.inSheaf.reg r v
  [{ instr := .fsync sw a, minor := 8, d := 0, mask := w a, val := 0, src := 0, form := { sw := sw, reads := [{ v := a }], access := true } },
   { instr := .elect sw d a, minor := 7, d := d, mask := w a, val := 0, src := 0,
     form := { sw := sw, reads := [{ v := a }], writes := [{ v := d }], var := true, access := true } },
   { instr := .fshfl sw d a b, minor := 9, d := d, mask := w d, val := w a, src := w b,
     form := { sw := sw, reads := [{ v := d }, { v := a }, { v := b }], writes := [{ v := d }], var := true, access := true } },
   { instr := .fballot sw d a, minor := 10, d := d, mask := w d, val := w a, src := 0,
     form := { sw := sw, reads := [{ v := d }, { v := a }], writes := [{ v := d }], var := true, access := true } }]

end Sys2Proof.Machine

/-- A furrow collective waits until every member has arrived; the last to arrive gives each member its result; a clashing mask raises SYNC_MASK (R137,
R138, R139, R140). -/
def Obligations.CollectivesMeet : Prop :=
  (∀ (s : State) (sw : Bool) (d a b : BitVec 7) (r : TRef),
    (∀ c ∈ gathers s r sw d a b, s.oneOk c.form r = true → (c.minor = 7 → a ≠ 0) →
      let clashes (v : Rdv) : Prop := v ∈ (s.group r.g).rdvs ∧ v.furrow = r.t / 32 ∧ v.mask &&& c.mask ≠ 0 ∧ ¬(v.mask = c.mask ∧ v.minor = c.minor)
      let names (l : Nat) : Prop := c.mask.getLsbD l = true
      (¬names (r.t % 32) → exec c.instr s = .next (s.inSheaf.faultMaskOf r 0x0C c.mask.toNat)) ∧
      (names (r.t % 32) → (∃ v, clashes v) → ∃ m : Nat, exec c.instr s = .next (s.inSheaf.faultMaskOf r 0x0C m) ∧
        ∀ l < 32, (m.testBit l = true ↔ names l ∨ ∃ v, clashes v ∧ v.mask.getLsbD l = true)) ∧
      (names (r.t % 32) → (∀ v, ¬clashes v) → (∃ l < 32, names l ∧ (s.thread { g := r.g, t := 32 * (r.t / 32) + l }).status = .exited) →
        exec c.instr s = .next (s.inSheaf.faultMaskOf r 0x0C c.mask.toNat)) ∧
      (s.inSheaf.publishNeeds r 1 = [] → (s.group r.g).rdvs = [] →
        (∀ l < 32, c.mask.getLsbD l = true → (s.thread { g := r.g, t := 32 * (r.t / 32) + l }).status ≠ .exited) → c.mask.getLsbD (r.t % 32) = true →
        (c.mask.toNat = 2 ^ (r.t % 32) → ∃ t, exec c.instr s = .next t ∧ t.mem = s.mem ∧ (t.thread r).status = (if sw = true ∧ ((s.thread r).outs ≠ [] ∨ c.minor ≠ 8) then .parked else .ready) ∧
          (t.thread r).pc = (s.thread r).pc + 4 ∧ (t.thread r).regs = (s.thread r).regs ∧
          (c.minor ≠ 8 → ∃ o w, (t.thread r).outs.getLast? = some o ∧ o.regs = (s.thread r).regNums { v := c.d } ∧ o.val = .have [w] ∧
            memberResult c.minor c.mask [(r.t % 32, c.val, c.src, o.id)] (r.t % 32) c.val c.src w)) ∧
        (c.mask.toNat ≠ 2 ^ (r.t % 32) → ∃ t, exec c.instr s = .next t ∧ t.mem = s.mem ∧ (t.thread r).status = .waiting (.collective c.mask c.minor) ∧
          (t.thread r).pc = (s.thread r).pc + 4 ∧ (t.thread r).regs = (s.thread r).regs ∧
          ∃ id, (t.group r.g).rdvs = [{ furrow := r.t / 32, mask := c.mask, minor := c.minor, arrived := [(r.t % 32, c.val, c.src, id)] }]))) ∧
    (s.sheafOk { sw := sw, writes := [{ v := d }], var := true } = true → (∀ p ∈ s.sheaf, ∀ q ∈ s.sheaf, (s.thread p).pc = (s.thread q).pc) →
      ∃ t, exec (.elect sw d 0) s = .next t ∧
      SheafDoes s t fun r th th' => AwaitsNext sw d 1 (fun _ ws =>
        ws = [if ∀ q ∈ s.sheaf, q.g = r.g → q.t / 32 = r.t / 32 → r.t ≤ q.t then 1 else 0]) r th th')) ∧
  (∀ (s : State) (sw : Bool) (d a b : BitVec 7) (r : TRef) (v : Rdv),
    ∀ c ∈ gathers s r sw d a b, s.oneOk c.form r = true → (c.minor = 7 → a ≠ 0) → s.inSheaf.publishNeeds r 1 = [] →
      (s.group r.g).rdvs = [v] → v.furrow = r.t / 32 → v.mask = c.mask → v.minor = c.minor → (v.arrived.map (·.1)).Nodup →
      (∀ l < 32, c.mask.getLsbD l = true ↔ l = r.t % 32 ∨ ∃ m ∈ v.arrived, m.1 = l) → (∀ m ∈ v.arrived, m.1 < 32 ∧ m.1 ≠ r.t % 32) →
      (∀ m ∈ v.arrived, (s.thread { g := r.g, t := 32 * (r.t / 32) + m.1 }).status = .waiting (.collective c.mask c.minor)) →
      ∃ t id, exec c.instr s = .next t ∧ (t.group r.g).rdvs = [] ∧ (∀ w, (t.thread r).status ≠ .waiting w) ∧
        (c.minor ≠ 8 → ∃ o w, o ∈ (t.thread r).outs ∧ o.id = id ∧ o.regs = (s.thread r).regNums { v := c.d } ∧ o.val = .have [w] ∧
          memberResult c.minor c.mask (v.arrived ++ [(r.t % 32, c.val, c.src, id)]) (r.t % 32) c.val c.src w) ∧
        ∀ m ∈ v.arrived, (∀ w, (t.thread { g := r.g, t := 32 * (r.t / 32) + m.1 }).status ≠ .waiting w) ∧
          (c.minor ≠ 8 → ∀ o ∈ (t.thread { g := r.g, t := 32 * (r.t / 32) + m.1 }).outs, o.id = m.2.2.2 →
            ∃ w, o.val = .have [w] ∧ memberResult c.minor c.mask (v.arrived ++ [(r.t % 32, c.val, c.src, id)]) m.1 m.2.1 m.2.2.1 w))

/-- EXIT ends the thread and drops its results, stops a rendezvous that names it, completes a barrier that lacked it, and the group retires with its
last thread (R74, R118, R137, R144, R242, R247). -/
def Obligations.ExitEndsTheThread : Prop :=
  ∀ (s : State) (sw : Bool) (r : TRef), s.oneOk { sw := sw } r = true → (∀ o ∈ (s.thread r).outs, o.slot = none) →
    let gr := s.group r.g
    let th := s.thread r
    let base := if th.level = 0 then s else s.setCtx (s.ctxOf r.g) { s.ctx (s.ctxOf r.g) with headland := 0 }
    let gone (t : State) : Prop := (t.thread r).status = .exited ∧ (t.thread r).outs = [] ∧ (t.thread r).regs = th.regs
    let names (v : Rdv) : Prop := v ∈ gr.rdvs ∧ v.furrow = r.t / 32 ∧ v.mask.getLsbD (r.t % 32) = true
    let last : Prop := ∀ t < gr.threads.length, t ≠ r.t → (s.thread { g := r.g, t := t }).status = .exited
    let idle (b : NBar) : Prop := b.arrived = 0
    ((∃ v, names v) → ∃ u m, exec (.exit sw) s = .next (u.faultMaskOf r 0x0C m) ∧ (∀ l < 32, (m.testBit l = true ↔ ∃ v, names v ∧ v.mask.getLsbD l = true)) ∧
      SameButCopies [r] base u ∧ gone u ∧ (u.thread r).pc = th.pc) ∧
    ((∀ v, ¬names v) → (∀ g ∈ s.groupsOf gr.launch, (s.group g).gbar = 0) →
      (∀ b nb, gr.bars[b]? = some nb → nb.arrived ≠ 0 → (∀ c nb', gr.bars[c]? = some nb' → c ≠ b → idle nb') → ¬last →
        (∀ t < gr.threads.length, t ≠ r.t → nb.members.testBit (t / 32) = true → (s.thread { g := r.g, t := t }).status ≠ .exited → nb.arrived.testBit t = true) →
        ∃ t, exec (.exit sw) s = .next t ∧ t.mem = s.mem ∧ gone t ∧ (t.group r.g).bars[b]? = some { nb with arrived := 0 } ∧
          ∀ q, q.g = r.g → q ≠ r → (s.thread q).status = .waiting (.namedBar b) → ∀ w, (t.thread q).status ≠ .waiting w) ∧
      ((∀ b ∈ gr.bars, idle b) → ¬last → ∃ t, exec (.exit sw) s = .next t ∧ SameButCopies [r] base t ∧ gone t) ∧
      ((∀ b ∈ gr.bars, idle b) → last → gr.spillAt = none → gr.record = none →
        ∃ t, exec (.exit sw) s = .next t ∧ (t.group r.g).state = .retired ∧ gone t ∧
          t.stores = s.stores ∧ t.mem = s.mem ∧ t.ctxs = base.ctxs ∧ ∀ q, q.g ≠ r.g → t.thread q = s.thread q))

/-! ## Numbers -/

namespace Sys2Proof.Machine

/-- The rational value of a code's value, where it is finite. -/
def Val.rat : Val → Option ℚ
  | .fin neg num den => some ((if neg then -1 else 1) * (num / den))
  | _ => none

/-- Each thread writes W[d] and joins flags to NSTAT, and goes on (R176). -/
def FlagsNext (sw : Bool) (d : BitVec 7) (val : TRef → Thread → List Word → Flg → Prop) (r : TRef) (th th' : Thread) : Prop :=
  ∃ ws f, val r th ws f ∧ th' = ({ th.write d ws with nstat := th.nstat ||| f } : Thread).issued sw (th.pc + 4)

/-- Each thread has a result outstanding to W[d], joins flags to NSTAT, and goes on (R176, R184). -/
def FlagsAwait (sw : Bool) (d : BitVec 7) (val : Thread → Word → Flg → Prop) (_r : TRef) (th th' : Thread) : Prop :=
  ∃ w f id, val th w f ∧ th' = ({ th.await { v := d } id (.have [w]) none with nstat := th.nstat ||| f } : Thread).issued sw (th.pc + 4)

/-- The code of an exact value rounded to nearest even in a descriptor, with its flags; NV where the operation is invalid (R173, R182). -/
def roundsTo (d : Desc) (v : Val × Bool) (code : Nat) (f : Flg) : Prop :=
  ∃ g, d.rnd 0 0 v.1 = some (code, g) ∧ f = if v.2 then g ||| 8 else g

end Sys2Proof.Machine

/-- Rounding to FP32 gives a nearest representable value, and every finite FP32 value rounds to itself with no flag (R165, R172, R173, R178). -/
def Obligations.RoundingTakesTheNearest : Prop :=
  (∀ (neg : Bool) (num den : Nat), 0 < den → num < 2 ^ 127 * den →
    ∃ q : ℚ, (val32 (rnd32 (.fin neg num den)).1).rat = some q ∧
      ∀ (c : Word) (p : ℚ), (val32 c).rat = some p →
        |q - (if neg then -1 else 1) * ((num : ℚ) / den)| ≤ |p - (if neg then -1 else 1) * ((num : ℚ) / den)|) ∧
  (∀ (c : Word) (p : ℚ), (val32 c).rat = some p → rnd32 (val32 c) = (c, 0)) ∧
  ∀ (c : Word) (p : ℚ), (val32 c).rat = some p → rnd32 (dA56.value (rndA56 (val32 c))) = (c, 0)

namespace Sys2Proof.Machine

/-- FP32 forms of x = W[a] and y = W[b]: the exact result and whether the operation is invalid (R182). -/
def floatTwo : List (RegRegReg × (Val → Val → Val × Bool)) :=
  [(.fadd, fun x y => x.add y), (.fsub, fun x y => x.add y.neg), (.fmul, fun x y => x.mul y)]

/-- The packed forms: entry, and the exact result of a half (R186). -/
def floatHalves : List (RegRegReg × Desc × (Val → Val → Val × Bool)) :=
  [(.hadd2B, dBF16, fun x y => x.add y), (.hmul2B, dBF16, fun x y => x.mul y), (.hadd2F, dFP16, fun x y => x.add y),
   (.hmul2F, dFP16, fun x y => x.mul y)]

/-- A half of a word, decoded under an entry (R165). -/
def halfOf (d : Desc) (w : Word) (k : Nat) : Val := d.value (w.extractLsb' (16 * k) 16).toNat

end Sys2Proof.Machine

/-- FADD, FSUB, FMUL and FFMA, and the packed forms in each half, write the rounded exact result and join its flags; the selections write their
table's values (R176, R180, R182, R183, R186). -/
def Obligations.FloatArithmetic : Prop :=
  ((∀ p ∈ floatTwo, ∀ (s : State) (sw : Bool) (d a b : BitVec 7),
    s.sheafOk { sw := sw, reads := [{ v := a }, { v := b }], writes := [{ v := d }] } = true →
    ∃ t, exec (p.1 sw d a b) s = .next t ∧ SheafDoes s t (FlagsNext sw d fun _ th ws f => ∃ (x y w : Word), th.reads a 0 x ∧ th.reads b 0 y ∧
      ws = [w] ∧ roundsTo dFP32 (p.2 (val32 x) (val32 y)) w.toNat f)) ∧
  (∀ (s : State) (sw : Bool) (d a b : BitVec 7),
    s.sheafOk { sw := sw, reads := [{ v := d }, { v := a }, { v := b }], writes := [{ v := d }] } = true →
    ∃ t, exec (.ffma sw d a b) s = .next t ∧ SheafDoes s t (FlagsNext sw d fun _ th ws f => ∃ (z x y w : Word), th.reads d 0 z ∧ th.reads a 0 x ∧
      th.reads b 0 y ∧ ws = [w] ∧ roundsTo dFP32 ((val32 z).fma (val32 x) (val32 y)) w.toNat f)) ∧
  (∀ p ∈ floatHalves, ∀ (s : State) (sw : Bool) (d a b : BitVec 7),
    s.sheafOk { sw := sw, reads := [{ v := a }, { v := b }], writes := [{ v := d }] } = true →
    ∃ t, exec (p.1 sw d a b) s = .next t ∧ SheafDoes s t (FlagsNext sw d fun _ th ws f => ∃ (x y : Word) (lo hi : BitVec 16) (g h : Flg), th.reads a 0 x ∧
      th.reads b 0 y ∧ ws = [hi ++ lo] ∧ f = h ||| g ∧ roundsTo p.2.1 (p.2.2 (halfOf p.2.1 x 0) (halfOf p.2.1 y 0)) lo.toNat g ∧
      roundsTo p.2.1 (p.2.2 (halfOf p.2.1 x 1) (halfOf p.2.1 y 1)) hi.toNat h)) ∧
  (∀ p ∈ ([(.hfma2B, dBF16), (.hfma2F, dFP16)] : List (RegRegReg × Desc)), ∀ (s : State) (sw : Bool) (d a b : BitVec 7),
    s.sheafOk { sw := sw, reads := [{ v := d }, { v := a }, { v := b }], writes := [{ v := d }] } = true →
    ∃ t, exec (p.1 sw d a b) s = .next t ∧ SheafDoes s t (FlagsNext sw d fun _ th ws f => ∃ (z x y : Word) (lo hi : BitVec 16) (g h : Flg),
      th.reads d 0 z ∧ th.reads a 0 x ∧ th.reads b 0 y ∧ ws = [hi ++ lo] ∧ f = h ||| g ∧
      roundsTo p.2 ((halfOf p.2 z 0).fma (halfOf p.2 x 0) (halfOf p.2 y 0)) lo.toNat g ∧
      roundsTo p.2 ((halfOf p.2 z 1).fma (halfOf p.2 x 1) (halfOf p.2 y 1)) hi.toNat h)) ∧
  -- an exact zero sum of operands of opposite sign is +0 and raises no flag
  (∀ p ∈ ([(.fadd, false), (.fsub, true)] : List (RegRegReg × Bool)), ∀ (s : State) (sw : Bool) (d a b : BitVec 7),
    s.sheafOk { sw := sw, reads := [{ v := a }, { v := b }], writes := [{ v := d }] } = true →
    ∃ t, exec (p.1 sw d a b) s = .next t ∧ SheafDoes s t (FlagsNext sw d fun _ th ws f => ∃ (x y : Word), th.reads a 0 x ∧ th.reads b 0 y ∧
      ∀ q : ℚ, (val32 x).rat = some q → (val32 y).rat = some (if p.2 then q else -q) → (x.msb = y.msb ↔ p.2 = true) → ws = [0] ∧ f = 0)) ∧
  ∀ (s : State) (sw : Bool) (d a b : BitVec 7),
    s.sheafOk { sw := sw, reads := [{ v := d }, { v := a }, { v := b }], writes := [{ v := d }] } = true →
    ∃ t, exec (.ffma sw d a b) s = .next t ∧ SheafDoes s t (FlagsNext sw d fun _ th ws f => ∃ (z x y : Word), th.reads d 0 z ∧ th.reads a 0 x ∧
      th.reads b 0 y ∧ ∀ p q : ℚ, (val32 x).rat = some p → (val32 y).rat = some q → (val32 z).rat = some (-(p * q)) →
        z.msb ≠ (x.msb ^^ y.msb) → ws = [0] ∧ f = 0)) ∧
  (∀ (s : State) (sw : Bool) (d a b : BitVec 7),
    (s.sheafOk { sw := sw, reads := [{ v := a }], writes := [{ v := d }] } = true →
      (∃ t, exec (.fabs sw d a) s = .next t ∧ SheafDoes s t (WritesNext sw d fun th ws => ∃ x, th.reads a 0 x ∧ ws = [x &&& 0x7FFFFFFF])) ∧
      ∃ t, exec (.fneg sw d a) s = .next t ∧ SheafDoes s t (WritesNext sw d fun th ws => ∃ x, th.reads a 0 x ∧ ws = [x ^^^ 0x80000000])) ∧
    (s.sheafOk { sw := sw, reads := [{ v := a }, { v := b }], writes := [{ v := d }] } = true →
      (∀ p ∈ ([(.fmin, true), (.fmax, false)] : List (RegRegReg × Bool)),
        ∃ t, exec (p.1 sw d a b) s = .next t ∧ SheafDoes s t (WritesNext sw d fun th ws => ∃ x y w : Word, th.reads a 0 x ∧ th.reads b 0 y ∧ ws = [w] ∧
          ((val32 x = .nan → val32 y = .nan → w = 0x7FC00000) ∧ (val32 x = .nan → val32 y ≠ .nan → w = y) ∧
           (val32 x ≠ .nan → val32 y = .nan → w = x) ∧
           (val32 x ≠ .nan → val32 y ≠ .nan → (w = x ∨ w = y) ∧
             ((val32 x).lt (val32 y) = true → w = if p.2 then x else y) ∧ ((val32 y).lt (val32 x) = true → w = if p.2 then y else x) ∧
             ((val32 x).lt (val32 y) = false → (val32 y).lt (val32 x) = false → x.msb = true → y.msb = false → w = if p.2 then x else y) ∧
             ((val32 x).lt (val32 y) = false → (val32 y).lt (val32 x) = false → x.msb = false → y.msb = true → w = if p.2 then y else x))))) ∧
      ∃ t, exec (.fcmp sw d a b) s = .next t ∧ SheafDoes s t (WritesNext sw d fun th ws => ∃ x y : Word, th.reads a 0 x ∧ th.reads b 0 y ∧
        ws = [if val32 x = .nan ∨ val32 y = .nan then 8 else if (val32 x).lt (val32 y) then 1 else if (val32 y).lt (val32 x) then 4 else 2])) ∧
    (s.sheafOk { sw := sw, reads := [{ v := d }, { v := a }, { v := b }], writes := [{ v := d }] } = true →
      ∃ t, exec (.fsel sw d a b) s = .next t ∧ SheafDoes s t (WritesNext sw d fun th ws => ∃ z x y : Word, th.reads d 0 z ∧ th.reads a 0 x ∧
        th.reads b 0 y ∧ ws = [if val32 z ≠ .nan ∧ (val32 z).lt (.fin false 0 1) = false then x else y])))

namespace Sys2Proof.Machine

/-- The FP32 spacing at a positive exact value, subnormal range included (R184). -/
def ulpAt (x : ℚ) : ℚ := 2 ^ (max (floorLog x.num.natAbs x.den) (-126) - 23 : ℤ)

/-- What R184 says of a function on finite inputs whose exact result is rational or a square root: the delivered value q for an exact value x. -/
def near1 (q x : ℚ) : Prop := |q - x| ≤ ulpAt |x|

/-- The seven functions of one operand of R184. -/
def functions : List (Bool → BitVec 7 → BitVec 7 → Instr) := [.frcp, .frsq, .fsqrt, .fexp2, .flog2, .fsin, .fcos]

/-- What R184 states of the delivered word w and flags f for the operand x, beside its error bounds: the specials of each function, in the
order of `functions`. -/
def specials (k : Nat) (x w : Word) (f : Flg) : Prop :=
  (val32 x = .nan → w = 0x7FC00000 ∧ f = 0) ∧
  match k with
  | 0 => (∀ n d, val32 x = .fin n 0 d → w = (if n then 0xFF800000 else 0x7F800000) ∧ f = 16) ∧
    (∀ n, val32 x = .inf n → w = (if n then 0x80000000 else 0) ∧ f = 0)
  | 1 => (∀ n d, val32 x = .fin n 0 d → w = (if n then 0xFF800000 else 0x7F800000) ∧ f = 16) ∧
    (∀ m d, val32 x = .fin true (m + 1) d → w = 0x7FC00000 ∧ f = 8) ∧ (val32 x = .inf true → w = 0x7FC00000 ∧ f = 8) ∧
    (val32 x = .inf false → w = 0 ∧ f = 0)
  | 2 => (∀ n d, val32 x = .fin n 0 d → w = x ∧ f = 0) ∧ (∀ m d, val32 x = .fin true (m + 1) d → w = 0x7FC00000 ∧ f = 8) ∧
    (val32 x = .inf true → w = 0x7FC00000 ∧ f = 8) ∧ (val32 x = .inf false → w = 0x7F800000 ∧ f = 0)
  | 3 => (val32 x = .inf true → w = 0 ∧ f = 0) ∧ (val32 x = .inf false → w = 0x7F800000 ∧ f = 0) ∧
    (∀ q, (val32 x).rat = some q → 128 ≤ q → w = 0x7F800000 ∧ f = 5) ∧
    (∀ i : ℤ, (val32 x).rat = some (i : ℚ) → -149 ≤ i → i < 128 → (val32 w).rat = some ((2 : ℚ) ^ i))
  | 4 => (∀ n d, val32 x = .fin n 0 d → w = 0xFF800000 ∧ f = 16) ∧ (∀ m d, val32 x = .fin true (m + 1) d → w = 0x7FC00000 ∧ f = 8) ∧
    (val32 x = .inf true → w = 0x7FC00000 ∧ f = 8) ∧ (val32 x = .inf false → w = 0x7F800000 ∧ f = 0) ∧
    (∀ i : ℤ, (val32 x).rat = some ((2 : ℚ) ^ i) → (val32 w).rat = some (i : ℚ))
  | 5 => (∀ n d, val32 x = .fin n 0 d → w = x ∧ f = 0) ∧ (∀ n, val32 x = .inf n → w = 0x7FC00000 ∧ f = 8)
  | _ => (∀ n d, val32 x = .fin n 0 d → w = 0x3F800000 ∧ f = 0) ∧ (∀ n, val32 x = .inf n → w = 0x7FC00000 ∧ f = 8)

end Sys2Proof.Machine

/-- The variable-latency functions leave a result outstanding that meets the specials of their table, and FRCP and FDIV their error bounds (R184,
R185). -/
def Obligations.BoundedFunctions : Prop :=
  ∀ (s : State) (sw : Bool) (d a b : BitVec 7),
    (s.sheafOk { sw := sw, reads := [{ v := a }], writes := [{ v := d }], var := true } = true →
      ∀ p ∈ functions.zipIdx, ∃ t, exec (p.1 sw d a) s = .next t ∧ SheafDoes s t (FlagsAwait sw d fun th w f => ∃ x : Word, th.reads a 0 x ∧
        specials p.2 x w f ∧ (p.2 = 0 → ∀ q y : ℚ, (val32 x).rat = some q → q ≠ 0 → (val32 w).rat = some y → near1 y (1 / q)))) ∧
    (s.sheafOk { sw := sw, reads := [{ v := a }, { v := b }], writes := [{ v := d }], var := true } = true →
      ∃ t, exec (.fdiv sw d a b) s = .next t ∧ SheafDoes s t (FlagsAwait sw d fun th w f => ∃ x y : Word, th.reads a 0 x ∧ th.reads b 0 y ∧
        (val32 x = .nan ∨ val32 y = .nan → w = 0x7FC00000 ∧ f = 0) ∧
        (∀ n m, val32 x = .inf n → val32 y = .inf m → w = 0x7FC00000 ∧ f = 8) ∧
        (∀ n m u v, val32 x = .fin n 0 u → val32 y = .fin m 0 v → w = 0x7FC00000 ∧ f = 8) ∧
        (∀ n m k u v, val32 x = .fin n (k + 1) u → val32 y = .fin m 0 v → w = (if n = m then 0x7F800000 else 0xFF800000) ∧ f = 16) ∧
        (∀ n m k u v l, val32 x = .fin n k u → val32 y = .fin m (l + 1) v → w = (rnd32 (.fin (n != m) (k * v) (u * (l + 1)))).1) ∧
        (∀ n m k u, val32 x = .fin n k u → val32 y = .inf m → w = (if n = m then 0 else 0x80000000) ∧ f = 0)))

namespace Sys2Proof.Machine

/-- An integer that a mode may give for a value that is no integer: one of its two neighbours, the one the mode names, and either for the
stochastic mode (R173). -/
def roundsUnder (m : BitVec 3) (q : ℚ) (i : ℤ) : Prop :=
  |(i : ℚ) - q| < 1 ∧
  (m = 0 → |(i : ℚ) - q| ≤ 1 / 2 ∧ (|(i : ℚ) - q| = 1 / 2 → i % 2 = 0)) ∧
  (m = 1 → |(i : ℚ) - q| ≤ 1 / 2 ∧ (|(i : ℚ) - q| = 1 / 2 → |q| < |(i : ℚ)|)) ∧
  (m = 2 → |(i : ℚ)| < |q|) ∧ (m = 3 → q < i) ∧ (m = 4 → (i : ℚ) < q)

end Sys2Proof.Machine

/-- CVTI, CVTU, CVTA, CVTF and CVTN convert as their rules say, saturate with NV, and fault on an entry or position they refuse (R173, R176, R187,
R188, R189, R190). -/
def Obligations.Conversions : Prop :=
  ∀ (s : State) (sw : Bool) (d a : BitVec 7),
    (s.sheafOk { sw := sw, reads := [{ v := a }], writes := [{ v := d }] } = true →
      (∀ p ∈ ([(.cvti, -2 ^ 31, 2 ^ 31 - 1), (.cvtu, 0, 2 ^ 32 - 1)] : List ((Bool → BitVec 7 → BitVec 7 → BitVec 1 → BitVec 3 → Instr) × Int × Int)),
        ∀ m : BitVec 3, ∃ t, exec (p.1 sw d a 0 m) s = .next t ∧ SheafDoes s t (FlagsNext sw d fun _ th ws f => ∃ x w : Word, th.reads a 0 x ∧ ws = [w] ∧
          (val32 x = .nan → w = 0 ∧ f = 8) ∧ (∀ n, val32 x = .inf n → w = .ofInt 32 (if n then p.2.1 else p.2.2) ∧ f = 8) ∧
          (∀ i : ℤ, (val32 x).rat = some (i : ℚ) →
            (p.2.1 ≤ i → i ≤ p.2.2 → w = .ofInt 32 i ∧ f = 0) ∧ (i < p.2.1 → w = .ofInt 32 p.2.1 ∧ f = 8) ∧ (p.2.2 < i → w = .ofInt 32 p.2.2 ∧ f = 8)) ∧
          (∀ q : ℚ, (val32 x).rat = some q → (∀ i : ℤ, q ≠ i) → ∃ i : ℤ, roundsUnder m q i ∧
            (p.2.1 ≤ i → i ≤ p.2.2 → w = .ofInt 32 i ∧ f = 1) ∧ (i < p.2.1 → w = .ofInt 32 p.2.1 ∧ f = 8) ∧ (p.2.2 < i → w = .ofInt 32 p.2.2 ∧ f = 8)))) ∧
      (∀ p ∈ ([(.cvti, fun x => x.toInt), (.cvtu, fun x => x.toNat)] : List ((Bool → BitVec 7 → BitVec 7 → BitVec 1 → BitVec 3 → Instr) × (Word → Int))),
        ∀ m : BitVec 3, ∃ t, exec (p.1 sw d a 1 m) s = .next t ∧ SheafDoes s t (FlagsNext sw d fun _ th ws f => ∃ x w : Word, th.reads a 0 x ∧ ws = [w] ∧
          ((p.2 x).natAbs ≤ 2 ^ 24 → (val32 w).rat = some (p.2 x : ℚ) ∧ f = 0)))) ∧
    (s.sheafOk { sw := sw, reads := [{ v := a, n := 2 }], writes := [{ v := d }] } = true →
      ∃ t, exec (.cvta sw d a 0) s = .next t ∧ SheafDoes s t (FlagsNext sw d fun _ th ws f => ∃ (x : DWord) (w : Word), th.readsPair a x ∧ ws = [w] ∧
        dFP32.rnd 0 0 (dA56.value (x.extractLsb' 0 56).toNat) = some (w.toNat, f))) ∧
    (s.sheafOk { sw := sw, reads := [{ v := a }], writes := [{ v := d, n := 2 }] } = true →
      ∃ t, exec (.cvta sw d a 1) s = .next t ∧ SheafDoes s t (WritesNext sw d fun th ws => ∃ (x : Word) (p : DWord), th.reads a 0 x ∧ ws = pairWords p ∧
        p.toNat < 2 ^ 56 ∧ dA56.rnd 0 0 (val32 x) = some (p.toNat, 0))) ∧
    (∀ (e : BitVec 6) (pos : BitVec 3),
      let entry (r : TRef) : Desc := (s.tableOf r).entry e.toNat
      let ok (r : TRef) : Prop := (entry r).valid = true ∧ (e.toNat < 13 ∨ 16 ≤ e.toNat) ∧ (pos.toNat + 1) * (entry r).laneWidth ≤ 32
      (s.sheafOk { sw := sw, reads := [{ v := a }], writes := [{ v := d }] } = true → (∀ r ∈ s.sheaf, ok r) →
        ∃ t, exec (.cvtf sw d a e pos) s = .next t ∧ SheafDoes s t fun r th th' => WritesNext sw d (fun th ws => ∃ x : Word, th.reads a 0 x ∧
          ws = [(rnd32 ((entry r).value ((x >>> ((entry r).laneWidth * pos.toNat)).toNat % 2 ^ (entry r).w))).1]) r th th') ∧
      (s.sheafOk { sw := sw, reads := [{ v := d }, { v := a }], writes := [{ v := d }] } = true → (∀ r ∈ s.sheaf, ok r ∧ (e.toNat < 13 ∨ (entry r).check = 0) ∧ (entry r).ovf ≠ 3) →
        ∀ m : BitVec 3, ∃ t, exec (.cvtn sw d a e m pos) s = .next t ∧ SheafDoes s t (FlagsNext sw d fun r th ws f => ∃ (z x w : Word) (code h : Nat), th.reads d 0 z ∧
          th.reads a 0 x ∧ ws = [w] ∧ (entry r).rnd m.toNat h (val32 x) = some (code, f) ∧
          ∀ i < 32, w.getLsbD i = if (entry r).laneWidth * pos.toNat ≤ i ∧ i < (entry r).laneWidth * (pos.toNat + 1)
            then code.testBit (i - (entry r).laneWidth * pos.toNat) else z.getLsbD i)) ∧
      ∀ (r : TRef) (m : BitVec 3) (i : Instr),
        (i = .cvtf sw d a e pos ∧ s.oneOk { sw := sw, reads := [{ v := a }], writes := [{ v := d }] } r = true) ∨
          (i = .cvtn sw d a e m pos ∧ s.oneOk { sw := sw, reads := [{ v := d }, { v := a }], writes := [{ v := d }] } r = true) →
        (((entry r).valid = false ∨ e.toNat = 13 ∨ e.toNat = 14 ∨ e.toNat = 15) → exec i s = .next (s.inSheaf.faultOf r 0x0A 0 e.toNat)) ∧
        ((entry r).valid = true → (e.toNat < 13 ∨ 16 ≤ e.toNat) → 32 < (pos.toNat + 1) * (entry r).laneWidth →
          exec i s = .next (s.inSheaf.faultOf r 0x0A pos.toNat e.toNat)) ∧
        (ok r → i = .cvtn sw d a e m pos → (∀ h, (entry r).rnd m.toNat h (val32 (s.inSheaf.reg r a)) = none) →
          exec i s = .next (s.inSheaf.faultOf r 0x0B (s.inSheaf.reg r a).toNat e.toNat)))

/-- FMTSET sends a descriptor to the hub and parks, its installs replace one entry die by die, and FMTGET and FMTCHK read as their rules say (R163,
R191, R192, R193, R194, R195). That an FMTSET stands at the hub as it issues is the model's choice (log entry 174). -/
def Obligations.FormatTable : Prop :=
  ∀ (s : State) (sw : Bool) (d a b : BitVec 7) (r : TRef),
    (s.oneOk { sw := true, reads := [{ v := a }, { v := b, n := 2 }], var := true } r = true →
      let i := (s.inSheaf.reg r a).toNat
      let p := s.inSheaf.pair r b
      (16 ≤ i → i < 64 → p.getLsbD 63 = false ∨ Desc.check p = 0 → ∃ t q, exec (.fmtset sw a b) s = .next t ∧ t.fmtReqs = s.fmtReqs ++ [q] ∧
        SameBut [r] { s with fmtReqs := t.fmtReqs } t ∧ q.ctx = s.ctxOf r.g ∧ q.entry = i ∧ q.desc = (if p.getLsbD 63 then p else 0) ∧
        q.kicks = (if ∃ p ∈ s.fmtReqs, p.ctx = s.ctxOf r.g then [] else s.kicksOf (s.ctxOf r.g) fun _ => true) ∧ q.done = [] ∧
        (t.thread r).status = .parked ∧ (t.thread r).pc = (s.thread r).pc + 4 ∧ (t.thread r).regs = (s.thread r).regs) ∧
      (i < 16 ∨ 64 ≤ i → exec (.fmtset sw a b) s = .next (s.inSheaf.faultOf r 0x0A p.toNat i)) ∧
      (p.getLsbD 63 = true → Desc.check p ≠ 0 → exec (.fmtset sw a b) s = .next (s.inSheaf.faultOf r 0x0A p.toNat i))) ∧
    (∀ (ctx die : Nat) (q : FmtReq) (qs : List FmtReq), s.fmtReqs = q :: qs → q.ctx = ctx → q.kicks = [] → 16 ≤ q.entry → q.entry < 64 → q ∉ qs →
      (∀ p ∈ qs, p.done = []) → die < 4 → die ∉ q.done → (∀ k < die, k ∈ q.done) →
      (q.done.length < 3 → ∃ t, exec (.fmtsetInstall ctx) s = .next t ∧ t = { s with fmtReqs := { q with done := die :: q.done } :: qs } ∧
        (t.fmtCtx ctx die).entry q.entry = q.desc ∧ (∀ e < 64, e ≠ q.entry → (t.fmtCtx ctx die).entry e = (s.fmtCtx ctx die).entry e) ∧
        ∀ k, k ≠ die → t.fmtCtx ctx k = s.fmtCtx ctx k) ∧
      (3 ≤ q.done.length → ∃ t, exec (.fmtsetInstall ctx) s = .next t ∧ ((∀ p ∈ qs, p.ctx ≠ ctx) → t.fmtReqs = qs) ∧
        (∀ p qs', qs = p :: qs' → p.ctx = ctx → t.fmtReqs = { p with kicks := s.kicksOf ctx fun _ => true } :: qs') ∧ (t.ctx ctx).entry q.entry = q.desc ∧
        (∀ e < 64, e ≠ q.entry → (t.ctx ctx).entry e = (s.ctx ctx).entry e) ∧ t.mem = s.mem)) ∧
    (s.sheafOk { sw := sw, reads := [{ v := a }], writes := [{ v := d, n := 2 }], var := true } = true →
      (∀ q ∈ s.sheaf, ∀ x, (s.thread q).reads a 0 x → x.toNat < 64) →
      ∃ t, exec (.fmtget sw d a) s = .next t ∧ SheafDoes s t fun q th th' => AwaitsNext sw d 2 (fun th ws => ∃ x : Word, th.reads a 0 x ∧
        ws = pairWords ((s.tableOf q).entry x.toNat)) q th th') ∧
    (s.oneOk { sw := sw, reads := [{ v := a }], writes := [{ v := d, n := 2 }], var := true } r = true → 64 ≤ (s.inSheaf.reg r a).toNat →
      exec (.fmtget sw d a) s = .next (s.inSheaf.faultOf r 0x0A 0 (s.inSheaf.reg r a).toNat)) ∧
    (∀ clr : BitVec 5, s.sheafOk { sw := sw, writes := [{ v := d, n := 2 }], var := true } = true →
      ∃ t, exec (.fmtgetSt sw d clr) s = .next t ∧ SheafDoes s t fun _ th th' => ∃ id,
        th' = ({ th.await { v := d, n := 2 } id (.have [th.nstat.setWidth 32, 0]) none with nstat := th.nstat &&& ~~~clr } : Thread).issued sw (th.pc + 4)) ∧
    ∀ (x : BitVec 1) (e : BitVec 6), s.sheafOk { sw := sw, reads := [{ v := a, n := 2 }], writes := [{ v := d }] } = true →
      ∃ t, exec (.fmtchk sw d a x e) s = .next t ∧ SheafDoes s t fun q th th' => WritesNext sw d (fun th ws => ∃ p : DWord, th.readsPair a p ∧
        ws = [.ofNat 32 (Desc.check p + if x = 1 ∧ p = (s.tableOf q).entry e.toNat then 2 ^ 31 else 0)]) q th th' 

/-! ## Memory -/

namespace Sys2Proof.Machine

/-- Word k of some bytes, the first byte lowest; bytes beyond the end are zero (R1). -/
def wordAt (bs : List Byte) (k : Nat) : Word :=
  (bs.getD (4 * k + 3) 0 ++ bs.getD (4 * k + 2) 0) ++ (bs.getD (4 * k + 1) 0 ++ bs.getD (4 * k) 0)

/-- What a lane load writes from the bytes it read: size codes 1 and 3 extend the sign, and 5 and 6 fill a pair and a quadruple (R205, R206). -/
def loadWords (z : BitVec 3) (bs : List Byte) : List Word :=
  if z = 1 then [(bs.getD 0 0).signExtend 32]
  else if z = 3 then [(bs.getD 1 0 ++ bs.getD 0 0).signExtend 32]
  else (List.range (sizeRegs z)).map (wordAt bs)

/-- The low n bytes of a register group as read at issue (R25, R206). -/
def regBytes (s : State) (r : TRef) (d : BitVec 7) (n : Nat) : List Byte :=
  (List.range n).map fun i => (s.reg r d (i / 4)).extractLsb' (8 * (i % 4)) 8

/-- The first failing check of R197 for an access of some bytes at an exact address, as code and detail1. -/
def pointerFault (s : State) (r : TRef) (p : DWord) (addr : Int) (size : Nat) (store : Bool) : Option (Nat × Nat) :=
  let space := (p.extractLsb' 60 4).toNat
  let cluster := (p.extractLsb' 53 7).toNat
  let core := (p.extractLsb' 50 3).toNat
  let l := s.launchOf r.g
  let out : Prop := addr < 0 ∨ 2 ^ 50 ≤ addr
  let a := addr.toNat
  if space = 0 then some (0x07, 0)
  else if space ≠ 1 ∧ space ≠ 2 ∧ space ≠ 4 ∧ space ≠ 6 ∧ space ≠ 8 then some (0x08, 1)
  else if ((space = 2 ∨ space = 4) ∧ 64 ≤ cluster) ∨ (space = 2 ∧ 6 ≤ core) then some (0x08, 2)
  else if store = true ∧ (space = 6 ∨ space = 8) then some (0x08, 3)
  else if addr % size ≠ 0 then some (0x09, size)
  else if space = 1 then (if out ∨ l.hdr.spill < a + size then some (0x05, 1) else none)
  else if space = 2 then
    (if out then some (0x05, 0)
     else if 2 ^ 19 ≤ a ∧ (cluster ≠ (s.group r.g).core / 6 ∨ ¬∃ h ∈ s.groupsOf (s.group r.g).launch,
        (s.group h).lin + 1 = a / 2 ^ 19 ∧ (s.group h).core = 6 * cluster + core ∧ (s.group h).state = .resident) then some (0x05, 2)
     else if l.hdr.gmem < a % 2 ^ 19 + size then some (0x05, 0)
     else none)
  else if space = 4 then (if out ∨ 65536 * (tget {} l.scratch (cluster / 16)).frames.length < a + size then some (0x06, cluster / 16) else none)
  else if space = 6 then (if out ∨ l.hdr.codebytes < a + size then some (0x08, 5) else none)
  else (if out ∨ l.const.length < a + size then some (0x08, 5) else none)

/-- As SameBut, but loads have also filled the views of cores and the die copies with what they fetched (R213). -/
def SameView (rs : List TRef) (s t : State) : Prop :=
  SameBut rs { s with cores := t.cores, dies := t.dies } t ∧ (∀ k, t.core k = { s.core k with view := (t.core k).view }) ∧
    ∀ k, t.die k = { s.die k with copies := (t.die k).copies }

/-- The registers LD and ST use (R205). -/
def ldForm (sw : Bool) (d a : BitVec 7) (z : BitVec 3) : Form :=
  { sw := sw, reads := [{ v := a, n := 2 }], writes := [{ v := d, n := sizeRegs z }], var := true, access := true }
def stForm (sw : Bool) (d a : BitVec 7) (z : BitVec 3) : Form :=
  { sw := sw, reads := [{ v := d, n := sizeRegs z }, { v := a, n := 2 }], access := true }

/-- No byte that core c's threads have stored and that is not performed yet lies in n bytes from x. -/
def State.noneHeld (s : State) (c x n : Nat) : Prop := ∀ e ∈ s.stores, e.core = c → ¬(x ≤ e.addr ∧ e.addr < x + n)

end Sys2Proof.Machine

/-- LD and ST check the pointer and the address in the order of R197, take the first failing check, and reach a place where none fails (R196, R197,
R199, R200, R203, R204). -/
def Obligations.PointerChecksInOrder : Prop :=
  ∀ (s : State) (sw : Bool) (d a : BitVec 7) (z : BitVec 3) (o : BitVec 9) (r : TRef),
    let p := s.inSheaf.pair r a
    let n := sizeBytes z
    let addr : Int := (p.toNat % 2 ^ 50 : Nat) + o.toInt * n
    (s.oneOk (ldForm sw d a z) r = true → ∀ c d1, pointerFault s r p addr n false = some (c, d1) →
      exec (.ld sw d a z o) s = .next (s.inSheaf.faultOf r c p.toNat d1)) ∧
    (s.oneOk (stForm sw d a z) r = true → ∀ c d1, pointerFault s r p addr n true = some (c, d1) →
      exec (.st sw d a z o) s = .next (s.inSheaf.faultOf r c p.toNat d1)) ∧
    ∀ st, pointerFault s r p addr n st = none → ∃ pl, s.inSheaf.resolve r p (o.toInt * n) n st = .ok pl ∧
      ((p.toNat / 2 ^ 60 = 1 → pl = .priv (spillAddr r.g r.t addr.toNat)) ∧
       (p.toNat / 2 ^ 60 = 2 → addr < 2 ^ 19 → pl = .loc (gmemAddr (s.group r.g).core ((s.group r.g).gbase + addr.toNat))) ∧
       (p.toNat / 2 ^ 60 = 6 → pl = .code addr.toNat) ∧ (p.toNat / 2 ^ 60 = 8 → pl = .const addr.toNat))

/-- LD makes its result outstanding from the bytes at its place, extended by its size, and changes no byte of memory (R204, R205, R206, R213, R349).
That the lane stays at the instruction while a home relocks is the model's choice (log entry 62). -/
def Obligations.LoadsRead : Prop :=
  ∀ (s : State) (sw : Bool) (d a : BitVec 7) (z : BitVec 3) (o : BitVec 9) (r : TRef), s.oneOk (ldForm sw d a z) r = true →
    let n := sizeBytes z
    let place := s.inSheaf.resolve r (s.inSheaf.pair r a) (o.toInt * n) n false
    let th := s.thread r
    let c := (s.group r.g).core
    let gets (bs : List Byte) : Prop := ∃ t id, exec (.ld sw d a z o) s = .next t ∧ SameBut [r] s t ∧
      t.thread r = (th.await { v := d, n := sizeRegs z } id (.have (loadWords z bs)) none).issued sw (th.pc + 4)
    (∀ x, place = .ok (.priv x) → gets (s.rds x n)) ∧
    (∀ x, place = .ok (.code x) → gets ((List.range n).map fun i => s.codeByte (s.launchOf r.g) (x + i))) ∧
    (∀ x, place = .ok (.const x) → gets ((List.range n).map fun i => (s.launchOf r.g).const.getD (x + i) 0)) ∧
    (∀ x, place = .ok (.loc x) → ownGmem c x = true → ownGmem c (x + n - 1) = true → s.noneHeld c x n → s.ownAtom r x n = false → gets (s.rds x n)) ∧
    (∀ x, place = .ok (.loc x) → s.inSheaf.loadWaits c x n = false → s.ownAtom r x n = false → ∃ t seen id, exec (.ld sw d a z o) s = .next t ∧ SameView [r] s t ∧
      t.thread r = (({ th with seen := seen } : Thread).await { v := d, n := sizeRegs z } id
        (.have (loadWords z (s.inSheaf.viewBytes c r x n).2)) none).issued sw (th.pc + 4)) ∧
    ∀ x, place = .ok (.loc x) → s.inSheaf.loadWaits c x n = true ∨ s.ownAtom r x n = true → exec (.ld sw d a z o) s = .next s.inSheaf

/-- ST writes the low bytes of its registers at its place: at once in the spill stack and its own group memory, as retired stores elsewhere (R203,
R205, R206, R213, R214, R217, R232). That the lane stays at the instruction while a publish of its thread is incomplete is the model's choice (log
entry 11). -/
def Obligations.StoresWrite : Prop :=
  ∀ (s : State) (sw : Bool) (d a : BitVec 7) (z : BitVec 3) (o : BitVec 9) (r : TRef), s.oneOk (stForm sw d a z) r = true →
    let n := sizeBytes z
    let place := s.inSheaf.resolve r (s.inSheaf.pair r a) (o.toInt * n) n true
    let th := s.thread r
    let c := (s.group r.g).core
    let data := regBytes s.inSheaf r d n
    let writes (x : Nat) : Prop := ∃ t, exec (.st sw d a z o) s = .next t ∧ SameBut [r] (s.wrs x data) t ∧ t.thread r = th.issued sw (th.pc + 4)
    (∀ x, place = .ok (.priv x) → writes x) ∧
    (∀ x, place = .ok (.loc x) → ownGmem c x = true → ownGmem c (x + n - 1) = true → th.after = [] → th.atoms = [] → s.noneHeld c x n →
      s.watchers x n = [] → (∀ i < n, s.unitBusy (x + i) = false) → writes x) ∧
    (∀ x, place = .ok (.loc x) → s.publishing r = true ∨ s.ownAtom r x n = true → exec (.st sw d a z o) s = .next s.inSheaf) ∧
    ∀ x, place = .ok (.loc x) → s.publishing r = false → s.ownAtom r x n = false → (∀ i < n, ownGmem c (x + i) = false) → ∃ t, exec (.st sw d a z o) s = .next t ∧ t.mem = s.mem ∧
      SameBut [r] { s with stores := t.stores, cores := t.cores } t ∧ (∀ k, t.core k = { s.core k with view := (t.core k).view }) ∧
      t.thread r = th.issued sw (th.pc + 4) ∧ ∃ es, t.stores = s.stores ++ es ∧
        es.map (fun e => (e.thr, e.core, e.addr, e.val, e.nib)) = data.zipIdx.map fun b => (r, c, x + b.2, b.1, 0)

/-- A byte that was written reads back, every other byte is left alone, and a thread's load returns the bytes that its own last store wrote (R1, R206,
R212, R213, R214). -/
def Obligations.ByteReadAfterWrite : Prop :=
  (∀ (s : State) (x : Nat) (bs : List Byte), Memory.wf s.mem = true →
    Memory.wf (s.wrs x bs).mem = true ∧ (s.wrs x bs).rds x bs.length = bs ∧ ∀ a, a < x ∨ x + bs.length ≤ a → (s.wrs x bs).rd a = s.rd a) ∧
  (∀ m m' : List Host.Cell, Memory.wf m = true → Memory.wf m' = true → (∀ a, memRd m a = memRd m' a) → m = m') ∧
  ∀ (s : State) (c : Nat) (r : TRef) (x : Nat) (bs : List Byte), Memory.wf s.mem = true → ((s.storeBytes c r x bs).viewBytes c r x bs.length).2 = bs

/-- LDS and STS move one word at SP plus W[a] plus four times B, with their alignment and bound faults (R211). -/
def Obligations.SpillWords : Prop :=
  ∀ (s : State) (sw : Bool) (d a o : BitVec 7) (r : TRef),
    let th := s.thread r
    let addr : Int := th.sp.toNat + (s.inSheaf.reg r a).toInt + 4 * o.toInt
    let bad : Prop := addr < 0 ∨ (s.launchOf r.g).hdr.spill < addr + 4
    let at0 := spillAddr r.g r.t addr.toNat
    let d0 := (BitVec.ofInt 64 addr).toNat
    (s.oneOk { sw := sw, reads := [{ v := a }], writes := [{ v := d }], var := true, access := true } r = true →
      (addr % 4 ≠ 0 → exec (.lds sw d a o) s = .next (s.inSheaf.faultOf r 0x09 d0 4)) ∧
      (addr % 4 = 0 → bad → exec (.lds sw d a o) s = .next (s.inSheaf.faultOf r 0x05 d0 1)) ∧
      (addr % 4 = 0 → ¬bad → ∃ t id, exec (.lds sw d a o) s = .next t ∧ SameBut [r] s t ∧
        t.thread r = (th.await { v := d } id (.have [wordAt (s.rds at0 4) 0]) none).issued sw (th.pc + 4))) ∧
    (s.oneOk { sw := sw, reads := [{ v := d }, { v := a }], access := true } r = true →
      (addr % 4 ≠ 0 → exec (.sts sw d a o) s = .next (s.inSheaf.faultOf r 0x09 d0 4)) ∧
      (addr % 4 = 0 → bad → exec (.sts sw d a o) s = .next (s.inSheaf.faultOf r 0x05 d0 1)) ∧
      (addr % 4 = 0 → ¬bad → ∃ t, exec (.sts sw d a o) s = .next t ∧ SameBut [r] (s.wrs at0 (regBytes s.inSheaf r d 4)) t ∧
        t.thread r = th.issued sw (th.pc + 4)))

/-- LDF decodes and STF encodes one element of a scratch page by the page's format, with its block scale, and keep every other bit (R208, R209, R210).
-/
def Obligations.ScratchElements : Prop :=
  ∀ (s : State) (sw : Bool) (d a b : BitVec 7) (r : TRef),
    let s0 := s.inSheaf
    let p := s0.pair r a
    let th := s.thread r
    let c := (s.group r.g).core
    (s.oneOk { sw := sw, reads := [{ v := a, n := 2 }, { v := b }], writes := [{ v := d }], var := true, access := true } r = true →
      (∀ x d1, s0.elem r p (s0.reg r b).toNat false = .error (x, d1) → exec (.ldf sw d a b) s = .next (s0.faultOf r x p.toNat d1)) ∧
      ∀ el, s0.elem r p (s0.reg r b).toNat false = .ok el → s0.elemWaits r el true = false →
        let code := s0.elemCode r el
        let sc := code.1.elemScale r el
        ∃ t seen id w fl, exec (.ldf sw d a b) s = .next t ∧ SameView [r] s t ∧
          t.thread r = (({ th with seen := seen, nstat := th.nstat ||| fl } : Thread).await { v := d } id (.have [w]) none).issued sw (th.pc + 4) ∧
          (el.e = 15 → w = .ofNat 32 code.2 ∧ fl = 0) ∧
          (el.e ≠ 15 → sc.2 = none → w = (rnd32 (el.desc.value code.2)).1 ∧ fl = 0) ∧
          ∀ v, el.e ≠ 15 → sc.2 = some v → (w, fl) = rnd32 ((el.desc.value code.2).scaled v)) ∧
    (s.oneOk { sw := sw, reads := [{ v := d }, { v := a, n := 2 }, { v := b }], access := true } r = true →
      (∀ x d1, s0.elem r p (s0.reg r b).toNat true = .error (x, d1) → exec (.stf sw d a b) s = .next (s0.faultOf r x p.toNat d1)) ∧
      ∀ el, s0.elem r p (s0.reg r b).toNat true = .ok el → s0.elemWaits r el false = false → s.publishing r = false → s.ownAtom r el.addr el.bytes = false → (∀ i < el.bytes, ownGmem c (el.addr + i) = false) →
        let sc := s0.elemScale r el
        let w := s0.reg r d
        let stores (code : Nat) (fl : Flg) : Prop := ∃ t seen, exec (.stf sw d a b) s = .next t ∧ SameView [r] { s with stores := t.stores } t ∧
          t.thread r = ({ th with seen := seen, nstat := th.nstat ||| fl } : Thread).issued sw (th.pc + 4) ∧ ∃ es, t.stores = s.stores ++ es ∧
            es.map (fun e => (e.thr, e.core, e.addr, e.nib, e.val)) =
              if el.nib = 0 then (bytesOf el.bytes code).zipIdx.map fun x => (r, c, el.addr + x.2, 0, x.1)
              else [(r, c, el.addr, el.nib, .ofNat 8 (if el.nib = 2 then 16 * code else code))]
        (el.e = 15 → stores (w.toNat % 256) 0) ∧
        (el.e ≠ 15 → sc.2 = none →
          (∀ code fl, el.desc.rnd 6 (s0.laneH r) (val32 w) = some (code, fl) → stores code fl) ∧
          (el.desc.rnd 6 (s0.laneH r) (val32 w) = none → exec (.stf sw d a b) s = .next (s0.faultOf r 0x0B w.toNat el.e))) ∧
        ∀ v, el.e ≠ 15 → sc.2 = some v →
          (∀ code fl, el.desc.rnd 6 (s0.laneH r) (unscale (val32 w) v).1 = some (code, fl) → stores code ((unscale (val32 w) v).2 ||| fl)) ∧
          (el.desc.rnd 6 (s0.laneH r) (unscale (val32 w) v).1 = none → exec (.stf sw d a b) s = .next (s0.faultOf r 0x0B w.toNat el.e)))

/-! ## Atomics and ordering -/

namespace Sys2Proof.Machine

/-- An atomic instruction with its operation code, whether it returns, its size in bytes and the registers of its D group (R234, R237). -/
structure AtomRow where
  instr : Instr
  op : Nat
  ret : Bool
  size : Nat
  n : Nat
  form : Form

/-- The sixteen atomics with one choice of fields (R235, R237). -/
def atomics (sw : Bool) (d a : BitVec 7) (nr : BitVec 1) (r : BitVec 2) (c : BitVec 4) (z : BitVec 2) : List AtomRow :=
  let group (n : Nat) : RegField := { v := d, n := n }
  let rmw (i : Instr) (op size n : Nat) : AtomRow :=
    { instr := i, op := op, ret := nr == 0, size := size, n := n
      form := { sw := sw, reads := [group n, { v := a, n := 2 }], var := nr == 0, access := true, slot := nr == 0 } }
  let n := 2 ^ z.toNat
  [rmw (.aadd sw d a nr r c) 0 4 1, rmw (.aand sw d a nr r c) 1 4 1, rmw (.aor sw d a nr r c) 2 4 1, rmw (.axor sw d a nr r c) 3 4 1,
   rmw (.amin sw d a nr r c) 4 4 1, rmw (.amax sw d a nr r c) 5 4 1, rmw (.aminu sw d a nr r c) 6 4 1, rmw (.amaxu sw d a nr r c) 7 4 1,
   rmw (.axchg sw d a nr r c) 8 4 1, rmw (.acas sw d a nr r c) 9 4 2, rmw (.acas64 sw d a nr r c) 10 8 4, rmw (.acas128 sw d a nr r c) 11 16 8,
   rmw (.afadd sw d a nr r c) 12 4 1, rmw (.afaddB2 sw d a nr r c) 13 4 1,
   { instr := .ald sw d a z r c, op := 14, ret := true, size := 4 * n, n := n
     form := { sw := sw, reads := [{ v := a, n := 2 }], writes := [group n], var := true, access := true, slot := true } },
   { instr := .ast sw d a z r c, op := 15, ret := false, size := 4 * n, n := n
     form := { sw := sw, reads := [group n, { v := a, n := 2 }], access := true } }]

/-- What an operation does to its location and what it returns (R237, R239): old value, operand, result, and the new value if it writes. -/
def AtomRule (op size old v res : Nat) (new : Option Nat) : Prop :=
  let o : Word := .ofNat 32 old
  let w : Word := .ofNat 32 v
  let m := 2 ^ (8 * size)
  let gives (x : Word) : Prop := res = old ∧ new = some x.toNat
  match op with
  | 0 => gives (o + w)
  | 1 => gives (o &&& w)
  | 2 => gives (o ||| w)
  | 3 => gives (o ^^^ w)
  | 4 => gives (if o.toInt ≤ w.toInt then o else w)
  | 5 => gives (if o.toInt ≤ w.toInt then w else o)
  | 6 => gives (if o.toNat ≤ w.toNat then o else w)
  | 7 => gives (if o.toNat ≤ w.toNat then w else o)
  | 8 => gives w
  | 9 | 10 | 11 => (old = v % m → res = m + old ∧ new = some (v / m)) ∧ (old ≠ v % m → res = old ∧ new = none)
  | 12 => ∃ x f, roundsTo dFP32 ((val32 o).add (val32 w)) (x : Word).toNat f ∧ gives x
  | 13 => ∃ (lo hi : BitVec 16) (f g : Flg), roundsTo dBF16 ((halfOf dBF16 o 0).add (halfOf dBF16 w 0)) lo.toNat f ∧
      roundsTo dBF16 ((halfOf dBF16 o 1).add (halfOf dBF16 w 1)) hi.toNat g ∧ gives (hi ++ lo)
  | 14 => res = old ∧ new = none
  | _ => new = some v

end Sys2Proof.Machine

/-- An atomic checks its pointer, then sends one request for its operation to the owning service furrow, and changes no byte of memory (R217, R219,
R224, R230, R231, R233, R234, R236, R237, R238). -/
def Obligations.AtomicsIssue : Prop :=
  ∀ (s : State) (sw : Bool) (d a : BitVec 7) (nr : BitVec 1) (ord : BitVec 2) (scope : BitVec 4) (z : BitVec 2) (r : TRef),
    ∀ x ∈ atomics sw d a nr ord scope z, s.oneOk x.form r = true →
      let s0 := s.inSheaf
      let p := s0.pair r a
      let space := p.toNat / 2 ^ 60
      let off : Nat := p.toNat % 2 ^ 50
      let th := s.thread r
      let c := (s.group r.g).core
      (space ≠ 6 → space ≠ 8 → ∀ e d1, pointerFault s r p off x.size false = some (e, d1) → exec x.instr s = .next (s0.faultOf r e p.toNat d1)) ∧
      (space = 6 ∨ space = 8 → off % x.size ≠ 0 → exec x.instr s = .next (s0.faultOf r 0x09 p.toNat x.size)) ∧
      (space = 6 ∨ space = 8 → off % x.size = 0 → exec x.instr s = .next (s0.faultOf r 0x08 p.toNat 6)) ∧
      (space = 1 → pointerFault s r p off x.size false = none → exec x.instr s = .next (s0.faultOf r 0x08 p.toNat 6)) ∧
      (space = 2 ∨ space = 4 → pointerFault s r p off x.size false = none → ∃ y t q o, s0.resolveAtom r p x.size = .ok y ∧ exec x.instr s = .next t ∧
        SameButCopies [r] { s with outbox := t.outbox, reqs := s.reqs ++ [q.id], cores := t.cores } t ∧ (ord.toNat < 2 → t.dies = s.dies) ∧
        (∀ m ∈ s.outbox, m.sheaf ≠ s.fresh → m ∈ t.outbox) ∧ (∀ k, t.core k = { s.core k with retSlots := (t.core k).retSlots }) ∧
        (∃ m ∈ t.outbox, m.sheaf = s.fresh ∧ m.cl = homeCluster y ∧ q ∈ m.reqs ∧ ((∀ m ∈ s.outbox, m.sheaf ≠ s.fresh) → m.reqs = [q] ∧
          m.port = if c / 6 = homeCluster y then c % 6 else if c / 96 = homeCluster y / 16 then 6 else 7)) ∧
        q.thr = r ∧ q.addr = y ∧ q.req = .atom x.op x.size (s0.regGroup r d x.n) ∧ q.out = (if x.ret then some o else none) ∧
        (if x.ret then ∃ k ∈ (t.core c).retSlots, k.1 = s.fresh else t.cores = s.cores) ∧
        (2 ≤ ord.toNat → (t.thread r).after = s.publishNeeds r scope.toNat) ∧ (2 ≤ ord.toNat → 7 ≤ scope.toNat → { id := q.id, home := true } ∈ (t.thread r).engAfter) ∧ (ord.toNat < 2 → (t.thread r).after = th.after) ∧
        (∀ n ∈ (t.thread r).after, s.needMet n = false → n ∈ q.needs) ∧ ((t.thread r).pend = [] ↔ ord.toNat % 2 = 0) ∧
        t.thread r = ({ (if x.ret then th.await { v := d, n := x.n } o .awaited (some s.fresh) else th) with
          atoms := th.atoms ++ [(q.id, y, x.size)], after := (t.thread r).after, engAfter := (t.thread r).engAfter,
          pend := (t.thread r).pend, obs := (t.thread r).obs, obsEng := (t.thread r).obsEng } : Thread).issued sw (th.pc + 4) ∧
        (ord.toNat < 2 → (t.thread r).obs = th.obs ∧ (t.thread r).obsEng = th.obsEng))

/-- A service furrow accepts whole messages from its ports in turn and performs each request in one step, the oldest of one 16-byte unit first (R215,
R231, R232, R237, R239, R349). -/
def Obligations.ServiceFurrowPerforms : Prop :=
  (∀ (s : State) (cl sheaf port : Nat) (part : List Nat) (q : Request) (op size v : Nat),
    (s.cluster cl).queue = [{ sheaf := sheaf, cl := cl, port := port, reqs := [q], part := part }] → q.req = .atom op size v → op < 16 →
    size = (if op = 10 then 8 else if op = 11 then 16 else if op < 14 then 4 else size) → v < 2 ^ (8 * size * if 9 ≤ op ∧ op ≤ 11 then 2 else 1) →
    (s.runs (cl / 16) = false → exec (.serviceFurrowPerform cl) s = .next s) ∧
    (s.runs (cl / 16) = true → q.addr / 16 ∈ (s.cluster cl).busy → ∃ t, exec (.serviceFurrowPerform cl) s = .next t ∧
      t = { s with clusters := t.clusters } ∧ (t.cluster cl).queue = (s.cluster cl).queue ∧ (t.cluster cl).busy = []) ∧
    (s.runs (cl / 16) = true → q.addr / 16 ∉ (s.cluster cl).busy → s.atHome q = true → s.watchers q.addr size = [] →
      ∃ t res new, exec (.serviceFurrowPerform cl) s = .next t ∧ AtomRule op size (s.rdNat q.addr size) v res new ∧ (t.cluster cl).queue = [] ∧
        (t.cluster cl).busy = (if size = 16 then [q.addr / 16] else []) ∧ SameButCopies [q.thr] { s with mem := t.mem, reqs := s.reqs.filter (· ≠ q.id), clusters := t.clusters } t ∧
        t.mem = (match new with | some w => (s.wrs q.addr (bytesOf size w)).mem | none => s.mem) ∧
        (t.thread q.thr = { s.thread q.thr with
          atoms := (s.thread q.thr).atoms.filter fun p => p.1 ≠ q.id
          obs := (if homeDie q.addr = some ((s.group q.thr.g).core / 96) ∨ (∃ n ∈ (s.thread q.thr).after, n.id = q.id) then (s.thread q.thr).obs
            else (q.addr, size) :: (s.thread q.thr).obs)
          outs := (s.thread q.thr).outs.map fun o => if q.out = some o.id then { o with val := .have (wordsOf 8 res) } else o }))) ∧
  ((∀ (queue : List Msg) (busy : List Nat),
    let p := selectReqs queue busy 32
    let done := p.2.map (·.2)
    done.length ≤ 32 ∧ (done.map fun q => q.addr / 16).Nodup ∧ (∀ q ∈ done, q.addr / 16 ∉ busy) ∧
      (∀ x ∈ p.2, ∃ m ∈ queue, x.1 = m.reqs ∧ x.2 ∈ m.reqs) ∧
      ∀ u, (done ++ p.1.flatMap (·.reqs)).filter (fun q => q.addr / 16 = u) = (queue.flatMap (·.reqs)).filter fun q => q.addr / 16 = u) ∧
  ∀ (s : State) (cl : Nat), s.runs (cl / 16) = true →
    let c := s.cluster cl
    let waiting (p : Nat) : List Msg := c.ports.getD p []
    let size (l : List Msg) : Nat := (l.map fun m => m.reqs.length).sum
    (size c.queue + ((List.range 8).map fun p => size ((waiting p).take 1)).sum ≤ 128 →
      ∃ t, exec (.serviceMessageAccept cl) s = .next t ∧ t = { s with clusters := t.clusters } ∧
        (t.cluster cl).queue = c.queue ++ (List.range 8).flatMap (fun i => (waiting ((c.nextPort + i) % 8)).take 1) ∧
        (t.cluster cl).nextPort = (c.nextPort + 1) % 8 ∧ (∀ p < 8, (t.cluster cl).ports.getD p [] = (waiting p).drop 1) ∧
        ∀ k ≠ cl, t.cluster k = s.cluster k) ∧
    ∀ p < 8, (∀ k < 8, k ≠ p → waiting k = []) → 128 < size c.queue + size ((waiting p).take 1) →
      ∃ t, exec (.serviceMessageAccept cl) s = .next t ∧ (t.cluster cl).queue = c.queue ∧ (t.cluster cl).ports = c.ports)

/-- A written result reaches the registers fixed at its issue unless a later write of the thread has, and ends a park when it is the last (R34, R35,
R119, R121, R233). That an ERRRD result takes the value of the sticky register when it is written back is the model's choice (log entry 14). -/
def Obligations.ResultsLand : Prop :=
  ∀ (s : State) (g n id : Nat) (o : Outst),
    let r : TRef := { g := g, t := n }
    let th := s.thread r
    th.outs.find? (fun x => x.id = id) = some o →
    (o.val = .awaited → exec (.resultWriteback g n id) s = .next s) ∧
    ∀ ws : List Word, (o.val = .have ws ∨ ∃ k, o.val = .sticky k ∧ ws = [(s.ctx (s.ctxOf g)).sticky.extractLsb' (32 * k) 32]) →
      (o.regs.filterMap (·)).Nodup → o.regs.length ≤ ws.length →
      ∃ t, exec (.resultWriteback g n id) s = .next t ∧ SameBut [r] { s with cores := t.cores } t ∧
        (o.slot = none → t.cores = s.cores) ∧ (∀ k, t.core k = { s.core k with retSlots := (t.core k).retSlots }) ∧
        (∀ k i : Nat, o.regs[k]? = some (some i) → i < th.regs.length →
          ((∃ c, th.cands.find? (fun c => c.reg = i) = some c ∧ o.seq ≤ c.last) → (t.thread r).regs[i]? = th.regs[i]?) ∧
          ((∀ c, th.cands.find? (fun c => c.reg = i) = some c → c.last < o.seq) → (t.thread r).regs[i]? = ws[k]?)) ∧
        (∀ i, some i ∉ o.regs → (t.thread r).regs[i]? = th.regs[i]?) ∧ (t.thread r).outs = th.outs.filter (fun x => x.id ≠ id) ∧
        (t.thread r).pc = th.pc ∧ (t.thread r).nstat = th.nstat ∧
        ((t.thread r).status = if th.status = .parked ∧ th.outs.filter (fun x => x.id ≠ id) = [] then .ready else th.status)

namespace Sys2Proof.Machine

/-- The retired stores after a refresh on a core at a scope: its own that stand in the die copy are found there from then on (R218, R220). -/
def State.storesFound (s : State) (core scope : Nat) : List SEntry :=
  if scope < 4 then s.stores else s.stores.map fun e => if e.core = core ∧ e.fwd ≠ none then { e with shared := true } else e

/-- The same stores are retired, as far on their way; where a core finds its own may have changed with a refresh. -/
def State.keepsStores (s t : State) : Prop :=
  t.stores.map (fun e => { e with shared := false }) = s.stores.map fun e => { e with shared := false }

end Sys2Proof.Machine

/-- PHASE and FENCE make later effects wait for what the thread stored and performed, and a refresh drops the snapshots of its core (R217, R218, R219,
R220, R222, R224, R226, R227). That a refresh lets the thread's later publishes cover every pending store of its core and of its die's copy is the
model's choice (log entry 162). -/
def Obligations.PublishAndRefresh : Prop :=
  ∀ (s : State) (sw : Bool) (sc : BitVec 4) (r : TRef), s.oneOk { sw := sw } r = true →
    let th := s.thread r
    let scope := sc.toNat
    let c := (s.group r.g).core
    let waits (t : State) (home : Bool) : Prop := ∀ e ∈ s.stores, e.thr = r → { id := e.id, home := home } ∈ (t.thread r).after ∨ (home = false ∧ s.needMet ⟨e.id, false⟩ = true)
    let atoms (t : State) : Prop := ∀ x ∈ th.atoms, x.1 ∈ s.reqs → { id := x.1, home := true } ∈ (t.thread r).after
    let goesOn (t : State) : Prop := t.mem = s.mem ∧ (t.thread r).regs = th.regs ∧ (t.thread r).pc = th.pc + 4 ∧
      (∀ q, q ≠ r → t.thread q = s.thread q)
    let view (t : State) : Prop := t.stores = s.storesFound c scope ∧ (∀ k ≠ c, t.core k = s.core k) ∧
      ((t.core c).view = if scope < 4 then (s.core c).view
        else if 7 ≤ scope then { snaps := [], pkg := true, fetched := [], near := [] }
        else { (s.core c).view with snaps := [], near := (s.core c).view.fetched })
    let held (t : State) : Prop := ∃ p ∈ (t.thread r).pend, p.scope = scope ∧ (∀ x ∈ th.atoms, x.1 ∈ s.reqs → x.1 ∈ p.reqs) ∧ p.needs = th.after
    let shares (t : State) : Prop := 4 ≤ scope → (t.thread r).obs = [] ∧ (t.thread r).obsEng = false ∧
      ∀ x ∈ (t.die (c / 96)).copies, (th.obsEng = true ∨ ((s.core c).view.pkg = true ∧ x.addr ∉ (s.core c).view.fetched) ∨
        (∃ o ∈ th.obs, o.1 ≤ x.addr ∧ x.addr < o.1 + o.2)) → x.mask &&& s.forwarded (c / 96) x.addr = x.mask
    (∃ t, exec (.phase sw sc 1) s = .next t ∧ SameButCopies [r] s t ∧ goesOn t ∧ shares t ∧ atoms t ∧ (4 ≤ scope → waits t (decide (7 ≤ scope))) ∧
      (7 ≤ scope → (t.thread r).engAfter = (t.thread r).after)) ∧
    (∃ t, exec (.fence sw sc 2) s = .next t ∧ SameButCopies [r] s t ∧ goesOn t ∧ shares t ∧ atoms t ∧ waits t true ∧ (t.thread r).engAfter = (t.thread r).after) ∧
    (th.pend = [] → (∀ x ∈ th.atoms, x.1 ∉ s.reqs) → s.publishing r = false → ∀ i ∈ [Instr.phase sw sc 2, .fence sw sc 1],
      ∃ t, exec i s = .next t ∧ SameBut [r] { s with cores := t.cores, stores := t.stores } t ∧ goesOn t ∧ view t ∧ (t.thread r).pend = []) ∧
    ((∃ x ∈ th.atoms, x.1 ∈ s.reqs) ∨ s.publishing r = true → ∀ i ∈ [Instr.phase sw sc 2, .fence sw sc 1], ∃ t, exec i s = .next t ∧ SameBut [r] s t ∧ goesOn t ∧ held t) ∧
    (∃ t, exec (.phase sw sc 3) s = .next t ∧ SameButCopies [r] { s with cores := t.cores, stores := t.stores } t ∧ goesOn t ∧ atoms t ∧ (4 ≤ scope → waits t (decide (7 ≤ scope))) ∧
      ((t.thread r).pend = [] → view t) ∧ ((t.thread r).pend ≠ [] → t.stores = s.stores) ∧ ((t.thread r).after ≠ [] → (t.thread r).pend ≠ [])) ∧
    ∃ t, exec (.fence sw sc 3) s = .next t ∧ SameButCopies [r] { s with cores := t.cores, stores := t.stores } t ∧ goesOn t ∧ atoms t ∧ waits t true ∧
      ((t.thread r).pend = [] → view t) ∧ ((t.thread r).pend ≠ [] → t.stores = s.stores) ∧ ((t.thread r).after ≠ [] → (t.thread r).pend ≠ [])

/-- QFENCE stands one joint marker in every queue of its mask until each of them has nothing before it (R222, R224, R228). That the requests of
unfetched kicks are held by a second marker is the model's choice (log entry 151). -/
def Obligations.QueueFence : Prop :=
  ∀ (s : State) (sw : Bool) (m : BitVec 6) (r : TRef), s.oneOk { sw := sw, access := true } r = true →
    let c := (s.group r.g).core
    let clean (k : Nat) : Prop := (s.core k).copyQ.length = 4 ∧ ∀ q < 6, ∀ e ∈ s.engineQueue k q, isMarker e.work = false
    clean c → clean (mateOf c) →
    ∃ t, exec (.qfence sw m) s = .next t ∧ t.mem = s.mem ∧ t.stores = s.stores ∧ t.thread r = (s.thread r).issued sw ((s.thread r).pc + 4) ∧
      (∀ q, q ≠ r → t.thread q = s.thread q) ∧
      let empty : Prop := ∀ q < 6, m.getLsbD q = true → s.engineQueue c q = []
      let ks := (s.core c).kicksIn m.toNat
      let queued (es : List Entry) : Prop := ∀ q < 6, t.engineQueue c q = s.engineQueue c q ++ if m.getLsbD q = true then es else []
      (empty → ks = [] → queued []) ∧ (¬empty → ks = [] → ∃ e id, e.work = .marker id m.toNat [] ∧ queued [e]) ∧
      (empty → ks ≠ [] → ∃ e id, e.work = .marker id m.toNat ks ∧ queued [e]) ∧
      (¬empty → ks ≠ [] → ∃ e f id k, e.work = .marker id m.toNat [] ∧ f.work = .marker k m.toNat ks ∧ id ≠ k ∧ queued [e, f])

namespace Sys2Proof.Machine

/-- When MONW's condition holds on a value (R229). -/
def monwRule (k : BitVec 2) (value expect : Nat) : Prop :=
  match k.toNat with
  | 0 => expect ≤ value
  | 1 => value = expect
  | _ => value ≠ expect

end Sys2Proof.Machine

/-- MONW goes on where its condition holds at the home and waits otherwise, and a later write or 64 us of time makes it look again (R217, R229, R230,
R349). -/
def Obligations.LocationWaits : Prop :=
  (∀ (s : State) (sw : Bool) (d a : BitVec 7) (sc : BitVec 4) (k : BitVec 2) (w : BitVec 1) (r : TRef) (x : Nat),
    let n := if w = 1 then 8 else 4
    let s0 := s.inSheaf
    let p := s0.pair r a
    let th := s.thread r
    s.oneOk { sw := sw, reads := [{ v := d, n := n / 4 }, { v := a, n := 2 }], access := true } r = true → s0.resolveAtom r p n = .ok x →
    ((homeDie x).all s.runs = false ∨ s.ownPending r x n = true → exec (.monw sw d a sc k w) s = .next s0) ∧
    ((homeDie x).all s.runs = true → s.ownPending r x n = false → monwRule k (s.rdNat x n) (s0.regGroup r d (n / 4)) → (∀ p ∈ th.atoms, p.1 ∉ s.reqs) → ∃ t seen, exec (.monw sw d a sc k w) s = .next t ∧
      SameBut [r] { s with cores := t.cores, stores := t.stores } t ∧ t.stores = s.storesFound (s.group r.g).core sc.toNat ∧
      t.thread r = ({ th with obsEng := true, seen := seen } : Thread).issued sw (th.pc + 4) ∧ (4 ≤ sc.toNat → (t.core (s.group r.g).core).view.snaps = [])) ∧
    ((homeDie x).all s.runs = true → s.ownPending r x n = false → ¬monwRule k (s.rdNat x n) (s0.regGroup r d (n / 4)) → ∃ t at0, exec (.monw sw d a sc k w) s = .next t ∧ SameBut [r] s t ∧
      t.thread r = ({ th with status := .waiting (.monw p x n (s0.regGroup r d (n / 4)) k.toNat sc.toNat s.refTimer), waitAt := at0 } : Thread).issued sw
        (th.pc + 4))) ∧
  ∀ (s : State) (g n : Nat) (p : DWord) (x m e : Nat) (k : BitVec 2) (sc since : Nat),
    let r : TRef := { g := g, t := n }
    (s.thread r).status = .waiting (.monw p x m e k.toNat sc since) → (s.thread r).halted = false →
    (s.refTimer < since + 64000 → exec (.monwTimeout g n) s = .next s) ∧
    (since + 64000 ≤ s.refTimer → (homeDie x).all s.runs = true → (¬monwRule k (s.rdNat x m) e →
        ∃ t, exec (.monwTimeout g n) s = .next t ∧ SameBut [r] s t ∧
          t.thread r = { s.thread r with status := .waiting (.monw p x m e k.toNat sc s.refTimer) }) ∧
      (monwRule k (s.rdNat x m) e → ∃ t, exec (.monwTimeout g n) s = .next t ∧ t.mem = s.mem ∧ (t.thread r).regs = (s.thread r).regs ∧
        ∀ w, (t.thread r).status ≠ .waiting w)) ∧
    ∀ (y : Nat) (bs : List Byte), y < x + m → x < y + bs.length → monwRule k ((s.wrs y bs).rdNat x m) e →
      ∀ w, ((s.homeWr y bs).thread r).status ≠ .waiting w

/-- POLL clears the back-off level or raises it and backs the thread off for 2^level slice cycles, after which it is Ready and not before (R119,
R142). -/
def Obligations.PollingBacksOff : Prop :=
  (∀ (s : State) (sw : Bool) (d a : BitVec 7) (r : TRef), s.oneOk { sw := sw, reads := [{ v := a }], writes := [{ v := d }], var := true } r = true →
    let th := s.thread r
    let lv := min (th.level + 1) 7
    (s.inSheaf.reg r a ≠ 0 → ∃ t id, exec (.poll sw d a) s = .next t ∧ SameBut [r] { s with ctxs := t.ctxs } t ∧
      (∀ x, t.ctx x = { s.ctx x with headland := (t.ctx x).headland }) ∧
      t.thread r = (({ th with level := 0 } : Thread).await { v := d } id (.have [0]) none).issued sw (th.pc + 4)) ∧
    (s.inSheaf.reg r a = 0 → ∃ t id, exec (.poll sw d a) s = .next t ∧ SameBut [r] s t ∧
      t.thread r = (({ th with level := lv, status := .backedOff (s.sliceCount (s.group r.g).core + 2 ^ lv) none, pollCh := none } : Thread).await { v := d } id
        (.have [.ofNat 32 lv]) none).issued sw (th.pc + 4))) ∧
  (∀ (s : State) (g n due : Nat),
    let r : TRef := { g := g, t := n }
    let th := s.thread r
    th.status = .backedOff due none → th.halted = false → (s.group g).state = .resident →
    (s.sliceCount (s.group g).core < due → exec (.backoffExpiry g n) s = .next s) ∧
    (due ≤ s.sliceCount (s.group g).core → ∃ t at0, exec (.backoffExpiry g n) s = .next t ∧ SameBut [r] s t ∧
      t.thread r = if th.marked = true ∧ th.outs ≠ [] then { th with status := .parked } else { th with status := .ready, readyAt := at0 }))

/-! ## Barriers and channels -/

namespace Sys2Proof.Machine

/-- Every register, flag and stack pointer of every thread is as before, and so is every byte of memory. -/
def State.keepsData (s t : State) : Prop :=
  t.mem = s.mem ∧ s.keepsStores t ∧ ∀ q, (t.thread q).regs = (s.thread q).regs ∧ (t.thread q).nstat = (s.thread q).nstat ∧
    (t.thread q).sp = (s.thread q).sp ∧ (t.thread q).base = (s.thread q).base

/-- A thread waits for nothing. -/
def State.runsOn (t : State) (q : TRef) : Prop := ∀ w, (t.thread q).status ≠ .waiting w

end Sys2Proof.Machine

/-- BARINIT, BARARR, BARSYNC and BARWAIT act on a named barrier by its table, and the last arrival clears it and wakes every waiter (R242, R243, R249,
R254, R259). That an arrival is performed at once where its publish is complete and that the lane stays until then are the model's choices (log
entries 10 and 11). -/
def Obligations.NamedBarriers : Prop :=
  ∀ (s : State) (sw : Bool) (a : BitVec 7) (b : BitVec 4) (r : TRef),
    let gr := s.group r.g
    let th := s.thread r
    let bad (i : Instr) (d1 : Nat) : Prop := exec i s = .next (s.inSheaf.faultOf r 0x04 b.toNat d1)
    let becomes (i : Instr) (nb : NBar) (th' : Thread) : Prop := ∃ t, exec i s = .next t ∧
      SameBut [r] (s.modGroup r.g fun g => { g with bars := g.bars.set b.toNat nb }) t ∧ t.thread r = th'
    (s.oneOk { sw := sw, reads := [{ v := a }] } r = true →
      let m := (s.inSheaf.reg r a).toNat
      (gr.bars[b.toNat]? = none → bad (.barinit sw a b) 0) ∧
      ∀ nb, gr.bars[b.toNat]? = some nb →
        (m = 0 ∨ 2 ^ (s.launchOf r.g).hdr.furrows ≤ m → bad (.barinit sw a b) 5) ∧
        (m ≠ 0 → m < 2 ^ (s.launchOf r.g).hdr.furrows → nb.arrived ≠ 0 → bad (.barinit sw a b) 3) ∧
        (m ≠ 0 → m < 2 ^ (s.launchOf r.g).hdr.furrows → nb.arrived = 0 →
          becomes (.barinit sw a b) { members := m, arrived := 0 } (th.issued sw (th.pc + 4)))) ∧
    (s.oneOk { sw := sw, access := true } r = true →
      (gr.bars[b.toNat]? = none → bad (.bararr sw b) 0 ∧ bad (.barsync sw b) 0 ∧ bad (.barwait sw b) 0) ∧
      ∀ nb, gr.bars[b.toNat]? = some nb →
        (nb.arrived.testBit r.t = true → ∃ at0, becomes (.barwait sw b) nb (({ th with status := .waiting (.namedBar b.toNat), waitAt := at0 } : Thread).issued sw (th.pc + 4))) ∧
        (nb.arrived.testBit r.t = false → ∃ seen pend, becomes (.barwait sw b) nb (({ th with seen := seen, pend := pend } : Thread).issued sw (th.pc + 4)) ∧
          (∀ i ∈ th.seen, (∃ e ∈ s.stores, e.id = i) → i ∈ seen) ∧ ((∀ x ∈ th.atoms, x.1 ∉ s.reqs) → pend = [])) ∧
        ∀ p ∈ [(Instr.bararr sw b, false), (.barsync sw b, true)],
          (nb.members.testBit (r.t / 32) = false → bad p.1 7) ∧
          (nb.members.testBit (r.t / 32) = true → nb.arrived.testBit r.t = true → bad p.1 6) ∧
          (nb.members.testBit (r.t / 32) = true → nb.arrived.testBit r.t = false → s.inSheaf.publishNeeds r 2 ≠ [] → exec p.1 s = .next s.inSheaf) ∧
          (nb.members.testBit (r.t / 32) = true → nb.arrived.testBit r.t = false → s.inSheaf.publishNeeds r 2 = [] →
            let others : Prop := ∀ n < gr.threads.length, nb.members.testBit (n / 32) = true → (s.thread { g := r.g, t := n }).status ≠ .exited →
              n = r.t ∨ nb.arrived.testBit n = true
            (¬others → ∃ at0, becomes p.1 { nb with arrived := nb.arrived ||| 2 ^ r.t }
              (({ th with after := [], status := if p.2 then .waiting (.namedBar b.toNat) else th.status, waitAt := at0 } : Thread).issued sw (th.pc + 4))) ∧
            (others → ∃ t, exec p.1 s = .next t ∧ s.keepsData t ∧ (t.group r.g).bars[b.toNat]? = some { nb with arrived := 0 } ∧ t.runsOn r ∧
              (t.thread r).pc = th.pc + 4 ∧ ∀ q, q.g = r.g → (s.thread q).status = .waiting (.namedBar b.toNat) → t.runsOn q)))

namespace Sys2Proof.Machine

/-- An object after an arrival that adds bytes (R244, R246). -/
def Obj.arrivedAt (o : Obj) (bytes : Nat) : Obj :=
  if o.arrivals = 1 ∧ o.pending + bytes = 0 then { o with phase := 1 - o.phase, arrivals := o.expected, pending := 0 }
  else { o with arrivals := o.arrivals - 1, pending := o.pending + bytes }

end Sys2Proof.Machine

/-- BARINIT.m, BARARR.m, BAREXP.m, BARSYNC.m and BARWAIT.m take one step on their object at its home, and a phase that completes frees its waiters
(R244, R245, R246, R249, R259). That a step is performed at the home when it issues, that the lane stays until its publish is complete, and that
BARWAIT.m raises detail1 5 on an Uninitialised object are the model's choices (log entries 10, 11 and 38). -/
def Obligations.BarrierObjects : Prop :=
  ∀ (s : State) (sw : Bool) (d a : BitVec 7) (r : TRef) (x : Nat),
    let s0 := s.inSheaf
    let p := s0.pair r a
    let th := s.thread r
    let o := s.obj x
    let bad (i : Instr) (d1 : Nat) : Prop := exec i s = .next (s0.faultOf r 0x04 p.toNat d1)
    let apart (t : State) : Prop := (∀ y, y < x ∨ x + 16 ≤ y → t.rd y = s.rd y) ∧ s.keepsStores t ∧ (t.thread r).pc = th.pc + 4 ∧
      ∀ q, (t.thread q).regs = (s.thread q).regs
    let waits (t : State) (par : Bool) : Prop := (t.thread r).status = .waiting (.object p x par false)
    let free : Prop := s.reach x = true ∧ s.ownPending r x 16 = false
    let room : Prop := s.objEntries (homeCluster x) < 64 ∨ ∃ w z k, (s.thread w).status = .waiting (.object z x (o.phase = 1) k)
    Memory.wf s.mem = true → s0.resolveAtom r p 16 = .ok x →
    (s.oneOk { sw := sw, reads := [{ v := d }, { v := a, n := 2 }], access := true } r = true →
      let n := (s0.reg r d).toNat
      (n = 0 ∨ 65535 < n → bad (.barinitM sw d a) 5) ∧
      (n ≠ 0 → n ≤ 65535 → s.reach x = false ∨ s.ownPending r x 16 = true → exec (.barinitM sw d a) s = .next s0) ∧
      (n ≠ 0 → n ≤ 65535 → free → o.expected ≠ 0 → s.objWaiters x ≠ [] → bad (.barinitM sw d a) 3) ∧
      (n ≠ 0 → n ≤ 65535 → free → (o.expected = 0 ∨ s.objWaiters x = []) → ∃ t, exec (.barinitM sw d a) s = .next t ∧ apart t ∧
        t.obj x = { phase := 0, expected := n, arrivals := n, pending := 0 } ∧ t.rdNat x 16 / 2 ^ 89 = 0) ∧
      (s.reach x = false ∨ s.ownPending r x 16 = true → exec (.barwaitM sw d a) s = .next s0) ∧
      (free → o.expected = 0 → bad (.barwaitM sw d a) 5) ∧
      (free → o.expected ≠ 0 → o.phase ≠ n % 2 → ∃ t, exec (.barwaitM sw d a) s = .next t ∧ s.keepsData t ∧ t.runsOn r ∧ (t.thread r).pc = th.pc + 4) ∧
      (free → o.expected ≠ 0 → o.phase = n % 2 → room → ∃ t, exec (.barwaitM sw d a) s = .next t ∧ s.keepsData t ∧ waits t (n % 2 = 1) ∧
        (t.thread r).pc = th.pc + 4)) ∧
    ∀ q ∈ ([({ sw := sw, reads := [{ v := a, n := 2 }], access := true }, .bararrM sw a, 0, false),
            ({ sw := sw, reads := [{ v := a, n := 2 }], access := true }, .barsyncM sw a, 0, true),
            ({ sw := sw, reads := [{ v := d, n := 2 }, { v := a, n := 2 }], access := true }, .barexpM sw d a, s0.regGroup r d 2, false)] :
            List (Form × Instr × Nat × Bool)), s.oneOk q.1 r = true →
      let i := q.2.1
      let b := q.2.2.1
      (2 ^ 55 - 1 < b → bad i 5) ∧
      (b ≤ 2 ^ 55 - 1 → s.reach x = false ∨ s0.publishNeeds r 7 ≠ [] → exec i s = .next s0) ∧
      (b ≤ 2 ^ 55 - 1 → s.reach x = true → s0.publishNeeds r 7 = [] →
        (o.expected = 0 ∨ o.arrivals = 0 ∨ 2 ^ 55 - 1 < o.pending + b → bad i 5) ∧
        (o.expected ≠ 0 → o.arrivals ≠ 0 → o.pending + b ≤ 2 ^ 55 - 1 → ∃ t, exec i s = .next t ∧ apart t ∧ t.obj x = o.arrivedAt b ∧
          (∀ w par z, (s.thread w).status = .waiting (.object z x par false) → (if par then 1 else 0) ≠ (o.arrivedAt b).phase →
            (s.thread w).halted = false → t.runsOn w) ∧
          (q.2.2.2 = false ∨ (o.arrivedAt b).phase ≠ o.phase → t.runsOn r) ∧
          (q.2.2.2 = true → (o.arrivedAt b).phase = o.phase → room → waits t (o.phase = 1))))

/-- GBAR arrives and waits; the last arrival queues the launch's clusters in cyclic order, and the slew limiter grants 8 in each 32 ticks (R247, R248,
R249, R259, R349). That GBAR stays at the instruction while its publish is incomplete is the model's choice (log entries 10 and 11). -/
def Obligations.LaunchWideBarrier : Prop :=
  (∀ (s : State) (sw : Bool) (r : TRef), s.oneOk { sw := sw, access := true } r = true →
    let l := (s.group r.g).launch
    r.g ∈ s.groupsOf l → l < s.launches.length →
    let arrived : Prop := (s.launch l).nextLin = (s.launch l).total ∧ (∀ g ∈ s.groupsOf l, g ≠ r.g → s.gbarArrived g = true) ∧
      ∀ n < (s.group r.g).threads.length, (s.thread { g := r.g, t := n }).status = .exited ∨ n = r.t ∨ (s.group r.g).gbar.testBit n = true
    (s.inSheaf.publishNeeds r 7 ≠ [] → exec (.gbar sw) s = .next s.inSheaf) ∧
    (s.inSheaf.publishNeeds r 7 = [] → ∃ t, exec (.gbar sw) s = .next t ∧ s.keepsData t ∧ (t.thread r).status = .waiting .gbar ∧
      (t.thread r).pc = (s.thread r).pc + 4 ∧ (∀ q, q ≠ r → t.thread q = s.thread q) ∧
      (¬arrived → t.grants = s.grants ∧ (t.group r.g).gbar = (s.group r.g).gbar ||| 2 ^ r.t ∧ (t.launch l).gbarGen = (s.launch l).gbarGen) ∧
      (arrived → (t.launch l).gbarGen = (s.launch l).gbarGen + 1 ∧ (∀ g ∈ s.groupsOf l, (t.group g).gbar = 0) ∧
        ∃ new, t.grants = s.grants ++ new ∧
          (new.map (·.cl)).Sublist ((List.range 64).map fun i => (8 * (s.launch l).gbarGen + i) % 64) ∧
          (∀ c < 64, c ∈ new.map (·.cl) ↔ ∃ q, (t.thread q).status = .waiting .gbar ∧ q.g ∈ s.groupsOf l ∧ (s.group q.g).state = .resident ∧
            (s.group q.g).core / 6 = c) ∧
          ∀ n ∈ new, n.launch = l ∧ ∀ q, q ∈ n.threads ↔ (t.thread q).status = .waiting .gbar ∧ q.g ∈ s.groupsOf l ∧
            (s.group q.g).state = .resident ∧ (s.group q.g).core / 6 = n.cl))) ∧
  ∀ (s : State) (n : Grant) (ns : List Grant), s.grants = n :: ns →
    let used := if s.grantWindow = s.refTimer / 32 then s.grantCount else 0
    (used < 8 → ∃ t, exec .slewGrant s = .next t ∧ s.keepsData t ∧ t.grants = ns ∧ t.grantCount = used + 1 ∧ t.grantWindow = s.refTimer / 32 ∧
      (s.runs (n.cl / 16) = true → t.granted = s.granted ∧ ∀ q ∈ n.threads, (s.thread q).status = .waiting .gbar → t.runsOn q) ∧
      (s.runs (n.cl / 16) = false → t.granted = s.granted ++ [n] ∧ ∀ q, t.thread q = s.thread q) ∧
      ∀ q, q ∉ n.threads → (t.thread q).status = (s.thread q).status) ∧
    (8 ≤ used → exec .slewGrant s = .next { s with grantWindow := s.refTimer / 32, grantCount := used })

namespace Sys2Proof.Machine

/-- A channel whose position p has been published: vis passes the published positions that follow it without a gap (R251). -/
def Chan.publishedAt (c c' : Chan) (p : Nat) : Prop :=
  (∀ q, (q, PosState.published) ∈ c'.pos ↔ (q, PosState.published) ∈ c.pos ∨ q = p) ∧
    (∀ q, (q, PosState.reserved) ∈ c'.pos ↔ (q, PosState.reserved) ∈ c.pos ∧ q ≠ p) ∧ c.vis ≤ c'.vis ∧
    (∀ q, c.vis ≤ q → q < c'.vis → (q, PosState.published) ∈ c'.pos) ∧ (c'.vis, PosState.published) ∉ c'.pos ∧ c'.res = c.res ∧ c'.pop = c.pop ∧
    c'.ring = c.ring ∧ c'.opened = c.opened

end Sys2Proof.Machine

/-- CHINIT opens a channel, CHRES and CHPUB reserve and publish positions, and CHPUSH, CHPOP and CHPOLL copy entries in reservation order or wait
(R250, R251, R252, R254, R260, R261). -/
def Obligations.ChannelsPassEntries : Prop :=
  (∀ (s : State) (sw : Bool) (d a : BitVec 7) (h : BitVec 3) (r : TRef) (dc : ChanDecl),
    let s0 := s.inSheaf
    let ch := h.toNat
    let th := s.thread r
    let c := s.chan r.g ch
    let p := s0.pair r a
    let bad (i : Instr) (d1 : Nat) : Prop := exec i s = .next (s0.faultOf r 0x04 ch d1)
    let slot (n : Nat) : DWord := c.ring + .ofNat 64 (dc.size * (n % dc.depth))
    let used : Nat := c.res - c.pop
    let becomes (i : Instr) (c' : Chan) (th' : Thread → Prop) : Prop := ∃ t, exec i s = .next t ∧
      SameBut [r] { s.setChan r.g ch c' with clusters := t.clusters } t ∧ th' (t.thread r)
    let quiet : Prop := s.creditWaiters r.g ch = [] ∧ s.popWaiters r.g ch = []
    (s.chanDecl r.g ch = none → s.oneOk { sw := sw, reads := [{ v := a, n := 2 }], access := true } r = true →
      bad (.chinit sw a h) 1 ∧ bad (.chpub sw a h) 1 ∧ bad (.chpush sw a h) 1) ∧
    (s.chanDecl r.g ch = some dc → dc.size ≠ 0 → ch < (s.group r.g).chans.length →
      (s.oneOk { sw := sw, reads := [{ v := a, n := 2 }], access := true } r = true →
        (pointerFault s r p (p.toNat % 2 ^ 50 : Nat) 64 false = none → (p.toNat / 2 ^ 60 = 4 ∨ (p.toNat / 2 ^ 60 = 2 ∧ p.toNat % 2 ^ 50 < 2 ^ 19)) →
          (∃ pl, s0.bound r p (p.toNat % 2 ^ 50 : Nat) (dc.size * dc.depth) = .ok pl) →
          (c.opened = false ∨ (c.res = c.pop ∧ quiet) → becomes (.chinit sw a h) { opened := true, ring := p } (· = th.issued sw (th.pc + 4))) ∧
          (c.opened = true → c.res ≠ c.pop ∨ ¬quiet → bad (.chinit sw a h) 3)) ∧
        (c.opened = false → bad (.chpub sw a h) 2 ∧ bad (.chpush sw a h) 2) ∧
        (c.opened = true →
          ((∀ n, (n, PosState.reserved) ∈ c.pos → slot n ≠ p) → bad (.chpub sw a h) 4) ∧
          ∀ n, (n, PosState.reserved) ∈ c.pos → slot n = p → (∀ k, (k, PosState.reserved) ∈ c.pos → slot k = p → k = n) → (c.pos.map (·.1)).Nodup → quiet →
            s0.publishNeeds r 2 = [] → ∃ c', c.publishedAt c' n ∧
              becomes (.chpub sw a h) c' (· = ({ th with after := [] } : Thread).issued sw (th.pc + 4)))) ∧
      (s.oneOk { sw := sw, writes := [{ v := d, n := 2 }], var := true, access := true } r = true →
        (c.opened = false → bad (.chres sw d h) 2) ∧
        (c.opened = true → used < dc.allow → s.creditWaiters r.g ch = [] → becomes (.chres sw d h) { c with res := c.res + 1, pos := c.pos ++ [(c.res, .reserved)] } fun th' => ∃ id, th' =
          (th.await { v := d, n := 2 } id (.have [(slot c.res).extractLsb' 0 32, (slot c.res).extractLsb' 32 32]) none).issued sw (th.pc + 4)) ∧
        (c.opened = true → dc.allow ≤ used ∨ s.creditWaiters r.g ch ≠ [] → becomes (.chres sw d h) c fun th' => ∃ n at0, th' =
          ({ th with status := .waiting (.chanRes ch d n), waitAt := at0 } : Thread).issued sw (th.pc + 4))))) ∧
  (∀ (s : State) (sw : Bool) (d a : BitVec 7) (h : BitVec 3) (r : TRef) (dc : ChanDecl) (x y : Nat),
    let s0 := s.inSheaf
    let ch := h.toNat
    let th := s.thread r
    let core := (s.group r.g).core
    let c := s.chan r.g ch
    let p := s0.pair r a
    let slot (n : Nat) : DWord := c.ring + .ofNat 64 (dc.size * (n % dc.depth))
    s.chanDecl r.g ch = some dc → dc.size ≠ 0 → dc.size % 8 = 0 → ch < (s.group r.g).chans.length → c.opened = true →
    th.after = [] → th.atoms = [] → s.creditWaiters r.g ch = [] → s.popWaiters r.g ch = [] →
    p.toNat / 2 ^ 60 = 1 → p.toNat % 8 = 0 → s0.bound r p (p.toNat % 2 ^ 50 : Nat) dc.size = .ok (.priv y) →
    (s.oneOk { sw := sw, reads := [{ v := a, n := 2 }], access := true } r = true →
      (c.res - c.pop < dc.allow → s0.bound r (slot c.res) ((slot c.res).toNat % 2 ^ 50 : Nat) dc.size = .ok (.loc x) → ownGmem core x = true →
        ownGmem core (x + dc.size - 1) = true → s.noneHeld core x dc.size → s.watchers x dc.size = [] → (∀ i < dc.size, s.unitBusy (x + i) = false) → (∀ q ∈ c.pos, q.1 < c.res) →
        ∃ t c', exec (.chpush sw a h) s = .next t ∧ ({ c with res := c.res + 1, pos := c.pos ++ [(c.res, .reserved)] } : Chan).publishedAt c' c.res ∧
          SameBut [r] { (s.wrs x (s.rds y dc.size)).setChan r.g ch c' with clusters := t.clusters } t ∧ t.thread r = th.issued sw (th.pc + 4)) ∧
      (dc.allow ≤ c.res - c.pop → ∃ t n at0, exec (.chpush sw a h) s = .next t ∧ SameBut [r] s t ∧
        t.thread r = ({ th with status := .waiting (.chanPush ch p n), waitAt := at0 } : Thread).issued sw (th.pc + 4))) ∧
    (s.oneOk { sw := sw, reads := [{ v := a, n := 2 }], writes := [{ v := d }], var := true, access := true } r = true →
      let free : Chan := { c with pop := c.pop + 1, pos := c.pos.filter fun q => q.1 ≠ c.pop }
      (c.pop ≠ c.vis → s0.bound r (slot c.pop) ((slot c.pop).toNat % 2 ^ 50 : Nat) dc.size = .ok (.loc x) → ownGmem core x = true →
        ownGmem core (x + dc.size - 1) = true → s.noneHeld core x dc.size →
        (∃ t id seen, exec (.chpop sw d a h) s = .next t ∧ SameBut [r] ((s.wrs y (s.rds x dc.size)).setChan r.g ch free) t ∧
          t.thread r = (({ th with seen := seen } : Thread).await { v := d } id (.have [.ofNat 32 c.pop]) none).issued sw (th.pc + 4)) ∧
        ∃ t id seen, exec (.chpoll sw d a h) s = .next t ∧
          SameBut [r] { (s.wrs y (s.rds x dc.size)).setChan r.g ch free with ctxs := t.ctxs } t ∧
          (∀ k, t.ctx k = { s.ctx k with headland := (t.ctx k).headland }) ∧
          t.thread r = ({ ({ th with seen := seen } : Thread).await { v := d } id (.have [1]) none with level := 0 } : Thread).issued sw (th.pc + 4)) ∧
      (c.pop = c.vis →
        (∃ t n at0, exec (.chpop sw d a h) s = .next t ∧ SameBut [r] s t ∧
          t.thread r = ({ th with status := .waiting (.chanPop ch p d n), waitAt := at0 } : Thread).issued sw (th.pc + 4)) ∧
        ∃ t id, exec (.chpoll sw d a h) s = .next t ∧ SameBut [r] s t ∧
          t.thread r = ({ th.await { v := d } id (.have [0]) none with
            level := min (th.level + 1) 7, pollCh := some ch,
            status := .backedOff (s.sliceCount core + 2 ^ min (th.level + 1) 7) none } : Thread).issued sw (th.pc + 4))))

/-! ## Copies -/

/-- CKICK places a kick for the Drill by its checks; CTAGW, CTAGFF, CTAGCLR and CSTAT read, wait on and clear the group's copy tags and counts (R217,
R262, R276, R279, R280, R281). -/
def Obligations.CopyInstructions : Prop :=
  ∀ (s : State) (sw : Bool) (d a n : BitVec 7) (q : BitVec 2) (h : BitVec 1) (r : TRef),
    let s0 := s.inSheaf
    let gr := s.group r.g
    let th := s.thread r
    let hdr := (s.launchOf r.g).hdr
    (s.oneOk { sw := sw, reads := [{ v := a, n := 2 }], access := true } r = true →
      let p := s0.pair r a
      let off := p.toNat % 2 ^ 50
      let i : Instr := .ckick sw q a n
      let list := (s.core gr.core).kicks.getD q.toNat []
      let own : Prop := hdr.producer = some (r.t / 32)
      let here : Prop := p.toNat / 2 ^ 60 = 2 ∧ off < 2 ^ 19
      (¬own → exec i s = .next (s0.faultOf r 0x0D 0 0)) ∧
      (own → ¬here → exec i s = .next (s0.faultOf r 0x08 p.toNat 6)) ∧
      (own → here → off % 128 ≠ 0 → exec i s = .next (s0.faultOf r 0x09 p.toNat 128)) ∧
      (own → here → off % 128 = 0 → hdr.gmem < off + 128 * n.toNat → exec i s = .next (s0.faultOf r 0x05 p.toNat 0)) ∧
      (own → here → off % 128 = 0 → off + 128 * n.toNat ≤ hdr.gmem → 4 ≤ list.length → exec i s = .next s0) ∧
      (own → here → off % 128 = 0 → off + 128 * n.toNat ≤ hdr.gmem → list.length < 4 → (s.core gr.core).kicks.length = 4 →
        ∃ t k, exec i s = .next t ∧ SameBut [r] { s with cores := t.cores } t ∧ t.thread r = th.issued sw (th.pc + 4) ∧
          t.core gr.core = { s.core gr.core with kicks := (s.core gr.core).kicks.set q.toNat (list ++ [k]) } ∧ (∀ c ≠ gr.core, t.core c = s.core c) ∧
          k.ptr = p ∧ k.n = n.toNat ∧ k.fetched = 0 ∧ k.iss.thr = r ∧ k.iss.pc = th.pc ∧ k.iss.launch = gr.launch ∧
          ∀ x ∈ th.engAfter ++ th.after, s.needMet x = false → x ∈ k.iss.needs ++ k.iss.after)) ∧
    (s.oneOk { sw := sw, reads := [{ v := a }] } r = true →
      let m := s0.reg r a
      let b : Word := gr.tags.extractLsb' (32 * h.toNat) 32
      (∀ p ∈ [(Instr.ctagwAny sw a h, false, decide (m = 0 ∨ b &&& m ≠ 0)), (.ctagwAll sw a h, true, decide (b &&& m = m))],
        (p.2.2 = true → ∃ t, exec p.1 s = .next t ∧ SameBut [r] s t ∧ t.thread r = ({ th with obsEng := true } : Thread).issued sw (th.pc + 4)) ∧
        (p.2.2 = false → ∃ t at0, exec p.1 s = .next t ∧ SameBut [r] s t ∧
          t.thread r = ({ th with status := .waiting (.tags p.2.1 h.toNat m), waitAt := at0 } : Thread).issued sw (th.pc + 4))) ∧
      ∃ t, exec (.ctagclr sw a h) s = .next t ∧ t.thread r = th.issued sw (th.pc + 4) ∧
        SameBut [r] (s.modGroup r.g fun g => { g with tags := g.tags &&& ~~~(m.setWidth 64 <<< (32 * h.toNat)) }) t) ∧
    (s.oneOk { sw := sw, reads := [{ v := a }], writes := [{ v := d }], var := true } r = true →
      let m := gr.tags.extractLsb' (32 * h.toNat) 32 &&& s0.reg r a
      ∃ t id w, exec (.ctagff sw d a h) s = .next t ∧ SameBut [r] s t ∧
        t.thread r = (({ th with obsEng := th.obsEng || decide (m ≠ 0) } : Thread).await { v := d } id (.have [w]) none).issued sw (th.pc + 4) ∧
        (m = 0 → w = 64) ∧ (m ≠ 0 → ∃ k < 32, w = .ofNat 32 (32 * h.toNat + k) ∧ m.getLsbD k = true ∧ ∀ l < k, m.getLsbD l = false)) ∧
    (s.oneOk { sw := sw, writes := [{ v := d }], var := true } r = true →
      let kicks := (((s.core gr.core).kicks.getD q.toNat []).filter fun k => k.iss.thr.g = r.g).length
      let queued := (((s.core gr.core).copyQ.getD q.toNat []).filter fun e => e.iss.thr.g = r.g && (match e.work with | .copy _ => true | _ => false)).length
      ∃ t id, exec (.cstat sw d q) s = .next t ∧ SameBut [r] s t ∧
        t.thread r = (th.await { v := d } id (.have [.ofNat 32 (gr.done.getD q.toNat 0 % 65536 * 65536 + kicks * 256 + queued)]) none).issued sw (th.pc + 4))

/-- The Drill takes the next request of the oldest kick into its queue, or refuses it by the first check of R267 that fails (R263, R266, R267, R276).
That stamp kind 0x2 is refused with no stamp too is the model's choice (log entry 23). -/
def Obligations.DrillFetches : Prop :=
  (∀ (s : State) (core : Nat) (q : BitVec 2) (k : Kick) (ks : List Kick),
    let n := q.toNat
    let queue := (s.core core).copyQ.getD n []
    let off := k.ptr.toNat % 2 ^ 50 + 128 * k.fetched
    let at0 := gmemAddr core ((s.group k.iss.thr.g).gbase + off)
    let req : BitVec 1024 := .ofNat 1024 (ofBytes (s.rds at0 128))
    let x := s.fmtCtx (s.launch k.iss.launch).ctx (core / 96)
    let c : Copy := { req := req, ptr := .ofNat 64 (ptrAt k.ptr off), sdesc := x.entry (req.extractLsb' 144 6).toNat,
                      ddesc := x.entry (req.extractLsb' 150 6).toNat }
    let moved (t : State) : Prop := (t.core core).kicks = (s.core core).kicks.set n (if k.fetched + 1 = k.n then ks else { k with fetched := k.fetched + 1 } :: ks)
    (s.core core).kicks.getD n [] = k :: ks → (s.core core).copyQ.length = 4 → s.runs (core / 96) = true →
    (queue.filter fun e => !isMarker e.work).length < 32 → ownGmem core at0 = true → ownGmem core (at0 + 127) = true → s.noneHeld core at0 128 →
    (c.fieldFault = none → c.bbar = 0 → c.dkind ≠ 2 → c.recordAddr = 0 →
      (∀ y ∈ queue, ∀ i m ids, y.work = .marker i m ids → k.id ∉ ids) → ∃ t e, exec (.drillFetch core n) s = .next (t.queuesMoved core) ∧
      SameBut [] { s with cores := t.cores, clusters := t.clusters } t ∧ moved t ∧ (t.core core).copyQ = (s.core core).copyQ.set n (queue ++ [e]) ∧
      e.work = .copy { c with atag := (req.extractLsb' 156 4).toNat } ∧
      e.iss = { k.iss with needs := s.unmet (s.thread k.iss.thr).engAfter, after := s.unmet (s.thread k.iss.thr).after } ∧ e.begun = false) ∧
    (∀ f, c.fieldFault = some f → f.err = none → s.recordWaits k.iss c = false → ∃ t, moved t ∧ t = { s with cores := t.cores } ∧
      exec (.drillFetch core n) s = .next ((t.engineFault k.iss f.code c.ptr.toNat f.d1).queuesMoved core))) ∧
  ∀ c : Copy,
    let field (hi lo : Nat) : Nat := c.req.toNat / 2 ^ lo % 2 ^ (hi + 1 - lo)
    let dkind := field 127 126
    let skind := field 125 124
    let red := field 143 140
    let total := field 191 160 * field 223 192 * field 255 224 * field 287 256 * field 319 288
    let rows : List Prop :=
      [field 123 0 ≠ 0 ∨ (dkind = 2 ∧ (field 767 704 / 2 ^ 23 ≠ 0 ∨ field 719 719 ≠ 0)) ∨ 6 < red ∨ skind = 2 ∨ field 129 128 = 2, 2 ^ 48 ≤ total,
       dkind = 3 ∧ field 959 896 = 0, red ≠ 0 ∧ (field 149 144 ≠ 0 ∨ field 155 150 ≠ 0 ∨ field 136 136 = 1 ∨ 2 ≤ dkind),
       field 136 136 = 1 ∧ field 149 144 ≠ field 155 150, field 139 137 = 7]
    ∀ k (p : Prop), rows[k]? = some p → p → (∀ j < k, ∀ p', rows[j]? = some p' → ¬p') → ∃ f, c.fieldFault = some f ∧ f.code = 0x01 ∧ f.d1 = k + 1 ∧ f.err = none

namespace Sys2Proof.Machine

/-- The byte addresses of the element with iteration vector i0 to i4, from the offsets of the two bases (R265). -/
def Copy.srcByte (c : Copy) (i : Fin 5 → Nat) : Int := (c.srcBase % 2 ^ 50 : Nat) + (c.src.w / 8 : Nat) * ∑ k, (i k : Int) * c.sstride k
def Copy.dstByte (c : Copy) (i : Fin 5 → Nat) : Int := (c.dstBase % 2 ^ 50 : Nat) + (c.dst.w / 8 : Nat) * ∑ k, (i k : Int) * c.dstride k

/-- The linear index of an iteration vector within the bounds (R265). -/
def Copy.indexOf (c : Copy) (i : Fin 5 → Nat) (n : Nat) : Prop :=
  (∀ k, i k < c.bound k) ∧ n = i 0 + c.bound 0 * (i 1 + c.bound 1 * (i 2 + c.bound 2 * (i 3 + c.bound 3 * i 4)))

/-- A container of whole bytes. -/
def wholeBytes (w : Nat) : Prop := w = 8 ∨ w = 16 ∨ w = 32

/-- What a reduction makes of the old word and the element (R271). -/
def RedRule (red : Nat) (old x w : Word) : Prop :=
  match red with
  | 1 => w = old + x
  | 2 => w = if old.toInt ≤ x.toInt then old else x
  | 3 => w = if old.toInt ≤ x.toInt then x else old
  | 4 => ∃ f, roundsTo dFP32 ((val32 old).add (val32 x)) w.toNat f
  | _ =>
    (val32 old = .nan → val32 x = .nan → w = 0x7FC00000) ∧ (val32 old = .nan → val32 x ≠ .nan → w = x) ∧
      (val32 old ≠ .nan → val32 x = .nan → w = old) ∧ ((val32 old).lt (val32 x) = true → w = if red = 5 then old else x) ∧
      ((val32 x).lt (val32 old) = true → w = if red = 5 then x else old)

end Sys2Proof.Machine

/-- An element of a copy moves from its source address to its destination address by the strides of R265, converted or reduced as its request says
(R265, R266, R268, R270, R271). That detail0 of FORMAT_RANGE is the element's source address, that an address of kind 0x0 outside 64 bits is LEASE,
and that the four queues of a core take turns element by element or block by block, are the model's choices (log entries 41, 44 and 154). -/
def Obligations.CopiedElements : Prop :=
  ∀ (s : State) (core q : Nat) (e : Entry) (c : Copy) (i : Fin 5 → Nat), Memory.wf s.mem = true → s.workOn core q = some (e, c) → c.next < c.total → c.indexOf i c.next →
    wholeBytes c.src.w → wholeBytes c.dst.w → c.skind = 1 → c.tensor = none →
    let place (p : Nat) (a : Int) (n : Nat) := s.engPlace e.iss.thr (.ofNat 64 p) a n
    let source (p : Nat) (a : Int) (n : Nat) := s.engPlace e.iss.thr (.ofNat 64 p) a n false
    let later (t : State) (n : Nat) : Prop := ∃ e' c', e' ∈ (t.core core).copyQ.getD q [] ∧ e'.work = .copy c' ∧ c'.req = c.req ∧ c'.next = c.next + n ∧
      c'.landed = c.landed + n
    let ends (code d0 : Nat) (j : Instr) : Prop := (c.landed < c.next → exec j s = .next s) ∧
      (c.next ≤ c.landed → exec j s = .next (((s.dropEntry core q e.id).engineFault e.iss code d0
        (c.red * 2 ^ 60 + q * 2 ^ 58 + c.tag * 2 ^ 52 + c.next % 2 ^ 48)).queuesMoved core))
    ∀ x, source c.srcBase (c.srcByte i) (c.src.w / 8) = .ok x → s.reach x = true → (c.bbar = 0) →
      let code := ofBytes (s.rds x (c.src.w / 8))
      let conv := if c.sfmt = c.dfmt then some code
        else ((Desc.rnd c.ddesc c.rndCode (s.hOf e.iss.thr e.iss.pc (c.started.getD s.refTimer) c.next) (Desc.value c.sdesc code)).map (·.1))
      (c.tr = false → c.red = 0 → c.dkind = 1 → ∀ y, place c.dstBase (c.dstByte i) (c.dst.w / 8) = .ok y → s.reach y = true →
        (conv = none → ends 0x0B (ptrAt (.ofNat 64 c.srcBase) (c.srcByte i)) (.copyElement core q)) ∧
        ∀ v, conv = some v → s.watchers y (c.dst.w / 8) = [] → ∃ t, exec (.copyElement core q) s = .next t ∧ later t 1 ∧
          t.mem = (s.wrs y (bytesOf (c.dst.w / 8) v)).mem ∧ SameBut [] { s with mem := t.mem, cores := t.cores } t) ∧
      (c.tr = false → c.red = 0 → c.dkind = 1 → conv ≠ none → ∀ f d1, place c.dstBase (c.dstByte i) (c.dst.w / 8) = .error (f, d1) →
        ends f (ptrAt (.ofNat 64 c.dstBase) (c.dstByte i)) (.copyElement core q)) ∧
      (c.tr = false → c.red = 0 → c.dkind = 0 → conv ≠ none →
        let va : Int := c.dstBase + (c.dst.w / 8 : Nat) * ∑ k, (i k : Int) * c.dstride k
        (∃ k < c.dst.w / 8, ∀ l ∈ (s.launch e.iss.launch).leases, ¬(l.cls = 1 ∧ (l.base : Int) ≤ va + k ∧ va + k < l.base + l.len)) →
        ends 0x0E (BitVec.ofInt 64 va).toNat (.copyElement core q)) ∧
      (c.red ≠ 0 → c.red ≤ 6 → c.dkind = 1 → c.tr = false → c.sfmt = c.dfmt → c.src.w = 32 → c.dst.w = 32 →
        ∀ y, place c.dstBase (c.dstByte i) 4 = .ok y → s.reach y = true → s.watchers y 4 = [] →
        ∃ t w, exec (.reductionElement core q) s = .next t ∧ later t 1 ∧ RedRule c.red (.ofNat 32 (s.rdNat y 4)) (.ofNat 32 code) w ∧
          t.mem = (s.wrs y (bytesOf 4 w.toNat)).mem ∧ SameBut [] { s with mem := t.mem, cores := t.cores } t) ∧
      (c.tr = true → c.red = 0 → c.dkind = 1 → c.sfmt = c.dfmt → c.dst.w = c.src.w → c.next = 0 → c.bound 0 ≤ 64 → c.bound 1 ≤ 64 → c.bound 2 = 1 → c.bound 3 = 1 → c.bound 4 = 1 →
        (∀ x0 y0 f d1, x0 < c.bound 0 → y0 < c.bound 1 → place c.dstBase (c.dstByte ![y0, x0, 0, 0, 0]) (c.src.w / 8) = .error (f, d1) →
          (∀ m n, m < c.bound 0 → n < c.bound 1 →
            (∃ z, source c.srcBase (c.srcByte ![m, n, 0, 0, 0]) (c.src.w / 8) = .ok z ∧ s.reach z = true) ∧
            (∀ z, place c.dstBase (c.dstByte ![n, m, 0, 0, 0]) (c.src.w / 8) = .ok z → s.reach z = true) ∧
            (n < y0 ∨ (n = y0 ∧ m < x0) →
              ∃ z, place c.dstBase (c.dstByte ![n, m, 0, 0, 0]) (c.src.w / 8) = .ok z ∧ s.watchers z (c.src.w / 8) = [])) →
          ends f (ptrAt (.ofNat 64 c.dstBase) (c.dstByte ![y0, x0, 0, 0, 0])) (.transposerBlock core q)) ∧
        ∀ X Y : Nat → Nat → Nat,
          (∀ m n, m < c.bound 0 → n < c.bound 1 → source c.srcBase (c.srcByte ![m, n, 0, 0, 0]) (c.src.w / 8) = .ok (X m n) ∧ s.reach (X m n) = true ∧
            place c.dstBase (c.dstByte ![n, m, 0, 0, 0]) (c.src.w / 8) = .ok (Y m n) ∧ s.reach (Y m n) = true ∧ s.watchers (Y m n) (c.src.w / 8) = [] ∧
            ∀ m' n', m' < c.bound 0 → n' < c.bound 1 → (Y m n + c.src.w / 8 ≤ X m' n' ∨ X m' n' + c.src.w / 8 ≤ Y m n) ∧
              ((m, n) ≠ (m', n') → Y m n + c.src.w / 8 ≤ Y m' n' ∨ Y m' n' + c.src.w / 8 ≤ Y m n)) →
          ∃ t, exec (.transposerBlock core q) s = .next t ∧ later t c.total ∧
            (∀ m n, m < c.bound 0 → n < c.bound 1 → t.rds (Y m n) (c.src.w / 8) = s.rds (X m n) (c.src.w / 8)) ∧
            ∀ a, (∀ m n, m < c.bound 0 → n < c.bound 1 → a < Y m n ∨ Y m n + c.src.w / 8 ≤ a) → t.rd a = s.rd a)

/-- A copy counts its bytes against its barrier as they land, then writes its stamp, then sets its tag, counts its completion and leaves its queue
(R246, R272, R273, R274, R275, R280, R281). -/
def Obligations.CopiesComplete : Prop :=
  (∀ (s : State) (core q : Nat) (e : Entry) (es : List Entry) (c : Copy), (s.core core).copyQ.getD q [] = e :: es → e.work = .copy c →
    let g := e.iss.thr.g
    (c.landed < c.total → exec (.copyComplete core q) s = .next s) ∧
    (c.total ≤ c.landed → s.runs (core / 96) = true → e.begun = true →
      (c.stamp ≠ 0 → c.stamped = false → c.next ≤ c.total → c.stkind = 1 →
        ∀ y, s.engPlace e.iss.thr (.ofNat 64 c.stamp) (c.stamp % 2 ^ 50 : Nat) 8 false = .ok y → s.reach y = true → s.watchers y 8 = [] →
        ∃ t e', exec (.copyComplete core q) s = .next t ∧ t.mem = (s.wrs y (bytesOf 8 c.stampval)).mem ∧
          SameBut [] { s with mem := t.mem, cores := t.cores } t ∧ e' ∈ (t.core core).copyQ.getD q [] ∧ e'.work = .copy { c with stamped := true }) ∧
      (c.stamp = 0 ∨ c.stamped = true → g < s.groups.length → ∃ t, exec (.copyComplete core q) s = .next t ∧ t.mem = s.mem ∧ t.stores = s.stores ∧
        (t.group g).tags = (s.group g).tags ||| (1#64 <<< c.tag) ∧ (t.group g).done = (s.group g).done.modify q (· + 1) ∧
        (∀ x ∈ (t.core core).copyQ.getD q [], x.id ≠ e.id) ∧
        ∀ r all h m, r.g = g → (s.thread r).status = .waiting (.tags all h m) → (s.thread r).halted = false →
          tagsHold all ((s.group g).tags ||| (1#64 <<< c.tag)) h m = true → t.runsOn r))) ∧
  ∀ (s : State) (core q : Nat) (e : Entry) (c : Copy) (z : Nat), Memory.wf s.mem = true → c.bbar ≠ 0 → s.engPlace e.iss.thr c.bbar (c.bbar.toNat % 2 ^ 50 : Nat) 16 = .ok z →
    let o := s.obj z
    let bytes := if c.landed = c.total then (c.landed * c.dst.w + 7) / 8 else c.landed * c.dst.w / 8
    let due := bytes - c.counted
    due ≠ 0 → o.expected ≠ 0 → -(2 ^ 55 : Int) ≤ o.pending - due →
    (s.landed core q e c).obj z = (if o.arrivals = 0 ∧ o.pending = due then { o with phase := 1 - o.phase, arrivals := o.expected, pending := 0 }
      else { o with pending := o.pending - due }) ∧
    ∀ a, a < z ∨ z + 16 ≤ a → (s.landed core q e c).rd a = s.rd a

/-! ## Matrices -/

namespace Sys2Proof.Machine

/-- A matrix instruction as it issues: the accumulator and the slots it must hold with the cores they stand on, its further checks, the
entry it places for an awaited result of this name, and what its issue does to the metadata of a slot (R282, R284, R286). A check is what fails
it, and the code and details of its fault; they are made in order. -/
structure MatRow where
  instr : Instr
  form : Form
  acc : Option Nat := none
  slots : List (Nat × List Nat) := []
  checks : List (Prop × Nat × Nat × Nat) := []
  op : Nat → MOp
  out : Option RegField := none
  put : Nat → Nat → Slot → Slot := fun _ _ sl => sl

/-- An element entry or a scale entry of a slot that an MMA does not take (R285, R288). -/
def elemBad (l : SlotLatch) : Prop :=
  ¬(Desc.valid l.ed = true ∧ Desc.kind l.ed ≤ 2 ∧ Desc.w l.ed ≠ 56 ∧ Desc.container l.ed ≤ 16 ∧ (Desc.container l.ed = 16 → l.md.geom = 0) ∧ l.md.fmt ≠ 14)
def scaleBad (l : SlotLatch) : Prop :=
  l.md.geom ≠ 0 ∧ ¬(Desc.valid l.sd = true ∧ Desc.kind l.sd ∈ [0, 1, 3] ∧ Desc.w l.sd ∈ [6, 8] ∧ l.md.sfmt ≠ 14)

/-- The format checks of an MMA in order, from the latches of A and B on the core and on its mate (R288, R292). -/
def mmaChecks (had chained : Bool) (al af bl bf : SlotLatch) : List (Prop × Nat × Nat × Nat) :=
  let g := if al.md.geom ≠ 0 then geomElems al.md.geom else if bl.md.geom ≠ 0 then geomElems bl.md.geom else 256
  let row (p : Prop) (entry : Nat) : Prop × Nat × Nat × Nat := (p, 0x0A, 0, entry)
  [row (elemBad al) al.md.fmt, row (elemBad bl) bl.md.fmt, row (scaleBad al) al.md.sfmt, row (scaleBad bl) bl.md.sfmt,
   row (al.md.geom ≠ 0 ∧ bl.md.geom ≠ 0 ∧ al.md.geom ≠ bl.md.geom) al.md.fmt, row (al.md ≠ af.md) al.md.fmt, row (bl.md ≠ bf.md) bl.md.fmt,
   row (chained = true ∧ al.md.geom ≠ 0 ∧ Desc.kind al.sd ∉ [1, 3]) al.md.sfmt, row (chained = true ∧ bl.md.geom ≠ 0 ∧ Desc.kind bl.sd ∉ [1, 3]) bl.md.sfmt,
   row (had = true ∧ (bl.md.hsize = 0 ∨ g < 2 ^ (3 + bl.md.hsize))) bl.md.fmt]

/-- The checks of a store's destination at issue, for accesses of a size in a range of bytes (R197, R295). -/
def storeChecks (s : State) (r : TRef) (p : DWord) (size len : Nat) : List (Prop × Nat × Nat × Nat) :=
  let sp := ptrSpace p
  let off := p.toNat % 2 ^ 50
  [(sp = 0, 0x07, p.toNat, 0), (spaceKnown sp = false, 0x08, p.toNat, 1), (sp ≠ 2 ∧ sp ≠ 4, 0x08, p.toNat, 6), (off % size ≠ 0, 0x09, p.toNat, size)] ++
    match s.bound r p off len with
    | .error (c, d1) => [(True, c, p.toNat, d1)]
    | .ok _ => []

/-- The matrix instructions of a lane with one choice of fields (R288, R293 to R296, R299, R306). -/
def matRows (s : State) (r : TRef) (sw : Bool) (d a : BitVec 7) (n q : BitVec 2) (m : BitVec 3) (x y : BitVec 5) (h : BitVec 1) (e : BitVec 6) : List MatRow :=
  let k := (s.group r.g).core
  let f := mateOf k
  let c := s.ctxOf r.g
  let t := s.tableOf r
  let al := s.latch c k x.toNat
  let bl := s.latch c k y.toNat
  let p := s.pair r a
  let w := (s.reg r a).toNat
  let desc := t.entry e.toNat
  let md : SlotMeta := { fmt := w % 64, geom := w / 64 % 4, sfmt := if w / 64 % 4 = 0 then 0 else w / 256 % 64, scslot := x.toNat }
  let refused (e : Desc) (md : SlotMeta) : Prop := Desc.valid e = false ∨ md.fmt = 14 ∨ slotRefuses e md.geom = true
  let hadRow (l : SlotLatch) : Prop × Nat × Nat × Nat :=
    (refused l.ed l.md ∨ 3 < Desc.kind l.ed ∨ (l.md.geom ≠ 0 ∧ geomElems l.md.geom < 2 ^ (4 + n.toNat)), 0x0A, 0, l.md.fmt)
  let both := [k, f]
  let plain : Form := { sw := sw, access := true }
  let ptr : Form := { sw := sw, reads := [{ v := a, n := 2 }], access := true }
  [{ instr := .mzero sw n, form := plain, acc := some n.toNat, op := fun _ => .mzero n.toNat },
   { instr := .mmaP sw h n x y, form := plain, acc := some n.toNat, slots := [(x.toNat, both), (y.toNat, both)]
     checks := mmaChecks (h = 1) false al (s.latch c f x.toNat) bl (s.latch c f y.toNat)
     op := fun _ => .mma false (h = 1) n.toNat x.toNat y.toNat al bl },
   { instr := .mmaC sw h n x y, form := plain, acc := some n.toNat, slots := [(x.toNat, both), (y.toNat, both)]
     checks := mmaChecks (h = 1) true al (s.latch c f x.toNat) bl (s.latch c f y.toNat)
     op := fun _ => .mma true (h = 1) n.toNat x.toNat y.toNat al bl },
   { instr := .mrd sw d a n, form := { sw := sw, reads := [{ v := a }], writes := [{ v := d, n := 2 }], var := true, access := true }
     acc := some n.toNat, checks := [(8192 ≤ w, 0x16, w, 0x40)], op := fun o => .mrd n.toNat w o, out := some { v := d, n := 2 } },
   { instr := .mwr sw d a n, form := { sw := sw, reads := [{ v := d }, { v := a, n := 2 }], access := true }
     acc := some n.toNat, checks := [(8192 ≤ (s.reg r d).toNat, 0x16, (s.reg r d).toNat, 0x40)], op := fun _ => .mwr n.toNat (s.reg r d).toNat (p.toNat % 2 ^ 56) },
   { instr := .mstore sw m n a e, form := ptr, acc := some n.toNat
     checks := (Desc.valid desc = false ∨ e = 14 ∨ e = 15, 0x0A, 0, e.toNat) ::
       storeChecks s r p (max 1 (storeWidth desc / 8)) (8192 * storeWidth desc / 8)
     op := fun _ => .mstore n.toNat m.toNat e.toNat desc p },
   { instr := .mstoreS sw x a, form := ptr, slots := [(x.toNat, [k])]
     checks := (refused al.ed al.md, 0x0A, 0, al.md.fmt) :: storeChecks s r p 1 32768, op := fun _ => .mstoreS x.toNat p },
   { instr := .mqnt sw m n a q x, form := { sw := sw, reads := [{ v := a }], access := true }, acc := some n.toNat, slots := [(x.toNat, both)]
     checks := [(2 ^ 14 ≤ w, 0x0A, w, md.fmt), (refused (t.entry md.fmt) md ∨ 3 < Desc.kind (t.entry md.fmt), 0x0A, 0, md.fmt),
       (md.geom ≠ 0 ∧ ¬(Desc.valid (t.entry md.sfmt) = true ∧ Desc.kind (t.entry md.sfmt) ∈ [1, 3]), 0x0A, 0, md.sfmt)]
     op := fun _ => .mqnt n.toNat m.toNat q.toNat x.toNat { md := md, ed := t.entry md.fmt, sd := t.entry md.sfmt }
     put := fun c i sl => if c ∈ both ∧ i = x.toNat then { sl with md := md, sums := [] } else sl },
   { instr := .had sw h m n x, form := plain, slots := [(x.toNat, if h = 1 then both else [k])]
     checks := hadRow al :: if h = 1 then [hadRow (s.latch c f x.toNat)] else []
     op := fun _ => .had (h = 1) m.toNat n.toNat x.toNat al (s.latch c f x.toNat)
     put := fun c i sl => if (c = k ∨ (h = 1 ∧ c = f)) ∧ i = x.toNat then { sl with md := { sl.md with hsize := n.toNat + 1 } } else sl },
   { instr := .mchk sw d n, form := { sw := sw, writes := [{ v := d }], var := true, access := true }, acc := some n.toNat
     op := fun o => .mchk n.toNat o, out := some { v := d } }]

/-- No marker stands in any queue of a core, its mate or their stack. -/
def State.noMarkers (s : State) (c : Nat) : Prop :=
  ∀ k ∈ [c, mateOf c], (s.core k).copyQ.length = 4 ∧ ∀ q < 6, ∀ e ∈ s.engineQueue k q, isMarker e.work = false

end Sys2Proof.Machine

/-- A matrix instruction checks what its group holds and its formats, waits while M is full, and otherwise stands last in the stack's queue (R193,
R282, R284, R286, R288, R293, R294, R295, R296, R297, R299, R306). The order of the checks of an MMA, ownership before formats and formats before
scales, MWAIT as a place in M, the refusal of a slot by MSTORE.s, and the details of FORMAT_ENTRY, which these rules do not give, are the model's
choices (log entries 48, 58, 61 and 177). -/
def Obligations.MatrixEntriesIssue : Prop :=
  (∀ (s : State) (sw : Bool) (d a : BitVec 7) (n q : BitVec 2) (m : BitVec 3) (x y : BitVec 5) (h : BitVec 1) (e : BitVec 6) (r : TRef),
    let s0 := s.inSheaf
    let k := (s.group r.g).core
    let th := s.thread r
    let stack := s.stack (k / 2)
    let count := (stack.mq.filter fun e => !isMarker e.work).length
    ∀ w ∈ matRows s0 r sw d a n q m x y h e, s.oneOk w.form r = true →
      let mine : Prop := ∀ i, w.acc = some i → holds r.g (s.acc k i).holder = true
      let usable (p : Nat × List Nat) : Prop := ∀ c ∈ p.2, s.slotUsable r.g c p.1 = true
      (∀ i, w.acc = some i → ¬mine → exec w.instr s = .next (s0.faultOf r 0x16 0 (0x20 + i))) ∧
      (mine → ∀ pre p post, w.slots = pre ++ p :: post → (∀ o ∈ pre, usable o) → ¬usable p → exec w.instr s = .next (s0.faultOf r 0x16 0 p.1)) ∧
      (mine → (∀ p ∈ w.slots, usable p) → ∀ pre p post, w.checks = pre ++ p :: post → (∀ o ∈ pre, ¬o.1) → p.1 →
        exec w.instr s = .next (s0.faultOf r p.2.1 p.2.2.1 p.2.2.2)) ∧
      (mine → (∀ p ∈ w.slots, usable p) → (∀ p ∈ w.checks, ¬p.1) → 16 ≤ count → exec w.instr s = .next s0) ∧
      (mine → (∀ p ∈ w.slots, usable p) → (∀ p ∈ w.checks, ¬p.1) → count < 16 → ∃ t o en, exec w.instr s = .next t ∧ en.work = .mat (w.op o) ∧ en.iss = s0.issuer r ∧
        t.stack (k / 2) = { stack with mq := stack.mq ++ [en] } ∧ (∀ j, j ≠ k / 2 → t.stack j = s.stack j) ∧
        SameBut [r] { s with stackTbl := t.stackTbl, cores := t.cores, clusters := t.clusters } t ∧
        (∀ c, t.core c = { s.core c with slots := (t.core c).slots }) ∧ (∀ c i, t.slot c i = w.put c i (s.slot c i)) ∧
        t.thread r = (match w.out with | some fd => th.await fd o .awaited none | none => th).issued sw (th.pc + 4))) ∧
  ∀ (s : State) (sw : Bool) (r : TRef), s.oneOk { sw := sw, var := true } r = true →
    let k := (s.group r.g).core
    let stack := s.stack (k / 2)
    s.noMarkers k →
    (stack.mq ≠ [] → ∃ t o en, exec (.mwait sw) s = .next t ∧ t.mem = s.mem ∧ (t.stack (k / 2)).mq = stack.mq ++ [en] ∧ en.work = .mwait o ∧
      t.thread r = ((s.thread r).await { v := 0, n := 0 } o .awaited none).issued sw ((s.thread r).pc + 4)) ∧
    (stack.mq = [] → ∃ t o, exec (.mwait sw) s = .next t ∧ t.mem = s.mem ∧ (t.stack (k / 2)).mq = [] ∧ (t.thread r).regs = (s.thread r).regs ∧
      ((∀ p ∈ (s.thread r).outs, p.id ≠ o) → (t.thread r).outs = (s.thread r).outs ++ [{ id := o, regs := [], val := .have [], seq := (s.thread r).seq + 1, slot := none }]))

namespace Sys2Proof.Machine

/-- A matrix entry at the head of its stack's queue may be performed now, and nothing else waits to go with it. -/
def State.headsM (s : State) (stack : Nat) (e : Entry) (rest : List Entry) (op : MOp) : Prop :=
  (s.stack stack).mq = e :: rest ∧ e.work = .mat op ∧ stackOf e.iss.core = stack ∧ s.runs (dieOfCore e.iss.core) = true ∧ s.mayBegin e.iss = true ∧
    s.noMarkers e.iss.core

/-- A cell of accumulator n as a rational, where it is finite (R287). -/
def State.cellRat (s : State) (core n x : Nat) : Option ℚ := (valA56 (tget 0 (s.acc core n).cells x)).rat

/-- A checksum entry as a rational. -/
def sumRat (l : List Nat) (i : Nat) : Option ℚ := (valA56 (l.getD i 0)).rat

end Sys2Proof.Machine

/-- At the head of M, MZERO clears, MWR sets and MRD reads an element, MCHK compares the sums, and MSTORE and MSTORE.s write their codes (R286, R295,
R296, R299). -/
def Obligations.AccumulatorEntries : Prop :=
  ∀ (s : State) (stack : Nat) (e : Entry) (rest : List Entry) (op : MOp), Memory.wf s.mem = true → s.headsM stack e rest op →
    let c := e.iss.core
    let does (t : State) : Prop := exec (.mEntryPerform stack) s = .next t ∧ (t.stack stack).mq = rest
    (∀ n, (op = .mzero n ∨ ∃ x v, op = .mwr n x v) → n < (s.stack stack).accs.length → (∃ g, (s.acc c n).holder = some { g := g, releasing := false }) →
      ∃ t, does t ∧ t.mem = s.mem ∧ (t.acc c n).holder = (s.acc c n).holder ∧
        (op = .mzero n → (∀ y, tget 0 (t.acc c n).cells y = 0) ∧ (t.acc c n).chk = .exact ∧ (t.acc c n).modeP = false ∧ (∀ i, (t.acc c n).row.getD i 0 = 0) ∧
          ∀ i, (t.acc c n).col.getD i 0 = 0) ∧
        ∀ x v, op = .mwr n x v → (t.acc c n).chk = .absent ∧ ∀ y, tget 0 (t.acc c n).cells y = if y = x then v else tget 0 (s.acc c n).cells y) ∧
    (∀ n x o, op = .mrd n x o → ∃ t, does t ∧ t.mem = s.mem ∧ (t.thread e.iss.thr).outs = (s.thread e.iss.thr).outs.map fun p =>
      if p.id = o then { p with val := .have [.ofNat 32 (tget 0 (s.acc c n).cells x), .ofNat 32 (tget 0 (s.acc c n).cells x / 2 ^ 32)] } else p) ∧
    (∀ n o, op = .mchk n o →
      let x := s.acc c n
      let gives (w : Word) : Prop := ∃ t, does t ∧ t.mem = s.mem ∧ (t.thread e.iss.thr).outs = (s.thread e.iss.thr).outs.map fun p =>
        if p.id = o then { p with val := .have [w] } else p
      (x.chk = .absent → gives 3) ∧ (x.chk = .indeterminate ∨ (x.chk = .inexact ∧ x.modeP = false) → gives 2) ∧
      (x.chk = .exact → x.modeP = false → ∀ (cell : Nat → ℚ) (row col : Nat → ℚ), (∀ y < 8192, s.cellRat c n y = some (cell y)) →
        (∀ j < 64, sumRat x.row j = some (row j)) → (∀ i < 128, sumRat x.col i = some (col i)) →
        let differs (k : Nat) : Prop := (k < 64 ∧ ∑ i ∈ Finset.range 128, cell (64 * i + k) ≠ row k) ∨
          (64 ≤ k ∧ k < 192 ∧ ∑ j ∈ Finset.range 64, cell (64 * (k - 64) + j) ≠ col (k - 64))
        ((∀ k, ¬differs k) → gives 0) ∧
        ∀ k, differs k → (∀ j < k, ¬differs j) → exec (.mEntryPerform stack) s = .next (((((s.setStack stack { s.stack stack with mq := rest }).fulfil
          e.iss.thr o [.ofNat 32 (k * 65536 + 1)]).engineFault e.iss 0x18 n k).queuesMoved c)))) ∧
    (∀ n m en d p (Y : Nat → Nat), op = .mstore n m en d p → s.matReady e op = true →
      let w := storeWidth d
      let code (x : Nat) := Desc.rnd d m (s.hOf e.iss.thr e.iss.pc s.refTimer x) (valA56 (tget 0 (s.acc c n).cells x))
      w % 8 = 0 → 0 < w → (∀ x < 8192, (code x).isSome = true ∧ s.engWhere e.iss.thr p (p.toNat % 2 ^ 50 + x * (w / 8) : Nat) (w / 8) true = .ok (Y x)) →
      (∀ x < 8192, ∀ y < 8192, x ≠ y → Y x + w / 8 ≤ Y y ∨ Y y + w / 8 ≤ Y x) →
      ∃ t, does t ∧ (∀ x < 8192, ∀ v fl, code x = some (v, fl) → t.rds (Y x) (w / 8) = bytesOf (w / 8) v) ∧
        ∀ a, (∀ x < 8192, a < Y x ∨ Y x + w / 8 ≤ a) → t.rd a = s.rd a) ∧
    ∀ i p (Y : Nat → Nat), op = .mstoreS i p → s.matReady e op = true →
      (∀ x < 32768, s.engWhere e.iss.thr p (p.toNat % 2 ^ 50 + x : Nat) 1 true = .ok (Y x)) → (∀ x < 32768, ∀ y < 32768, Y x = Y y → x = y) →
      (∀ x < 32768, ∀ y < 32768, Y x ≠ slotAddr c i y) →
      ∃ t, does t ∧ (∀ x < 32768, t.rd (Y x) = s.rd (slotAddr c i x)) ∧ ∀ a, (∀ x < 32768, a ≠ Y x) → t.rd a = s.rd a

/-- MMA.P and MMA.C add the exact dot product of each row and column to each cell, rounded as their rules say, and HAD transforms each run (R285,
R287, R288, R289, R290, R292, R293, R298). That such a refusal has detail1 0 is the model's choice (log entry 49). -/
def Obligations.MatrixProducts : Prop :=
  ∀ (s : State) (stack : Nat) (e : Entry) (rest : List Entry) (op : MOp), Memory.wf s.mem = true → s.headsM stack e rest op →
    let c := e.iss.core
    let does (t : State) : Prop := exec (.mEntryPerform stack) s = .next t ∧ (t.stack stack).mq = rest ∧ t.mem = s.mem
    (∀ ch n ia ib al bl, op = .mma ch false n ia ib al bl → al.md.geom = 0 → bl.md.geom = 0 → n < (s.stack stack).accs.length →
      (∃ g, (s.acc c n).holder = some { g := g, releasing := false }) →
      let on (i : Nat) : Nat := if i < 64 then c else mateOf c
      let av (i k : Nat) : Val := Desc.value al.ed (s.slotCode (on i) ia (Desc.container al.ed) (256 * (i % 64) + k))
      let bv (i k j : Nat) : Val := Desc.value bl.ed (s.slotCode (on i) ib (Desc.container bl.ed) (256 * j + k))
      let pmax := floorLog ((Desc.top al.ed).1 * (Desc.top bl.ed).1) ((Desc.top al.ed).2 * (Desc.top bl.ed).2)
      ∃ t, does t ∧ (al.md.sums = 0 → (t.acc c n).chk = .absent) ∧
        ∀ i j (A B : Nat → ℚ) (old : ℚ), i < 128 → j < 64 → (∀ k < 256, (av i k).rat = some (A k) ∧ (bv i k j).rat = some (B k)) →
          s.cellRat c n (64 * i + j) = some old →
          let dot := ∑ k ∈ Finset.range 256, A k * B k
          let code := tget 0 (t.acc c n).cells (64 * i + j)
          (ch = false → ∃ v : Val, v.rat = some dot ∧ ∀ q, (val32 (rnd32 v).1).rat = some q → ∃ u : Val, u.rat = some (old + q) ∧ code = rndA56 u) ∧
          (ch = true → (∃ z : ℤ, dot = z * (2 : ℚ) ^ (pmax - 85)) → ∃ u : Val, u.rat = some (old + dot) ∧ code = rndA56 u)) ∧
    (∀ hd n ia ib al bl, op = .mma true hd n ia ib al bl →
      let g := if al.md.geom ≠ 0 then geomElems al.md.geom else if bl.md.geom ≠ 0 then geomElems bl.md.geom else 256
      let refused (x : Nat) : Prop := ∃ k ∈ [c, mateOf c], ∃ l ∈ [al, bl], l.md.geom ≠ 0 ∧ Desc.kind l.sd = 1 ∧
        ∃ i < 64, ∃ b < 256 / g, x = s.scaleCode k l.md.scslot g i b ∧ x % 128 ≠ 0 ∧ (m8Fields (x % 128)).2.1 ≠ 0
      (∃ x, refused x) → ∃ x, refused x ∧
        exec (.mEntryPerform stack) s = .next (((s.setStack stack { s.stack stack with mq := rest }).engineFault e.iss 0x0A x 0).queuesMoved c)) ∧
    ∀ m n i l lm, op = .had false m n i l lm →
      let w := Desc.container l.ed
      let size := 2 ^ (4 + n)
      let h (x : Nat) := s.hOf e.iss.thr e.iss.pc s.refTimer x
      n < 3 → w = 4 ∨ w = 8 ∨ w = 16 → (∀ v x, (Desc.rnd l.ed m (h x) v).isSome = true) →
      ∃ t, exec (.mEntryPerform stack) s = .next t ∧ (t.stack stack).mq = rest ∧
        (∀ a, a < slotAddr c i 0 ∨ slotAddr c i 32768 ≤ a → t.rd a = s.rd a) ∧
        ∀ x (V : Nat → ℚ), x < 16384 → (∀ y < size, (Desc.value l.ed (s.slotCode c i w (x / size * size + y))).rat = some (V y)) →
          ∃ (v : Val) (code : Nat) (fl : Flg), v.rat = some (∑ y ∈ Finset.range size,
              (if ((List.range 6).map fun b => if (x % size).testBit b ∧ y.testBit b then 1 else 0).sum % 2 = 0 then 1 else -1) * V y) ∧
            Desc.rnd l.ed m (h x) v = some (code, fl) ∧ t.slotCode c i w x = code % 2 ^ w

/-- SCLAIM takes the lowest free run of what its kind names, zeroed, SREL gives back what is held, SINFO tells, and MLD fills slots (R133, R193, R277,
R282, R283, R284, R300, R302, R304, R307, R384). That a refused tile load installs the slot's metadata, which elements an unfinished tile load has
written, and that a displaced slot has its metadata in State alone are the model's choices (log entries 55, 56 and 79). So are the limit of a pair
claim, 32 slots charged to the mate with those of the claim (log entry 57), and the order of the slots in the record (log entry 163). -/
def Obligations.SlotsAndTiles : Prop :=
  (∀ (s : State) (sw : Bool) (d a : BitVec 7) (n : BitVec 6) (r : TRef),
    let s0 := s.inSheaf
    let c := (s.group r.g).core
    let th := s.thread r
    let gives (i : Instr) (w : Word) (base : State → State) : Prop := ∃ t id, exec i s = .next t ∧ SameBut [r] (base t) t ∧
      t.thread r = (th.await { v := d } id (.have [w]) none).issued sw (th.pc + 4)
    (s.oneOk { sw := sw, writes := [{ v := d }], var := true } r = true → n ≠ 0 →
      let run (free : Nat → Prop) (lim i : Nat) : Prop := i + n.toNat ≤ lim ∧ (∀ j < n.toNat, free (i + j)) ∧ ∀ k < i, ¬∀ j < n.toNat, free (k + j)
      let past : Prop := (s.launchOf r.g).hdr.slots < s.slotsHeld r.g c + n.toNat
      (past → gives (.sclaim sw d 0 n) 0xFFFFFFFF fun _ => s) ∧
      (¬past → ∀ i, run (fun k => (s.slot c k).holder = none) 32 i → ∃ t id, exec (.sclaim sw d 0 n) s = .next t ∧
        t.thread r = (th.await { v := d } id (.have [.ofNat 32 i]) none).issued sw (th.pc + 4) ∧ SameBut [r] { s with mem := t.mem, cores := t.cores } t ∧
        (∀ k x, t.slot k x = if k = c ∧ i ≤ x ∧ x < i + n.toNat then { holder := some { g := r.g }, md := { scslot := x } } else s.slot k x) ∧
        ∀ y, t.rd y = if slotAddr c i 0 ≤ y ∧ y < slotAddr c (i + n.toNat) 0 then 0 else s.rd y) ∧
      let mate := mateOf c
      let full : Prop := past ∨ 32 < s.slotsCharged mate + n.toNat
      (full → gives (.sclaim sw d 1 n) 0xFFFFFFFF fun _ => s) ∧
      (¬full → ∀ i, run (fun k => (s.slot c k).holder = none ∧ (s.slot mate k).holder = none) 32 i → ∃ t id, exec (.sclaim sw d 1 n) s = .next t ∧
        t.thread r = (th.await { v := d } id (.have [.ofNat 32 i]) none).issued sw (th.pc + 4) ∧ SameBut [r] { s with mem := t.mem, cores := t.cores } t ∧
        (∀ k x, t.slot k x = if (k = c ∨ k = mate) ∧ i ≤ x ∧ x < i + n.toNat then { holder := some { g := r.g }, md := { scslot := x } } else s.slot k x) ∧
        ∀ y, t.rd y = if ∃ k ∈ [c, mate], slotAddr k i 0 ≤ y ∧ y < slotAddr k (i + n.toNat) 0 then 0 else s.rd y) ∧
      let accs := (s.stack (c / 2)).accs
      let mine := (accs.filter fun x => holds r.g x.holder).length
      (4 < mine + n.toNat → gives (.sclaim sw d 2 n) 0xFFFFFFFF fun _ => s) ∧
      (mine + n.toNat ≤ 4 → accs.length = 4 → ∀ i, run (fun k => (s.acc c k).holder = none) 4 i → ∃ t id, exec (.sclaim sw d 2 n) s = .next t ∧
        t.thread r = (th.await { v := d } id (.have [.ofNat 32 i]) none).issued sw (th.pc + 4) ∧ SameBut [r] { s with stackTbl := t.stackTbl } t ∧
        ∀ k < 4, t.acc c k = if i ≤ k ∧ k < i + n.toNat then { holder := some { g := r.g } } else s.acc c k)) ∧
    (s.oneOk { sw := sw, reads := [{ v := a }] } r = true →
      let i := (s0.reg r a).toNat
      (∀ x, i ≤ x → x < i + n.toNat → (32 ≤ x ∨ holds r.g (s.slot c x).holder = false) → (∀ y, i ≤ y → y < x → y < 32 ∧ holds r.g (s.slot c y).holder = true) →
        exec (.srel sw 0 a n) s = .next (s0.faultOf r 0x16 0 x)) ∧
      ((∀ x, i ≤ x → x < i + n.toNat → x < 32 ∧ holds r.g (s.slot c x).holder = true) → s.stackEntries c = [] →
        (∀ k ∈ [c, mateOf c], (s.core k).kicksOf r.g = false) →
        ∃ t, exec (.srel sw 0 a n) s = .next t ∧ t.mem = s.mem ∧ t.thread r = th.issued sw (th.pc + 4) ∧
          ∀ x, i ≤ x → x < i + n.toNat → t.slot c x = {})) ∧
    (s.oneOk { sw := sw, reads := [{ v := a }], writes := [{ v := d }], var := true } r = true →
      let i := (s0.reg r a).toNat
      let md := (s.slot c i).md
      let own := if holds r.g (s.slot c i).holder then 1 else 0
      (32 ≤ i ∨ s.slotUsable r.g c i = false → gives (.sinfo sw d a 0) 0 fun _ => s) ∧
      (i < 32 → s.slotUsable r.g c i = true → gives (.sinfo sw d a 0) (.ofNat 32 (own * 2 ^ 31 + (if md.src then 1 else 0) * 2 ^ 30 + md.sums * 2 ^ 28 +
        md.hsize * 2 ^ 26 + md.scslot * 2 ^ 21 + md.sfmt * 2 ^ 15 + md.geom * 2 ^ 13 + md.fmt)) fun _ => s))) ∧
  (∀ (s : State) (sw : Bool) (m : BitVec 2) (x : BitVec 5) (a : BitVec 7) (ck : BitVec 1) (tag : BitVec 6) (r : TRef),
    s.oneOk { sw := sw, reads := [{ v := a, n := 4 }], access := true } r = true →
    let s0 := s.inSheaf
    let c := (s.group r.g).core
    let cs := if m = 0 then [c] else if m = 3 then [mateOf c] else [c, mateOf c]
    let q := (s0.quad r a).toNat
    let va := q % 2 ^ 64
    let usable : Prop := ∀ k ∈ cs, s.slotUsable r.g k x.toNat = true
    let own : Prop := (s.launchOf r.g).hdr.producer = some (r.t / 32)
    let c3 := (s.core c).copyQ.getD 3 []
    (¬own → exec (.mld sw m x a ck tag) s = .next (s0.faultOf r 0x0D 0 0)) ∧
    (own → ¬usable → exec (.mld sw m x a ck tag) s = .next (s0.faultOf r 0x16 0 x.toNat)) ∧
    (own → usable → va % 64 ≠ 0 → exec (.mld sw m x a ck tag) s = .next (s0.faultOf r 0x09 va 64)) ∧
    (own → usable → va % 64 = 0 → s.roomC3 c = 0 → exec (.mld sw m x a ck tag) s = .next s0) ∧
    (own → usable → va % 64 = 0 → 0 < s.roomC3 c → (s.core c).copyQ.length = 4 → ∃ t e, exec (.mld sw m x a ck tag) s = .next t ∧
      SameBut [r] { s with cores := t.cores, clusters := t.clusters } t ∧ t.thread r = (s.thread r).issued sw ((s.thread r).pc + 4) ∧
      (t.core c).copyQ.getD 3 [] = c3 ++ [e] ∧
      e.work = .mld { mode := m.toNat, slot := x.toNat, ck := ck = 1, tag := tag.toNat, record := va, row0 := q / 2 ^ 64 % 2 ^ 20, k0 := q / 2 ^ 84 % 2 ^ 12,
                      outer := q / 2 ^ 96, fmts := (s.tableOf r).fmt } ∧
      ∀ k ∈ cs, (t.slot k x.toNat).md.pending = some e.id)) ∧
  (∀ (s : State) (cl core : Nat) (e : Entry) (m : Mld), s.oldestMld cl = some (core, e, m) → e.iss.core = core →
    ((s.core core).copyQ.getD 3 []).head?.map (·.id) = some e.id → (s.core core).copyQ.length = 4 → (∀ d < 4, s.runs d = true) → s.noMarkers core →
    m.mode = 0 → m.ck = false →
    let begins : Prop := m.tile = none ∧ s.mayBegin e.iss = true
    (begins → ∀ s2 er d1, s.mldRecord e m = .error (s2, er, d1) → (s2.slot core m.slot).md.pending = some e.id → ∃ t : State,
      exec (.harrowMld cl) s = .next ((t.failEntry e.iss er d1).queuesMoved core) ∧
      (∀ y ∈ (t.core core).copyQ.getD 3 [], y.id ≠ e.id) ∧ (t.slot core m.slot).md = { fmt := 14, scslot := m.slot } ∧ t.mem = s2.mem) ∧
    (begins → ∀ s2 rcd, s.mldRecord e m = .ok (s2, rcd, []) → recInd rcd = 0 → recExt rcd 0 = 0 → Memory.wf s2.mem = true →
      (s2.slot core m.slot).md.pending = some e.id →
      let w := Desc.container (m.table.entry (recFmt rcd))
      let md : SlotMeta := { fmt := recFmt rcd, geom := recGeom rcd, sfmt := recSfmt rcd, scslot := m.slot, src := true }
      (w = 4 ∨ w = 8 ∨ w = 16) → s.outstandingBytes cl + 16383 * w / 8 < s.copyLimit → ∃ t l y, exec (.harrowMld cl) s = .next t ∧
        (t.slot core m.slot).md = md ∧ y ∈ (t.core core).copyQ.getD 3 [] ∧ y.id = e.id ∧ y.begun = true ∧ y.work = .mld { m with tile := some (md, l) } ∧
        (∀ p ∈ l, p.cores = [core] ∧ p.code = 0 ∧ p.pos < 16384) ∧ ∀ x < 16384, t.slotCode core m.slot w x = 0 ∨ ∃ p ∈ l, p.pos = x) ∧
    (begins → ∀ s2 rcd, s.mldRecord e m = .ok (s2, rcd, []) → recInd rcd = 0 → recGeom rcd = 0 → (s2.slot core m.slot).md.pending = some e.id →
      let w := Desc.container (m.table.entry (recFmt rcd))
      let md : SlotMeta := { fmt := recFmt rcd, geom := 0, sfmt := recSfmt rcd, scslot := m.slot, src := true }
      let i0 (x : Nat) : Nat := 256 * m.k0 + x % 256
      let i1 (x : Nat) : Nat := m.row0 + x / 256
      let i2 : Nat := m.outer % recExt rcd 2
      let i3 : Nat := m.outer / recExt rcd 2 % recExt rcd 3
      let i4 : Nat := m.outer / (recExt rcd 2 * recExt rcd 3)
      let inside (x : Nat) : Prop := i0 x < recExt rcd 0 ∧ i1 x < recExt rcd 1 ∧ i2 < recExt rcd 2 ∧ i3 < recExt rcd 3 ∧ i4 < recExt rcd 4
      let bit (x : Nat) : Nat := 8 * recBase rcd + w * (i0 x + recStride rcd 1 * i1 x) +
        2048 * (i2 * recStride rcd 2 + i3 * recStride rcd 3 + i4 * recStride rcd 4)
      (w = 4 ∨ w = 8 ∨ w = 16) → s.outstandingBytes cl + 16383 * w / 8 < s.copyLimit → ∀ (keeps : State → Prop) (bytes : Nat → List Byte),
      keeps (s2.setSlot core m.slot fun sl => { sl with md := md, sums := [] }) → (∀ u, keeps u → Memory.wf u.mem = true) →
      (∀ u x, keeps u → x < 16384 → inside x → ∃ u', u.engRd (harrowAcc e rcd false) (bit x / 8 : Nat) (max 1 (w / 8)) = .ok (u', bytes x) ∧ keeps u') →
      ∃ t l y, exec (.harrowMld cl) s = .next t ∧ y ∈ (t.core core).copyQ.getD 3 [] ∧ y.id = e.id ∧ y.work = .mld { m with tile := some (md, l) } ∧
        ∀ x < 16384, ∀ code, (¬inside x → code = 0) → (inside x → code = if w = 4 then ofBytes (bytes x) / 16 ^ (bit x / 4 % 2) % 16 else ofBytes (bytes x)) →
          (∀ p ∈ l, p.pos = x → p.code = code) ∧ (t.slotCode core m.slot w x = code ∨ ∃ p ∈ l, p.pos = x)) ∧
    ∀ md l, m.tile = some (md, l) → Memory.wf s.mem = true → e.iss.thr.g < s.groups.length →
      let w := Desc.container (m.table.entry md.fmt)
      (w = 4 ∨ w = 8 ∨ w = 16) → (l.map (·.pos)).Nodup →
      (∀ p ∈ l, p.cores = [core] ∧ p.pos < 16384 ∧ p.code < 2 ^ w ∧ (p.scale = none ∨ (w ≤ 8 ∧ md.geom ∈ [1, 2, 3]))) → ∃ t, exec (.harrowMld cl) s = .next t ∧
        (∀ p ∈ l, t.slotCode core m.slot w p.pos = p.code) ∧ (∀ x < 16384, x ∉ l.map (·.pos) → t.slotCode core m.slot w x = s.slotCode core m.slot w x) ∧
        (t.group e.iss.thr.g).tags = (s.group e.iss.thr.g).tags ||| (1#64 <<< m.tag) ∧ ∀ y ∈ (t.core core).copyQ.getD 3 [], y.id ≠ e.id) ∧
  ∀ (s : State) (g i : Nat), (s.group g).state = .saved → i < 32 → (s.group g).displace = [i] → keeps g (s.slot (s.group g).core i).holder = true →
    s.stackEntries (s.group g).core = [] →
    let n := (s.group g).savedSlots.length
    let put := if n < (s.launchOf g).hdr.slots then s.putPart g (slotsPart (s.launchOf g).hdr + 32768 * n) (s.rds (slotAddr (s.group g).core i 0) 32768) else s
    (s.hubWaits = false → put.hubWaits = true → exec (.slotLazySave g) s = .next s) ∧
    (put.hubWaits = false → ∃ t sv, exec (.slotLazySave g) s = .next t ∧ t.mem = put.mem ∧ t.slot (s.group g).core i = {} ∧ (t.group g).displace = [] ∧
      (t.group g).savedSlots = (s.group g).savedSlots ++ [sv] ∧ sv.mate = false ∧ sv.idx = i ∧ sv.md = { (s.slot (s.group g).core i).md with sums := 0 } ∧
      ∀ x < 32768, memRd sv.data x = s.rd (slotAddr (s.group g).core i x))

/-! ## Handles -/

namespace Sys2Proof.Machine

/-- Two handles that name one target with the same rights and key (R327): they differ in their weight and seal only. -/
def sameTarget (h j : QWord) : Prop :=
  hHome h = hHome j ∧ hIndex h = hIndex j ∧ hGen h = hGen j ∧ hKey h = hKey j ∧ hTag h = hTag j ∧ hInd h = hInd j

/-- The seal of a handle is the one that its other fields take in a context (R328). -/
def State.sealRight (s : State) (c : Nat) (h : QWord) : Prop := bits h.toNat 127 80 = s.sealOf c h

/-- A handle of a context that names a tensor itself, with the entry Live and of its generation (R331). -/
def State.livesAt (s : State) (c : Nat) (h : QWord) : Prop :=
  s.sealOk c h = true ∧ hInd h = false ∧ (s.tensor c (hTarget h)).altered = false ∧ (s.tensor c (hTarget h)).state = .live ∧
    (s.tensor c (hTarget h)).gen = hGen h

/-- A handle of a context whose entry is sound and is not Live in its generation. -/
def State.deadAt (s : State) (c : Nat) (h : QWord) : Prop :=
  s.sealOk c h = true ∧ hInd h = false ∧ (s.tensor c (hTarget h)).altered = false ∧
    ((s.tensor c (hTarget h)).state ≠ .live ∨ (s.tensor c (hTarget h)).gen ≠ hGen h)

end Sys2Proof.Machine

/-- HSPLIT divides a handle's weight in registers; HNEW, HDROP, HBIND, HREC and HINFO check their handle and image and send what their rules say (R67,
R142, R327, R328, R330, R335, R336, R337, R338, R339, R340, R341). The details of handle faults, that HREC checks its key slot after the seal and
before its furrow, that HINFO waits while the home relocks, which cell a core keeps, and where the key check of R67 stands are the model's choices
(log entries 82, 84, 88, 89 and 146). -/
def Obligations.HandlesIssue : Prop :=
  ∀ (s : State) (sw : Bool) (d a b : BitVec 7) (r : TRef),
    let s0 := s.inSheaf
    let th := s.thread r
    let c := s.ctxOf r.g
    let k := (s.group r.g).core
    let la := s.launchOf r.g
    let h := s0.quad r a
    let words (q : QWord) : List Word := wordsOf 4 q.toNat
    let fault (i : Instr) (code d0 d1 : Nat) : Prop := exec i s = .next (s0.faultOf r code d0 d1)
    (∀ m : BitVec 6, s.oneOk { sw := sw, reads := [{ v := a, n := 4 }], writes := [{ v := d, n := 4 }] } r = true →
      let writes (t : State) (x y : QWord) : Prop :=
        t.thread r = ({ (th.write a (words x)).write d (words y) with level := 0 } : Thread).issued sw (th.pc + 4) ∧
        ∀ z, t.ctx z = { s.ctx z with headland := (t.ctx z).headland, cells := (t.ctx z).cells }
      let good : Prop := s.sealOk c h = true ∧ hK h ≠ 63 ∧ (hRights h).testBit 4 = true ∧ s.keyUsable la (hKey h) = true
      (h = 0 → fault (.hsplit sw d a m) 0x13 0 6) ∧
      (h ≠ 0 → s.sealOk c h = false → fault (.hsplit sw d a m) 0x13 (hTarget h) 1) ∧
      (s.sealOk c h = true → hK h = 63 → fault (.hsplit sw d a m) 0x13 (hTarget h) 9) ∧
      (s.sealOk c h = true → hK h ≠ 63 → (hRights h).testBit 4 = false → fault (.hsplit sw d a m) 0x13 (hTarget h) 2) ∧
      (s.sealOk c h = true → hK h ≠ 63 → (hRights h).testBit 4 = true → s.keyUsable la (hKey h) = false → fault (.hsplit sw d a m) 0x13 (hTarget h) 3) ∧
      (good → hK h ≠ 0 → ∃ t keep new, exec (.hsplit sw d a m) s = .next t ∧ SameBut [r] { s with ctxs := t.ctxs } t ∧ writes t keep new ∧
        (∀ z x, t.cell z x = s.cell z x) ∧ sameTarget keep h ∧ sameTarget new h ∧ hK keep + 1 = hK h ∧ hK new + 1 = hK h ∧
        hWeight keep + hWeight new = hWeight h ∧ hRights keep = hRights h ∧ hRights new = hRights h &&& m.toNat ∧ s.sealRight c keep ∧ s.sealRight c new) ∧
      (good → hK h = 0 → (∀ x, (s.ctx c).harea = some x → x.2.2 = 0) → fault (.hsplit sw d a m) 0x13 (hTarget h) 0xA) ∧
      (good → hK h = 0 → ∀ ab nt nc, (s.ctx c).harea = some (ab, nt, nc + 1) →
        (∀ x, s.reservedCell c k = some x → (s.cell c x).altered = true → exec (.hsplit sw d a m) s =
          .next ((s0.killCell c x).tick.faultOf r 0x13 (k / 6 * 2 ^ 24 + x % 65536) 0xB)) ∧
        (∀ x, s.reservedCell c k = some x → (s.cell c x).altered = false → k / 6 < 64 → (s.cell c x).gen < 2 ^ 16 → ∃ t keep new, exec (.hsplit sw d a m) s = .next t ∧
          SameBut [r] { s with ctxs := t.ctxs, clusters := t.clusters } t ∧ writes t keep new ∧
          t.cell c x = { gen := (s.cell c x).gen, pending := true, kept := h, creator := (s.group r.g).launch } ∧
          (t.cluster (k / 6)).cellsDue = (s.cluster (k / 6)).cellsDue ++ [(c, x)] ∧ ∀ y ∈ [keep, new], hHome y = k / 6 ∧ hIndex y = x % 65536 ∧ hK y = 61 ∧
            hInd y = true ∧ hGen y = (s.cell c x).gen ∧ hKey y = hKey h ∧ hTag y = hTag h ∧ s.sealRight c y ∧
            hRights y = if y = keep then hRights h else hRights h &&& m.toNat) ∧
        (s.reservedCell c k = none → s.freeCell c (k / 6) ≠ none → exec (.hsplit sw d a m) s = .next s0) ∧
        (s.reservedCell c k = none → s.freeCell c (k / 6) = none → ∃ t, exec (.hsplit sw d a m) s = .next t ∧ SameBut [r] s t ∧
          (t.thread r).status = .backedOff (s.sliceCount k + 2 ^ min (th.level + 1) 7) none ∧ (t.thread r).pc = th.pc ∧ (t.thread r).regs = th.regs))) ∧
    (s.oneOk { sw := sw, reads := [{ v := a, n := 4 }], access := true } r = true →
      (h = 0 → ∃ t, exec (.hdrop sw a) s = .next t ∧ SameBut [r] s t ∧ t.thread r = (th.write a [0, 0, 0, 0]).issued sw (th.pc + 4)) ∧
      (s.sealOk c h = true → s.keyUsable la (hKey h) = false → fault (.hdrop sw a) 0x13 (hTarget h) 3) ∧
      (h ≠ 0 → s.sealOk c h = false ∨ s.keyUsable la (hKey h) = true → ∃ t e x y o b, exec (.hdrop sw a) s = .next t ∧
        SameButCopies [r] { s with cores := t.cores } t ∧ e.work = .hand (.post h) ∧ e.iss.thr = r ∧
        t.thread r = ({ th.write a [0, 0, 0, 0] with after := x, engAfter := y, obs := o, obsEng := b } : Thread).issued sw (th.pc + 4) ∧
        ∀ z, t.core z = if z = k then { s.core k with hq := (s.core k).hq ++ [e] } else s.core z)) ∧
    (s.oneOk { sw := sw, reads := [{ v := a }], writes := [{ v := d, n := 4 }], var := true, access := true } r = true →
      let off := (s0.reg r a).toNat
      let img : Packet := .ofNat 512 (ofBytes (s0.viewBytes k r (gmemAddr k ((s.group r.g).gbase + off)) 64).2)
      let dims := bits img.toNat 321 319
      let odd : Prop := bits img.toNat 80 32 ≠ 0 ∨ bits img.toNat 511 448 ≠ 0 ∨ recSpan img = 0 ∨ dims < 1 ∨ 5 < dims ∨ 512 < recInd img
      let dead (e : Nat) : Prop := e = 14 ∨ Desc.valid ((s.tableOf r).entry e) = false
      let mine : Bool := s.ownAtom r (gmemAddr k ((s.group r.g).gbase + off)) 64
      let inside : Prop := off % 64 = 0 ∧ off + 64 ≤ la.hdr.gmem ∧ mine = false
      (off % 64 ≠ 0 → fault (.hnew sw d a) 0x09 off 64) ∧
      (off % 64 = 0 → la.hdr.gmem < off + 64 → fault (.hnew sw d a) 0x05 off 0) ∧
      (off % 64 = 0 → off + 64 ≤ la.hdr.gmem → mine = true → exec (.hnew sw d a) s = .next s0) ∧
      (inside → odd → fault (.hnew sw d a) 0x13 off 8) ∧
      (inside → ¬odd → dead (recFmt img) → fault (.hnew sw d a) 0x0A off (recFmt img)) ∧
      (inside → ¬odd → ¬dead (recFmt img) → recGeom img ≠ 0 → dead (recSfmt img) → fault (.hnew sw d a) 0x0A off (recSfmt img)) ∧
      (inside → ¬odd → ¬dead (recFmt img) → (recGeom img ≠ 0 → ¬dead (recSfmt img)) →
        (s.keyUsable la (recKey img) = false → fault (.hnew sw d a) 0x13 off 3) ∧
        (s.keyUsable la (recKey img) = true → ∃ t seen q, exec (.hnew sw d a) s = .next t ∧
          SameView [r] { s with ctxs := t.ctxs, launches := t.launches, clusters := t.clusters } t ∧
          t.thread r = (({ th with seen := seen } : Thread).await { v := d, n := 4 } q.out .awaited none).issued sw (th.pc + 4) ∧
          (t.cluster (k / 6)).hnews = (s.cluster (k / 6)).hnews ++ [q] ∧ q.image = img ∧ q.ctx = c ∧ q.iss.thr = r))) ∧
    (s.oneOk { sw := sw, reads := [{ v := d }, { v := a, n := 4 }, { v := b }], access := true } r = true →
      let n := (s0.reg r d).toNat
      (s.binOf la n = none → fault (.hbind sw d a b) 0x01 0 n) ∧
      ∀ x, s.binOf la n = some x →
        (s.sealOk c h = false → fault (.hbind sw d a b) 0x13 (hTarget h) 1) ∧
        (s.sealOk c h = true → (hRights h).testBit 5 = false → fault (.hbind sw d a b) 0x13 (hTarget h) 2) ∧
        (s.sealOk c h = true → (hRights h).testBit 5 = true → s.keyUsable la (hKey h) = false → fault (.hbind sw d a b) 0x13 (hTarget h) 3) ∧
        (s.sealOk c h = true → (hRights h).testBit 5 = true → s.keyUsable la (hKey h) = true → ∃ t e, exec (.hbind sw d a b) s = .next t ∧ SameBut [r] { s with cores := t.cores } t ∧
          e.work = .hand (.bind h x (s0.reg r b)) ∧ t.thread r = th.issued sw (th.pc + 4) ∧
          ∀ z, t.core z = if z = k then { s.core k with hq := (s.core k).hq ++ [e] } else s.core z)) ∧
    (s.oneOk { sw := sw, reads := [{ v := d }, { v := a, n := 4 }], writes := [{ v := d }], var := true, access := true } r = true →
      let off := (s0.reg r d).toNat
      let i := Instr.hrec sw d a b
      let inside : Prop := b.toNat < la.hdr.nrec ∧ off % 64 = 0 ∧ off + 64 ≤ la.hdr.gmem
      let c3 := (s.core k).copyQ.getD 3 []
      (la.hdr.nrec ≤ b.toNat → fault i 0x01 0 b.toNat) ∧
      (b.toNat < la.hdr.nrec → off % 64 ≠ 0 → fault i 0x09 off 64) ∧
      (b.toNat < la.hdr.nrec → off % 64 = 0 → la.hdr.gmem < off + 64 → fault i 0x05 off 0) ∧
      (inside → h = 0 → fault i 0x13 0 6) ∧ (inside → h ≠ 0 → s.sealOk c h = false → fault i 0x13 (hTarget h) 1) ∧
      (inside → s.sealOk c h = true → s.keyUsable la (hKey h) = false → fault i 0x13 (hTarget h) 3) ∧
      (inside → s.sealOk c h = true → s.keyUsable la (hKey h) = true → la.hdr.producer ≠ some (r.t / 32) → fault i 0x0D 0 0) ∧
      (inside → s.sealOk c h = true → s.keyUsable la (hKey h) = true → la.hdr.producer = some (r.t / 32) → (s.core k).copyQ.length = 4 →
        (s.roomC3 k = 0 → exec i s = .next s0) ∧
        (0 < s.roomC3 k → ∃ t e o, exec i s = .next t ∧ SameBut [r] { s with cores := t.cores, clusters := t.clusters } t ∧
          (t.core k).copyQ.getD 3 [] = c3 ++ [e] ∧ e.work = .hrec h b.toNat off o ∧ e.iss.thr = r ∧
          t.thread r = (th.await { v := d } o .awaited none).issued sw (th.pc + 4)))) ∧
    (s.oneOk { sw := sw, reads := [{ v := a, n := 4 }], writes := [{ v := d }], var := true, access := true } r = true →
      let t0 := s.tensor c (hTarget h)
      let tells (w : Nat) : Prop := ∃ t o, exec (.hinfo sw d a) s = .next t ∧ SameBut [r] s t ∧
        t.thread r = (th.await { v := d } o (.have [.ofNat 32 w]) none).issued sw (th.pc + 4)
      (h = 0 → tells 3) ∧ (s.homeRuns h = true → s.sealOk c h = false → tells 3) ∧ (h ≠ 0 → s.homeRuns h = false → exec (.hinfo sw d a) s = .next s0) ∧
      (s.homeRuns h = true → s.livesAt c h → tells (t0.gen * 2 ^ 16 + Nat.log2 (2 ^ 62 - t0.returned) * 8)) ∧
      (s.homeRuns h = true → s.deadAt c h → tells (t0.gen % 2 ^ 16 * 2 ^ 16 +
        (if t0.state = .live then Nat.log2 (2 ^ 62 - t0.returned) * 8 else 0) + if t0.state = .dying then 1 else 2)))

/-- At its home a post adds its weight, HNEW takes the lowest Free entry, HBIND binds, HREC makes a sealed record, and a tensor dies with all weight
back (R167, R193, R330, R331, R332, R333, R336, R337, R338, R340, R380). That queue H is performed in order, that HREC refuses an invalid entry in its
template, how entries are keyed, that unused extents are written as 1, and that the generation of a cell wraps at 16 bits are the model's choices (log
entries 89, 84, 30, 85 and 87). -/
def Obligations.HandlesAtTheirHomes : Prop :=
  (∀ (s : State) (core : Nat) (e : Entry) (es : List Entry) (h : QWord), core < 384 → (s.core core).hq = e :: es → e.iss.core = core →
    s.mayBegin e.iss = true → s.homeRuns h = true → (s.launch e.iss.launch).state ≠ .rollingBack → s.noMarkers core →
    let c := (s.launch e.iss.launch).ctx
    let k := hTarget h
    let t0 := s.tensor c k
    let dead (i : Instr) : Prop := exec i s = .next ((s.dropHand core).engineFault e.iss 0x14 k 0)
    (e.work = .hand (.post h) → s.recordsBefore e = false →
      let applies (p : State → Prop) : Prop := ∃ t, exec (.handlePostApply core) s = .next t ∧ (t.core core).hq = es ∧ t.mem = s.mem ∧ p t
      (s.deadAt c h → dead (.handlePostApply core)) ∧
      (s.livesAt c h → 2 ^ 62 < t0.returned + 2 ^ hK h → exec (.handlePostApply core) s = .next ((s.dropHand core).engineFault e.iss 0x15 k (2 ^ hK h))) ∧
      (s.livesAt c h → t0.returned + 2 ^ hK h ≤ 2 ^ 62 → applies fun t => ∀ z, t.tensor c z = if z = k then
        { t0 with returned := t0.returned + 2 ^ hK h, state := if t0.returned + 2 ^ hK h = 2 ^ 62 then .dying else .live, last := some e.iss.launch } else s.tensor c z) ∧
      (s.sealOk c h = true → hInd h = true →
        let e0 := s.cell c (cellKey h)
        (e0.pending = true → exec (.handlePostApply core) s = .next s) ∧
        (e0.pending = false → e0.altered = false → e0.live = true → e0.dead = false → e0.gen = hGen h →
          (e0.returned + 2 ^ hK h < 2 ^ 62 → applies fun t => t.hubPosts = s.hubPosts ∧
            t.cell c (cellKey h) = { e0 with returned := e0.returned + 2 ^ hK h, posted := true }) ∧
          (e0.returned + 2 ^ hK h = 2 ^ 62 → applies fun t => t.hubPosts = s.hubPosts ++ [(c, e0.kept)] ∧
            t.cell c (cellKey h) = { gen := (e0.gen + 1) % 2 ^ 16, reserved := (t.cell c (cellKey h)).reserved })))) ∧
    ∀ bin user, e.work = .hand (.bind h bin user) →
      (s.deadAt c h → dead (.hbindAtHome core)) ∧
      (s.livesAt c h → ∃ t, exec (.hbindAtHome core) s = .next t ∧ (t.core core).hq = es ∧ t.mem = s.mem ∧
        ∀ z, t.tensor c z = if z = k then { t0 with bin := some bin, user := user } else s.tensor c z)) ∧
  (∀ (s : State) (c : Nat) (h : QWord) (rest : List (Nat × QWord)), s.hubPosts = (c, h) :: rest → s.homeRuns h = true → s.livesAt c h →
    (s.tensor c (hTarget h)).returned + 2 ^ hK h ≤ 2 ^ 62 → ∃ t, exec (.handlePostApply 384) s = .next t ∧ t.hubPosts = rest ∧
      (t.tensor c (hTarget h)).returned = (s.tensor c (hTarget h)).returned + 2 ^ hK h) ∧
  (∀ (s : State) (cl : Nat) (q : HnewReq) (qs : List HnewReq) (n : Nat), (s.cluster cl).hnews = q :: qs → s.runs (cl / 16) = true → cl < 64 →
    (∃ x y, (s.ctx q.ctx).harea = some (x, n, y)) →
    let gives (t : State) (h : QWord) : Prop := exec (.hnewAtHome cl) s = .next t ∧ (t.cluster cl).hnews = qs ∧ t.mem = s.mem ∧
      (t.thread q.iss.thr).outs = (s.thread q.iss.thr).outs.map fun p => if p.id = q.out then { p with val := .have (wordsOf 4 h.toNat) } else p
    let free (i : Nat) : Prop := (s.tensor q.ctx (cl * 2 ^ 24 + i)).state = .free
    ((∀ i < n, ¬free i) → ∃ t, gives t 0 ∧ t.ctxs = s.ctxs) ∧
    ∀ i < n, free i → (∀ j < i, ¬free j) → i < 2 ^ 24 →
      let t0 := s.tensor q.ctx (cl * 2 ^ 24 + i)
      t0.altered = false → t0.gen < 2 ^ 16 → recAtag q.image = 0 →
      ∃ t h, gives t h ∧ hHome h = cl ∧ hIndex h = i ∧ hK h = 62 ∧ hGen h = t0.gen ∧ hRights h = recRights q.image ∧ hKey h = recKey q.image ∧
        hTag h = 0 ∧ hInd h = false ∧ s.sealRight q.ctx h ∧
        ∀ z, t.tensor q.ctx z = if z = cl * 2 ^ 24 + i then { state := .live, gen := t0.gen, image := q.image } else s.tensor q.ctx z) ∧
  (∀ (s : State) (core : Nat) (e : Entry) (es : List Entry) (h : QWord) (m off o : Nat), (s.core core).copyQ.getD 3 [] = e :: es → e.work = .hrec h m off o →
    e.iss.core = core → (∀ x ∈ es, x.id ≠ e.id) → s.mayBegin e.iss = true → s.runs (dieOfCore core) = true → s.homeRuns h = true → s.noMarkers core →
    let la := s.launch e.iss.launch
    let c := la.ctx
    let t0 := s.tensor c (hTarget h)
    let tm := la.hdr.templates.getD m 0
    s.livesAt c h → (s.group e.iss.thr.g).state = .resident → Memory.wf s.mem = true →
    let x := gmemAddr (s.group e.iss.thr.g).core ((s.group e.iss.thr.g).gbase + off)
    s.watchers x 64 = [] →
    ∃ rcd, s.recordSealed c rcd = true ∧ recBase rcd = recBase t0.image ∧ recAtag rcd = recAtag t0.image ∧ recKey rcd = recKey t0.image ∧
      recInd rcd = recInd t0.image ∧ recRights rcd = hRights h ∧ recFmt rcd = recFmt tm ∧ recGeom rcd = recGeom tm ∧ recSfmt rcd = recSfmt tm ∧
      (∀ k < 5, recExt rcd k = recExt tm k) ∧
      let table := s.fmtCtx c (core / 96)
      let d := table.entry (recFmt tm)
      let dead (n : Nat) : Prop := n = 14 ∨ (table.entry n).valid = false
      let refuses (code d1 : Nat) : Prop := exec (.hrecAtTarget core) s =
        .next ((((s.dropEntry core 3 e.id).voidOut e.iss.thr o).engineFault e.iss code (hTarget h) d1).queuesMoved core)
      let inside : Prop := recEnd rcd (if Desc.w d = 56 then 64 else Desc.container d) ≤ recBase t0.image + 65536 * recSpan t0.image
      (dead (recFmt tm) → refuses 0x0A (recFmt tm)) ∧ (¬dead (recFmt tm) → recGeom tm ≠ 0 → dead (recSfmt tm) → refuses 0x0A (recSfmt tm)) ∧
      (¬dead (recFmt tm) → (recGeom tm ≠ 0 → ¬dead (recSfmt tm)) → inside → (∀ i < 4, s.reach (x + 16 * i) = true) → ∃ t, exec (.hrecAtTarget core) s = .next t ∧ (t.core core).copyQ.getD 3 [] = es ∧ t.mem = (s.wrs x (bytesOf 64 rcd.toNat)).mem ∧
        (t.thread e.iss.thr).outs = (s.thread e.iss.thr).outs.map fun p => if p.id = o then { p with val := .have [0] } else p) ∧
      (¬dead (recFmt tm) → (recGeom tm ≠ 0 → ¬dead (recSfmt tm)) → ¬inside → refuses 0x13 7)) ∧
  (∀ (s : State) (cl c k : Nat) (rest : List (Nat × Nat)), (s.cluster cl).cellsDue = (c, k) :: rest → s.runs (cl / 16) = true → (s.cell c k).pending = true →
    ∃ t, exec (.cellCreate cl) s = .next t ∧ (t.cluster cl).cellsDue = rest ∧ t.cell c k = { s.cell c k with pending := false, live := true }) ∧
  ∀ (s : State) (c cl idx : Nat), let k := cl * 2 ^ 24 + idx
    let t0 := s.tensor c k
    t0.state = .dying → t0.altered = false → s.runs (cl / 16) = true → recAtag t0.image = 0 →
    let next : Tensor := { state := if t0.gen = 0xFFFF then .retired else .free, gen := if t0.gen = 0xFFFF then t0.gen else t0.gen + 1 }
    (t0.bin = none → ∃ t, exec (.tensorRetagComplete c cl idx) s = .next t ∧ ∀ z, t.tensor c z = if z = k then next else s.tensor c z) ∧
    ∀ (b : Nat) (x : Bin), (∀ d < 4, s.runs d = true) → t0.bin = some b → (s.ctx c).bins[b]? = some x → x.waiting = [] → x.state = .empty → x.records = [] → 2 ≤ x.count →
      ∃ t y, exec (.tensorRetagComplete c cl idx) s = .next t ∧ t.tensor c k = next ∧ (t.ctx c).bins[b]? = some y ∧ y.state = .collecting ∧ y.firstAt = s.refTimer ∧
        y.records = [bytesOf 32 (recBase t0.image + t0.user.toNat * 2 ^ 64 + idx * 2 ^ 96 + t0.gen * 2 ^ 120 + cl * 2 ^ 136)]

/-! ## System and power instructions -/

namespace Sys2Proof.Machine

/-- The selectors of SYSRD with what each names (R77). -/
def selectors (s : State) (r : TRef) : List (BitVec 7 × Nat) :=
  let gr := s.group r.g
  let la := s.launch gr.launch
  let th := s.thread r
  [(0x00, r.t % 32), (0x01, r.t / 32), (0x02, r.t), (0x03, gr.lin % la.gx), (0x04, gr.lin / la.gx % la.gy), (0x05, gr.lin / (la.gx * la.gy)),
   (0x06, la.gx), (0x07, la.gy), (0x08, la.gz), (0x09, gr.core), (0x0A, gr.core / 6), (0x0B, gr.core / 96), (0x0C, gr.core / 2), (0x0D, gr.core % 2),
   (0x0E, th.base), (0x0F, th.regs.length), (0x10, th.sp.toNat), (0x11, th.usertag.toNat), (0x12, la.ctx), (0x13, la.seq % 2 ^ 32),
   (0x14, la.seq / 2 ^ 32), (0x15, (s.core gr.core).k + 16 * (s.cluster (gr.core / 6)).cls), (0x16, gr.resumes)]

/-- The word of YKRD (R358): the stack's state, the ratios of its lower and upper mates, the budget in whole µs, and the mismatch, saturated. -/
def yokeRead (s : State) (stack : Nat) : Word :=
  let k := s.stack stack
  let code := match k.yoke with | .balanced => 0 | .shunting => 1 | .throttled => 2 | .tripped => 3
  let m : Int := max (-32767) (min 32767 ((k.upper : Int) - k.lower))
  .ofNat 32 (code * 2 ^ 30 + (s.core (2 * stack)).k * 2 ^ 26 + (s.core (2 * stack + 1)).k * 2 ^ 22 + k.budget / 1000 * 2 ^ 16 + (m % 2 ^ 16).toNat)

/-- The words of a 64-bit value, the low word first. -/
def wordsOfNat (n : Nat) : List Word := [.ofNat 32 n, .ofNat 32 (n / 2 ^ 32)]

end Sys2Proof.Machine

/-- SYSRD, CLKRD, REFRD, ERRRD, MONRD, YKRD and PERMITS read what they name; SYSWR, PCLS, BURN, BALIDLE and MONCFG set only what they name (R77, R80,
R81, R82, R83, R354, R355, R356, R357, R358). That the reference timer is read at the hub without a skew between dies, and the sticky word at its
write-back, are the model's choices (log entries 134, 14); that MONCFG answers 1 before 2 where both hold, and that a free unit goes to the lower of
two contexts by taking it from the other, are log entry 104's. -/
def Obligations.SystemReads : Prop :=
  ∀ (s : State) (sw : Bool) (d a b : BitVec 7),
    (s.sheafOk { sw := sw, writes := [{ v := d }], var := true } = true →
      let tells (i : Instr) (v : TRef → Word → Prop) : Prop := ∃ t, exec i s = .next t ∧
        SheafDoes s t fun r th th' => AwaitsNext sw d 1 (fun _ ws => ∃ w, v r w ∧ ws = [w]) r th th'
      (∀ sel ∈ [0x00, 0x01, 0x02, 0x03, 0x04, 0x05, 0x06, 0x07, 0x08, 0x09, 0x0A, 0x0B, 0x0C, 0x0D, 0x0E, 0x0F, 0x10, 0x11, 0x12, 0x13, 0x14, 0x15, (0x16 : BitVec 7)],
        tells (.sysrd sw d sel) fun r w => ∃ v, (sel, v) ∈ selectors s r ∧ w = .ofNat 32 v) ∧
      tells (.ykrd sw d) (fun r w => w = yokeRead s ((s.group r.g).core / 2)) ∧
      tells (.permits sw d) (fun r w => w = .ofNat 32 ((s.die ((s.group r.g).core / 96)).f * 2 ^ 16 + (((List.range 16).map (16 * ((s.group r.g).core / 96) + ·)).filter
        fun cl => (s.cluster cl).boost || decide ((s.cluster cl).fall ≠ 0)).length * 2 ^ 8 + (s.die ((s.group r.g).core / 96)).pool)) ∧
      (∀ u : BitVec 3, tells (.monrd sw d a u) fun r w =>
        let m := (s.cluster ((s.group r.g).core / 6)).monitors.getD u.toNat {}
        w = if m.ctx = some (s.ctxOf r.g) then .ofNat 32 (if a = 0 then m.min else if a = 1 then m.max else if a = 2 then m.count else m.hist.getD (a.toNat - 16) 0) else 0) ∧
      ∃ t, exec (.errrd sw d b) s = .next t ∧
        SheafDoes s t fun _ th th' => ∃ id, th' = (th.await { v := d } id (.sticky b.toNat) none).issued sw (th.pc + 4)) ∧
    (s.sheafOk { sw := sw, writes := [{ v := d, n := 2 }], var := true } = true →
      ∃ t, exec (.refrd sw d) s = .next t ∧ SheafDoes s t (AwaitsNext sw d 2 fun _ ws => ws = wordsOfNat s.refTimer)) ∧
    (s.sheafOk { sw := sw, writes := [{ v := d, n := 2 }] } = true →
      (∃ t, exec (.clkrd sw d) s = .next t ∧
        SheafDoes s t fun r th th' => WritesNext sw d (fun _ ws => ws = wordsOfNat (s.die ((s.group r.g).core / 96)).raw) r th th') ∧
      ∃ t, exec (.clkrdNom sw d) s = .next t ∧
        SheafDoes s t fun r th th' => WritesNext sw d (fun _ ws => ws = wordsOfNat ((s.die ((s.group r.g).core / 96)).nominal / 2 ^ 16)) r th th') ∧
    (s.sheafOk { sw := sw, reads := [{ v := a }] } = true →
      (∃ t, exec (.syswr sw a 0x10) s = .next t ∧ SheafDoes s t fun _ th th' => ∃ w, th.reads a 0 w ∧
        th' = ({ th with sp := w &&& 0xFFFFFFF0 } : Thread).issued sw (th.pc + 4)) ∧
      ∃ t, exec (.syswr sw a 0x11) s = .next t ∧ SheafDoes s t fun _ th th' => ∃ w, th.reads a 0 w ∧
        th' = ({ th with usertag := w } : Thread).issued sw (th.pc + 4)) ∧
    (∀ r, s.oneOk { sw := sw } r = true →
      let g := s.group r.g
      let k := s.stack (g.core / 2)
      let cl := g.core / 6
      let sets (i : Instr) (g' : Group) (claim : Option Nat) : Prop := ∃ t, exec i s = .next t ∧ t.thread r = (s.thread r).issued sw ((s.thread r).pc + 4) ∧
        t = { s with groups := t.groups, clusters := t.clusters, fresh := t.fresh, sheafId := t.sheafId } ∧ t.groups.length = s.groups.length ∧
        (∀ q, q ≠ r → t.thread q = s.thread q) ∧ (∀ x, t.group x = { (if x = r.g then g' else s.group x) with threads := (t.group x).threads }) ∧
        ∀ x, t.cluster x = if x = cl then { s.cluster x with claimAt := claim } else s.cluster x
      let other : Bool := (List.range s.groups.length).any fun h => h ≠ r.g && (s.group h).state = .resident && (s.group h).core / 6 = cl && (s.group h).cls = 2
      (∀ c, sets (.pcls sw c) { g with cls := c.toNat, clsAt := s.refTimer }
        (if other ∨ (c = 2 ∧ g.cls = 2) then (s.cluster cl).claimAt else if c = 2 then some s.refTimer else none)) ∧
      (∀ l, sets (.burn sw l) { g with burn := l.toNat } (s.cluster cl).claimAt) ∧
      let more : Prop := if g.core % 2 = 0 then k.upper < k.lower else k.lower < k.upper
      (more → ∃ t, exec (.balidle sw) s = .next t ∧ SameBut [r] s t ∧ (t.thread r).status = .waiting (.balidle s.refTimer) ∧ (t.thread r).pc = (s.thread r).pc + 4 ∧
        (t.thread r).regs = (s.thread r).regs) ∧
      (¬more → ∃ t, exec (.balidle sw) s = .next t ∧ SameBut [r] s t ∧ t.thread r = (s.thread r).issued sw ((s.thread r).pc + 4))) ∧
    ∀ (r : TRef) (u : BitVec 3), s.oneOk { sw := sw, reads := [{ v := a }], writes := [{ v := d }] } r = true →
      let w := (s.inSheaf.reg r a).toNat
      let cl := (s.group r.g).core / 6
      let c := s.ctxOf r.g
      let m := (s.cluster cl).monitors.getD u.toNat {}
      let others : Prop := ∃ o, m.ctx = some o ∧ o ≠ c
      let first : Prop := ∃ o p, m.ctx = some o ∧ c < o ∧ m.setAt = some p ∧ p.1 = s.cycles cl
      let bad : Prop := 8 ≤ w / 2 ^ 28 ∨ w / 4 % 2 ^ 20 ≠ 0
      let gives (st : Word) (p : State → Prop) : Prop := ∃ t, exec (.moncfg sw d a u) s = .next t ∧ SameBut [r] { s with clusters := t.clusters } t ∧ p t ∧
        t.thread r = ((s.thread r).write d [st]).issued sw ((s.thread r).pc + 4)
      (others → ¬first → gives 1 fun t => t.clusters = s.clusters) ∧ (¬others ∨ first → bad → gives 2 fun t => t.clusters = s.clusters) ∧
      (first → w / 2 ^ 28 = 0 → ¬bad → gives 0 fun t => t.clusters = s.clusters) ∧
      (∀ q i, first → ¬bad → w / 2 ^ 28 ≠ 0 → m.setAt = some (s.cycles cl, [(q, i)]) → q ≠ r → q.t < (s.group q.g).threads.length →
        ∃ t, exec (.moncfg sw d a u) s = .next t ∧ SameBut [r, q] { s with clusters := t.clusters } t ∧ t.thread q = (s.thread q).puts i [1] ∧
          t.thread r = ((s.thread r).write d [0]).issued sw ((s.thread r).pc + 4) ∧ (∀ x, x ≠ cl → t.cluster x = s.cluster x) ∧
          let m' := (t.cluster cl).monitors.getD u.toNat {}
          t.cluster cl = { s.cluster cl with monitors := (s.cluster cl).monitors.set u.toNat m' } ∧ m'.ctx = some c ∧ m'.source = w / 2 ^ 28 ∧
          m'.cores = w / 2 ^ 22 % 64 ∧ (m'.enable = true ↔ w % 2 = 1) ∧ m'.count = 0 ∧ m'.hist = []) ∧
      (¬others → ¬bad → gives 0 fun t => (∀ x, x ≠ cl → t.cluster x = s.cluster x) ∧ ((s.cluster cl).monitors.length = 8 →
        let m' := (t.cluster cl).monitors.getD u.toNat {}
        t.cluster cl = { s.cluster cl with monitors := (s.cluster cl).monitors.set u.toNat m' } ∧ (w / 2 ^ 28 = 0 → m' = {}) ∧
        (w / 2 ^ 28 ≠ 0 → m'.ctx = some c ∧ m'.source = w / 2 ^ 28 ∧ m'.cores = w / 2 ^ 22 % 64 ∧ (m'.enable = true ↔ w % 2 = 1) ∧
          (m.ctx = some c → w / 2 % 2 = 0 → m'.min = m.min ∧ m'.max = m.max ∧ m'.count = m.count ∧ m'.hist = m.hist) ∧
          (m.ctx = none ∨ w / 2 % 2 = 1 → m'.count = 0 ∧ m'.hist = []))))

/-- TRAP writes a USER_TRAP record and goes on or acts, BRK does nothing without debug and otherwise records and halts, and an illegal word is a fault
(R33, R34, R69, R71, R78, R79, R117, R130). That BRK waits for a relock of the die its save area lies on is log entry 145; what BRK does where the
save area has no room is log entry 34, its vector log entry 99: the model's choices. -/
def Obligations.TrapsAndBreaks : Prop :=
  ∀ (s : State) (sw : Bool) (a b : BitVec 7) (r : TRef),
    let th := s.thread r
    let g := r.g
    let la := s.launchOf g
    let info (d0 d1 : Nat) : FaultInfo := {
      code := 0x1C, d0 := d0, d1 := d1, pc := th.pc, lanes := 2 ^ (r.t % 32), furrow := r.t / 32
      core := (s.group g).core, usertag := th.usertag.toNat, launch := some (s.group g).launch, group := some g }
    (s.oneOk { sw := sw, reads := [{ v := a }] } r = true →
      let act := actionOf la 0x1C
      let s1 := s.inSheaf.record la.ctx (info (s.inSheaf.reg r a).toNat b.toNat) act (some (la.region.ring, la.region.ringlog))
      ∃ u, SameBut [r] s1 u ∧ u.thread r = th.issued false (th.pc + 4) ∧ exec (.trap sw a b) s = .next (if act = 0 then u
        else if act = 1 then u.stopGroup g else u.endLaunch (s.group g).launch)) ∧
    (s.oneOk { sw := sw } r = true →
      ((s.ctx la.ctx).debug = false → ∃ t, exec (.brk sw b) s = .next t ∧ SameBut [r] s t ∧ t.thread r = th.issued sw (th.pc + 4)) ∧
      ((s.ctx la.ctx).debug = true → ∃ u, SameBut [r] s u ∧ u.thread r = th.issued false (th.pc + 4) ∧
        let v := u.takeFault la.ctx (info 0 (2 ^ 63 + b.toNat))
        let held (x : State) : State := if x.hubWaits = true ∧ s.hubWaits = false then s else x
        ((v.group g).state ≠ .resident → exec (.brk sw b) s = .next (held v)) ∧
        ((v.group g).state = .resident → v.preempt [g] = none → exec (.brk sw b) s = .next (held (v.preemptNote [g]))) ∧
        ∀ w, (v.group g).state = .resident → v.preempt [g] = some w → held w = w → ∃ t, exec (.brk sw b) s = .next t ∧ t.mem = w.mem ∧
          (∀ x, x ≠ g → t.group x = w.group x) ∧ t.group g = { w.group g with brk := true } ∧ (t.group g).state = .halting)) ∧
    (s.sheaf = [r] → s.canIssue r = true → exec .illegalInstruction s = .next (s.faultOf r 0x01 0 0))

/-! ## Work graphs and device-fed queues -/

namespace Sys2Proof.Machine

/-- What records reaching a bin do to its filling buffer (R99): none where they are refused, otherwise the bin after and the buffers fired, each
with its cause and which of the two it is. -/
def binTakes (b : Bin) (rs : List (List Byte)) (now : Nat) : Option (Bin × List (Nat × Bool × List (List Byte))) :=
  let m := b.records.length
  let b1 : Bin := { b with firstAt := if m = 0 then now else b.firstAt }
  if b.state = .held then none
  else if m + rs.length < b.count then some ({ b1 with state := .collecting, records := b.records ++ rs }, [])
  else if m + rs.length = b.count then
    (if b.otherBusy then some ({ b1 with state := .held, heldCause := 1, records := b.records ++ rs }, [])
     else some ({ b1 with state := .empty, otherBusy := true, second := !b.second, records := [] }, [(1, b.second, b.records ++ rs)]))
  else if b.otherBusy then none
  else some ({ b with state := .collecting, otherBusy := true, second := !b.second, records := rs, firstAt := now }, [(4, b.second, b.records)])

/-- Where k records that a bin takes stand in the save area: the bin's 64 KiB at savebase + 65,536 n, a buffer in each half, from the first free
place (R98). -/
def recordsGoTo (base n k : Nat) (b : Bin) : Nat :=
  let stays : Bool := b.records.length + k ≤ b.count
  base + 65536 * n + (if b.second = stays then 32768 else 0) + (if stays then 32 * b.records.length else 0)

/-- An access of the hub met a relock that the instruction waits for (R349). -/
def hubHeld (s t : State) : Prop := t.hubWaits = true ∧ s.hubWaits = false

/-- The pointer checks of NREC and ENQ, in order, with the alignment they ask for (R102, R104). -/
def feedBad (p : DWord) (size : Nat) : Option (Nat × Nat) :=
  let space := (p.extractLsb' 60 4).toNat
  if space = 0 then some (0x07, 0)
  else if space ≠ 1 ∧ space ≠ 2 ∧ space ≠ 4 ∧ space ≠ 6 ∧ space ≠ 8 then some (0x08, 1)
  else if ((space = 2 ∨ space = 4) ∧ 64 ≤ (p.extractLsb' 53 7).toNat) ∨ (space = 2 ∧ 6 ≤ (p.extractLsb' 50 3).toNat) then some (0x08, 2)
  else if space ≠ 2 ∧ space ≠ 4 then some (0x08, 6)
  else if p.toNat % 2 ^ 50 % size ≠ 0 then some (0x09, size)
  else none

end Sys2Proof.Machine

/-- NREC offers its records to the bin, which stores, fires or refuses them; BINFLUSH and the timer fire a collecting bin (R99, R100, R102, R103,
R142). The order of NREC's checks and the details of its count fault are log entry 35, its stay for the publish log entry 11, its wait for a relock
log entries 62 and 145, and the place of the second buffer log entry 147: the model's choices. -/
def Obligations.BinsFillAndFire : Prop :=
  (∀ (s : State) (sw : Bool) (d a n : BitVec 7) (r : TRef), s.oneOk { sw := sw, reads := [{ v := d }, { v := a, n := 2 }], access := true } r = true →
    let s0 := s.inSheaf
    let th := s.thread r
    let c := s.ctxOf r.g
    let i := (s0.reg r d).toNat
    let p := s0.pair r a
    let k := n.toNat
    let ins := Instr.nrec sw d a n
    let fault (code d0 d1 : Nat) : Prop := exec ins s = .next (s0.faultOf r code d0 d1)
    let place := s0.resolveN r p 0 32 (32 * k) false
    (s.binOf (s.launchOf r.g) i = none → fault 0x01 0 i) ∧
    ∀ b x, s.binOf (s.launchOf r.g) i = some b → (s.ctx c).bins[b]? = some x →
      (∀ code d1, feedBad p 32 = some (code, d1) → fault code p.toNat d1) ∧
      (feedBad p 32 = none → x.count < k → fault 0x01 0 0) ∧
      (feedBad p 32 = none → k ≤ x.count → (∀ code d1, place = .error (code, d1) → fault code p.toNat d1) ∧
        ∀ pl, place = .ok pl →
          (s0.publishNeeds r 7 ≠ [] ∨ s0.spanWaits r pl (32 * k) = true → exec ins s = .next s0) ∧
          (s0.publishNeeds r 7 = [] → s0.spanWaits r pl (32 * k) = false →
            let bs := ((s0.publish r 7).loadSpan r pl (32 * k)).2
            let rs := (List.range k).map fun j => (bs.drop (32 * j)).take 32
            let moves (t : State) (lv : Nat) (st : Status) (ch : Option Nat) : Prop := ∃ seen y z,
              t.thread r = ({ th with seen := seen, after := y, engAfter := z, level := lv, status := st, pollCh := ch } : Thread).issued sw (th.pc + 4)
            (binTakes x rs s.refTimer = none ∨ x.waiting ≠ [] → ∃ t, exec ins s = .next t ∧ SameView [r] s t ∧
              moves t (min (th.level + 1) 7) (.backedOff (s.sliceCount (s.group r.g).core + 2 ^ min (th.level + 1) 7) (some (.nrec b rs))) none) ∧
            ∀ x' fired, x.waiting = [] → binTakes x rs s.refTimer = some (x', fired) → ∃ u, SameView [r] s u ∧
              let y := s.ctx c
              let v := (u.setCtx c { y with
                bins := y.bins.set b x'
                nodeReady := y.nodeReady ++ fired.map fun f => { bin := b, cause := f.1, second := f.2.1, records := f.2.2 } }).virtPut c
                  (recordsGoTo y.savebase b k x) rs.flatten
              (hubHeld s v → exec ins s = .next s0) ∧
              (¬hubHeld s v → ∃ t, exec ins s = .next t ∧ moves t 0 .ready th.pollCh ∧
                SameBut [r] { (if th.level = 0 then v else v.setCtx c { v.ctx c with headland := 0 }) with
                  launches := v.launches.modify (s.group r.g).launch fun la => { la with escaped := true } } t)))) ∧
  (∀ (s : State) (c b : Nat) (x : Bin), (s.ctx c).bins[b]? = some x → x.waiting = [] →
    let fires (cause : Nat) (t : State) : Prop := (∀ y, y ≠ c → t.ctx y = s.ctx y) ∧
      (x.otherBusy = false → t.ctx c = { s.ctx c with
        bins := (s.ctx c).bins.set b { x with state := .empty, records := [], otherBusy := true, second := !x.second }
        nodeReady := (s.ctx c).nodeReady ++ [{ bin := b, cause := cause, second := x.second, records := x.records }] }) ∧
      (x.otherBusy = true → t.ctx c = { s.ctx c with bins := (s.ctx c).bins.set b { x with state := .held, heldCause := cause } })
    (x.timer = 0 ∨ s.refTimer < x.firstAt + x.timer ∨ x.state ≠ .collecting → exec (.binTimer c b) s = .next s) ∧
    (x.timer ≠ 0 → x.firstAt + x.timer ≤ s.refTimer → x.state = .collecting → ∃ t, exec (.binTimer c b) s = .next t ∧ SameBut [] { s with ctxs := t.ctxs } t ∧ fires 2 t) ∧
    ∀ (sw : Bool) (a : BitVec 7) (r : TRef), s.oneOk { sw := sw, reads := [{ v := a }] } r = true → s.ctxOf r.g = c →
      s.binOf (s.launchOf r.g) (s.inSheaf.reg r a).toNat = some b → ∃ t, exec (.binflush sw a) s = .next t ∧ SameBut [r] { s with ctxs := t.ctxs } t ∧
        t.thread r = (s.thread r).issued sw ((s.thread r).pc + 4) ∧ (x.state = .collecting → fires 3 t) ∧ (x.state ≠ .collecting → t.ctxs = s.ctxs)) ∧
  ∀ (s : State) (sw : Bool) (a : BitVec 7) (r : TRef), s.oneOk { sw := sw, reads := [{ v := a }] } r = true →
    s.binOf (s.launchOf r.g) (s.inSheaf.reg r a).toNat = none → exec (.binflush sw a) s = .next (s.inSheaf.faultOf r 0x01 0 (s.inSheaf.reg r a).toNat)

/-- ENQ answers 2 for a queue it may not feed and 1 for a full one, and otherwise writes the packet at its slot and advances the write index (R86,
R87, R89, R104, R113). That ENQ stays for its publish is log entry 11, that it waits for a relock log entries 62 and 145, which ENQs have the signals
read again log entry 80, and what becomes of a packet whose slot cannot be written log entry 81: the model's choices. -/
def Obligations.PacketsEnqueue : Prop :=
  ∀ (s : State) (sw : Bool) (d a : BitVec 7) (r : TRef),
    s.oneOk { sw := sw, reads := [{ v := d }, { v := a, n := 2 }], writes := [{ v := d }], var := true, access := true } r = true →
    let s0 := s.inSheaf
    let th := s.thread r
    let c := s.ctxOf r.g
    let q := (s0.reg r d).toNat
    let x := s.queue q
    let p := s0.pair r a
    let ins := Instr.enq sw d a
    let place := s0.resolveN r p 0 64 128 false
    let tells (t : State) (st : Word) : Prop := ∃ seen y z id,
      t.thread r = (({ th with seen := seen, after := y, engAfter := z } : Thread).await { v := d } id (.have [st]) none).issued sw (th.pc + 4)
    let closed : Prop := 1024 ≤ q ∨ x.state = .closed ∨ x.ctx ≠ c ∨ x.devmode = false
    (∀ code d1, feedBad p 64 = some (code, d1) → exec ins s = .next (s0.faultOf r code p.toNat d1)) ∧
    (feedBad p 64 = none → (∀ code d1, place = .error (code, d1) → exec ins s = .next (s0.faultOf r code p.toNat d1)) ∧
      ∀ pl, place = .ok pl →
        (s0.publishNeeds r 7 ≠ [] ∨ s0.spanWaits r pl 128 = true → exec ins s = .next s0) ∧
        (s0.publishNeeds r 7 = [] → s0.spanWaits r pl 128 = false →
          let bs := ((s0.publish r 7).loadSpan r pl 128).2
          (closed ∧ (x.state = .closed ∨ x.ctx ≠ c ∨ 1024 ≤ q) → ∃ t, exec ins s = .next t ∧ SameView [r] s t ∧ tells t 2) ∧
          let rereads (u v : State) : Prop := v = u.rereadAll (u.ctxQueues c) ∧
            (∀ k, v.queue k = { u.queue k with met := (v.queue k).met, readAt := (v.queue k).readAt }) ∧
            ((∀ k h, (u.queue k).ctx = c → (u.queue k).head = some h → ∀ j < (h.extractLsb' 8 3).toNat, j ∈ (u.queue k).met) → v = { u with queues := v.queues })
          let ends (v : State) (st : Word) (p : State → Prop) : Prop :=
            (hubHeld s v → exec ins s = .next s0) ∧ (¬hubHeld s v → ∃ t, exec ins s = .next t ∧ SameBut [r] v t ∧ tells t st ∧ p t)
          let feeds (st : Word) : Prop := ∃ u v, SameView [r] s u ∧ rereads u v ∧ ends v st fun _ => True
          (x.state ≠ .closed → x.ctx = c → q < 1024 → x.devmode = false → feeds 2) ∧ (¬closed → x.write - x.read = 2 ^ x.qlog → feeds 1) ∧
          (¬closed → x.write - x.read ≠ 2 ^ x.qlog → x.head ≠ none → ∃ u v, SameView [r] s u ∧
            rereads (((u.virtPut c (x.ring + 128 * (x.write % 2 ^ x.qlog)) bs).updQueue q fun y => { y with write := y.write + 1 }).modLaunch
              (s.group r.g).launch fun la => { la with escaped := true }) v ∧
            ends v 0 fun t => (t.queue q).write = x.write + 1 ∧ (t.queue q).read = x.read ∧ (t.queue q).head = x.head)))

/-! ## Power, clocks and reports -/

namespace Sys2Proof.Machine

/-- A group that is charged to one of a stack's cores (R135, R347). -/
def State.onStack (s : State) (stack g : Nat) : Prop :=
  g < s.groups.length ∧ ((s.group g).state = .resident ∨ (s.group g).state = .halting) ∧ (s.group g).core / 2 = stack

end Sys2Proof.Machine

/-- Each Yoke sample spends or refills the budget and moves the stack by its mismatch; throttle steps and trips change the mates' ratios (R345, R346,
R347, R357). That the budget is spent by the sample's own mismatch over the interval that ends at it is log entry 105; what the sources of a current
are, log entries 122 and 155: the model's choices. -/
def Obligations.YokesBalance : Prop :=
  (∀ (s : State) (c own level : Nat),
    let on (g : Nat) : Prop := g < s.groups.length ∧ (s.group g).core = c ∧ (s.group g).state = .resident
    (∀ g, on g → (s.group g).burn ≤ level) → ((∃ g, on g ∧ (s.group g).burn = level) ∨ level = 0) →
    (s.runs (c / 96) = false → s.current c own = Config.idleCurrent c) ∧
    (s.runs (c / 96) = true → s.arrayServes (c / 2) = true → s.current c own = own) ∧
    (s.runs (c / 96) = true → s.arrayServes (c / 2) = false → s.current c own = (if s.quiet c = true then Config.idleCurrent c else own) + 375 * level)) ∧
  (∀ (s : State) (stack low up : Nat),
    let k := s.stack stack
    let lower := s.current (2 * stack) low
    let upper := s.current (2 * stack + 1) up
    let m : Int := (upper : Int) - lower
    let ev := exec (.yokeSample stack low up) s
    let due : Prop := k.lastSample + 16 ≤ s.refTimer
    let trips : Prop := 3375 ≤ m.natAbs ∧ ∃ t0, k.tripSince = some t0 ∧ t0 + 2000 < s.refTimer
    let busier := if 0 < m then 2 * stack + 1 else 2 * stack
    let latched (t : State) : Prop := (t.stack stack).lower = lower ∧ (t.stack stack).upper = upper ∧ (t.stack stack).lastSample = s.refTimer
    (¬due → ev = .next s) ∧
    (due → k.yoke ≠ .tripped → trips → ∃ t, ev = .next t ∧ (t.stack stack).yoke = .tripped ∧ (t.core (2 * stack)).k = 1 ∧ (t.core (2 * stack + 1)).k = 1 ∧
      ∀ g, s.onStack stack g → (t.group g).state = .stopped) ∧
    (due → k.yoke ≠ .tripped → ¬trips →
      let budget := if 1125 < m.natAbs then k.budget - (s.refTimer - k.lastSample) else min 20000 (k.budget + (k.refill + (s.refTimer - k.lastSample)) / 4)
      let falls : Prop := k.yoke ≠ .throttled ∧ (2250 < m.natAbs ∨ (1125 < m.natAbs ∧ budget = 0))
      ∃ t, ev = .next t ∧ t.mem = s.mem ∧ latched t ∧ (t.stack stack).budget = budget ∧
        (∀ c, (t.core c).k = if falls ∧ c = busier then max 1 ((s.core c).k - 1) else (s.core c).k) ∧
        (t.stack stack).yoke = (if k.yoke = .throttled ∨ falls then .throttled else if 1125 < m.natAbs then .shunting else .balanced) ∧
        ∀ r t0, (s.thread r).status = .waiting (.balidle t0) → (s.thread r).halted = false → (s.group r.g).core / 2 = stack →
          (if (s.group r.g).core % 2 = 0 then lower ≤ upper else upper ≤ lower) → t.runsOn r) ∧
    (due → k.yoke = .tripped →
      let calm : Prop := m.natAbs ≤ 1125 ∧ (∃ t0, k.calmSince = some t0 ∧ t0 + 10000 ≤ s.refTimer) ∧ (∀ g, ¬s.onStack stack g) ∧ k.mq = []
      (calm → ∃ t, ev = .next t ∧ t.mem = s.mem ∧ latched t ∧ (t.stack stack).yoke = .balanced ∧ (t.stack stack).budget = 20000 ∧
        (t.core (2 * stack)).k = 8 ∧ (t.core (2 * stack + 1)).k = 8) ∧
      ((1125 < m.natAbs ∨ k.calmSince = none ∨ ∃ g, s.onStack stack g) → ∃ t, ev = .next t ∧ t.mem = s.mem ∧ latched t ∧ (t.stack stack).yoke = .tripped ∧
        ∀ c, (t.core c).k = (s.core c).k))) ∧
  (∀ (s : State) (stack : Nat),
    let k := s.stack stack
    let m : Int := (k.upper : Int) - k.lower
    let lo := (s.core (2 * stack)).k
    let up := (s.core (2 * stack + 1)).k
    let ev := exec (.yokeThrottleStep stack) s
    (k.yoke ≠ .throttled ∨ s.refTimer < k.lastStep + 1000 → ev = .next s) ∧
    (k.yoke = .throttled → k.lastStep + 1000 ≤ s.refTimer → lo ≤ 8 → up ≤ 8 →
      let calm : Prop := ∃ t0, k.calmSince = some t0 ∧ t0 + 4000 ≤ s.refTimer
      let lo' := if 1125 < m.natAbs then (if 0 < m then lo else max 1 (lo - 1)) else if calm ∧ lo ≤ up ∧ lo < 8 then lo + 1 else lo
      let up' := if 1125 < m.natAbs then (if 0 < m then max 1 (up - 1) else up) else if calm ∧ up < lo then up + 1 else up
      ∃ t, ev = .next t ∧ t.mem = s.mem ∧ (t.core (2 * stack)).k = lo' ∧ (t.core (2 * stack + 1)).k = up' ∧ (t.stack stack).lastStep = k.lastStep + 1000 ∧
        (t.stack stack).yoke = if lo' = 8 ∧ up' = 8 then (if 1125 < m.natAbs then .shunting else .balanced) else .throttled)) ∧
  ∀ (s : State) (r : TRef) (t0 : Nat), (s.thread r).status = .waiting (.balidle t0) →
    (s.refTimer < t0 + 64000 → exec (.balidleTimeout r.g r.t) s = .next s) ∧
    (t0 + 64000 ≤ s.refTimer → (s.thread r).halted = false → ∃ t, exec (.balidleTimeout r.g r.t) s = .next t ∧ t.mem = s.mem ∧ t.runsOn r ∧
      (t.thread r).pc = (s.thread r).pc ∧ (t.thread r).regs = (s.thread r).regs)

/-- Classes and ceilings are latched at boundaries and act after a relock; permits, the copy limit and the budget move as their rules say (R74, R75,
R82, R348, R349, R350, R351, R352, R355). The eighth of the copy limit is of its present value (log entry 66), MONITOR_SAMPLE counts a stack where the
mask names either core (log entry 104), burn power is taken at the end of the period (log entry 155), the ring of a record of HANG is the root
region's (log entry 143), HANG waits for a relock of a home that its writes meet (log entry 145), and furrows of Halting and Saved groups are left out
of the graph (log entry 144): the model's choices. -/
def Obligations.ClocksAndPower : Prop :=
  (∀ (s : State) (d : Nat),
    let ev := exec (.clockBoundary d) s
    (s.refTimer % 5000 ≠ 0 ∨ s.refTimer ≤ (s.die d).lastBoundary → ev = .next s) ∧
    (s.refTimer % 5000 = 0 → (s.die d).lastBoundary < s.refTimer → ∃ t, ev = .next t ∧ t.mem = s.mem ∧ (t.die d).lastBoundary = s.refTimer ∧
      (t.die d).ceiling = (s.die d).ceilingNext.getD (s.die d).ceiling ∧ (t.die d).ceilingNext = none ∧ (t.die d).f = (s.die d).f ∧
      ((t.die d).relock = (s.die d).relock ∨ (s.die d).relock = none ∧ (t.die d).relock = some (s.refTimer + 2500)) ∧
      (t.die d).pool + ((List.range 16).filter fun i => (t.cluster (16 * d + i)).boost).length = (s.die d).pool ∧
      ∀ i < 16, let cl := 16 * d + i
        let on (g : Nat) : Prop := g < s.groups.length ∧ (s.group g).state = .resident ∧ (s.group g).core / 6 = cl
        (t.cluster cl).mhz = (s.cluster cl).mhz ∧ ((t.cluster cl).boost = true → (t.cluster cl).cls = 2 ∧ 24 ≤ (t.die d).ceiling) ∧
        ((∀ g, ¬on g) → (t.cluster cl).cls = 1) ∧ (∀ g, on g → (s.group g).cls ≤ (t.cluster cl).cls) ∧
        ((∃ g, on g) → ∃ g, on g ∧ (s.group g).cls = (t.cluster cl).cls))) ∧
  (∀ (s : State) (d : Nat),
    ((s.die d).relock = none ∨ (∃ x, (s.die d).relock = some x ∧ s.refTimer < x) → exec (.relockEnd d) s = .next s) ∧
    (∀ x, (s.die d).relock = some x → x ≤ s.refTimer → (s.die d).goal.2.length = 16 → ∃ u t, exec (.relockEnd d) s = .next t ∧ u.mem = s.mem ∧
      u.groups = s.groups ∧ u.launches = s.launches ∧ u.owed = s.owed ∧ u.granted = s.granted ∧ t = (if u.runs d = true then u.afterRelock d else u) ∧
      (t.die d).f = (s.die d).goal.1 ∧ (t.die d).nominal = (s.die d).nominal + 2 * 2500 * 65536 ∧ (t.die d).raw = (s.die d).raw ∧
      ((t.die d).relock = none ∨ (t.die d).relock = some (s.refTimer + 2500)) ∧ ∀ i < 16, (t.cluster (16 * d + i)).mhz = (s.die d).goal.2.getD i 0) ∧
    let falling (i : Nat) : Prop := (s.cluster (16 * d + i)).fall = 2 ∧ (s.cluster (16 * d + i)).fallAt ≤ s.refTimer
    ((∀ i < 16, ¬falling i) ∨ s.runs d = false → exec (.boostFallStep d) s = .next s) ∧
    ((∃ i < 16, falling i) → s.runs d = true → ∃ t, exec (.boostFallStep d) s = .next t ∧ t.mem = s.mem ∧ ∀ i < 16, (t.cluster (16 * d + i)).mhz = (s.cluster (16 * d + i)).mhz ∧
      (falling i → (t.cluster (16 * d + i)).fall = if (t.die d).relock.isSome then 3 else 0) ∧
      (¬falling i → (t.cluster (16 * d + i)).fall = (s.cluster (16 * d + i)).fall)) ∧
    let fast : Prop := ∃ i < 16, 20 < (s.cluster (16 * d + i)).mhz
    (fast ∨ s.refTimer < (s.die d).refillAt + 25000 → exec (.permitRefill d) s = .next s) ∧
    (¬fast → (s.die d).refillAt + 25000 ≤ s.refTimer → ∃ t, exec (.permitRefill d) s = .next t ∧ SameBut [] { s with dies := t.dies } t ∧
      (∀ x, x ≠ d → t.die x = s.die x) ∧ t.die d = { s.die d with pool := min 64 ((s.die d).pool + 1), refillAt := (s.die d).refillAt + 25000 })) ∧
  (∀ (s : State) (watts : Nat) (msg : BitVec 64),
    (s.refTimer < s.powerAt + 10000 → exec (.powerPeriod watts) s = .next s) ∧
    (s.powerAt + 10000 ≤ s.refTimer → exec (.powerPeriod watts) s = .next { s with
      powerAt := s.powerAt + 10000
      copyLimit := if 10000 * s.budget < 10000 * watts + s.burnPower then max (64 * 1024) (s.copyLimit - s.copyLimit / 8)
        else if 100 * (10000 * watts + s.burnPower) < 95 * (10000 * s.budget) then min (4 * 1024 * 1024) (s.copyLimit + s.copyLimit / 8) else s.copyLimit }) ∧
    (let expiry := (msg.extractLsb' 48 16).toNat
     let cap := max 600 (min 2400 (msg.extractLsb' 32 16).toNat)
     let seq := msg.extractLsb' 0 32
     let newer : Prop := s.cap.stage = 0 ∨ 1 ≤ (seq - .ofNat 32 s.cap.seq).toNat ∧ (seq - .ofNat 32 s.cap.seq).toNat ≤ 2 ^ 31 - 1
     (expiry ≠ 0 → newer → exec (.rackCapMessage msg) s = .next { s with
       budget := cap
       cap := { stage := 1, cap := cap, seq := seq.toNat, due := s.refTimer + 1000000 * expiry } }) ∧
     (¬newer → exec (.rackCapMessage msg) s = .next s)) ∧
    (s.cap.stage ≠ 1 ∨ s.refTimer < s.cap.due → exec .capExpiry s = .next s) ∧
    (s.cap.stage = 1 → s.cap.due ≤ s.refTimer → exec .capExpiry s = .next { s with
      budget := (s.cap.cap + s.floor) / 2
      cap := { s.cap with stage := 2, due := s.cap.due + 1000000 } }) ∧
    (s.cap.stage ≠ 2 ∨ s.refTimer < s.cap.due → exec .capFloorStep s = .next s) ∧
    (s.cap.stage = 2 → s.cap.due ≤ s.refTimer → exec .capFloorStep s = .next { s with budget := s.floor, cap := { s.cap with stage := 3 } })) ∧
  (∀ (s : State) (cl u c : Nat), let m := (s.cluster cl).monitors.getD u {}
    m.ctx = some c →
    (m.enable = false ∨ m.source ≠ 5 ∨ s.cycles cl < m.sampledAt + 64 → exec (.monitorSample cl u) s = .next s) ∧
    (m.enable = true → m.source = 5 → m.sampledAt + 64 ≤ s.cycles cl →
      let holdsOne (k : Nat) : Bool := decide (∃ g < s.groups.length, ((s.group g).state = .resident ∨ (s.group g).state = .halting) ∧ (s.group g).core / 2 = k ∧ s.ctxOf g = c)
      let ks := ((List.range 3).map (3 * cl + ·)).filter fun k => holdsOne k && (m.cores = 0 || m.cores.testBit (2 * k % 6) || m.cores.testBit ((2 * k + 1) % 6))
      ∃ t, exec (.monitorSample cl u) s = .next t ∧ SameBut [] { s with clusters := t.clusters } t ∧ (∀ x, x ≠ cl → t.cluster x = s.cluster x) ∧
        t.cluster cl = { s.cluster cl with
          monitors := (s.cluster cl).monitors.set u ((ks.map fun k => ((s.stack k).upper - (s.stack k).lower : Int).natAbs).foldl Monitor.count1
            { m with sampledAt := m.sampledAt + 64 }) })) ∧
  ∀ (s : State) (c : Nat), let x := s.ctx c
    (x.state = .free ∨ x.headland < 2 ^ x.hlog → exec (.hang c) s = .next s) ∧
    (x.state ≠ .free → 2 ^ x.hlog ≤ x.headland →
      let es := s.graph c
      let hung := (List.range s.launches.length).filter fun l => decide ((s.launch l).ctx = c) && (s.groupsOf l).any fun g => (s.group g).state = .resident
      let info : FaultInfo := { code := 0x1A, kind := 4, d0 := x.hangbuf, d1 := if x.hangbuf = 0 then 0 else es.length }
      let u := s.record c info ((hung.map fun l => actionOf (s.launch l) 0x1A).foldl max 0) none
      es.length ≤ 4096 ∧ ∃ t, (t.ctx c).headland = 0 ∧ (t.ctx c).sticky = (u.ctx c).sticky ∧ t.groups = s.groups ∧ t.launches = s.launches ∧
        t.mem = (if x.hangbuf = 0 then u.mem else (u.virtPut c x.hangbuf (es.flatMap (bytesOf 16))).mem) ∧
        let v := hung.foldl State.hangAct t
        (hubHeld s v → exec (.hang c) s = .next s) ∧ (¬hubHeld s v → exec (.hang c) s = .next v)) ∧
    ∀ l, (actionOf (s.launch l) 0x1A = 0 → s.hangAct l = s) ∧ (actionOf (s.launch l) 0x1A = 2 → s.hangAct l = s.endLaunch l) ∧
      (actionOf (s.launch l) 0x1A = 3 → s.hangAct l = s.rollback l none)

/-! ## Admin commands -/

namespace Sys2Proof.Machine

/-- The commands on a context of the giving function, with the states of the context that allow each (R58, R62, R85, R316). -/
def contextCommands : List ((Nat → Packet → Instr) × List CtxState) :=
  let used : List CtxState := [.opened, .active, .quiescing, .suspended]
  [(.create, [.free]), (.loadkernel, [.opened, .active]), (.activate, [.opened, .suspended, .active]), (.quiesce, [.active]), (.suspend, [.active, .quiescing]),
   (.snappool, [.opened, .active]), (.destroy, [.opened, .active, .quiescing, .suspended, .closing]), (.clearerr, used), (.setheadland, used),
   (.handlearea, [.opened]), (.qopen, [.opened, .active]), (.qstop, used), (.qstart, used), (.qclose, [.opened, .active, .quiescing, .suspended, .closing]),
   (.pagehold, used)]

/-- The commands that only the physical function may give (R363). -/
def moduleCommands : List (Nat → Packet → Instr) := [.preempt, .tagset, .notifyring, .hotcfg, .pwrcfg, .peerwin, .linkcfg]

/-- A field of a command's packet. -/
def fieldOf (p : Packet) (lo n : Nat) : Nat := (p.extractLsb' lo n).toNat

end Sys2Proof.Machine

/-- A command is refused with 3, 2 or 1 for its context's number, owner or state, or with 2 away from the physical function, and changes nothing else
(R56, R58, R61, R362, R363). The order of the three checks is log entry 67, the index that a completion carries log entry 68, and that a vector the
function does not have is not raised log entry 150: the model's choices. -/
def Obligations.AdminCommandsComplete : Prop :=
  (∀ q ∈ contextCommands, ∀ (s : State) (fn : Nat) (p : Packet),
    let x := s.ctx (fieldOf p 8 8)
    (64 ≤ fieldOf p 8 8 → exec (q.1 fn p) s = .next (s.complete fn 3)) ∧
    (fieldOf p 8 8 < 64 → x.state ≠ .free → x.fn ≠ fn → exec (q.1 fn p) s = .next (s.complete fn 2)) ∧
    (fieldOf p 8 8 < 64 → (x.state = .free ∨ x.fn = fn) → x.state ∉ q.2 → exec (q.1 fn p) s = .next (s.complete fn 1))) ∧
  (∀ q ∈ moduleCommands, ∀ (s : State) (fn : Nat) (p : Packet), fn ≠ 0 → exec (q fn p) s = .next (s.complete fn 2)) ∧
  ∀ (s : State) (fn status : Nat), let f := s.fn fn
    let i := (f.admhead + 2 ^ 64 - 1) % 2 ^ 64
    let on : Prop := f.admlog ≠ 0 ∧ f.admring ≠ 0 ∧ f.admcpl ≠ 0
    ((s.complete fn status).fn fn).pending = none ∧ (∀ k, k ≠ fn → (s.complete fn status).fn k = s.fn k) ∧
    (¬on → SameBut [] { s with fns := (s.complete fn status).fns } (s.complete fn status)) ∧
    (on → (s.complete fn status).vectors = s.vectors ++ (if f.admvec < (if fn = 0 then 2048 else 32) then [(fn, f.admvec)] else []) ∧
      SameBut [] { s with fns := (s.complete fn status).fns, mem := (s.complete fn status).mem, vectors := (s.complete fn status).vectors } (s.complete fn status) ∧
      (s.complete fn status).mem = (s.wrs (2 ^ 60 + (f.admcpl.toNat + 16 * (i % 2 ^ f.admlog)) % 2 ^ 60)
        (bytesOf 16 (i * 2 ^ 64 + i / 2 ^ f.admlog % 2 * 256 + status % 256))).mem)

/-- Commands on contexts, queues and keys that are not refused have the effect that their rules give and complete with status 0 or wait (R58, R59,
R60, R61, R62, R66, R67, R79, R85, R112, R316, R330). The order of a command's checks is log entry 67; that DESTROY completes when it is accepted, log
entry 108; the status where what CREATE, LOADKERNEL, IMPORTKEY or SNAPPOOL names cannot be read, and that of a list of 0 or above 16 digests, log
entry 109; under which key slot the sectors of a handle area stand, log entry 166; when zeroizing ends, log entry 110; which launches QUIESCE waits
for, log entry 112; that a command waits for a relock by being read again, log entry 145: the model's choices. -/
def Obligations.ContextCommandsAct : Prop :=
  (∀ (s : State) (fn : Nat) (p : Packet), fieldOf p 8 8 < 64 →
    let c := fieldOf p 8 8
    let x := s.ctx c
    let refuses (i : Instr) (st : Nat) : Prop := exec i s = .next (s.complete fn st)
    let ends (i : Instr) (t : State) : Prop := exec i s = .next (t.complete fn 0)
    let endsOn (i : Instr) (t : State) (st : Nat) : Prop := (hubHeld s t → exec i s = .next (s.unread fn)) ∧ (¬hubHeld s t → exec i s = .next (t.complete fn st))
    let waitsOn (i : Instr) (t : State) (w : Pending) : Prop :=
      (hubHeld s t → exec i s = .next (s.unread fn)) ∧ (¬hubHeld s t → exec i s = .next (t.setFn fn { t.fn fn with pending := some w }))
    let log (n : Nat) : Option Nat := if n = 0 then some 30 else if 20 ≤ n ∧ n ≤ 40 then some n else none
    (x.state = .free → fieldOf p 256 64 = 0 →
      let k := s.key (fieldOf p 66 6)
      let bound : Prop := k.state = .loaded ∧ k.fn = fn ∧ k.ctxmask.getLsbD c = true
      let prot := p.getLsbD 55
      let mayProt : Prop := (s.fn fn).keyed = true ∧ (fn = 0 ∨ (s.fn fn).tdi = .run)
      let bad : Prop := log (fieldOf p 60 6) = none ∨ ¬bound ∨ (prot = true ∧ p.getLsbD 54 = true) ∨ (prot = true ∧ ¬mayProt)
      (bad → refuses (.create fn p) 3) ∧
      (¬bad → ∃ t key, ends (.create fn p) t ∧ SameBut [] { s with ctxs := t.ctxs } t ∧ (∀ y, y ≠ c → t.ctx y = s.ctx y) ∧
        t.ctx c = { state := .opened, fn := fn, rootrcb := fieldOf p 448 64, ptroot := fieldOf p 384 64, scratchtab := fieldOf p 320 64, hangbuf := fieldOf p 192 64, savebase := fieldOf p 128 64, keyslot := fieldOf p 66 6, sealKey := key, hlog := (log (fieldOf p 60 6)).getD 0, prot := prot, debug := p.getLsbD 54, stale := p.getLsbD 53, fmt := List.replicate 48 0 })) ∧
    (x.fn = fn →
      (x.state = .opened ∨ x.state = .active →
        let desc := fieldOf p 448 64
        let len := fieldOf p 416 32
        let dup : Prop := ∃ k ∈ x.kernels, k.desc = desc
        (desc % 64 ≠ 0 → refuses (.loadkernel fn p) 3) ∧
        (desc % 64 = 0 → fieldOf p 352 64 % 16 = 0 → fieldOf p 336 16 = 0 →
          (s.virtRd x desc len = none → endsOn (.loadkernel fn p) (s.virtNote c desc len) 3) ∧
          ∀ u bs, s.virtRd x desc len = some (u, bs) → (256 ≤ x.kernels.length ∧ ¬dup → endsOn (.loadkernel fn p) u 4) ∧
            (x.kernels.length < 256 ∨ dup →
              let m : Measured := { desc := desc, len := len, digest := sha384 bs }
              ∀ ks, (¬dup → ks = x.kernels ++ [m]) → (dup → ks = x.kernels.map fun k => if k.desc = desc then m else k) →
                endsOn (.loadkernel fn p) (u.setCtx c { x with kernels := ks, measured := x.measured ++ [(desc, len)] }) 0)) ∧
        (2 ^ 20 < fieldOf p 416 32 → refuses (.snappool fn p) 3) ∧
        (fieldOf p 416 32 = 0 → (x.snapBusy ≠ [] → refuses (.snappool fn p) 4) ∧ (x.snapBusy = [] → ends (.snappool fn p) (s.setCtx c { x with snapPool := [] }))) ∧
        (∀ u, 0 < len → len ≤ 2 ^ 20 → s.cmdRd c desc (8 * len) = (u, none) → endsOn (.snappool fn p) u 3) ∧
        (∀ u bs, 0 < len → len ≤ 2 ^ 20 → s.cmdRd c desc (8 * len) = (u, some bs) →
          let frames := (List.range len).map fun i => ofBytes ((bs.drop (8 * i)).take 8)
          ((∃ f ∈ frames, f % 65536 ≠ 0 ∨ physOk f = false) → endsOn (.snappool fn p) u 3) ∧
          ((∀ f ∈ frames, f % 65536 = 0 ∧ physOk f = true) → (x.snapBusy ≠ [] → endsOn (.snappool fn p) u 4) ∧
            (x.snapBusy = [] → endsOn (.snappool fn p) (u.setCtx c { x with snapPool := frames.map (· / 65536) }) 0)))) ∧
      (x.state = .opened ∨ x.state = .suspended ∨ x.state = .active →
        let u := (s.setCtx c { x with state := .active, headland := 0 }).unbrk c
        let t := u.settleQueues (u.ctxQueues c)
        endsOn (.activate fn p) t 0 ∧ (t.ctx c).state = .active ∧ (t.ctx c).headland = 0 ∧ ∀ g < s.groups.length, s.ctxOf g = c → (t.group g).brk = false) ∧
      (x.state = .active → ∃ t, ends (.quiesce fn p) t ∧ t.mem = s.mem ∧
        (t.ctx c).state = if ∃ la ∈ s.launches, la.ctx = c ∧ la.unfinished = true then .quiescing else .opened) ∧
      (x.state = .active ∨ x.state = .quiescing →
        (s.preempt (s.ctxLive c) = none → endsOn (.suspend fn p) (s.preemptNote (s.ctxLive c)) 4) ∧
        ∀ u, s.preempt (s.ctxLive c) = some u →
          let t := u.setCtx c { u.ctx c with state := .suspended }
          (t.suspendOver c = true → endsOn (.suspend fn p) t 0) ∧ (t.suspendOver c = false → waitsOn (.suspend fn p) t (.suspend c))) ∧
      (x.state = .closing → ends (.destroy fn p) s) ∧
      (x.state ≠ .free → x.state ≠ .closing →
        let t := s.destroyCtx c
        endsOn (.destroy fn p) t 0 ∧ (t.ctx c).state = .closing ∧ (t.ctx c).bins = [] ∧ (t.ctx c).nodeReady = [] ∧
        (∀ q, (s.queue q).ctx = c → (s.queue q).state ≠ .closed → (t.queue q).state = .closed) ∧
        ∀ l < s.launches.length, (s.launch l).ctx = c → (s.launch l).state ≠ .gone → (t.launch l).ended = true ∧ (t.launch l).donesig = 0 ∧ (t.launch l).irq = false ∧
          (t.launch l).state = if (s.launch l).state = .finished then .finished else .draining) ∧
      (x.state ≠ .free → x.state ≠ .closing →
        ends (.clearerr fn p) (s.setCtx c { x with sticky := 0 }) ∧
        (log (fieldOf p 256 6) = none → refuses (.setheadland fn p) 3) ∧
        (∀ n, log (fieldOf p 256 6) = some n → ends (.setheadland fn p) (s.setCtx c { x with hlog := n })) ∧
        let h : Hold := { va := fieldOf p 448 64, pages := fieldOf p 416 32 }
        let bad : Prop := h.va % 65536 ≠ 0 ∨ h.pages = 0 ∨ 2 ^ 20 < h.pages
        (bad → refuses (.pagehold fn p) 3) ∧
        (¬bad → p.getLsbD 415 = false → (h ∈ x.holds → ends (.pagehold fn p) (s.setCtx c { x with holds := x.holds.erase h })) ∧
          (h ∉ x.holds → refuses (.pagehold fn p) 3)) ∧
        (¬bad → p.getLsbD 415 = true → (64 ≤ x.holds.length → refuses (.pagehold fn p) 4) ∧
          (x.holds.length < 64 →
            let t := s.setCtx c { x with holds := x.holds ++ [h] }
            (t.pinned c h.va h.pages = false → ends (.pagehold fn p) t) ∧
            (t.pinned c h.va h.pages = true → exec (.pagehold fn p) s = .next (t.setFn fn { t.fn fn with pending := some (.pagehold c h.va h.pages) })))) ∧
        let q := fieldOf p 342 10
        let a := s.queue q
        (∀ i ∈ [Instr.qstop fn p, .qstart fn p, .qclose fn p], (a.state = .closed → refuses i 1) ∧ (a.state ≠ .closed → a.ctx ≠ c → refuses i 3)) ∧
        (a.state ≠ .closed → a.ctx = c →
          (a.state = .running → ends (.qstop fn p) (s.setQueue q { a with state := .stopped }) ∧ refuses (.qstart fn p) 1) ∧
          (a.state = .stopped → refuses (.qstop fn p) 1 ∧ 
            let t := (s.setQueue q { a with state := .running }).settleQueue q
            endsOn (.qstart fn p) t 0 ∧ (t.queue q).state = .running) ∧
          let busy : Prop := ∃ la ∈ s.launches, la.queue = q ∧ la.opening = a.opening ∧ la.node = none ∧ la.state ≠ .gone
          (busy → refuses (.qclose fn p) 4) ∧ (¬busy → ends (.qclose fn p) (s.setQueue q {})))) ∧
      (x.state = .opened →
        (x.usedHnew = true → refuses (.handlearea fn p) 1) ∧
        (x.usedHnew = false → fieldOf p 448 64 % 65536 ≠ 0 ∨ fieldOf p 424 24 = 0 → refuses (.handlearea fn p) 3) ∧
        (x.usedHnew = false → fieldOf p 448 64 % 65536 = 0 → fieldOf p 424 24 ≠ 0 → ∃ t,
          let base := fieldOf p 448 64
          let inArea (n : Nat) : Prop := base / 64 ≤ n ∧ n < base / 64 + 128 * (fieldOf p 424 24 + fieldOf p 408 16)
          endsOn (.handlearea fn p) t 0 ∧ SameBut [] { s with ctxs := t.ctxs, areas := t.areas, sectors := t.sectors, hubWaits := t.hubWaits } t ∧
          (t.hubWaits = true ↔ s.hubWaits = true ∨ (homeDie base).all s.runs = false) ∧ (∀ y, y ≠ c → t.ctx y = s.ctx y) ∧
          t.ctx c = { x with harea := some (base, fieldOf p 424 24, fieldOf p 408 16), tensors := [], cells := [] } ∧
          (∀ n, ¬inArea n → t.sector n = s.sector n) ∧
          ∀ n, inArea n → ∃ y, t.sector n = some y ∧ y.key = x.keyslot ∧ y.addr = n ∧ y.errors = 0 ∧ y.pair = (s.key x.keyslot).key)) ∧
      (x.state = .opened ∨ x.state = .active →
        let q := fieldOf p 342 10
        let bad : Prop := fieldOf p 448 64 % 128 ≠ 0 ∨ fieldOf p 384 64 % 64 ≠ 0 ∨ fieldOf p 364 4 < 2
        let full : Prop := (s.queue q).state ≠ .closed ∨ 64 ≤ (s.ctxQueues c).length
        (bad → refuses (.qopen fn p) 3) ∧ (¬bad → full → refuses (.qopen fn p) 4) ∧
        (¬bad → ¬full →
          let a : Queue := { state := .running, ctx := c, ring := fieldOf p 448 64, ctl := fieldOf p 384 64, vector := fieldOf p 368 16, qlog := fieldOf p 364 4, devmode := p.getLsbD 363, opening := s.fresh }
          let t := (s.setQueue q a).tick.writeFields c (fieldOf p 384 64) [(0, 0), (8, 0)]
          endsOn (.qopen fn p) t 0 ∧ (∀ y, y ≠ q → t.queue y = s.queue y) ∧ t.queue q = a)))) ∧
  (∀ (s : State) (c : Nat), ((s.ctx c).state ≠ .closing → exec (.teardownComplete c) s = .next s) ∧
    let owes : Bool := (s.killTensors c (s.ctx c).tensors).owed.any fun o => o.ofCtx c
    ((s.ctx c).state = .closing → s.torn c = true → (owes = true → exec (.teardownComplete c) s = .next s) ∧
      (owes = false → ∃ t, exec (.teardownComplete c) s = .next t ∧ t.ctx c = {}))) ∧
  ∀ (s : State) (fn : Nat) (p : Packet),
    let k := fieldOf p 378 6
    let blob := fieldOf p 448 64
    let mask : BitVec 64 := p.extractLsb' 384 64
    let d := fieldOf p 256 6
    let endsOn (i : Instr) (t : State) (st : Nat) : Prop := (hubHeld s t → exec i s = .next (s.unread fn)) ∧ (¬hubHeld s t → exec i s = .next (t.complete fn st))
    ((s.key k).state ≠ .empty → exec (.importkey fn p) s = .next (s.complete fn 1)) ∧
    ((s.key k).state = .empty → mask = 0 ∨ blob % 16 ≠ 0 → (∀ c < 64, mask.getLsbD c = true → (s.ctx c).state = .free ∨ (s.ctx c).fn = fn) →
      exec (.importkey fn p) s = .next (s.complete fn 3)) ∧
    (∀ u bs v ds n, (s.key k).state = .empty → mask ≠ 0 → blob % 16 = 0 → (∀ c < 64, mask.getLsbD c = true → (s.ctx c).state = .free ∨ (s.ctx c).fn = fn) →
      s.cmdRd 0x3F blob 148 = (u, some bs) → n = ofBytes ((bs.drop 144).take 4) → 1 ≤ n → n ≤ 16 → u.cmdRd 0x3F (blob + 148) (48 * n) = (v, some ds) →
      let field (lo w : Nat) : Nat := ofBytes bs / 2 ^ lo % 2 ^ w
      let key := Config.unwrapKey (field 0 32) (.ofNat 96 (field 32 96)) (.ofNat 512 (field 128 512)) (.ofNat 128 (ofBytes ((bs.drop 128).take 16)))
      let measured : Prop := sha384 ((bs.drop 144).take 4 ++ ds) = .ofNat 384 (field 640 384)
      (key = none ∨ ¬measured → endsOn (.importkey fn p) v 5) ∧
      ∀ y, key = some y → measured → endsOn (.importkey fn p) (v.setKey k
        { state := .loaded, fn := fn, ctxmask := mask, key := y, approved := (List.range n).map fun i => .ofNat 384 (ofBytes ((ds.drop (48 * i)).take 48)) }) 0) ∧
    (∀ u bs, (s.key k).state = .empty → mask ≠ 0 → blob % 16 = 0 → (∀ c < 64, mask.getLsbD c = true → (s.ctx c).state = .free ∨ (s.ctx c).fn = fn) →
      s.cmdRd 0x3F blob 148 = (u, some bs) → ofBytes ((bs.drop 144).take 4) = 0 ∨ 16 < ofBytes ((bs.drop 144).take 4) → endsOn (.importkey fn p) u 3) ∧
    ((s.key d).state ≠ .empty → (s.key d).fn ≠ fn → exec (.dropkey fn p) s = .next (s.complete fn 2)) ∧
    ((s.key d).state = .empty ∨ (s.key d).fn = fn ∧ (s.key d).state ≠ .loaded → exec (.dropkey fn p) s = .next (s.complete fn 1)) ∧
    ((s.key d).state = .loaded → (s.key d).fn = fn →
      let busy : Prop := ∃ c < 64, (s.key d).ctxmask.getLsbD c = true ∧ (s.ctx c).fn = fn ∧ (s.ctx c).state ∈ [CtxState.active, .quiescing, .suspended]
      (busy → exec (.dropkey fn p) s = .next (s.complete fn 4)) ∧
      (¬busy → exec (.dropkey fn p) s = .next ((s.setKey d { s.key d with state := .zeroizing }).complete fn 0))) ∧
    ((s.key d).state ≠ .zeroizing → exec (.keyZeroizeComplete d) s = .next s) ∧
    ((s.key d).state = .zeroizing → (∀ e ∈ s.allEntries, isMarker e.work = true) → exec (.keyZeroizeComplete d) s = .next (s.setKey d {}))

/-- The physical function's commands check their operands and then preempt a core, tag sectors, place the ring, and set hotness, power, windows and
links (R130, R320, R316, R323, R324, R325, R353, R367, R369, R62). What TAGSET makes of a sector that fails is log entry 64; that the device writes
the notification ring under no key slot, log entry 65; the range of PEERWIN's and LINKCFG's operands and their status, log entry 118; when the first
epoch after HOTCFG ends, log entry 69; that PWRCFG's floor changes the budget once it is in force, log entry 106; a PREEMPT during another's hold, and
one that meets a relock, log entry 145: the model's choices. -/
def Obligations.ModuleCommandsAct : Prop :=
  (∀ (s : State) (p : Packet),
    let refuses (i : Instr) (st : Nat) : Prop := exec i s = .next (s.complete 0 st)
    let ends (i : Instr) (t : State) : Prop := exec i s = .next (t.complete 0 0)
    let core := fieldOf p 256 9
    let hold := fieldOf p 288 32
    let endsOn (i : Instr) (t : State) (st : Nat) : Prop := (hubHeld s t → exec i s = .next (s.unread 0)) ∧ (¬hubHeld s t → exec i s = .next (t.complete 0 st))
    (384 ≤ core → refuses (.preempt 0 p) 3) ∧
    (core < 384 → s.preempt (s.coreLive core) = none → endsOn (.preempt 0 p) (s.preemptNote (s.coreLive core)) 4) ∧
    (core < 384 → s.coreLive core = [] → ∃ t, ends (.preempt 0 p) t ∧ SameBut [] { s with cores := t.cores } t ∧
      ∀ k, t.core k = if k = core then { s.core k with
        out := false
        outUntil := if hold = 0 then (s.core k).outUntil else some (max ((s.core k).outUntil.getD 0) (s.refTimer + 1000 * hold)) } else s.core k) ∧
    (∀ u, core < 384 → s.preempt (s.coreLive core) = some u → u.coreLive core ≠ [] →
      let t := u.setCore core { u.core core with out := true }
      (hubHeld s t → exec (.preempt 0 p) s = .next (s.unread 0)) ∧
      (¬hubHeld s t → exec (.preempt 0 p) s = .next (t.setFn 0 { t.fn 0 with pending := some (.preempt core hold) }))) ∧
    (let base := fieldOf p 448 64
     let len := fieldOf p 384 64
     let bad : Prop := base % 64 ≠ 0 ∨ len % 64 ≠ 0 ∨ len < 64 ∨ rangeOk base len = false
     (bad → refuses (.tagset 0 p) 3) ∧
     let inRange (n : Nat) : Prop := base / 64 ≤ n ∧ n < base / 64 + len / 64
     let reads (n : Nat) (x : Sector) : Prop := x.addr = n ∧ x.errors ≤ 1
     (¬bad → (homeDie base).all s.runs = false → s.hubWaits = false → exec (.tagset 0 p) s = .next (s.unread 0)) ∧
     (¬bad → (homeDie base).all s.runs = true → s.notify = none ∨ (∀ n x, inRange n → s.sector n = some x → x.addr = n ∧ x.errors = 0) → ∃ t, ends (.tagset 0 p) t ∧
       (∀ n, ¬inRange n → t.sector n = s.sector n) ∧
       (∀ n, inRange n → s.sector n = none → t.sector n = some { tag := fieldOf p 380 4, key := noKey, addr := n }) ∧
       (∀ n x, inRange n → s.sector n = some x → (reads n x → t.sector n = some { x with tag := fieldOf p 380 4, errors := 0 }) ∧
         (¬reads n x → t.sector n = some { tag := fieldOf p 380 4, key := noKey, addr := n })) ∧
       ∀ a, t.rd a = if inRange (a / 64) ∧ ∃ x, s.sector (a / 64) = some x ∧ ¬reads (a / 64) x then 0 else s.rd a)) ∧
    (let addr := fieldOf p 448 64
     let lg := fieldOf p 440 8
     let bad : Prop := addr % 64 ≠ 0 ∨ lg < 6 ∨ 20 < lg ∨ rangeOk addr (64 + 32 * 2 ^ lg) = false
     (bad → refuses (.notifyring 0 p) 3) ∧
     (¬bad → (homeDie addr).all s.runs = false → s.hubWaits = false → exec (.notifyring 0 p) s = .next (s.unread 0)) ∧
     (¬bad → (homeDie addr).all s.runs = true → ∃ t, ends (.notifyring 0 p) t ∧ t.notify = some (addr, lg) ∧ t.notifyProduced = 0 ∧ t.notifyLost = s.notifyLost ∧
       t.mem = (s.wrs (addr + 16) (bytesOf 8 s.notifyLost)).mem)) ∧
    (∃ t, ends (.hotcfg 0 p) t ∧ t.hot = s.hot ∧ t.epoch = fieldOf p 416 32 ∧ t.corr = fieldOf p 384 32 ∧
      t.epochAt = (if s.epoch = 0 then s.refTimer else s.epochAt) ∧ ∀ i < 8, t.thresh.getD i 0 = fieldOf p (448 + 8 * i) 8) ∧
    (let floor := fieldOf p 496 16
     let ceil (d : Nat) : Nat := fieldOf p (464 + 8 * d) 8
     let bad : Prop := (floor ≠ 0 ∧ (floor < 600 ∨ 2400 < floor)) ∨ ∃ d < 4, ceil d ≠ 0 ∧ (ceil d < 12 ∨ 24 < ceil d)
     (bad → refuses (.pwrcfg 0 p) 3) ∧
     (¬bad → ∃ t, ends (.pwrcfg 0 p) t ∧ t.mem = s.mem ∧ t.floor = (if floor = 0 then s.floor else floor) ∧
       t.budget = (if floor ≠ 0 ∧ s.cap.stage = 3 then floor else s.budget) ∧
       ∀ d, t.die d = if d < 4 ∧ ceil d ≠ 0 then { s.die d with ceilingNext := some (ceil d) } else s.die d)) ∧
    (let bad : Prop := fieldOf p 448 64 % 65536 ≠ 0 ∨ 2 ^ 24 < fieldOf p 416 32
     let w : Window := { base := fieldOf p 448 64, pages := fieldOf p 416 32, ctx := fieldOf p 402 6, write := p.getLsbD 401 }
     (bad → refuses (.peerwin 0 p) 3) ∧ (¬bad → ends (.peerwin 0 p) { s with windows := tset s.windows (fieldOf p 408 8) w })) ∧
    (let n := fieldOf p 256 4
     let ms := if fieldOf p 288 16 = 0 then 10 else fieldOf p 288 16
     let l := s.link n
     (12 ≤ n ∨ 1000 < ms → refuses (.linkcfg 0 p) 3) ∧
     (n < 12 → ms ≤ 1000 → p.getLsbD 260 = true → (l.state ≠ .down ∧ l.state ≠ .fenced → refuses (.linkcfg 0 p) 1) ∧
       (l.state = .down ∨ l.state = .fenced → ∃ t, ends (.linkcfg 0 p) t ∧ SameBut [] { s with links := t.links } t ∧ (∀ k, k ≠ n → t.link k = s.link k) ∧
         t.link n = { l with state := .training, since := s.refTimer, domain := fieldOf p 264 8, pkg := fieldOf p 272 8, timeout := ms, lanes := 0, peer := none })) ∧
     (n < 12 → ms ≤ 1000 → p.getLsbD 260 = false → (l.state = .down ∨ l.state = .training → refuses (.linkcfg 0 p) 1) ∧
       (l.state ≠ .down → l.state ≠ .training → ∃ t, ends (.linkcfg 0 p) t ∧ (t.link n).state = .down ∧ (t.link n).replay = [])))) ∧
  (∀ (s : State) (fn c va n : Nat), (s.fn fn).pending = some (.pagehold c va n) →
    exec (.pageholdDrained fn) s = .next (if s.pinned c va n then s else s.complete fn 0)) ∧
  (∀ (s : State) (core : Nat), (∀ t0, (s.core core).outUntil = some t0 → s.refTimer < t0 → exec (.preemptHoldExpiry core) s = .next s) ∧
    (∀ t0, (s.core core).outUntil = some t0 → t0 ≤ s.refTimer → exec (.preemptHoldExpiry core) s = .next (s.setCore core { s.core core with outUntil := none }))) ∧
  (∀ s : State, (s.epoch = 0 ∨ s.refTimer < s.epochAt + 1000 * s.epoch → exec .hotnessEpoch s = .next s) ∧
    (s.epoch ≠ 0 → s.epochAt + 1000 * s.epoch ≤ s.refTimer → ∃ t, exec .hotnessEpoch s = .next t ∧ t.epochAt = s.epochAt + 1000 * s.epoch ∧ t.mem = s.mem ∧
      t.hot = s.hot.map fun e => (e.1, { counter := e.2.counter / 2, residual := 0, posted := e.2.posted && decide (s.thresh.getD (e.1 % 8) 0 ≠ 0 ∧ s.thresh.getD (e.1 % 8) 0 ≤ e.2.counter / 2) }))) ∧
  ∀ (s : State) (pa : Nat) (x : Sector), s.sector (pa / 64) = some x → physOk (pa / 64 * 64) = true → (∀ d < 4, s.runs d = true) → x.addr = pa / 64 → x.errors ≤ 1 → s.corr = 0 →
    ∃ t, exec (.scrub pa) s = .next t ∧ t.mem = s.mem ∧ ∃ y, t.sector (pa / 64) = some y ∧ y.errors = 0 ∧ y.tag = x.tag ∧ y.key = x.key

/-! ## Reset, registers, links and peers -/

/-- Reset clears the module; start-up, registers, doorbells, SPDM and TDISP act as their rules say and ignore what the rules ignore (R19, R60, R68,
R87, R362, R364, R365). What a fundamental reset keeps is log entry 113; the answers to configuration requests, log entry 114; from what the indices
of an enabled ring count and what a function-level reset keeps, log entry 115; the form of the root's answers, log entry 116; a context that finds no
room to be suspended, log entry 117; that ADMLOG takes 1 to 3 and 13 to 15 as it takes 4 to 12, log entry 158; a doorbell or a change of state that
waits for a relock, log entry 145: the model's choices. -/
def Obligations.ResetsAndRegisters : Prop :=
  (∀ s : State, ∃ m, exec .fundamentalReset s = .next { State.reset with turns := s.turns, turnNo := s.turnNo, fresh := s.fresh + 1, mem := m } ∧
    ∀ a, memRd m a = if 2 ^ 60 ≤ a ∧ a < 2 ^ 62 then s.rd a else 0) ∧
  (∀ (s : State) (ok : Bool),
    (s.phase ≠ .starting → exec (.startUpComplete ok) s = .next s) ∧
    (s.phase = .starting → exec (.startUpComplete true) s = .next { s with phase := .up, measured := true } ∧
      ∃ x, exec (.startUpComplete false) s = .next { s with phase := .failed, mgmt := s.mgmt ++ [x] })) ∧
  (∀ (s : State) (aer : Bool),
    (s.refTimer < 100000000 ∨ 0 ∉ s.pcieUp → exec (.configurationRequest aer) s = .next s) ∧
    (100000000 ≤ s.refTimer → 0 ∈ s.pcieUp → exec (.configurationRequest aer) s = .next { s with cfgAnswers := s.cfgAnswers ++
      [decide (s.phase = .starting ∨ (s.phase = .failed ∧ aer = false))] })) ∧
  (∀ (s : State) (fn : Nat), (s.phase ≠ .up ∨ 0 ∉ s.pcieUp → exec (.functionLevelReset fn) s = .next s) ∧
    (s.phase = .up → 0 ∈ s.pcieUp → ∃ t, exec (.functionLevelReset fn) s = .next t ∧
    t.fn fn = { keyed := (s.fn fn).keyed, tdi := (s.fn fn).tdi, sessions := (s.fn fn).sessions } ∧ (∀ k, k ≠ fn → t.fn k = s.fn k) ∧
    ∀ c, (t.ctx c).state = if (s.ctx c).state ≠ .free ∧ (s.ctx c).fn = fn then .closing else (s.ctx c).state)) ∧
  (∀ (s : State) (fn v : Nat), let f := s.fn fn
    let on : Prop := f.admlog ≠ 0 ∧ f.admring ≠ 0 ∧ f.admcpl ≠ 0
    let idle : Prop := f.admhead = f.admtail
    let regs (i : Instr) (g : Fn) : Prop := exec i s = .next (s.setFn fn g)
    let door (off : Nat) : Prop := 0x2000 ≤ off ∧ off < 0x4000 ∧ off % 8 = 0
    let reached : Prop := s.phase = .up ∧ 0 ∈ s.pcieUp
    (¬reached → exec (.admtail fn v) s = .next s ∧ ∀ off, exec (.bar0RegisterWrite fn off v) s = .next s) ∧
    (reached → (∀ d < 4, s.barRead 0 0 (0x100 + 16 * d) = { s with barAnswers := s.barAnswers ++ [785472] } ∧
        s.barRead 0 0 (0x108 + 16 * d) = { s with barAnswers := s.barAnswers ++ [3145728] }) ∧
      (fn < 64 → s.barRead 0 fn 0x18 = { s with barAnswers := s.barAnswers ++ [f.admtail] } ∧ s.barRead 0 fn 0x20 = { s with barAnswers := s.barAnswers ++ [f.admhead] }) ∧
      (exec (.bar0RegisterWrite fn 0x18 v) s = exec (.admtail fn v) s) ∧ (∀ q < 1024, exec (.bar0RegisterWrite fn (0x2000 + 8 * q) v) s = exec (.doorbell fn q v) s) ∧
      (on → f.admtail < v → v ≤ f.admhead + 2 ^ f.admlog → regs (.admtail fn v) { f with admtail := v }) ∧
      (¬on ∨ v ≤ f.admtail ∨ f.admhead + 2 ^ f.admlog < v → exec (.admtail fn v) s = .next s) ∧
      regs (.bar0RegisterWrite fn 0x28 v) { f with admvec := v % 2048 } ∧
      (∀ off, off ≠ 0 → off ≠ 8 → off ≠ 0x10 → off ≠ 0x18 → off ≠ 0x28 → ¬door off → regs (.bar0RegisterWrite fn off v) f) ∧
      (¬idle → ∀ off, off ≠ 0x18 → off ≠ 0x28 → ¬door off → regs (.bar0RegisterWrite fn off v) f) ∧
      (idle → on →
        (v < 2 ^ 64 → regs (.bar0RegisterWrite fn 0 v) { f with admring := .ofNat 64 v } ∧ regs (.bar0RegisterWrite fn 0x10 v) { f with admcpl := .ofNat 64 v }) ∧
        (v < 16 → regs (.bar0RegisterWrite fn 8 v) { f with admlog := v })) ∧
      (idle → f.admlog = 0 → f.admring ≠ 0 → f.admcpl ≠ 0 → 0 < v → v < 16 → regs (.bar0RegisterWrite fn 8 v) { f with admlog := v, admhead := 0, admtail := 0 }))) ∧
  (∀ (s : State) (fn q v : Nat), let a := s.queue q
    (0 ∉ s.pcieUp → exec (.doorbell fn q v) s = .next s) ∧
    (0 ∈ s.pcieUp → s.owed ≠ [] → exec (.doorbell fn q v) s = .next { s with owed := s.owed ++ [.door fn q v] }) ∧
    (s.owed = [] → 1024 ≤ q ∨ a.state = .closed ∨ a.devmode = true ∨ (s.ctx a.ctx).fn ≠ fn → exec (.doorbell fn q v) s = .next s) ∧
    (0 ∈ s.pcieUp → s.owed = [] → q < 1024 → a.state ≠ .closed → a.devmode = false → (s.ctx a.ctx).fn = fn →
      let t := ({ s with hubWaits := false } : State).ringDoor fn q v
      (t.hubWaits = true → exec (.doorbell fn q v) s = .next { s with owed := [.door fn q v] }) ∧
      (t.hubWaits = false → exec (.doorbell fn q v) s = .next { t with hubWaits := s.hubWaits }) ∧ (t.queue q).state = a.state ∧
      (a.write < v → v ≤ a.read + 2 ^ a.qlog → (t.queue q).write = v ∧ (t.queue q).baddoor = a.baddoor) ∧
      (v ≤ a.write ∨ a.read + 2 ^ a.qlog < v → (t.queue q).write = a.write ∧ (t.queue q).baddoor = a.baddoor + 1))) ∧
  (∀ (s : State) (fn : Nat), (∀ r, s.phase ≠ .up ∨ 0 ∉ s.pcieUp → exec (.spdmRequest fn r) s = .next s) ∧
    (s.phase = .up → 0 ∈ s.pcieUp → ∀ i,
      (∀ r ∈ [SpdmReq.certificate, .challenge, .measurement i], ∃ x, exec (.spdmRequest fn r) s = .next { s with spdmAnswers := s.spdmAnswers ++ [x] }) ∧
      (1 ≤ i → i ≤ 3 → exec (.spdmRequest fn (.measurement i)) s = .next { s with spdmAnswers := s.spdmAnswers ++ [(i, Config.firmware i)] }) ∧
      (16 ≤ i → i ≤ 79 → ∃ n, exec (.spdmRequest fn (.measurement i)) s = .next { s with spdmAnswers := s.spdmAnswers ++
        [(n, Config.tableDigest ((s.ctx (i - 16)).kernels.map fun k => (k.desc, k.len, k.digest)) (s.ctx (i - 16)).prot)] }) ∧
      ∃ x, exec (.spdmRequest fn .keyExchange) s = .next
        ({ s with spdmAnswers := s.spdmAnswers ++ [x] }.setFn fn { s.fn fn with sessions := (s.fn fn).sessions + 1 }))) ∧
  ∀ (s : State) (fn : Nat) (tdi : TdiState) (keyed : Bool), let f := s.fn fn
    let lost : Prop := (f.tdi = .run ∧ (tdi = .error ∨ tdi = .configUnlocked)) ∨ (f.keyed = true ∧ keyed = false)
    (f.pending.isSome = true → exec (.tdiStateChange fn tdi keyed) s = .next s) ∧
    (f.pending = none → ¬lost → exec (.tdiStateChange fn tdi keyed) s = .next (s.setFn fn { f with tdi := tdi, keyed := keyed })) ∧
    (f.pending = none → lost → let t := (s.setFn fn { f with tdi := tdi, keyed := keyed }).loseStream fn
      (hubHeld s t → exec (.tdiStateChange fn tdi keyed) s = .next s) ∧ (¬hubHeld s t → exec (.tdiStateChange fn tdi keyed) s = .next t) ∧
      t.fn fn = { f with tdi := tdi, keyed := keyed } ∧
      ∀ c, (s.ctx c).state ≠ .free → (s.ctx c).fn = fn →
        ((s.ctx c).prot = true → (t.ctx c).state = .closing) ∧
        ((s.ctx c).prot = false → (t.ctx c).state = (s.ctx c).state ∨ ((s.ctx c).state = .active ∨ (s.ctx c).state = .quiescing) ∧ (t.ctx c).state = .suspended))

/-- PCIe links come up in flit mode alone; a fabric link trains, replays, recovers and is fenced by R369's table; peers reach a window within its
bounds alone (R216, R322, R360, R361, R367, R368, R369, R370). What training resets is log entry 119, the credits that a link starts with log entry
149, the flit that a replay request names log entry 156, a Recovering link log entry 130, a peer access's key, its waiting for relocks and its refusal
for a failed check log entry 121, the rate and width of a PCIe link log entry 157, what its status register holds log entry 176: the model's choices.
-/
def Obligations.LinksAndPeers : Prop :=
  (∀ (s : State) (n : Nat),
    exec (.pcieLinkDown n) s = .next { s with pcieUp := s.pcieUp.filter fun k => k ≠ n, pcieStatus := s.pcieStatus.filter fun p => p.1 ≠ n } ∧
    (∃ x, exec (.pcieLinkUp n false) s = .next { s with mgmt := s.mgmt ++ [x] }) ∧
    (n < 2 → n ∉ s.pcieUp → ∃ rate width, 1 ≤ rate ∧ rate ≤ 7 ∧ width ∈ [1, 2, 4, 8, 16] ∧ exec (.pcieLinkUp n true) s = .next
      { s with pcieUp := s.pcieUp ++ [n], pcieStatus := s.pcieStatus ++ [(n, rate, width)], fresh := s.fresh + 2 }) ∧
    (2 ≤ n ∨ n ∈ s.pcieUp → exec (.pcieLinkUp n true) s = .next s) ∧
    (∀ r, 2 ≤ n ∨ n ∉ s.pcieUp ∨ s.phase ≠ .up → s.cfgRead n r = s) ∧
    (n < 2 → n ∈ s.pcieUp → s.phase = .up → s.cfgRead n .serial = { s with cfgReads := s.cfgReads ++ [Config.serialNumber.toNat] } ∧
      ∀ rate width rest, s.pcieStatus = (n, rate, width) :: rest → s.cfgRead n .linkStatus = { s with cfgReads := s.cfgReads ++ [rate + 16 * width] })) ∧
  (∀ (s : State) (n lanes domain pkg : Nat), let l := s.link n
    let goal : LinkState := if lanes = 8 then .up else .degraded
    let ev := exec (.linkTrained n lanes domain pkg) s
    (lanes < 4 ∨ 8 < lanes ∨ (l.state ≠ .training ∧ l.state ≠ .recovering) ∨ (l.state = .training ∧ domain ≠ l.domain) → ev = .next s) ∧
    (4 ≤ lanes → lanes ≤ 8 → l.state = .training → domain = l.domain →
      ev = .next (s.setLink n { l with state := goal, lanes := lanes, peer := some pkg, failures := 0, txSeq := 0, rxSeq := 0, credit := 2048, owed := 0 })) ∧
    (4 ≤ lanes → lanes ≤ 8 → l.state = .recovering → ev = .next (s.setLink n { l with state := goal, lanes := lanes, failures := 0, resent := l.resent + l.replay.length }))) ∧
  (∀ (s : State) (n : Nat), let l := s.link n
    (l.state ≠ .training ∨ s.refTimer < l.since + 100000000 → exec (.linkTrainingRetry n) s = .next s) ∧
    (l.state = .training → l.since + 100000000 ≤ s.refTimer → ∃ x, exec (.linkTrainingRetry n) s = .next
      { s.setLink n { l with since := s.refTimer, reports := l.reports + 1 } with mgmt := s.mgmt ++ [x] }) ∧
    (l.state ≠ .up → l.state ≠ .degraded → exec (.laneLoss n) s = .next s) ∧
    (l.state = .up ∨ l.state = .degraded → exec (.laneLoss n) s = .next (s.setLink n { l with state := .recovering, since := s.refTimer })) ∧
    (l.state ≠ .recovering ∨ s.refTimer < l.since + l.timeout * 1000000 → exec (.linkTimeout n) s = .next s) ∧
    (l.state = .recovering → l.since + l.timeout * 1000000 ≤ s.refTimer → ∃ t, exec (.linkTimeout n) s = .next t ∧
      t.link n = { l with state := .fenced, lanes := 0, replay := [], failures := 0 } ∧ (∀ k, k ≠ n → t.link k = s.link k))) ∧
  (∀ (s : State) (n : Nat) (f : Flit), let l := s.link n
    let ev := exec (.flitReceive n f) s
    let carries : Prop := l.state = .up ∨ l.state = .degraded
    let up : Prop := carries ∨ l.state = .recovering
    (¬up → ev = .next s) ∧
    (up → f.crcOk = false → ev = .next (s.setLink n { l with replaysSent := l.replaysSent + 1 })) ∧
    let taken : Prop := f.crcOk = true ∧ (f.type = 1 → f.seq = l.rxSeq)
    (up → f.crcOk = true → f.type = 1 → f.seq ≠ l.rxSeq → ev = .next s) ∧
    (up → taken → (∀ x ∈ l.replay, x.seq ≠ f.ack) → ∃ t, ev = .next t ∧ t.mem = s.mem ∧
      let got : Link := if f.type ≠ 1 then { l with credit := l.credit + f.credit }
        else { l with rxSeq := (l.rxSeq + 1) % 4096, owed := l.owed + 1, credit := l.credit + f.credit }
      (f.type ≠ 2 ∨ ¬carries ∨ (∀ x ∈ l.replay, x.seq ≠ f.seq) → t.link n = got) ∧
      ∀ before x after, f.type = 2 → carries → l.replay = before ++ x :: after → x.seq = f.seq → (∀ y ∈ before, y.seq ≠ f.seq) →
        let times := if l.failSeq = f.seq then l.failures else 0
        t.link n = if 3 ≤ times then { got with state := .recovering, since := s.refTimer }
          else { got with failSeq := f.seq, failures := times + 1, resent := l.resent + (after.length + 1) }) ∧
    (∀ before x after, up → taken → l.replay = before ++ x :: after → x.seq = f.ack → (∀ y ∈ before, y.seq ≠ f.ack) → f.type ≠ 2 → ∃ t, ev = .next t ∧
      (t.link n).replay = after ∧ (t.link n).failures = (if ∃ y ∈ before ++ [x], y.seq = l.failSeq then 0 else l.failures) ∧
      (t.link n).state = l.state ∧ (t.link n).rxSeq = if f.type = 1 then (l.rxSeq + 1) % 4096 else l.rxSeq)) ∧
  ∀ (s : State) (a : PeerAccess), let w := tget {} s.windows a.win
    let n := if a.write then a.data.length else a.len
    let carries : Prop := a.link < 12 ∧ ((s.link a.link).state = .up ∨ (s.link a.link).state = .degraded) ∧ ∀ d < 4, s.runs d = true
    let ev := exec (.peerAccess a) s
    let x := s.ctx w.ctx
    let takes : Prop := w.pages ≠ 0 ∧ a.offset + n ≤ w.pages * 65536 ∧ w.base + a.offset + n ≤ 2 ^ 64 ∧ (a.write = true → w.write = true) ∧ x.state ≠ .free ∧ x.state ≠ .closing
    (¬carries → ev = .next s) ∧
    (carries → ¬takes → ev = .next { s with peerAnswers := s.peerAnswers ++ [(false, [])] }) ∧
    (∀ u leaf v bs, carries → takes → a.write = false → 0 < n → (w.base + a.offset) % 65536 + n ≤ 65536 → s.walk x (w.base + a.offset) = .ok (u, some leaf) →
      ((u.key (leafKey leaf)).boundTo x.fn w.ctx = false → ev = .next { u with peerAnswers := u.peerAnswers ++ [(false, [])] }) ∧
      ((u.key (leafKey leaf)).boundTo x.fn w.ctx = true → u.mainRd (leafFrame leaf * 65536 + (w.base + a.offset) % 65536) n (leafKey leaf) a.tag = .ok (v, bs) →
        ∃ t, ev = .next t ∧ t.peerAnswers = s.peerAnswers ++ [(true, bs)])) ∧
    (∀ u leaf, carries → takes → a.write = true → 0 < n → (w.base + a.offset) % 65536 + n ≤ 65536 → s.walk x (w.base + a.offset) = .ok (u, some leaf) →
      let pa := leafFrame leaf * 65536 + (w.base + a.offset) % 65536
      let may : Prop := (u.key (leafKey leaf)).boundTo x.fn w.ctx = true ∧ leafWrite leaf = true ∧ x.measuredPage (w.base + a.offset) = false
      (¬may → ev = .next { u with peerAnswers := u.peerAnswers ++ [(false, [])] }) ∧
      ∀ v, may → u.mainWr pa a.data (leafKey leaf) a.tag = .ok v → (∀ i < n, v.rd (pa + i) = a.data.getD i 0) ∧
        ∃ t, ev = .next t ∧ t.peerAnswers = s.peerAnswers ++ [(true, [])] ∧ ((∀ c, s.thresh.getD c 0 = 0) → t.mem = v.mem)) ∧
    (∀ u, carries → takes → 0 < n → (w.base + a.offset) % 65536 + n ≤ 65536 → s.walk x (w.base + a.offset) = .ok (u, none) →
      ev = .next { u with peerAnswers := u.peerAnswers ++ [(false, [])] })

/-! ## Launches -/

/-- The best candidate is picked, leased, marked and placed on the first core of R122's order; deadlines, rereads and room for higher bands follow
their rules (R88, R89, R90, R92, R93, R95, R96, R97, R108, R111, R122, R323). That all pages of a launch are latched in one step is log entry 71; when
a deadline is missed, log entry 76; in which states of a context groups are placed, log entry 91; that R122's order is one key, log entry 102; what is
held for a launch that waits, log entry 103; a step of the hub that waits for a relock, log entry 145: the model's choices. -/
def Obligations.LaunchesArePicked : Prop :=
  (∀ s : State, let early : Prop := ∃ t0, s.lastPick = some t0 ∧ s.refTimer < t0 + 16
    (early ∨ s.bandsWait = true ∨ s.candidates.2 = [] → exec .dispatchPick s = .next s) ∧
    (¬early → s.bandsWait = false → s.candidates.2 ≠ [] → ∃ c ∈ s.candidates.2, (∀ b ∈ s.candidates.2, b.before c = false) ∧
      let t := ({ s.candidates.1 with lastPick := some s.refTimer } : State).pickCandidate c
      (hubHeld s t → exec .dispatchPick s = .next s) ∧ (¬hubHeld s t → exec .dispatchPick s = .next t) ∧ t.lastPick = some s.refTimer ∧
      t.launches.length = s.launches.length + 1 ∧ (t.ctx c.ctx).seq = (s.ctx c.ctx).seq + 1 ∧
      (∀ l < s.launches.length, t.launch l = s.launch l) ∧ let la := t.launch s.launches.length
        la.ctx = c.ctx ∧ la.queue = c.queue ∧ la.seq = (s.ctx c.ctx).seq + 1 ∧ la.pickedAt = s.refTimer ∧ (la.node.isSome = c.node.isSome) ∧
        (c.node = none → ∀ p, (s.queue c.queue).head = some p → la.packet = p ∧ (s.queue c.queue).read < (t.queue c.queue).read))) ∧
  (∀ (s : State) (q : Nat), let a := s.queue q
    (s.refTimer < a.readAt + 16000 ∨ a.head = none → exec (.dependenceReread q) s = .next s) ∧
    (∀ p, a.readAt + 16000 ≤ s.refTimer → a.head = some p → let t := s.rereadHead q
      (hubHeld s t → exec (.dependenceReread q) s = .next s) ∧ (¬hubHeld s t → exec (.dependenceReread q) s = .next t) ∧
      let sig (j : Nat) : Nat := (p.extractLsb' (512 + 128 * j) 64).toNat
      let n := fieldOf (p.setWidth 512) 8 3
      (∀ j ∈ a.met, j < n → j ∈ (t.queue q).met) ∧
      ((∀ j < n, j ∉ a.met → (s.readSignal a.ctx (sig j)).1 = s) → t = s.setQueue q { a with
        readAt := s.refTimer
        met := (List.range n).filter fun j => decide (j ∈ a.met) || match (s.readSignal a.ctx (sig j)).2 with
          | some w => decide ((p.extractLsb' (576 + 128 * j) 64).toNat % 2 ^ 63 ≤ w % 2 ^ 63)
          | none => false })) ∧
    ((∀ la ∈ s.launches, la.queue ≠ q ∨ la.node.isSome = true ∨ la.missed = true ∨ la.dispatched = true ∨ la.unfinished = false ∨ s.refTimer < la.deadline ∨ la.opening ≠ a.opening) →
      let stays : Prop := exec (.deadlineMissed q) s = .next s
      (a.head = none ∨ a.headMissed = true → stays) ∧
      ∀ p, a.head = some p → let dl := (p.extractLsb' 384 64).toNat
        (s.refTimer < (if dl = 0 then 2 ^ 64 - 1 else dl) → stays) ∧
        (a.headMissed = false → dl ≠ 0 → dl ≤ s.refTimer → let t := s.missHead q
          (hubHeld s t → stays) ∧ (¬hubHeld s t → exec (.deadlineMissed q) s = .next t) ∧ (t.queue q).headMissed = true ∧
          (t.queue q).missed = a.missed + 1 ∧ (t.queue q).head = some p ∧ (t.ctx a.ctx).sticky.getLsbD 0x1D = true))) ∧
  (∀ (s : State) (l : Nat), let la := s.launch l
    let x := s.ctx la.ctx
    (s.refTimer < la.leafReadAt + 16000 ∨ la.state ≠ .leasing → exec (.leafReread l) s = .next s) ∧
    (∀ e u leaf, la.leafReadAt + 16000 ≤ s.refTimer → l < s.launches.length → la.state = .leasing → la.leases = [e] → e.pages = [e.base / 65536] → x.held (e.base / 65536) = false →
      s.walk x (e.base / 65536 * 65536) = .ok (u, some leaf) → (e.cls = 1 → leafWrite leaf = true) → u.keyUsable la (leafKey leaf) = true →
      let t := s.tryLease l
      (hubHeld s t → exec (.leafReread l) s = .next s) ∧ (¬hubHeld s t → exec (.leafReread l) s = .next t) ∧ ((t.launch l).state = .marking ∨ (t.launch l).state = .placing) ∧ (t.launch l).asked = [] ∧
        ∃ p, (t.launch l).shadow = [p] ∧ p.page = e.base / 65536 ∧ p.leaf = leaf) ∧
    (la.state ≠ .leasing ∨ la.asked = [] → exec (.pageRequestRepost l) s = .next s) ∧
    (∀ page t0 u, l < s.launches.length → la.state = .leasing → la.asked = [(page, t0)] → t0 + 1024000 ≤ s.refTimer → x.held page = false → s.walk x (page * 65536) = .ok (u, none) →
      let t := (u.post 1 (page * 65536) la.seq la.ctx).modLaunch l fun la => { la with asked := [(page, s.refTimer)] }
      (hubHeld s t → exec (.pageRequestRepost l) s = .next s) ∧ (¬hubHeld s t → exec (.pageRequestRepost l) s = .next t)) ∧
    (la.state ≠ .marking → exec (.markingResume l) s = .next s) ∧
    (l < s.launches.length → la.state = .marking → (∀ p ∈ la.shadow, p.marked = false) →
      let ws := (la.shadow.filter fun p => la.writePage p.page).map (·.page)
      let clash : Prop := ∃ k < s.launches.length, k ≠ l ∧ (s.launch k).ctx = la.ctx ∧ (s.launch k).unfinished = true ∧ ∃ p ∈ (s.launch k).shadow, p.marked = true ∧ p.page ∈ ws
      let frees := (x.snapPool.filter fun f => !x.snapBusy.contains f).length
      (la.region.replaylim = 0 ∨ clash ∨ x.snapPool.length < ws.length →
        exec (.markingResume l) s = .next (s.modLaunch l fun la => { la with state := .placing, replayable := false })) ∧
      (la.region.replaylim ≠ 0 → ¬clash → ws.length ≤ x.snapPool.length → frees < ws.length → exec (.markingResume l) s = .next s) ∧
      (la.region.replaylim ≠ 0 → ¬clash → ws.length ≤ frees → ∃ t, exec (.markingResume l) s = .next t ∧ t.mem = s.mem ∧ (t.launch l).state = .placing ∧
        (t.launch l).replayable = true ∧ ∀ p ∈ (t.launch l).shadow, p.marked = decide (p.page ∈ ws) ∧ (p.marked = true → p.frame ∈ x.snapPool ∧ p.frame ∉ x.snapBusy)))) ∧
  (∀ s : State, (s.placeOrder = [] → exec .groupPlace s = .next s) ∧
    ∀ l ls c, s.placeOrder = l :: ls → s.nextItem l = some { parts := [none], even := false } → (s.launch l).hdr.spill = 0 → (s.launch l).node = none →
      s.bestCore l { parts := [none], even := false } [] = some c →
      s.fits l none c [] = true ∧ (∀ k < 384, s.fits l none k [] = true → s.coreKey l c ≤ s.coreKey l k) ∧
      let t := (s.placeGroup l c none).modLaunch l fun la => { la with waitingSince := none, reserved := none }
      (hubHeld s t → exec .groupPlace s = .next s) ∧ (¬hubHeld s t → exec .groupPlace s = .next t) ∧ t.groups.length = s.groups.length + 1 ∧ (t.launch l).nextLin = (s.launch l).nextLin + 1 ∧ (t.launch l).dispatched = true ∧
        (∀ g < s.groups.length, t.group g = s.group g) ∧ let gr := t.group s.groups.length
          gr.state = .resident ∧ gr.launch = l ∧ gr.lin = (s.launch l).nextLin ∧ gr.core = c ∧ gr.threads.length = 32 * (s.launch l).hdr.furrows ∧
          ∀ th ∈ gr.threads, th.status = .ready ∧ th.pc = 0 ∧ th.base = 0 ∧ ∀ v ∈ th.regs, v = 0) ∧
  ∀ (s : State) (l : Nat),
    let waited (ns : Nat) : Prop := ((s.launch l).state = .placing ∨ (s.launch l).state = .running) ∧ ∃ t0, (s.launch l).waitingSince = some t0 ∧ t0 + ns ≤ s.refTimer
    (¬waited 16000 → exec (.placementPreempt l) s = .next s) ∧
    (∃ t, exec (.placementPreempt l) s = .next t ∧ ∀ g, (t.group g).state = (s.group g).state ∨
      ((s.group g).state = .resident ∧ (t.group g).state = .halting ∧ (s.launchOf g).region.band < (s.launch l).region.band)) ∧
    (∀ i c gone u, s.nextItem l = some i → waited 16000 →
      let halting := (List.range s.groups.length).filter fun g => (s.group g).state = .halting
      let pair := decide (i.parts.length = 2)
      let vs := s.victims (s.launch l).region.band c pair
      (∀ k < 384, s.itemFits l i [] k = false ∧ s.itemFits l i halting k = false) → c < 384 → s.removal l i c vs halting = some gone →
      (∀ k < 384, s.coreKey l k < s.coreKey l c → s.removal l i k (s.victims (s.launch l).region.band k pair) halting = none) →
      s.preempt (gone.filter fun g => !halting.contains g) = some u →
      (hubHeld s u → exec (.placementPreempt l) s = .next s) ∧ (¬hubHeld s u → exec (.placementPreempt l) s = .next u) ∧
      (∀ g, g ∈ vs ↔ g < s.groups.length ∧ (s.group g).state = .resident ∧ ((s.group g).core = c ∨ pair = true ∧ (s.group g).core = c + 1) ∧
        (s.launchOf g).region.band < (s.launch l).region.band) ∧ vs.Pairwise (fun a b => (s.group b).placedAt ≤ (s.group a).placedAt) ∧
      s.itemFits l i gone c = true ∧ (∀ g ∈ gone, g ∉ halting → (u.group g).state = .halting) ∧ (∀ g, g ∉ gone → (u.group g).state = (s.group g).state) ∧
      ∃ first rest, vs = first ++ rest ∧ ∀ g, g ∈ gone ↔ g ∈ halting ∨ ∃ v ∈ first, g = v ∨ ((s.launchOf v).hdr.free = false ∧ g < s.groups.length ∧
        (s.group g).launch = (s.group v).launch ∧ (s.group g).lin = (if (s.group v).lin % 2 = 0 then (s.group v).lin + 1 else (s.group v).lin - 1) ∧
        (s.group g).state = .resident)) ∧
    (¬waited 64000 ∨ (s.launch l).reserved.isSome = true → exec (.placementReserve l) s = .next s) ∧
    (l < s.launches.length → waited 64000 → (s.launch l).reserved = none → ∃ us, exec (.placementReserve l) s = .next
        (({ s with fresh := s.fresh + 1 } : State).modLaunch l fun la => { la with reserved := some (s.fresh, us) }) ∧
      ∀ c, (∃ g < s.groups.length, s.live g = true ∧ (s.group g).core = c) → tget {} us c = s.charged c fun _ => true)

/-- A halted group is saved with its memory, a drained launch finishes and updates its signal, and a rolled-back launch is restored and marked again
(R58, R91, R105, R106, R112, R114, R115, R116, R118, R132, R253). What the model holds of a save record beside the bytes it writes is log entry 79,
and when a launch has drained log entry 92; when frames and scratch go back, log entry 112; a step of the hub that waits for a relock, log entry 145:
the model's choices. -/
def Obligations.LaunchesEnd : Prop :=
  (∀ (s : State) (g : Nat), (s.group g).state = .halting → s.saveReady g = true →
    (∀ r : TRef, r.g ≠ g → watched (s.thread r).status = none) → let b := gmemAddr (s.group g).core (s.group g).gbase
    let n := (s.launchOf g).hdr.gmem
    let t := (s.saveGroup g).settleAdmin
    (hubHeld s t → exec (.groupSaveComplete g) s = .next s) ∧ (¬hubHeld s t → exec (.groupSaveComplete g) s = .next t) ∧ (t.group g).state = .saved ∧ (t.group g).spillAt = none ∧ (t.group g).record = (s.group g).record ∧
      ∀ i < n, memRd (t.group g).savedGmem i = s.rd (b + i) ∧ t.rd (b + i) = 0) ∧
  (∀ (s : State) (g : Nat), (s.group g).state ≠ .halting ∨ s.saveReady g = false → (∀ k, (s.fn k).pending = none) → exec (.groupSaveComplete g) s = .next s) ∧
  (∀ (s : State) (l : Nat), let la := s.launch l
    (la.state ≠ .draining ∨ s.opsLeft l = true → exec (.launchDrained l) s = .next s) ∧
    (la.state = .draining → s.opsLeft l = false → l < s.launches.length → ∃ t, exec (.launchDrained l) s = .next t ∧ t.mem = s.mem ∧ (t.launch l).state = .finished ∧
      (t.launch l).ended = la.ended ∧ (t.ctx la.ctx).state = if (s.ctx la.ctx).state = .quiescing ∧
        ∀ k < s.launches.length, k ≠ l → (s.launch k).ctx = la.ctx → (s.launch k).state = .finished ∨ (s.launch k).state = .gone then .opened else (s.ctx la.ctx).state) ∧
    (la.state ≠ .finished → exec (.launchFinish l) s = .next s) ∧
    (la.state = .finished → l < s.launches.length → la.node = none → let x := s.ctx la.ctx
      let t := s.finishLaunch l
      (hubHeld s t → exec (.launchFinish l) s = .next s) ∧ (¬hubHeld s t → exec (.launchFinish l) s = .next t) ∧ (t.launch l).state = .gone ∧ (t.launch l).scratch = [] ∧ (t.launch l).shadow = [] ∧
        let vector := (s.queue la.queue).vector
        let irq := if la.irq = true ∧ vector < (if x.fn = 0 then 2048 else 32) then [(x.fn, vector)] else []
        (∀ p ∈ la.shadow, p.marked = true → p.frame ∉ (t.ctx la.ctx).snapBusy) ∧
        (la.donesig = 0 → t.mem = s.mem ∧ t.vectors = s.vectors ++ irq) ∧
        let w := s.giveBack l
        w.mem = s.mem ∧ ∀ u bs, la.donesig ≠ 0 → w.virtRd (w.ctx la.ctx) la.donesig 8 = some (u, bs) → let old := ofBytes bs
          let v := u.virtPut la.ctx la.donesig (bytesOf 8 ((old % 2 ^ 63 + 1) % 2 ^ 63 + if la.ended = true ∨ 2 ^ 63 ≤ old % 2 ^ 64 then 2 ^ 63 else 0))
          (∃ more, t.vectors = v.vectors ++ irq ++ more) ∧ (s.notify = none → t.mem = v.mem ∧ t.vectors = v.vectors ++ irq)) ∧
    (let ready : Prop := ∀ p ∈ la.shadow, p.marked = true → p.copied = true → s.frameRuns p.frame = true ∧ s.frameRuns (leafFrame p.leaf) = true
     let ready : Prop := ready ∧ (∀ a d, la.rereadSector = some a → homeDie a = some d → s.runs d = true) ∧ ∀ p ∈ la.scratch, p.2.frames = [] ∨ s.runs p.1 = true
     (la.state ≠ .rollingBack ∨ s.opsLeft l = true ∨ ¬ready → exec (.rollbackComplete l) s = .next s) ∧
     (la.state = .rollingBack → s.opsLeft l = false → ready → la.heldFault = none → l < s.launches.length → ∃ t, exec (.rollbackComplete l) s = .next t ∧
       ((t.launch l).state = .marking ∨ (t.launch l).state = .placing) ∧ (t.launch l).replays = la.replays + 1 ∧ (t.launch l).nextLin = 0 ∧ (t.launch l).scratch = la.scratch ∧
       (t.launch l).seq = la.seq ∧ ∀ p ∈ (t.launch l).shadow, p.copied = false))) ∧
  ∀ (s : State) (l : Nat) (p : ShadowPage), (s.launch l).shadow = [p] → l < s.launches.length → let src := leafFrame p.leaf
    let go : Prop := p.marked = true ∧ p.wanted = true ∧ p.copied = false ∧ s.frameRuns src = true ∧ s.frameRuns p.frame = true
    (¬go → exec (.snapshotPageCopy l p.page) s = .next s) ∧
    (go → src ≠ p.frame → Memory.wf s.mem = true → (∀ e ∈ s.sectors, e.1 / 1024 = src → e.2.errors = 0 ∧ e.2.addr = e.1) →
      ∃ t, exec (.snapshotPageCopy l p.page) s = .next t ∧ (t.launch l).shadow = [{ p with copied := true }] ∧
        ∀ a, t.rd a = if p.frame * 65536 ≤ a ∧ a < p.frame * 65536 + 65536 then s.rd (src * 65536 + a % 65536) else s.rd a)

/-! ## Faults, decoding, steps and reset -/

namespace Sys2Proof.Machine

/-- The action of a fault of a launch (R69). -/
def faultAction (la : Launch) (code : Nat) : Nat :=
  let p := la.region.policy / 4 ^ code % 4
  let least : Nat := if code ∈ [0x0E, 0x0F, 0x11, 0x12] then 2
    else if code ∈ [0x01, 0x02, 0x03, 0x04, 0x05, 0x06, 0x07, 0x08, 0x09, 0x0A, 0x0B, 0x0C, 0x0D, 0x13, 0x14, 0x16, 0x17, 0x19, 0x1B] then 1 else 0
  if code = 0x1D then 0
  else if p ≠ 3 then max p least
  else if code ∈ [0x0F, 0x11, 0x12, 0x17, 0x18, 0x19, 0x1A] ∧ la.replayable = true ∧ la.escaped = false ∧ la.replays < la.region.replaylim then 3
  else 2

/-- A launch whose groups have all been stopped. -/
def State.allStopped (s t : State) (l : Nat) : Prop :=
  ∀ g ∈ s.groupsOf l, (s.group g).state ≠ .retired → (t.group g).state = .stopped ∧ ∀ th ∈ (t.group g).threads, (s.group g).state = .stopped ∨ th.status = .exited

end Sys2Proof.Machine

/-- A fault writes its record, marks the sticky register, and takes the larger of policy and minimum: report, stop the group, end the launch, or
replay (R69, R70, R71, R72, R73, R106, R116). That a fault whose action is not 0 has kind 0x1 is log entry 33; that the record of ECC_UNCORR waits for
the reread, log entry 90; a record that is owed, log entry 145; a fault of a launch that drains with no action under way, log entry 152: the model's
choices. -/
def Obligations.FaultsTaken : Prop :=
  (∀ (s : State) (c action ring lg : Nat) (f : FaultInfo) (u : State) (bs : List Byte), let x := s.ctx c
    let la : Launch := match f.launch with
      | some l => s.launch l
      | none => { queue := f.queue }
    let n := ofBytes bs
    let produced := n % 2 ^ 64
    let consumed := n / 2 ^ 64 % 2 ^ 64
    let t := s.record c f action (some (ring, lg))
    c < 64 → action < 4 → f.code < 256 → f.kind < 256 → f.core < 512 → f.furrow < 32 → la.replays < 256 → la.queue < 65536 → f.time = none →
    (s.owed ≠ [] → t.mem = s.mem ∧ ∃ o, t.owed = s.owed ++ [o]) ∧
    (s.owed = [] → (∀ d, s.runs d = true) → s.virtRd x ring 64 = some (u, bs) →
    (produced = consumed + 2 ^ lg → (t.ctx c).sticky.getLsbD 31 = true ∧
      ∀ v, u.virtWr x (ring + 16) (bytesOf 8 (n / 2 ^ 128 % 2 ^ 64 + 1)) = some v → t.mem = v.mem) ∧
    (produced ≠ consumed + 2 ^ lg → ∃ r : BitVec 512,
      let fld (lo w : Nat) : Nat := (r.extractLsb' lo w).toNat
      fld 448 64 = s.refTimer % 2 ^ 64 ∧ fld 384 64 = f.d1 % 2 ^ 64 ∧ fld 320 64 = f.d0 % 2 ^ 64 ∧ fld 256 64 = la.seq % 2 ^ 64 ∧ fld 224 32 = f.usertag % 2 ^ 32 ∧
      fld 192 32 = f.lanes % 2 ^ 32 ∧ r.extractLsb' 160 32 = BitVec.ofInt 32 f.pc ∧ fld 128 32 = (f.group.map fun g => (s.group g).lin).getD 0 % 2 ^ 32 ∧
      fld 96 32 = produced % 2 ^ 32 ∧ fld 87 9 = f.core ∧ fld 82 5 = f.furrow ∧ fld 64 18 = 0 ∧ fld 56 8 = f.code ∧ fld 54 2 = action ∧ fld 48 6 = c ∧ fld 40 8 = f.kind ∧
      fld 32 8 = la.replays ∧ fld 16 16 = la.queue ∧ fld 1 15 = 0 ∧ fld 0 1 = produced / 2 ^ lg % 2 ∧
      ∀ v w, u.virtWr x (ring + 64 + 64 * (produced % 2 ^ lg)) (bytesOf 64 r.toNat) = some v → v.virtWr x ring (bytesOf 8 (produced + 1)) = some w →
        t.mem = w.mem ∧ (x.sticky.getLsbD 31 = false → f.code ≠ 31 → (t.ctx c).sticky.getLsbD 31 = false) ∧
        t.vectors = w.vectors ++ if produced = consumed ∧ n / 2 ^ 192 % 2 ^ 16 < (if x.fn = 0 then 2048 else 32) then [(x.fn, n / 2 ^ 192 % 2 ^ 16)] else []))) ∧
  (∀ (s : State) (c action : Nat) (f : FaultInfo) (ring : Option (Nat × Nat)), f.code < 32 →
    let x := s.ctx c
    let seq := (f.launch.map fun l => (s.launch l).seq).getD 0
    let t := s.record c f action ring
    let fld (b : BitVec 128) (lo w : Nat) : Nat := (b.extractLsb' lo w).toNat
    let new := (t.ctx c).sticky
    new.getLsbD f.code = true ∧ fld new 80 16 = min (fld x.sticky 80 16 + 1) 0xFFFF ∧
    (∀ k < 31, k ≠ f.code → new.getLsbD k = x.sticky.getLsbD k) ∧
    (fld x.sticky 80 16 = 0 → fld new 96 32 = seq % 2 ^ 32 ∧ fld new 64 8 = f.code ∧ new.extractLsb' 32 32 = BitVec.ofInt 32 f.pc) ∧
    (fld x.sticky 80 16 ≠ 0 → fld new 96 32 = fld x.sticky 96 32 ∧ fld new 64 8 = fld x.sticky 64 8 ∧ fld new 32 32 = fld x.sticky 32 32) ∧
    t.groups = s.groups ∧ t.launches = s.launches) ∧
  ∀ (s : State) (l : Nat) (f : FaultInfo), let la := s.launch l
    let act := faultAction la f.code
    let t := s.takeFault la.ctx f
    let R := s.record la.ctx { f with kind := if f.kind = 0 ∧ act ≠ 0 then 1 else f.kind } act (some (la.region.ring, la.region.ringlog))
    let late : Prop := (la.state = .draining ∧ la.ended = true) ∨ la.state ∈ [LState.rollingBack, .finished, .gone]
    f.launch = some l → l < s.launches.length → 1 ≤ f.code → f.code ≤ 0x1E →
    (act = 0 → t = R) ∧
    (act = 1 → ∀ g, f.group = some g → g < s.groups.length → (s.group g).state ≠ .retired → (s.group g).state ≠ .stopped →
      (t.group g).state = .stopped ∧ (∀ th ∈ (t.group g).threads, th.status = .exited ∧ th.outs = []) ∧ (∀ h, h ≠ g → t.group h = { s.group h with threads := (t.group h).threads } ∧
        ∀ k, t.thread ⟨h, k⟩ = { s.thread ⟨h, k⟩ with outs := (t.thread ⟨h, k⟩).outs, obsEng := (t.thread ⟨h, k⟩).obsEng }) ∧
      (t.ctx la.ctx).sticky = (R.ctx la.ctx).sticky) ∧
    (act = 2 → late → t = R) ∧
    (act = 2 → ¬late → (t.launch l).state = .draining ∧ (t.launch l).ended = true ∧ s.allStopped t l ∧ (t.ctx la.ctx).sticky = (R.ctx la.ctx).sticky) ∧
    (act = 3 → f.code ≠ 0x11 ∨ late → (late → t = R) ∧
      (¬late → (t.launch l).state = .rollingBack ∧ s.allStopped t l ∧ (t.ctx la.ctx).sticky = (R.ctx la.ctx).sticky)) ∧
    (act = 3 → f.code = 0x11 → ¬late → (t.launch l).state = .rollingBack ∧ s.allStopped t l ∧ (t.launch l).heldFault.isSome = true ∧ (t.launch l).rereadSector = f.sector)

/-- Words written out from the encoding tables decode to their instructions, and words that R32 calls illegal decode to none (R20, R22, R28, R29,
R32). -/
def Obligations.DecodedWords : Prop :=
  decode 0x0C10_0001 = some (.addi false 2 0 1) ∧ decode 0x0AE2_0205 = some (.acsH2 false 8 4 5) ∧ decode 0x3060_0000 = some (.exit false) ∧
  decode 0xB440_A020 = some (.ld true 8 10 0 32) ∧ decode 0x4440_21C1 = some (.cvtn false 8 2 7 0 1) ∧ decode 0x4C20_A02E = some (.aadd false 4 10 0 1 7) ∧
  decode 0x5000_02D0 = some (.phase false 11 1) ∧ decode 0x5400_0460 = some (.barwait false 3) ∧ decode 0x5841_4601 = some (.chpop false 5 12 1) ∧
  decode 0x5C00_0501 = some (.ckick false 0 10 1) ∧ decode 0x6020_4209 = some (.mmaP false 0 1 4 9) ∧ decode 0x6400_C101 = some (.sclaim false 3 2 1) ∧
  decode 0x0420_C205 = some (.sub false 3 4 5) ∧ decode 0x1010_1ABC = some (.andi false 2 1 0xABC) ∧ decode 0x1410_1ABC = some (.ori false 2 1 0xABC) ∧
  decode 0x1810_1ABC = some (.xori false 2 1 0xABC) ∧ decode 0x1C10_1FFF = some (.slti false 2 1 0xFFF) ∧ decode 0x2010_1001 = some (.sltiu false 2 1 1) ∧
  decode 0x2411_2345 = some (.movhi false 2 0x12345) ∧ decode 0x2808_7010 = some (.bcc false 1 7 0x10) ∧ decode 0x2C07_FFFE = some (.jmp false 0x7FFFE) ∧
  decode 0x3840_A810 = some (.st false 8 10 4 16) ∧ decode 0x3C21_0506 = some (.stf false 4 10 6) ∧ decode 0x4020_C205 = some (.fsub false 3 4 5) ∧
  decode 0x4840_C251 = some (.fmtchk false 3 4 1 17) ∧ decode 0x6822_0603 = some (.hsplit false 8 12 3) ∧ decode 0x6C20_0005 = some (.burn false 5) ∧
  decode 0xF000_8000 = some (.sysrd true 2 0) ∧ decode 0x7160_0180 = some (.binflush false 3) ∧
  decode 0x0000_0000 = none ∧ decode 0x7400_0000 = none ∧ decode 0x7C00_0000 = none ∧ decode 0x3060_0001 = none ∧ decode 0xB440_B020 = none

/-- Every well-formed instruction that has a word decodes from it, and every word that decodes is the word of its instruction alone (R20, R22, R28,
R29, R30, R31, R32). -/
def Obligations.EncodeAndDecodeAgree : Prop :=
  (∀ (i : Instr) (w : Word), i.wf = true → encode i = some w → decode w = some i) ∧
  ∀ (w : Word) (i : Instr), decode w = some i → i.wf = true ∧ encode i = some w

namespace Sys2Proof.Machine

/-- The admin commands by code (R56, R58, and the rules of the commands). -/
def commandCodes : List (Nat × (Nat → Packet → Instr)) :=
  [(0x01, .create), (0x02, .loadkernel), (0x03, .activate), (0x04, .quiesce), (0x05, .suspend), (0x06, .snappool), (0x07, .destroy), (0x08, .clearerr),
   (0x09, .importkey), (0x0A, .setheadland), (0x0B, .dropkey), (0x0C, .qopen), (0x0D, .qclose), (0x0E, .qstop), (0x0F, .qstart), (0x10, .preempt),
   (0x11, .pagehold), (0x12, .tagset), (0x13, .notifyring), (0x14, .hotcfg), (0x15, .handlearea), (0x16, .pwrcfg), (0x17, .peerwin), (0x18, .linkcfg)]

end Sys2Proof.Machine

/-- A turn that is a pick forms a sheaf at one counter and runs the instruction that the word there decodes to; other turns run their event or command
(R20, R21, R33, R58, R125, R127, R362). Whose turn it is next is the model's own (log entry 1), and that a code outside the table completes with
status 3, log entry 31: the model's choices. -/
def Obligations.StepRunsDecoded : Prop :=
  (∀ (s : State) (c : Nat) (ts : List Turn), s.turns = .issue c :: ts →
    ∃ u : State, u = { s with turns := ts, hubWaits := false, sheaf := u.sheaf, cores := u.cores, ctxs := u.ctxs } ∧
      ((u.sheaf = [] ∧ step s = .next u) ∨
        ∃ r ∈ u.sheaf, let la := s.launchOf r.g
          let pc := (s.thread r).pc
          let at0 := la.codeBase + la.hdr.codeoff + pc.toNat
          let byte (k : Nat) : Byte := s.rd (la.codeFrames.getD ((at0 + k) / 65536) 0 + (at0 + k) % 65536)
          let w : Word := if 0 ≤ pc ∧ pc + 4 ≤ (la.hdr.codebytes : Int) then byte 3 ++ byte 2 ++ byte 1 ++ byte 0 else 0
          u.sheaf.length ≤ 32 ∧
          (∀ q ∈ u.sheaf, (s.group q.g).launch = (s.group r.g).launch ∧ (s.thread q).pc = pc ∧ s.canIssue q = true ∧ (s.group q.g).core = c) ∧
          step s = match decode w with
            | some i => exec i u
            | none => exec .illegalInstruction u) ∧
      ∀ r, s.runs (c / 96) = true → (s.core c).tracks = [] → s.readyOn c = [r] →
        (∀ i, s.instrAt (s.group r.g).launch (s.thread r).pc = some i → u.stalls c [r] i = false) → u.sheaf = [r]) ∧
  (∀ (s : State) (i : Instr) (ts : List Turn), s.turns = .event i :: ts → encode i = none → i ≠ .illegalInstruction → (∀ q ∈ commandCodes, ∀ fn p, i ≠ q.2 fn p) →
    step s = exec i { s with turns := ts, hubWaits := false }) ∧
  ∀ (s : State) (fn : Nat) (ts : List Turn), let f := s.fn fn
    let p : Packet := .ofNat 512 (ofBytes (s.rds (2 ^ 60 + (f.admring.toNat + 64 * (f.admhead % 2 ^ f.admlog)) % 2 ^ 60) 64))
    s.turns = .admin fn :: ts → s.adminReady fn = true → let t := { s with turns := ts, hubWaits := false }.setFn fn { f with admhead := f.admhead + 1 }
      (∀ q ∈ commandCodes, fieldOf p 0 8 = q.1 → step s = exec (q.2 fn p) t) ∧
      ((∀ q ∈ commandCodes, fieldOf p 0 8 ≠ q.1) → step s = .next (t.complete fn 3))

/-- Every step keeps the memory in its canonical form: addresses rising, no byte listed that reads as unwritten memory reads (R1, R198, R206, R309).
-/
def Obligations.EveryStepKeepsMemoryCanonical : Prop :=
  ∀ s t : State, Memory.wf s.mem = true → step s = .next t → Memory.wf t.mem = true

/-- After reset the timer is zero, clusters run at nominal, slices at k = 8, Yokes are Balanced, pools full, and no context, queue or link is in use
(R19, R57, R84, R348, R362, R369). The values at reset that no rule gives are log entry 5, the schedule's fields log entry 1, what host memory reads
log entry 4: the model's choices. -/
def Obligations.ResetState : Prop :=
  let s := State.reset
  s.phase = .starting ∧ s.refTimer = 0 ∧ s.launches = [] ∧ s.groups = [] ∧ s.turns = [] ∧ s.stores = [] ∧ s.sectors = [] ∧ Memory.wf s.mem = true ∧ (∀ a, s.rd a = 0) ∧
  (∀ d, (s.die d).f = 20 ∧ (s.die d).pool = 64 ∧ (s.die d).relock = none) ∧ (∀ c, (s.core c).k = 8 ∧ (∀ q < 4, (s.core c).copyQ.getD q [] = [])) ∧
  (∀ k, (s.stack k).yoke = .balanced ∧ (s.stack k).budget = 20000 ∧ (s.stack k).mq = []) ∧ (∀ c, (s.cluster c).mhz = 20 ∧ (s.cluster c).boost = false) ∧
  (∀ c, (s.ctx c).state = .free) ∧ (∀ q, (s.queue q).state = .closed) ∧ (∀ k, (s.key k).state = .empty) ∧ (∀ n, (s.link n).state = .down) ∧
  (∀ f, (s.fn f).admring = 0 ∧ (s.fn f).admlog = 0 ∧ (s.fn f).admcpl = 0 ∧ (s.fn f).admtail = 0 ∧ (s.fn f).admhead = 0 ∧ (s.fn f).admvec = 0)
end

