-- ==== Sys2Proof/Laws/Hub.lean ====
section
/-! SUPPORT. What the hub's accesses do where a home's die is in a relock (R349): a step is taken whole or not at all, and a write that
nothing waits for is owed. -/

namespace Sys2Proof.Machine

theorem hubStep_taken {f : State → State} {s : State} (h : (f s).hubWaits = false ∨ s.hubWaits = true) : hubStep f s = f s := by
  rcases h with h | h <;> simp [hubStep, h]

theorem hubStep_held {f : State → State} {s : State} (hf : (f s).hubWaits = true) (hs : s.hubWaits = false) : hubStep f s = s := by
  simp [hubStep, hf, hs]

theorem hubStep_cases (f : State → State) (s : State) :
    ((f s).hubWaits = true ∧ s.hubWaits = false ∧ hubStep f s = s) ∨ hubStep f s = f s := by
  by_cases hf : (f s).hubWaits = true
  · by_cases hs : s.hubWaits = true
    · exact .inr (hubStep_taken (.inr hs))
    · exact .inl ⟨hf, by simpa using hs, hubStep_held hf (by simpa using hs)⟩
  · exact .inr (hubStep_taken (.inl (by simpa using hf)))

/-- What holds before a step of the hub and after its effect holds after it. -/
theorem hubStep_keeps {P : State → Prop} {f : State → State} {s : State} (hs : P s) (hf : P (f s)) : P (hubStep f s) := by
  rcases hubStep_cases f s with ⟨-, -, h⟩ | h
  · rwa [h]
  · rwa [h]

@[simp] theorem meet_mem (s : State) (a : Nat) : (s.meet a).mem = s.mem := by unfold State.meet; split <;> rfl
@[simp] theorem meet_dies (s : State) (a : Nat) : (s.meet a).dies = s.dies := by unfold State.meet; split <;> rfl

theorem meet_of_runs {s : State} {a : Nat} (h : (homeDie a).all s.runs = true) : s.meet a = s := by simp [State.meet, h]

theorem meet_of_relock {s : State} {a d : Nat} (h : homeDie a = some d) (hd : s.runs d = false) : s.meet a = { s with hubWaits := true } := by
  simp [State.meet, h, hd]

/-- A write of the hub is made, or joins what it owes. -/
theorem orOwe_cases (s : State) (o : Owed) (f : State → State) : s.orOwe o f = { s with owed := s.owed ++ [o] } ∨
    (s.owed = [] ∧ (f { s with hubWaits := false }).hubWaits = false ∧ s.orOwe o f = { f { s with hubWaits := false } with hubWaits := s.hubWaits }) := by
  unfold State.orOwe
  split
  · exact .inl rfl
  · rename_i h
    have h : s.owed = [] := by simpa using h
    dsimp only
    split
    · exact .inl (by rw [h]; rfl)
    · rename_i ht
      exact .inr ⟨h, by simpa using ht, rfl⟩

theorem orOwe_made {s : State} {o : Owed} {f : State → State} (h : s.owed = []) (hf : (f { s with hubWaits := false }).hubWaits = false) :
    s.orOwe o f = { f { s with hubWaits := false } with hubWaits := s.hubWaits } := by
  unfold State.orOwe
  rw [if_neg (by simp [h])]
  exact if_neg (by rw [hf]; exact Bool.false_ne_true)

end Sys2Proof.Machine
end

