-- ==== Sys2Proof/Laws/State.lean ====
section
/-! SUPPORT. What each update of the state does to each of its fields: one law for a field and an update. -/

namespace Sys2Proof.Machine

/-! ## setCore -/

@[simp] theorem State.setCore_sheaf (s : State) (c : Nat) (x : Core) : (s.setCore c x).sheaf = s.sheaf := rfl
@[simp] theorem State.setCore_differ (s : State) (c : Nat) (x : Core) : (s.setCore c x).differ = s.differ := rfl
@[simp] theorem State.setCore_sheafId (s : State) (c : Nat) (x : Core) : (s.setCore c x).sheafId = s.sheafId := rfl
@[simp] theorem State.setCore_turns (s : State) (c : Nat) (x : Core) : (s.setCore c x).turns = s.turns := rfl
@[simp] theorem State.setCore_turnNo (s : State) (c : Nat) (x : Core) : (s.setCore c x).turnNo = s.turnNo := rfl
@[simp] theorem State.setCore_fresh (s : State) (c : Nat) (x : Core) : (s.setCore c x).fresh = s.fresh := rfl
@[simp] theorem State.setCore_phase (s : State) (c : Nat) (x : Core) : (s.setCore c x).phase = s.phase := rfl
@[simp] theorem State.setCore_refTimer (s : State) (c : Nat) (x : Core) : (s.setCore c x).refTimer = s.refTimer := rfl
@[simp] theorem State.setCore_mem (s : State) (c : Nat) (x : Core) : (s.setCore c x).mem = s.mem := rfl
@[simp] theorem State.setCore_sectors (s : State) (c : Nat) (x : Core) : (s.setCore c x).sectors = s.sectors := rfl
@[simp] theorem State.setCore_areas (s : State) (c : Nat) (x : Core) : (s.setCore c x).areas = s.areas := rfl
@[simp] theorem State.setCore_hot (s : State) (c : Nat) (x : Core) : (s.setCore c x).hot = s.hot := rfl
@[simp] theorem State.setCore_ctxs (s : State) (c : Nat) (x : Core) : (s.setCore c x).ctxs = s.ctxs := rfl
@[simp] theorem State.setCore_keys (s : State) (c : Nat) (x : Core) : (s.setCore c x).keys = s.keys := rfl
@[simp] theorem State.setCore_fns (s : State) (c : Nat) (x : Core) : (s.setCore c x).fns = s.fns := rfl
@[simp] theorem State.setCore_queues (s : State) (c : Nat) (x : Core) : (s.setCore c x).queues = s.queues := rfl
@[simp] theorem State.setCore_launches (s : State) (c : Nat) (x : Core) : (s.setCore c x).launches = s.launches := rfl
@[simp] theorem State.setCore_groups (s : State) (c : Nat) (x : Core) : (s.setCore c x).groups = s.groups := rfl
@[simp] theorem State.setCore_cores (s : State) (c : Nat) (x : Core) : (s.setCore c x).cores = tset s.cores c x := rfl
@[simp] theorem State.setCore_stackTbl (s : State) (c : Nat) (x : Core) : (s.setCore c x).stackTbl = s.stackTbl := rfl
@[simp] theorem State.setCore_clusters (s : State) (c : Nat) (x : Core) : (s.setCore c x).clusters = s.clusters := rfl
@[simp] theorem State.setCore_dies (s : State) (c : Nat) (x : Core) : (s.setCore c x).dies = s.dies := rfl
@[simp] theorem State.setCore_links (s : State) (c : Nat) (x : Core) : (s.setCore c x).links = s.links := rfl
@[simp] theorem State.setCore_windows (s : State) (c : Nat) (x : Core) : (s.setCore c x).windows = s.windows := rfl
@[simp] theorem State.setCore_pcieUp (s : State) (c : Nat) (x : Core) : (s.setCore c x).pcieUp = s.pcieUp := rfl
@[simp] theorem State.setCore_pcieStatus (s : State) (c : Nat) (x : Core) : (s.setCore c x).pcieStatus = s.pcieStatus := rfl
@[simp] theorem State.setCore_stores (s : State) (c : Nat) (x : Core) : (s.setCore c x).stores = s.stores := rfl
@[simp] theorem State.setCore_outbox (s : State) (c : Nat) (x : Core) : (s.setCore c x).outbox = s.outbox := rfl
@[simp] theorem State.setCore_reqs (s : State) (c : Nat) (x : Core) : (s.setCore c x).reqs = s.reqs := rfl
@[simp] theorem State.setCore_grants (s : State) (c : Nat) (x : Core) : (s.setCore c x).grants = s.grants := rfl
@[simp] theorem State.setCore_granted (s : State) (c : Nat) (x : Core) : (s.setCore c x).granted = s.granted := rfl
@[simp] theorem State.setCore_grantWindow (s : State) (c : Nat) (x : Core) : (s.setCore c x).grantWindow = s.grantWindow := rfl
@[simp] theorem State.setCore_grantCount (s : State) (c : Nat) (x : Core) : (s.setCore c x).grantCount = s.grantCount := rfl
@[simp] theorem State.setCore_fmtReqs (s : State) (c : Nat) (x : Core) : (s.setCore c x).fmtReqs = s.fmtReqs := rfl
@[simp] theorem State.setCore_tlbs (s : State) (c : Nat) (x : Core) : (s.setCore c x).tlbs = s.tlbs := rfl
@[simp] theorem State.setCore_owed (s : State) (c : Nat) (x : Core) : (s.setCore c x).owed = s.owed := rfl
@[simp] theorem State.setCore_hubWaits (s : State) (c : Nat) (x : Core) : (s.setCore c x).hubWaits = s.hubWaits := rfl
@[simp] theorem State.setCore_hubPosts (s : State) (c : Nat) (x : Core) : (s.setCore c x).hubPosts = s.hubPosts := rfl
@[simp] theorem State.setCore_notify (s : State) (c : Nat) (x : Core) : (s.setCore c x).notify = s.notify := rfl
@[simp] theorem State.setCore_notifyProduced (s : State) (c : Nat) (x : Core) : (s.setCore c x).notifyProduced = s.notifyProduced := rfl
@[simp] theorem State.setCore_notifyLost (s : State) (c : Nat) (x : Core) : (s.setCore c x).notifyLost = s.notifyLost := rfl
@[simp] theorem State.setCore_thresh (s : State) (c : Nat) (x : Core) : (s.setCore c x).thresh = s.thresh := rfl
@[simp] theorem State.setCore_epoch (s : State) (c : Nat) (x : Core) : (s.setCore c x).epoch = s.epoch := rfl
@[simp] theorem State.setCore_epochAt (s : State) (c : Nat) (x : Core) : (s.setCore c x).epochAt = s.epochAt := rfl
@[simp] theorem State.setCore_corr (s : State) (c : Nat) (x : Core) : (s.setCore c x).corr = s.corr := rfl
@[simp] theorem State.setCore_cap (s : State) (c : Nat) (x : Core) : (s.setCore c x).cap = s.cap := rfl
@[simp] theorem State.setCore_budget (s : State) (c : Nat) (x : Core) : (s.setCore c x).budget = s.budget := rfl
@[simp] theorem State.setCore_floor (s : State) (c : Nat) (x : Core) : (s.setCore c x).floor = s.floor := rfl
@[simp] theorem State.setCore_copyLimit (s : State) (c : Nat) (x : Core) : (s.setCore c x).copyLimit = s.copyLimit := rfl
@[simp] theorem State.setCore_powerAt (s : State) (c : Nat) (x : Core) : (s.setCore c x).powerAt = s.powerAt := rfl
@[simp] theorem State.setCore_lastPick (s : State) (c : Nat) (x : Core) : (s.setCore c x).lastPick = s.lastPick := rfl
@[simp] theorem State.setCore_vectors (s : State) (c : Nat) (x : Core) : (s.setCore c x).vectors = s.vectors := rfl
@[simp] theorem State.setCore_cfgAnswers (s : State) (c : Nat) (x : Core) : (s.setCore c x).cfgAnswers = s.cfgAnswers := rfl
@[simp] theorem State.setCore_spdmAnswers (s : State) (c : Nat) (x : Core) : (s.setCore c x).spdmAnswers = s.spdmAnswers := rfl
@[simp] theorem State.setCore_mgmt (s : State) (c : Nat) (x : Core) : (s.setCore c x).mgmt = s.mgmt := rfl
@[simp] theorem State.setCore_barAnswers (s : State) (c : Nat) (x : Core) : (s.setCore c x).barAnswers = s.barAnswers := rfl
@[simp] theorem State.setCore_cfgReads (s : State) (c : Nat) (x : Core) : (s.setCore c x).cfgReads = s.cfgReads := rfl
@[simp] theorem State.setCore_peerAnswers (s : State) (c : Nat) (x : Core) : (s.setCore c x).peerAnswers = s.peerAnswers := rfl
@[simp] theorem State.setCore_measured (s : State) (c : Nat) (x : Core) : (s.setCore c x).measured = s.measured := rfl

/-! ## setStack -/

@[simp] theorem State.setStack_sheaf (s : State) (k : Nat) (x : Stack) : (s.setStack k x).sheaf = s.sheaf := rfl
@[simp] theorem State.setStack_differ (s : State) (k : Nat) (x : Stack) : (s.setStack k x).differ = s.differ := rfl
@[simp] theorem State.setStack_sheafId (s : State) (k : Nat) (x : Stack) : (s.setStack k x).sheafId = s.sheafId := rfl
@[simp] theorem State.setStack_turns (s : State) (k : Nat) (x : Stack) : (s.setStack k x).turns = s.turns := rfl
@[simp] theorem State.setStack_turnNo (s : State) (k : Nat) (x : Stack) : (s.setStack k x).turnNo = s.turnNo := rfl
@[simp] theorem State.setStack_fresh (s : State) (k : Nat) (x : Stack) : (s.setStack k x).fresh = s.fresh := rfl
@[simp] theorem State.setStack_phase (s : State) (k : Nat) (x : Stack) : (s.setStack k x).phase = s.phase := rfl
@[simp] theorem State.setStack_refTimer (s : State) (k : Nat) (x : Stack) : (s.setStack k x).refTimer = s.refTimer := rfl
@[simp] theorem State.setStack_mem (s : State) (k : Nat) (x : Stack) : (s.setStack k x).mem = s.mem := rfl
@[simp] theorem State.setStack_sectors (s : State) (k : Nat) (x : Stack) : (s.setStack k x).sectors = s.sectors := rfl
@[simp] theorem State.setStack_areas (s : State) (k : Nat) (x : Stack) : (s.setStack k x).areas = s.areas := rfl
@[simp] theorem State.setStack_hot (s : State) (k : Nat) (x : Stack) : (s.setStack k x).hot = s.hot := rfl
@[simp] theorem State.setStack_ctxs (s : State) (k : Nat) (x : Stack) : (s.setStack k x).ctxs = s.ctxs := rfl
@[simp] theorem State.setStack_keys (s : State) (k : Nat) (x : Stack) : (s.setStack k x).keys = s.keys := rfl
@[simp] theorem State.setStack_fns (s : State) (k : Nat) (x : Stack) : (s.setStack k x).fns = s.fns := rfl
@[simp] theorem State.setStack_queues (s : State) (k : Nat) (x : Stack) : (s.setStack k x).queues = s.queues := rfl
@[simp] theorem State.setStack_launches (s : State) (k : Nat) (x : Stack) : (s.setStack k x).launches = s.launches := rfl
@[simp] theorem State.setStack_groups (s : State) (k : Nat) (x : Stack) : (s.setStack k x).groups = s.groups := rfl
@[simp] theorem State.setStack_cores (s : State) (k : Nat) (x : Stack) : (s.setStack k x).cores = s.cores := rfl
@[simp] theorem State.setStack_stackTbl (s : State) (k : Nat) (x : Stack) : (s.setStack k x).stackTbl = tset s.stackTbl k x := rfl
@[simp] theorem State.setStack_clusters (s : State) (k : Nat) (x : Stack) : (s.setStack k x).clusters = s.clusters := rfl
@[simp] theorem State.setStack_dies (s : State) (k : Nat) (x : Stack) : (s.setStack k x).dies = s.dies := rfl
@[simp] theorem State.setStack_links (s : State) (k : Nat) (x : Stack) : (s.setStack k x).links = s.links := rfl
@[simp] theorem State.setStack_windows (s : State) (k : Nat) (x : Stack) : (s.setStack k x).windows = s.windows := rfl
@[simp] theorem State.setStack_pcieUp (s : State) (k : Nat) (x : Stack) : (s.setStack k x).pcieUp = s.pcieUp := rfl
@[simp] theorem State.setStack_pcieStatus (s : State) (k : Nat) (x : Stack) : (s.setStack k x).pcieStatus = s.pcieStatus := rfl
@[simp] theorem State.setStack_stores (s : State) (k : Nat) (x : Stack) : (s.setStack k x).stores = s.stores := rfl
@[simp] theorem State.setStack_outbox (s : State) (k : Nat) (x : Stack) : (s.setStack k x).outbox = s.outbox := rfl
@[simp] theorem State.setStack_reqs (s : State) (k : Nat) (x : Stack) : (s.setStack k x).reqs = s.reqs := rfl
@[simp] theorem State.setStack_grants (s : State) (k : Nat) (x : Stack) : (s.setStack k x).grants = s.grants := rfl
@[simp] theorem State.setStack_granted (s : State) (k : Nat) (x : Stack) : (s.setStack k x).granted = s.granted := rfl
@[simp] theorem State.setStack_grantWindow (s : State) (k : Nat) (x : Stack) : (s.setStack k x).grantWindow = s.grantWindow := rfl
@[simp] theorem State.setStack_grantCount (s : State) (k : Nat) (x : Stack) : (s.setStack k x).grantCount = s.grantCount := rfl
@[simp] theorem State.setStack_fmtReqs (s : State) (k : Nat) (x : Stack) : (s.setStack k x).fmtReqs = s.fmtReqs := rfl
@[simp] theorem State.setStack_tlbs (s : State) (k : Nat) (x : Stack) : (s.setStack k x).tlbs = s.tlbs := rfl
@[simp] theorem State.setStack_owed (s : State) (k : Nat) (x : Stack) : (s.setStack k x).owed = s.owed := rfl
@[simp] theorem State.setStack_hubWaits (s : State) (k : Nat) (x : Stack) : (s.setStack k x).hubWaits = s.hubWaits := rfl
@[simp] theorem State.setStack_hubPosts (s : State) (k : Nat) (x : Stack) : (s.setStack k x).hubPosts = s.hubPosts := rfl
@[simp] theorem State.setStack_notify (s : State) (k : Nat) (x : Stack) : (s.setStack k x).notify = s.notify := rfl
@[simp] theorem State.setStack_notifyProduced (s : State) (k : Nat) (x : Stack) : (s.setStack k x).notifyProduced = s.notifyProduced := rfl
@[simp] theorem State.setStack_notifyLost (s : State) (k : Nat) (x : Stack) : (s.setStack k x).notifyLost = s.notifyLost := rfl
@[simp] theorem State.setStack_thresh (s : State) (k : Nat) (x : Stack) : (s.setStack k x).thresh = s.thresh := rfl
@[simp] theorem State.setStack_epoch (s : State) (k : Nat) (x : Stack) : (s.setStack k x).epoch = s.epoch := rfl
@[simp] theorem State.setStack_epochAt (s : State) (k : Nat) (x : Stack) : (s.setStack k x).epochAt = s.epochAt := rfl
@[simp] theorem State.setStack_corr (s : State) (k : Nat) (x : Stack) : (s.setStack k x).corr = s.corr := rfl
@[simp] theorem State.setStack_cap (s : State) (k : Nat) (x : Stack) : (s.setStack k x).cap = s.cap := rfl
@[simp] theorem State.setStack_budget (s : State) (k : Nat) (x : Stack) : (s.setStack k x).budget = s.budget := rfl
@[simp] theorem State.setStack_floor (s : State) (k : Nat) (x : Stack) : (s.setStack k x).floor = s.floor := rfl
@[simp] theorem State.setStack_copyLimit (s : State) (k : Nat) (x : Stack) : (s.setStack k x).copyLimit = s.copyLimit := rfl
@[simp] theorem State.setStack_powerAt (s : State) (k : Nat) (x : Stack) : (s.setStack k x).powerAt = s.powerAt := rfl
@[simp] theorem State.setStack_lastPick (s : State) (k : Nat) (x : Stack) : (s.setStack k x).lastPick = s.lastPick := rfl
@[simp] theorem State.setStack_vectors (s : State) (k : Nat) (x : Stack) : (s.setStack k x).vectors = s.vectors := rfl
@[simp] theorem State.setStack_cfgAnswers (s : State) (k : Nat) (x : Stack) : (s.setStack k x).cfgAnswers = s.cfgAnswers := rfl
@[simp] theorem State.setStack_spdmAnswers (s : State) (k : Nat) (x : Stack) : (s.setStack k x).spdmAnswers = s.spdmAnswers := rfl
@[simp] theorem State.setStack_mgmt (s : State) (k : Nat) (x : Stack) : (s.setStack k x).mgmt = s.mgmt := rfl
@[simp] theorem State.setStack_barAnswers (s : State) (k : Nat) (x : Stack) : (s.setStack k x).barAnswers = s.barAnswers := rfl
@[simp] theorem State.setStack_cfgReads (s : State) (k : Nat) (x : Stack) : (s.setStack k x).cfgReads = s.cfgReads := rfl
@[simp] theorem State.setStack_peerAnswers (s : State) (k : Nat) (x : Stack) : (s.setStack k x).peerAnswers = s.peerAnswers := rfl
@[simp] theorem State.setStack_measured (s : State) (k : Nat) (x : Stack) : (s.setStack k x).measured = s.measured := rfl

/-! ## setCluster -/

@[simp] theorem State.setCluster_sheaf (s : State) (c : Nat) (x : Cluster) : (s.setCluster c x).sheaf = s.sheaf := rfl
@[simp] theorem State.setCluster_differ (s : State) (c : Nat) (x : Cluster) : (s.setCluster c x).differ = s.differ := rfl
@[simp] theorem State.setCluster_sheafId (s : State) (c : Nat) (x : Cluster) : (s.setCluster c x).sheafId = s.sheafId := rfl
@[simp] theorem State.setCluster_turns (s : State) (c : Nat) (x : Cluster) : (s.setCluster c x).turns = s.turns := rfl
@[simp] theorem State.setCluster_turnNo (s : State) (c : Nat) (x : Cluster) : (s.setCluster c x).turnNo = s.turnNo := rfl
@[simp] theorem State.setCluster_fresh (s : State) (c : Nat) (x : Cluster) : (s.setCluster c x).fresh = s.fresh := rfl
@[simp] theorem State.setCluster_phase (s : State) (c : Nat) (x : Cluster) : (s.setCluster c x).phase = s.phase := rfl
@[simp] theorem State.setCluster_refTimer (s : State) (c : Nat) (x : Cluster) : (s.setCluster c x).refTimer = s.refTimer := rfl
@[simp] theorem State.setCluster_mem (s : State) (c : Nat) (x : Cluster) : (s.setCluster c x).mem = s.mem := rfl
@[simp] theorem State.setCluster_sectors (s : State) (c : Nat) (x : Cluster) : (s.setCluster c x).sectors = s.sectors := rfl
@[simp] theorem State.setCluster_areas (s : State) (c : Nat) (x : Cluster) : (s.setCluster c x).areas = s.areas := rfl
@[simp] theorem State.setCluster_hot (s : State) (c : Nat) (x : Cluster) : (s.setCluster c x).hot = s.hot := rfl
@[simp] theorem State.setCluster_ctxs (s : State) (c : Nat) (x : Cluster) : (s.setCluster c x).ctxs = s.ctxs := rfl
@[simp] theorem State.setCluster_keys (s : State) (c : Nat) (x : Cluster) : (s.setCluster c x).keys = s.keys := rfl
@[simp] theorem State.setCluster_fns (s : State) (c : Nat) (x : Cluster) : (s.setCluster c x).fns = s.fns := rfl
@[simp] theorem State.setCluster_queues (s : State) (c : Nat) (x : Cluster) : (s.setCluster c x).queues = s.queues := rfl
@[simp] theorem State.setCluster_launches (s : State) (c : Nat) (x : Cluster) : (s.setCluster c x).launches = s.launches := rfl
@[simp] theorem State.setCluster_groups (s : State) (c : Nat) (x : Cluster) : (s.setCluster c x).groups = s.groups := rfl
@[simp] theorem State.setCluster_cores (s : State) (c : Nat) (x : Cluster) : (s.setCluster c x).cores = s.cores := rfl
@[simp] theorem State.setCluster_stackTbl (s : State) (c : Nat) (x : Cluster) : (s.setCluster c x).stackTbl = s.stackTbl := rfl
@[simp] theorem State.setCluster_clusters (s : State) (c : Nat) (x : Cluster) : (s.setCluster c x).clusters = tset s.clusters c x := rfl
@[simp] theorem State.setCluster_dies (s : State) (c : Nat) (x : Cluster) : (s.setCluster c x).dies = s.dies := rfl
@[simp] theorem State.setCluster_links (s : State) (c : Nat) (x : Cluster) : (s.setCluster c x).links = s.links := rfl
@[simp] theorem State.setCluster_windows (s : State) (c : Nat) (x : Cluster) : (s.setCluster c x).windows = s.windows := rfl
@[simp] theorem State.setCluster_pcieUp (s : State) (c : Nat) (x : Cluster) : (s.setCluster c x).pcieUp = s.pcieUp := rfl
@[simp] theorem State.setCluster_pcieStatus (s : State) (c : Nat) (x : Cluster) : (s.setCluster c x).pcieStatus = s.pcieStatus := rfl
@[simp] theorem State.setCluster_stores (s : State) (c : Nat) (x : Cluster) : (s.setCluster c x).stores = s.stores := rfl
@[simp] theorem State.setCluster_outbox (s : State) (c : Nat) (x : Cluster) : (s.setCluster c x).outbox = s.outbox := rfl
@[simp] theorem State.setCluster_reqs (s : State) (c : Nat) (x : Cluster) : (s.setCluster c x).reqs = s.reqs := rfl
@[simp] theorem State.setCluster_grants (s : State) (c : Nat) (x : Cluster) : (s.setCluster c x).grants = s.grants := rfl
@[simp] theorem State.setCluster_granted (s : State) (c : Nat) (x : Cluster) : (s.setCluster c x).granted = s.granted := rfl
@[simp] theorem State.setCluster_grantWindow (s : State) (c : Nat) (x : Cluster) : (s.setCluster c x).grantWindow = s.grantWindow := rfl
@[simp] theorem State.setCluster_grantCount (s : State) (c : Nat) (x : Cluster) : (s.setCluster c x).grantCount = s.grantCount := rfl
@[simp] theorem State.setCluster_fmtReqs (s : State) (c : Nat) (x : Cluster) : (s.setCluster c x).fmtReqs = s.fmtReqs := rfl
@[simp] theorem State.setCluster_tlbs (s : State) (c : Nat) (x : Cluster) : (s.setCluster c x).tlbs = s.tlbs := rfl
@[simp] theorem State.setCluster_owed (s : State) (c : Nat) (x : Cluster) : (s.setCluster c x).owed = s.owed := rfl
@[simp] theorem State.setCluster_hubWaits (s : State) (c : Nat) (x : Cluster) : (s.setCluster c x).hubWaits = s.hubWaits := rfl
@[simp] theorem State.setCluster_hubPosts (s : State) (c : Nat) (x : Cluster) : (s.setCluster c x).hubPosts = s.hubPosts := rfl
@[simp] theorem State.setCluster_notify (s : State) (c : Nat) (x : Cluster) : (s.setCluster c x).notify = s.notify := rfl
@[simp] theorem State.setCluster_notifyProduced (s : State) (c : Nat) (x : Cluster) : (s.setCluster c x).notifyProduced = s.notifyProduced := rfl
@[simp] theorem State.setCluster_notifyLost (s : State) (c : Nat) (x : Cluster) : (s.setCluster c x).notifyLost = s.notifyLost := rfl
@[simp] theorem State.setCluster_thresh (s : State) (c : Nat) (x : Cluster) : (s.setCluster c x).thresh = s.thresh := rfl
@[simp] theorem State.setCluster_epoch (s : State) (c : Nat) (x : Cluster) : (s.setCluster c x).epoch = s.epoch := rfl
@[simp] theorem State.setCluster_epochAt (s : State) (c : Nat) (x : Cluster) : (s.setCluster c x).epochAt = s.epochAt := rfl
@[simp] theorem State.setCluster_corr (s : State) (c : Nat) (x : Cluster) : (s.setCluster c x).corr = s.corr := rfl
@[simp] theorem State.setCluster_cap (s : State) (c : Nat) (x : Cluster) : (s.setCluster c x).cap = s.cap := rfl
@[simp] theorem State.setCluster_budget (s : State) (c : Nat) (x : Cluster) : (s.setCluster c x).budget = s.budget := rfl
@[simp] theorem State.setCluster_floor (s : State) (c : Nat) (x : Cluster) : (s.setCluster c x).floor = s.floor := rfl
@[simp] theorem State.setCluster_copyLimit (s : State) (c : Nat) (x : Cluster) : (s.setCluster c x).copyLimit = s.copyLimit := rfl
@[simp] theorem State.setCluster_powerAt (s : State) (c : Nat) (x : Cluster) : (s.setCluster c x).powerAt = s.powerAt := rfl
@[simp] theorem State.setCluster_lastPick (s : State) (c : Nat) (x : Cluster) : (s.setCluster c x).lastPick = s.lastPick := rfl
@[simp] theorem State.setCluster_vectors (s : State) (c : Nat) (x : Cluster) : (s.setCluster c x).vectors = s.vectors := rfl
@[simp] theorem State.setCluster_cfgAnswers (s : State) (c : Nat) (x : Cluster) : (s.setCluster c x).cfgAnswers = s.cfgAnswers := rfl
@[simp] theorem State.setCluster_spdmAnswers (s : State) (c : Nat) (x : Cluster) : (s.setCluster c x).spdmAnswers = s.spdmAnswers := rfl
@[simp] theorem State.setCluster_mgmt (s : State) (c : Nat) (x : Cluster) : (s.setCluster c x).mgmt = s.mgmt := rfl
@[simp] theorem State.setCluster_barAnswers (s : State) (c : Nat) (x : Cluster) : (s.setCluster c x).barAnswers = s.barAnswers := rfl
@[simp] theorem State.setCluster_cfgReads (s : State) (c : Nat) (x : Cluster) : (s.setCluster c x).cfgReads = s.cfgReads := rfl
@[simp] theorem State.setCluster_peerAnswers (s : State) (c : Nat) (x : Cluster) : (s.setCluster c x).peerAnswers = s.peerAnswers := rfl
@[simp] theorem State.setCluster_measured (s : State) (c : Nat) (x : Cluster) : (s.setCluster c x).measured = s.measured := rfl

/-! ## setDie -/

@[simp] theorem State.setDie_sheaf (s : State) (d : Nat) (x : Die) : (s.setDie d x).sheaf = s.sheaf := rfl
@[simp] theorem State.setDie_differ (s : State) (d : Nat) (x : Die) : (s.setDie d x).differ = s.differ := rfl
@[simp] theorem State.setDie_sheafId (s : State) (d : Nat) (x : Die) : (s.setDie d x).sheafId = s.sheafId := rfl
@[simp] theorem State.setDie_turns (s : State) (d : Nat) (x : Die) : (s.setDie d x).turns = s.turns := rfl
@[simp] theorem State.setDie_turnNo (s : State) (d : Nat) (x : Die) : (s.setDie d x).turnNo = s.turnNo := rfl
@[simp] theorem State.setDie_fresh (s : State) (d : Nat) (x : Die) : (s.setDie d x).fresh = s.fresh := rfl
@[simp] theorem State.setDie_phase (s : State) (d : Nat) (x : Die) : (s.setDie d x).phase = s.phase := rfl
@[simp] theorem State.setDie_refTimer (s : State) (d : Nat) (x : Die) : (s.setDie d x).refTimer = s.refTimer := rfl
@[simp] theorem State.setDie_mem (s : State) (d : Nat) (x : Die) : (s.setDie d x).mem = s.mem := rfl
@[simp] theorem State.setDie_sectors (s : State) (d : Nat) (x : Die) : (s.setDie d x).sectors = s.sectors := rfl
@[simp] theorem State.setDie_areas (s : State) (d : Nat) (x : Die) : (s.setDie d x).areas = s.areas := rfl
@[simp] theorem State.setDie_hot (s : State) (d : Nat) (x : Die) : (s.setDie d x).hot = s.hot := rfl
@[simp] theorem State.setDie_ctxs (s : State) (d : Nat) (x : Die) : (s.setDie d x).ctxs = s.ctxs := rfl
@[simp] theorem State.setDie_keys (s : State) (d : Nat) (x : Die) : (s.setDie d x).keys = s.keys := rfl
@[simp] theorem State.setDie_fns (s : State) (d : Nat) (x : Die) : (s.setDie d x).fns = s.fns := rfl
@[simp] theorem State.setDie_queues (s : State) (d : Nat) (x : Die) : (s.setDie d x).queues = s.queues := rfl
@[simp] theorem State.setDie_launches (s : State) (d : Nat) (x : Die) : (s.setDie d x).launches = s.launches := rfl
@[simp] theorem State.setDie_groups (s : State) (d : Nat) (x : Die) : (s.setDie d x).groups = s.groups := rfl
@[simp] theorem State.setDie_cores (s : State) (d : Nat) (x : Die) : (s.setDie d x).cores = s.cores := rfl
@[simp] theorem State.setDie_stackTbl (s : State) (d : Nat) (x : Die) : (s.setDie d x).stackTbl = s.stackTbl := rfl
@[simp] theorem State.setDie_clusters (s : State) (d : Nat) (x : Die) : (s.setDie d x).clusters = s.clusters := rfl
@[simp] theorem State.setDie_dies (s : State) (d : Nat) (x : Die) : (s.setDie d x).dies = tset s.dies d x := rfl
@[simp] theorem State.setDie_links (s : State) (d : Nat) (x : Die) : (s.setDie d x).links = s.links := rfl
@[simp] theorem State.setDie_windows (s : State) (d : Nat) (x : Die) : (s.setDie d x).windows = s.windows := rfl
@[simp] theorem State.setDie_pcieUp (s : State) (d : Nat) (x : Die) : (s.setDie d x).pcieUp = s.pcieUp := rfl
@[simp] theorem State.setDie_pcieStatus (s : State) (d : Nat) (x : Die) : (s.setDie d x).pcieStatus = s.pcieStatus := rfl
@[simp] theorem State.setDie_stores (s : State) (d : Nat) (x : Die) : (s.setDie d x).stores = s.stores := rfl
@[simp] theorem State.setDie_outbox (s : State) (d : Nat) (x : Die) : (s.setDie d x).outbox = s.outbox := rfl
@[simp] theorem State.setDie_reqs (s : State) (d : Nat) (x : Die) : (s.setDie d x).reqs = s.reqs := rfl
@[simp] theorem State.setDie_grants (s : State) (d : Nat) (x : Die) : (s.setDie d x).grants = s.grants := rfl
@[simp] theorem State.setDie_granted (s : State) (d : Nat) (x : Die) : (s.setDie d x).granted = s.granted := rfl
@[simp] theorem State.setDie_grantWindow (s : State) (d : Nat) (x : Die) : (s.setDie d x).grantWindow = s.grantWindow := rfl
@[simp] theorem State.setDie_grantCount (s : State) (d : Nat) (x : Die) : (s.setDie d x).grantCount = s.grantCount := rfl
@[simp] theorem State.setDie_fmtReqs (s : State) (d : Nat) (x : Die) : (s.setDie d x).fmtReqs = s.fmtReqs := rfl
@[simp] theorem State.setDie_tlbs (s : State) (d : Nat) (x : Die) : (s.setDie d x).tlbs = s.tlbs := rfl
@[simp] theorem State.setDie_owed (s : State) (d : Nat) (x : Die) : (s.setDie d x).owed = s.owed := rfl
@[simp] theorem State.setDie_hubWaits (s : State) (d : Nat) (x : Die) : (s.setDie d x).hubWaits = s.hubWaits := rfl
@[simp] theorem State.setDie_hubPosts (s : State) (d : Nat) (x : Die) : (s.setDie d x).hubPosts = s.hubPosts := rfl
@[simp] theorem State.setDie_notify (s : State) (d : Nat) (x : Die) : (s.setDie d x).notify = s.notify := rfl
@[simp] theorem State.setDie_notifyProduced (s : State) (d : Nat) (x : Die) : (s.setDie d x).notifyProduced = s.notifyProduced := rfl
@[simp] theorem State.setDie_notifyLost (s : State) (d : Nat) (x : Die) : (s.setDie d x).notifyLost = s.notifyLost := rfl
@[simp] theorem State.setDie_thresh (s : State) (d : Nat) (x : Die) : (s.setDie d x).thresh = s.thresh := rfl
@[simp] theorem State.setDie_epoch (s : State) (d : Nat) (x : Die) : (s.setDie d x).epoch = s.epoch := rfl
@[simp] theorem State.setDie_epochAt (s : State) (d : Nat) (x : Die) : (s.setDie d x).epochAt = s.epochAt := rfl
@[simp] theorem State.setDie_corr (s : State) (d : Nat) (x : Die) : (s.setDie d x).corr = s.corr := rfl
@[simp] theorem State.setDie_cap (s : State) (d : Nat) (x : Die) : (s.setDie d x).cap = s.cap := rfl
@[simp] theorem State.setDie_budget (s : State) (d : Nat) (x : Die) : (s.setDie d x).budget = s.budget := rfl
@[simp] theorem State.setDie_floor (s : State) (d : Nat) (x : Die) : (s.setDie d x).floor = s.floor := rfl
@[simp] theorem State.setDie_copyLimit (s : State) (d : Nat) (x : Die) : (s.setDie d x).copyLimit = s.copyLimit := rfl
@[simp] theorem State.setDie_powerAt (s : State) (d : Nat) (x : Die) : (s.setDie d x).powerAt = s.powerAt := rfl
@[simp] theorem State.setDie_lastPick (s : State) (d : Nat) (x : Die) : (s.setDie d x).lastPick = s.lastPick := rfl
@[simp] theorem State.setDie_vectors (s : State) (d : Nat) (x : Die) : (s.setDie d x).vectors = s.vectors := rfl
@[simp] theorem State.setDie_cfgAnswers (s : State) (d : Nat) (x : Die) : (s.setDie d x).cfgAnswers = s.cfgAnswers := rfl
@[simp] theorem State.setDie_spdmAnswers (s : State) (d : Nat) (x : Die) : (s.setDie d x).spdmAnswers = s.spdmAnswers := rfl
@[simp] theorem State.setDie_mgmt (s : State) (d : Nat) (x : Die) : (s.setDie d x).mgmt = s.mgmt := rfl
@[simp] theorem State.setDie_barAnswers (s : State) (d : Nat) (x : Die) : (s.setDie d x).barAnswers = s.barAnswers := rfl
@[simp] theorem State.setDie_cfgReads (s : State) (d : Nat) (x : Die) : (s.setDie d x).cfgReads = s.cfgReads := rfl
@[simp] theorem State.setDie_peerAnswers (s : State) (d : Nat) (x : Die) : (s.setDie d x).peerAnswers = s.peerAnswers := rfl
@[simp] theorem State.setDie_measured (s : State) (d : Nat) (x : Die) : (s.setDie d x).measured = s.measured := rfl

/-! ## setCtx -/

@[simp] theorem State.setCtx_sheaf (s : State) (c : Nat) (x : Ctx) : (s.setCtx c x).sheaf = s.sheaf := rfl
@[simp] theorem State.setCtx_differ (s : State) (c : Nat) (x : Ctx) : (s.setCtx c x).differ = s.differ := rfl
@[simp] theorem State.setCtx_sheafId (s : State) (c : Nat) (x : Ctx) : (s.setCtx c x).sheafId = s.sheafId := rfl
@[simp] theorem State.setCtx_turns (s : State) (c : Nat) (x : Ctx) : (s.setCtx c x).turns = s.turns := rfl
@[simp] theorem State.setCtx_turnNo (s : State) (c : Nat) (x : Ctx) : (s.setCtx c x).turnNo = s.turnNo := rfl
@[simp] theorem State.setCtx_fresh (s : State) (c : Nat) (x : Ctx) : (s.setCtx c x).fresh = s.fresh := rfl
@[simp] theorem State.setCtx_phase (s : State) (c : Nat) (x : Ctx) : (s.setCtx c x).phase = s.phase := rfl
@[simp] theorem State.setCtx_refTimer (s : State) (c : Nat) (x : Ctx) : (s.setCtx c x).refTimer = s.refTimer := rfl
@[simp] theorem State.setCtx_mem (s : State) (c : Nat) (x : Ctx) : (s.setCtx c x).mem = s.mem := rfl
@[simp] theorem State.setCtx_sectors (s : State) (c : Nat) (x : Ctx) : (s.setCtx c x).sectors = s.sectors := rfl
@[simp] theorem State.setCtx_areas (s : State) (c : Nat) (x : Ctx) : (s.setCtx c x).areas = s.areas := rfl
@[simp] theorem State.setCtx_hot (s : State) (c : Nat) (x : Ctx) : (s.setCtx c x).hot = s.hot := rfl
@[simp] theorem State.setCtx_ctxs (s : State) (c : Nat) (x : Ctx) : (s.setCtx c x).ctxs = tset s.ctxs c x := rfl
@[simp] theorem State.setCtx_keys (s : State) (c : Nat) (x : Ctx) : (s.setCtx c x).keys = s.keys := rfl
@[simp] theorem State.setCtx_fns (s : State) (c : Nat) (x : Ctx) : (s.setCtx c x).fns = s.fns := rfl
@[simp] theorem State.setCtx_queues (s : State) (c : Nat) (x : Ctx) : (s.setCtx c x).queues = s.queues := rfl
@[simp] theorem State.setCtx_launches (s : State) (c : Nat) (x : Ctx) : (s.setCtx c x).launches = s.launches := rfl
@[simp] theorem State.setCtx_groups (s : State) (c : Nat) (x : Ctx) : (s.setCtx c x).groups = s.groups := rfl
@[simp] theorem State.setCtx_cores (s : State) (c : Nat) (x : Ctx) : (s.setCtx c x).cores = s.cores := rfl
@[simp] theorem State.setCtx_stackTbl (s : State) (c : Nat) (x : Ctx) : (s.setCtx c x).stackTbl = s.stackTbl := rfl
@[simp] theorem State.setCtx_clusters (s : State) (c : Nat) (x : Ctx) : (s.setCtx c x).clusters = s.clusters := rfl
@[simp] theorem State.setCtx_dies (s : State) (c : Nat) (x : Ctx) : (s.setCtx c x).dies = s.dies := rfl
@[simp] theorem State.setCtx_links (s : State) (c : Nat) (x : Ctx) : (s.setCtx c x).links = s.links := rfl
@[simp] theorem State.setCtx_windows (s : State) (c : Nat) (x : Ctx) : (s.setCtx c x).windows = s.windows := rfl
@[simp] theorem State.setCtx_pcieUp (s : State) (c : Nat) (x : Ctx) : (s.setCtx c x).pcieUp = s.pcieUp := rfl
@[simp] theorem State.setCtx_pcieStatus (s : State) (c : Nat) (x : Ctx) : (s.setCtx c x).pcieStatus = s.pcieStatus := rfl
@[simp] theorem State.setCtx_stores (s : State) (c : Nat) (x : Ctx) : (s.setCtx c x).stores = s.stores := rfl
@[simp] theorem State.setCtx_outbox (s : State) (c : Nat) (x : Ctx) : (s.setCtx c x).outbox = s.outbox := rfl
@[simp] theorem State.setCtx_reqs (s : State) (c : Nat) (x : Ctx) : (s.setCtx c x).reqs = s.reqs := rfl
@[simp] theorem State.setCtx_grants (s : State) (c : Nat) (x : Ctx) : (s.setCtx c x).grants = s.grants := rfl
@[simp] theorem State.setCtx_granted (s : State) (c : Nat) (x : Ctx) : (s.setCtx c x).granted = s.granted := rfl
@[simp] theorem State.setCtx_grantWindow (s : State) (c : Nat) (x : Ctx) : (s.setCtx c x).grantWindow = s.grantWindow := rfl
@[simp] theorem State.setCtx_grantCount (s : State) (c : Nat) (x : Ctx) : (s.setCtx c x).grantCount = s.grantCount := rfl
@[simp] theorem State.setCtx_fmtReqs (s : State) (c : Nat) (x : Ctx) : (s.setCtx c x).fmtReqs = s.fmtReqs := rfl
@[simp] theorem State.setCtx_tlbs (s : State) (c : Nat) (x : Ctx) : (s.setCtx c x).tlbs = s.tlbs := rfl
@[simp] theorem State.setCtx_owed (s : State) (c : Nat) (x : Ctx) : (s.setCtx c x).owed = s.owed := rfl
@[simp] theorem State.setCtx_hubWaits (s : State) (c : Nat) (x : Ctx) : (s.setCtx c x).hubWaits = s.hubWaits := rfl
@[simp] theorem State.setCtx_hubPosts (s : State) (c : Nat) (x : Ctx) : (s.setCtx c x).hubPosts = s.hubPosts := rfl
@[simp] theorem State.setCtx_notify (s : State) (c : Nat) (x : Ctx) : (s.setCtx c x).notify = s.notify := rfl
@[simp] theorem State.setCtx_notifyProduced (s : State) (c : Nat) (x : Ctx) : (s.setCtx c x).notifyProduced = s.notifyProduced := rfl
@[simp] theorem State.setCtx_notifyLost (s : State) (c : Nat) (x : Ctx) : (s.setCtx c x).notifyLost = s.notifyLost := rfl
@[simp] theorem State.setCtx_thresh (s : State) (c : Nat) (x : Ctx) : (s.setCtx c x).thresh = s.thresh := rfl
@[simp] theorem State.setCtx_epoch (s : State) (c : Nat) (x : Ctx) : (s.setCtx c x).epoch = s.epoch := rfl
@[simp] theorem State.setCtx_epochAt (s : State) (c : Nat) (x : Ctx) : (s.setCtx c x).epochAt = s.epochAt := rfl
@[simp] theorem State.setCtx_corr (s : State) (c : Nat) (x : Ctx) : (s.setCtx c x).corr = s.corr := rfl
@[simp] theorem State.setCtx_cap (s : State) (c : Nat) (x : Ctx) : (s.setCtx c x).cap = s.cap := rfl
@[simp] theorem State.setCtx_budget (s : State) (c : Nat) (x : Ctx) : (s.setCtx c x).budget = s.budget := rfl
@[simp] theorem State.setCtx_floor (s : State) (c : Nat) (x : Ctx) : (s.setCtx c x).floor = s.floor := rfl
@[simp] theorem State.setCtx_copyLimit (s : State) (c : Nat) (x : Ctx) : (s.setCtx c x).copyLimit = s.copyLimit := rfl
@[simp] theorem State.setCtx_powerAt (s : State) (c : Nat) (x : Ctx) : (s.setCtx c x).powerAt = s.powerAt := rfl
@[simp] theorem State.setCtx_lastPick (s : State) (c : Nat) (x : Ctx) : (s.setCtx c x).lastPick = s.lastPick := rfl
@[simp] theorem State.setCtx_vectors (s : State) (c : Nat) (x : Ctx) : (s.setCtx c x).vectors = s.vectors := rfl
@[simp] theorem State.setCtx_cfgAnswers (s : State) (c : Nat) (x : Ctx) : (s.setCtx c x).cfgAnswers = s.cfgAnswers := rfl
@[simp] theorem State.setCtx_spdmAnswers (s : State) (c : Nat) (x : Ctx) : (s.setCtx c x).spdmAnswers = s.spdmAnswers := rfl
@[simp] theorem State.setCtx_mgmt (s : State) (c : Nat) (x : Ctx) : (s.setCtx c x).mgmt = s.mgmt := rfl
@[simp] theorem State.setCtx_barAnswers (s : State) (c : Nat) (x : Ctx) : (s.setCtx c x).barAnswers = s.barAnswers := rfl
@[simp] theorem State.setCtx_cfgReads (s : State) (c : Nat) (x : Ctx) : (s.setCtx c x).cfgReads = s.cfgReads := rfl
@[simp] theorem State.setCtx_peerAnswers (s : State) (c : Nat) (x : Ctx) : (s.setCtx c x).peerAnswers = s.peerAnswers := rfl
@[simp] theorem State.setCtx_measured (s : State) (c : Nat) (x : Ctx) : (s.setCtx c x).measured = s.measured := rfl

/-! ## setQueue -/

@[simp] theorem State.setQueue_sheaf (s : State) (q : Nat) (x : Queue) : (s.setQueue q x).sheaf = s.sheaf := rfl
@[simp] theorem State.setQueue_differ (s : State) (q : Nat) (x : Queue) : (s.setQueue q x).differ = s.differ := rfl
@[simp] theorem State.setQueue_sheafId (s : State) (q : Nat) (x : Queue) : (s.setQueue q x).sheafId = s.sheafId := rfl
@[simp] theorem State.setQueue_turns (s : State) (q : Nat) (x : Queue) : (s.setQueue q x).turns = s.turns := rfl
@[simp] theorem State.setQueue_turnNo (s : State) (q : Nat) (x : Queue) : (s.setQueue q x).turnNo = s.turnNo := rfl
@[simp] theorem State.setQueue_fresh (s : State) (q : Nat) (x : Queue) : (s.setQueue q x).fresh = s.fresh := rfl
@[simp] theorem State.setQueue_phase (s : State) (q : Nat) (x : Queue) : (s.setQueue q x).phase = s.phase := rfl
@[simp] theorem State.setQueue_refTimer (s : State) (q : Nat) (x : Queue) : (s.setQueue q x).refTimer = s.refTimer := rfl
@[simp] theorem State.setQueue_mem (s : State) (q : Nat) (x : Queue) : (s.setQueue q x).mem = s.mem := rfl
@[simp] theorem State.setQueue_sectors (s : State) (q : Nat) (x : Queue) : (s.setQueue q x).sectors = s.sectors := rfl
@[simp] theorem State.setQueue_areas (s : State) (q : Nat) (x : Queue) : (s.setQueue q x).areas = s.areas := rfl
@[simp] theorem State.setQueue_hot (s : State) (q : Nat) (x : Queue) : (s.setQueue q x).hot = s.hot := rfl
@[simp] theorem State.setQueue_ctxs (s : State) (q : Nat) (x : Queue) : (s.setQueue q x).ctxs = s.ctxs := rfl
@[simp] theorem State.setQueue_keys (s : State) (q : Nat) (x : Queue) : (s.setQueue q x).keys = s.keys := rfl
@[simp] theorem State.setQueue_fns (s : State) (q : Nat) (x : Queue) : (s.setQueue q x).fns = s.fns := rfl
@[simp] theorem State.setQueue_queues (s : State) (q : Nat) (x : Queue) : (s.setQueue q x).queues = tset s.queues q x := rfl
@[simp] theorem State.setQueue_launches (s : State) (q : Nat) (x : Queue) : (s.setQueue q x).launches = s.launches := rfl
@[simp] theorem State.setQueue_groups (s : State) (q : Nat) (x : Queue) : (s.setQueue q x).groups = s.groups := rfl
@[simp] theorem State.setQueue_cores (s : State) (q : Nat) (x : Queue) : (s.setQueue q x).cores = s.cores := rfl
@[simp] theorem State.setQueue_stackTbl (s : State) (q : Nat) (x : Queue) : (s.setQueue q x).stackTbl = s.stackTbl := rfl
@[simp] theorem State.setQueue_clusters (s : State) (q : Nat) (x : Queue) : (s.setQueue q x).clusters = s.clusters := rfl
@[simp] theorem State.setQueue_dies (s : State) (q : Nat) (x : Queue) : (s.setQueue q x).dies = s.dies := rfl
@[simp] theorem State.setQueue_links (s : State) (q : Nat) (x : Queue) : (s.setQueue q x).links = s.links := rfl
@[simp] theorem State.setQueue_windows (s : State) (q : Nat) (x : Queue) : (s.setQueue q x).windows = s.windows := rfl
@[simp] theorem State.setQueue_pcieUp (s : State) (q : Nat) (x : Queue) : (s.setQueue q x).pcieUp = s.pcieUp := rfl
@[simp] theorem State.setQueue_pcieStatus (s : State) (q : Nat) (x : Queue) : (s.setQueue q x).pcieStatus = s.pcieStatus := rfl
@[simp] theorem State.setQueue_stores (s : State) (q : Nat) (x : Queue) : (s.setQueue q x).stores = s.stores := rfl
@[simp] theorem State.setQueue_outbox (s : State) (q : Nat) (x : Queue) : (s.setQueue q x).outbox = s.outbox := rfl
@[simp] theorem State.setQueue_reqs (s : State) (q : Nat) (x : Queue) : (s.setQueue q x).reqs = s.reqs := rfl
@[simp] theorem State.setQueue_grants (s : State) (q : Nat) (x : Queue) : (s.setQueue q x).grants = s.grants := rfl
@[simp] theorem State.setQueue_granted (s : State) (q : Nat) (x : Queue) : (s.setQueue q x).granted = s.granted := rfl
@[simp] theorem State.setQueue_grantWindow (s : State) (q : Nat) (x : Queue) : (s.setQueue q x).grantWindow = s.grantWindow := rfl
@[simp] theorem State.setQueue_grantCount (s : State) (q : Nat) (x : Queue) : (s.setQueue q x).grantCount = s.grantCount := rfl
@[simp] theorem State.setQueue_fmtReqs (s : State) (q : Nat) (x : Queue) : (s.setQueue q x).fmtReqs = s.fmtReqs := rfl
@[simp] theorem State.setQueue_tlbs (s : State) (q : Nat) (x : Queue) : (s.setQueue q x).tlbs = s.tlbs := rfl
@[simp] theorem State.setQueue_owed (s : State) (q : Nat) (x : Queue) : (s.setQueue q x).owed = s.owed := rfl
@[simp] theorem State.setQueue_hubWaits (s : State) (q : Nat) (x : Queue) : (s.setQueue q x).hubWaits = s.hubWaits := rfl
@[simp] theorem State.setQueue_hubPosts (s : State) (q : Nat) (x : Queue) : (s.setQueue q x).hubPosts = s.hubPosts := rfl
@[simp] theorem State.setQueue_notify (s : State) (q : Nat) (x : Queue) : (s.setQueue q x).notify = s.notify := rfl
@[simp] theorem State.setQueue_notifyProduced (s : State) (q : Nat) (x : Queue) : (s.setQueue q x).notifyProduced = s.notifyProduced := rfl
@[simp] theorem State.setQueue_notifyLost (s : State) (q : Nat) (x : Queue) : (s.setQueue q x).notifyLost = s.notifyLost := rfl
@[simp] theorem State.setQueue_thresh (s : State) (q : Nat) (x : Queue) : (s.setQueue q x).thresh = s.thresh := rfl
@[simp] theorem State.setQueue_epoch (s : State) (q : Nat) (x : Queue) : (s.setQueue q x).epoch = s.epoch := rfl
@[simp] theorem State.setQueue_epochAt (s : State) (q : Nat) (x : Queue) : (s.setQueue q x).epochAt = s.epochAt := rfl
@[simp] theorem State.setQueue_corr (s : State) (q : Nat) (x : Queue) : (s.setQueue q x).corr = s.corr := rfl
@[simp] theorem State.setQueue_cap (s : State) (q : Nat) (x : Queue) : (s.setQueue q x).cap = s.cap := rfl
@[simp] theorem State.setQueue_budget (s : State) (q : Nat) (x : Queue) : (s.setQueue q x).budget = s.budget := rfl
@[simp] theorem State.setQueue_floor (s : State) (q : Nat) (x : Queue) : (s.setQueue q x).floor = s.floor := rfl
@[simp] theorem State.setQueue_copyLimit (s : State) (q : Nat) (x : Queue) : (s.setQueue q x).copyLimit = s.copyLimit := rfl
@[simp] theorem State.setQueue_powerAt (s : State) (q : Nat) (x : Queue) : (s.setQueue q x).powerAt = s.powerAt := rfl
@[simp] theorem State.setQueue_lastPick (s : State) (q : Nat) (x : Queue) : (s.setQueue q x).lastPick = s.lastPick := rfl
@[simp] theorem State.setQueue_vectors (s : State) (q : Nat) (x : Queue) : (s.setQueue q x).vectors = s.vectors := rfl
@[simp] theorem State.setQueue_cfgAnswers (s : State) (q : Nat) (x : Queue) : (s.setQueue q x).cfgAnswers = s.cfgAnswers := rfl
@[simp] theorem State.setQueue_spdmAnswers (s : State) (q : Nat) (x : Queue) : (s.setQueue q x).spdmAnswers = s.spdmAnswers := rfl
@[simp] theorem State.setQueue_mgmt (s : State) (q : Nat) (x : Queue) : (s.setQueue q x).mgmt = s.mgmt := rfl
@[simp] theorem State.setQueue_barAnswers (s : State) (q : Nat) (x : Queue) : (s.setQueue q x).barAnswers = s.barAnswers := rfl
@[simp] theorem State.setQueue_cfgReads (s : State) (q : Nat) (x : Queue) : (s.setQueue q x).cfgReads = s.cfgReads := rfl
@[simp] theorem State.setQueue_peerAnswers (s : State) (q : Nat) (x : Queue) : (s.setQueue q x).peerAnswers = s.peerAnswers := rfl
@[simp] theorem State.setQueue_measured (s : State) (q : Nat) (x : Queue) : (s.setQueue q x).measured = s.measured := rfl

/-! ## setFn -/

@[simp] theorem State.setFn_sheaf (s : State) (f : Nat) (x : Fn) : (s.setFn f x).sheaf = s.sheaf := rfl
@[simp] theorem State.setFn_differ (s : State) (f : Nat) (x : Fn) : (s.setFn f x).differ = s.differ := rfl
@[simp] theorem State.setFn_sheafId (s : State) (f : Nat) (x : Fn) : (s.setFn f x).sheafId = s.sheafId := rfl
@[simp] theorem State.setFn_turns (s : State) (f : Nat) (x : Fn) : (s.setFn f x).turns = s.turns := rfl
@[simp] theorem State.setFn_turnNo (s : State) (f : Nat) (x : Fn) : (s.setFn f x).turnNo = s.turnNo := rfl
@[simp] theorem State.setFn_fresh (s : State) (f : Nat) (x : Fn) : (s.setFn f x).fresh = s.fresh := rfl
@[simp] theorem State.setFn_phase (s : State) (f : Nat) (x : Fn) : (s.setFn f x).phase = s.phase := rfl
@[simp] theorem State.setFn_refTimer (s : State) (f : Nat) (x : Fn) : (s.setFn f x).refTimer = s.refTimer := rfl
@[simp] theorem State.setFn_mem (s : State) (f : Nat) (x : Fn) : (s.setFn f x).mem = s.mem := rfl
@[simp] theorem State.setFn_sectors (s : State) (f : Nat) (x : Fn) : (s.setFn f x).sectors = s.sectors := rfl
@[simp] theorem State.setFn_areas (s : State) (f : Nat) (x : Fn) : (s.setFn f x).areas = s.areas := rfl
@[simp] theorem State.setFn_hot (s : State) (f : Nat) (x : Fn) : (s.setFn f x).hot = s.hot := rfl
@[simp] theorem State.setFn_ctxs (s : State) (f : Nat) (x : Fn) : (s.setFn f x).ctxs = s.ctxs := rfl
@[simp] theorem State.setFn_keys (s : State) (f : Nat) (x : Fn) : (s.setFn f x).keys = s.keys := rfl
@[simp] theorem State.setFn_fns (s : State) (f : Nat) (x : Fn) : (s.setFn f x).fns = tset s.fns f x := rfl
@[simp] theorem State.setFn_queues (s : State) (f : Nat) (x : Fn) : (s.setFn f x).queues = s.queues := rfl
@[simp] theorem State.setFn_launches (s : State) (f : Nat) (x : Fn) : (s.setFn f x).launches = s.launches := rfl
@[simp] theorem State.setFn_groups (s : State) (f : Nat) (x : Fn) : (s.setFn f x).groups = s.groups := rfl
@[simp] theorem State.setFn_cores (s : State) (f : Nat) (x : Fn) : (s.setFn f x).cores = s.cores := rfl
@[simp] theorem State.setFn_stackTbl (s : State) (f : Nat) (x : Fn) : (s.setFn f x).stackTbl = s.stackTbl := rfl
@[simp] theorem State.setFn_clusters (s : State) (f : Nat) (x : Fn) : (s.setFn f x).clusters = s.clusters := rfl
@[simp] theorem State.setFn_dies (s : State) (f : Nat) (x : Fn) : (s.setFn f x).dies = s.dies := rfl
@[simp] theorem State.setFn_links (s : State) (f : Nat) (x : Fn) : (s.setFn f x).links = s.links := rfl
@[simp] theorem State.setFn_windows (s : State) (f : Nat) (x : Fn) : (s.setFn f x).windows = s.windows := rfl
@[simp] theorem State.setFn_pcieUp (s : State) (f : Nat) (x : Fn) : (s.setFn f x).pcieUp = s.pcieUp := rfl
@[simp] theorem State.setFn_pcieStatus (s : State) (f : Nat) (x : Fn) : (s.setFn f x).pcieStatus = s.pcieStatus := rfl
@[simp] theorem State.setFn_stores (s : State) (f : Nat) (x : Fn) : (s.setFn f x).stores = s.stores := rfl
@[simp] theorem State.setFn_outbox (s : State) (f : Nat) (x : Fn) : (s.setFn f x).outbox = s.outbox := rfl
@[simp] theorem State.setFn_reqs (s : State) (f : Nat) (x : Fn) : (s.setFn f x).reqs = s.reqs := rfl
@[simp] theorem State.setFn_grants (s : State) (f : Nat) (x : Fn) : (s.setFn f x).grants = s.grants := rfl
@[simp] theorem State.setFn_granted (s : State) (f : Nat) (x : Fn) : (s.setFn f x).granted = s.granted := rfl
@[simp] theorem State.setFn_grantWindow (s : State) (f : Nat) (x : Fn) : (s.setFn f x).grantWindow = s.grantWindow := rfl
@[simp] theorem State.setFn_grantCount (s : State) (f : Nat) (x : Fn) : (s.setFn f x).grantCount = s.grantCount := rfl
@[simp] theorem State.setFn_fmtReqs (s : State) (f : Nat) (x : Fn) : (s.setFn f x).fmtReqs = s.fmtReqs := rfl
@[simp] theorem State.setFn_tlbs (s : State) (f : Nat) (x : Fn) : (s.setFn f x).tlbs = s.tlbs := rfl
@[simp] theorem State.setFn_owed (s : State) (f : Nat) (x : Fn) : (s.setFn f x).owed = s.owed := rfl
@[simp] theorem State.setFn_hubWaits (s : State) (f : Nat) (x : Fn) : (s.setFn f x).hubWaits = s.hubWaits := rfl
@[simp] theorem State.setFn_hubPosts (s : State) (f : Nat) (x : Fn) : (s.setFn f x).hubPosts = s.hubPosts := rfl
@[simp] theorem State.setFn_notify (s : State) (f : Nat) (x : Fn) : (s.setFn f x).notify = s.notify := rfl
@[simp] theorem State.setFn_notifyProduced (s : State) (f : Nat) (x : Fn) : (s.setFn f x).notifyProduced = s.notifyProduced := rfl
@[simp] theorem State.setFn_notifyLost (s : State) (f : Nat) (x : Fn) : (s.setFn f x).notifyLost = s.notifyLost := rfl
@[simp] theorem State.setFn_thresh (s : State) (f : Nat) (x : Fn) : (s.setFn f x).thresh = s.thresh := rfl
@[simp] theorem State.setFn_epoch (s : State) (f : Nat) (x : Fn) : (s.setFn f x).epoch = s.epoch := rfl
@[simp] theorem State.setFn_epochAt (s : State) (f : Nat) (x : Fn) : (s.setFn f x).epochAt = s.epochAt := rfl
@[simp] theorem State.setFn_corr (s : State) (f : Nat) (x : Fn) : (s.setFn f x).corr = s.corr := rfl
@[simp] theorem State.setFn_cap (s : State) (f : Nat) (x : Fn) : (s.setFn f x).cap = s.cap := rfl
@[simp] theorem State.setFn_budget (s : State) (f : Nat) (x : Fn) : (s.setFn f x).budget = s.budget := rfl
@[simp] theorem State.setFn_floor (s : State) (f : Nat) (x : Fn) : (s.setFn f x).floor = s.floor := rfl
@[simp] theorem State.setFn_copyLimit (s : State) (f : Nat) (x : Fn) : (s.setFn f x).copyLimit = s.copyLimit := rfl
@[simp] theorem State.setFn_powerAt (s : State) (f : Nat) (x : Fn) : (s.setFn f x).powerAt = s.powerAt := rfl
@[simp] theorem State.setFn_lastPick (s : State) (f : Nat) (x : Fn) : (s.setFn f x).lastPick = s.lastPick := rfl
@[simp] theorem State.setFn_vectors (s : State) (f : Nat) (x : Fn) : (s.setFn f x).vectors = s.vectors := rfl
@[simp] theorem State.setFn_cfgAnswers (s : State) (f : Nat) (x : Fn) : (s.setFn f x).cfgAnswers = s.cfgAnswers := rfl
@[simp] theorem State.setFn_spdmAnswers (s : State) (f : Nat) (x : Fn) : (s.setFn f x).spdmAnswers = s.spdmAnswers := rfl
@[simp] theorem State.setFn_mgmt (s : State) (f : Nat) (x : Fn) : (s.setFn f x).mgmt = s.mgmt := rfl
@[simp] theorem State.setFn_barAnswers (s : State) (f : Nat) (x : Fn) : (s.setFn f x).barAnswers = s.barAnswers := rfl
@[simp] theorem State.setFn_cfgReads (s : State) (f : Nat) (x : Fn) : (s.setFn f x).cfgReads = s.cfgReads := rfl
@[simp] theorem State.setFn_peerAnswers (s : State) (f : Nat) (x : Fn) : (s.setFn f x).peerAnswers = s.peerAnswers := rfl
@[simp] theorem State.setFn_measured (s : State) (f : Nat) (x : Fn) : (s.setFn f x).measured = s.measured := rfl

/-! ## setKey -/

@[simp] theorem State.setKey_sheaf (s : State) (k : Nat) (x : KeySlot) : (s.setKey k x).sheaf = s.sheaf := rfl
@[simp] theorem State.setKey_differ (s : State) (k : Nat) (x : KeySlot) : (s.setKey k x).differ = s.differ := rfl
@[simp] theorem State.setKey_sheafId (s : State) (k : Nat) (x : KeySlot) : (s.setKey k x).sheafId = s.sheafId := rfl
@[simp] theorem State.setKey_turns (s : State) (k : Nat) (x : KeySlot) : (s.setKey k x).turns = s.turns := rfl
@[simp] theorem State.setKey_turnNo (s : State) (k : Nat) (x : KeySlot) : (s.setKey k x).turnNo = s.turnNo := rfl
@[simp] theorem State.setKey_fresh (s : State) (k : Nat) (x : KeySlot) : (s.setKey k x).fresh = s.fresh := rfl
@[simp] theorem State.setKey_phase (s : State) (k : Nat) (x : KeySlot) : (s.setKey k x).phase = s.phase := rfl
@[simp] theorem State.setKey_refTimer (s : State) (k : Nat) (x : KeySlot) : (s.setKey k x).refTimer = s.refTimer := rfl
@[simp] theorem State.setKey_mem (s : State) (k : Nat) (x : KeySlot) : (s.setKey k x).mem = s.mem := rfl
@[simp] theorem State.setKey_sectors (s : State) (k : Nat) (x : KeySlot) : (s.setKey k x).sectors = s.sectors := rfl
@[simp] theorem State.setKey_areas (s : State) (k : Nat) (x : KeySlot) : (s.setKey k x).areas = s.areas := rfl
@[simp] theorem State.setKey_hot (s : State) (k : Nat) (x : KeySlot) : (s.setKey k x).hot = s.hot := rfl
@[simp] theorem State.setKey_ctxs (s : State) (k : Nat) (x : KeySlot) : (s.setKey k x).ctxs = s.ctxs := rfl
@[simp] theorem State.setKey_keys (s : State) (k : Nat) (x : KeySlot) : (s.setKey k x).keys = tset s.keys k x := rfl
@[simp] theorem State.setKey_fns (s : State) (k : Nat) (x : KeySlot) : (s.setKey k x).fns = s.fns := rfl
@[simp] theorem State.setKey_queues (s : State) (k : Nat) (x : KeySlot) : (s.setKey k x).queues = s.queues := rfl
@[simp] theorem State.setKey_launches (s : State) (k : Nat) (x : KeySlot) : (s.setKey k x).launches = s.launches := rfl
@[simp] theorem State.setKey_groups (s : State) (k : Nat) (x : KeySlot) : (s.setKey k x).groups = s.groups := rfl
@[simp] theorem State.setKey_cores (s : State) (k : Nat) (x : KeySlot) : (s.setKey k x).cores = s.cores := rfl
@[simp] theorem State.setKey_stackTbl (s : State) (k : Nat) (x : KeySlot) : (s.setKey k x).stackTbl = s.stackTbl := rfl
@[simp] theorem State.setKey_clusters (s : State) (k : Nat) (x : KeySlot) : (s.setKey k x).clusters = s.clusters := rfl
@[simp] theorem State.setKey_dies (s : State) (k : Nat) (x : KeySlot) : (s.setKey k x).dies = s.dies := rfl
@[simp] theorem State.setKey_links (s : State) (k : Nat) (x : KeySlot) : (s.setKey k x).links = s.links := rfl
@[simp] theorem State.setKey_windows (s : State) (k : Nat) (x : KeySlot) : (s.setKey k x).windows = s.windows := rfl
@[simp] theorem State.setKey_pcieUp (s : State) (k : Nat) (x : KeySlot) : (s.setKey k x).pcieUp = s.pcieUp := rfl
@[simp] theorem State.setKey_pcieStatus (s : State) (k : Nat) (x : KeySlot) : (s.setKey k x).pcieStatus = s.pcieStatus := rfl
@[simp] theorem State.setKey_stores (s : State) (k : Nat) (x : KeySlot) : (s.setKey k x).stores = s.stores := rfl
@[simp] theorem State.setKey_outbox (s : State) (k : Nat) (x : KeySlot) : (s.setKey k x).outbox = s.outbox := rfl
@[simp] theorem State.setKey_reqs (s : State) (k : Nat) (x : KeySlot) : (s.setKey k x).reqs = s.reqs := rfl
@[simp] theorem State.setKey_grants (s : State) (k : Nat) (x : KeySlot) : (s.setKey k x).grants = s.grants := rfl
@[simp] theorem State.setKey_granted (s : State) (k : Nat) (x : KeySlot) : (s.setKey k x).granted = s.granted := rfl
@[simp] theorem State.setKey_grantWindow (s : State) (k : Nat) (x : KeySlot) : (s.setKey k x).grantWindow = s.grantWindow := rfl
@[simp] theorem State.setKey_grantCount (s : State) (k : Nat) (x : KeySlot) : (s.setKey k x).grantCount = s.grantCount := rfl
@[simp] theorem State.setKey_fmtReqs (s : State) (k : Nat) (x : KeySlot) : (s.setKey k x).fmtReqs = s.fmtReqs := rfl
@[simp] theorem State.setKey_tlbs (s : State) (k : Nat) (x : KeySlot) : (s.setKey k x).tlbs = s.tlbs := rfl
@[simp] theorem State.setKey_owed (s : State) (k : Nat) (x : KeySlot) : (s.setKey k x).owed = s.owed := rfl
@[simp] theorem State.setKey_hubWaits (s : State) (k : Nat) (x : KeySlot) : (s.setKey k x).hubWaits = s.hubWaits := rfl
@[simp] theorem State.setKey_hubPosts (s : State) (k : Nat) (x : KeySlot) : (s.setKey k x).hubPosts = s.hubPosts := rfl
@[simp] theorem State.setKey_notify (s : State) (k : Nat) (x : KeySlot) : (s.setKey k x).notify = s.notify := rfl
@[simp] theorem State.setKey_notifyProduced (s : State) (k : Nat) (x : KeySlot) : (s.setKey k x).notifyProduced = s.notifyProduced := rfl
@[simp] theorem State.setKey_notifyLost (s : State) (k : Nat) (x : KeySlot) : (s.setKey k x).notifyLost = s.notifyLost := rfl
@[simp] theorem State.setKey_thresh (s : State) (k : Nat) (x : KeySlot) : (s.setKey k x).thresh = s.thresh := rfl
@[simp] theorem State.setKey_epoch (s : State) (k : Nat) (x : KeySlot) : (s.setKey k x).epoch = s.epoch := rfl
@[simp] theorem State.setKey_epochAt (s : State) (k : Nat) (x : KeySlot) : (s.setKey k x).epochAt = s.epochAt := rfl
@[simp] theorem State.setKey_corr (s : State) (k : Nat) (x : KeySlot) : (s.setKey k x).corr = s.corr := rfl
@[simp] theorem State.setKey_cap (s : State) (k : Nat) (x : KeySlot) : (s.setKey k x).cap = s.cap := rfl
@[simp] theorem State.setKey_budget (s : State) (k : Nat) (x : KeySlot) : (s.setKey k x).budget = s.budget := rfl
@[simp] theorem State.setKey_floor (s : State) (k : Nat) (x : KeySlot) : (s.setKey k x).floor = s.floor := rfl
@[simp] theorem State.setKey_copyLimit (s : State) (k : Nat) (x : KeySlot) : (s.setKey k x).copyLimit = s.copyLimit := rfl
@[simp] theorem State.setKey_powerAt (s : State) (k : Nat) (x : KeySlot) : (s.setKey k x).powerAt = s.powerAt := rfl
@[simp] theorem State.setKey_lastPick (s : State) (k : Nat) (x : KeySlot) : (s.setKey k x).lastPick = s.lastPick := rfl
@[simp] theorem State.setKey_vectors (s : State) (k : Nat) (x : KeySlot) : (s.setKey k x).vectors = s.vectors := rfl
@[simp] theorem State.setKey_cfgAnswers (s : State) (k : Nat) (x : KeySlot) : (s.setKey k x).cfgAnswers = s.cfgAnswers := rfl
@[simp] theorem State.setKey_spdmAnswers (s : State) (k : Nat) (x : KeySlot) : (s.setKey k x).spdmAnswers = s.spdmAnswers := rfl
@[simp] theorem State.setKey_mgmt (s : State) (k : Nat) (x : KeySlot) : (s.setKey k x).mgmt = s.mgmt := rfl
@[simp] theorem State.setKey_barAnswers (s : State) (k : Nat) (x : KeySlot) : (s.setKey k x).barAnswers = s.barAnswers := rfl
@[simp] theorem State.setKey_cfgReads (s : State) (k : Nat) (x : KeySlot) : (s.setKey k x).cfgReads = s.cfgReads := rfl
@[simp] theorem State.setKey_peerAnswers (s : State) (k : Nat) (x : KeySlot) : (s.setKey k x).peerAnswers = s.peerAnswers := rfl
@[simp] theorem State.setKey_measured (s : State) (k : Nat) (x : KeySlot) : (s.setKey k x).measured = s.measured := rfl

/-! ## setLink -/

@[simp] theorem State.setLink_sheaf (s : State) (n : Nat) (x : Link) : (s.setLink n x).sheaf = s.sheaf := rfl
@[simp] theorem State.setLink_differ (s : State) (n : Nat) (x : Link) : (s.setLink n x).differ = s.differ := rfl
@[simp] theorem State.setLink_sheafId (s : State) (n : Nat) (x : Link) : (s.setLink n x).sheafId = s.sheafId := rfl
@[simp] theorem State.setLink_turns (s : State) (n : Nat) (x : Link) : (s.setLink n x).turns = s.turns := rfl
@[simp] theorem State.setLink_turnNo (s : State) (n : Nat) (x : Link) : (s.setLink n x).turnNo = s.turnNo := rfl
@[simp] theorem State.setLink_fresh (s : State) (n : Nat) (x : Link) : (s.setLink n x).fresh = s.fresh := rfl
@[simp] theorem State.setLink_phase (s : State) (n : Nat) (x : Link) : (s.setLink n x).phase = s.phase := rfl
@[simp] theorem State.setLink_refTimer (s : State) (n : Nat) (x : Link) : (s.setLink n x).refTimer = s.refTimer := rfl
@[simp] theorem State.setLink_mem (s : State) (n : Nat) (x : Link) : (s.setLink n x).mem = s.mem := rfl
@[simp] theorem State.setLink_sectors (s : State) (n : Nat) (x : Link) : (s.setLink n x).sectors = s.sectors := rfl
@[simp] theorem State.setLink_areas (s : State) (n : Nat) (x : Link) : (s.setLink n x).areas = s.areas := rfl
@[simp] theorem State.setLink_hot (s : State) (n : Nat) (x : Link) : (s.setLink n x).hot = s.hot := rfl
@[simp] theorem State.setLink_ctxs (s : State) (n : Nat) (x : Link) : (s.setLink n x).ctxs = s.ctxs := rfl
@[simp] theorem State.setLink_keys (s : State) (n : Nat) (x : Link) : (s.setLink n x).keys = s.keys := rfl
@[simp] theorem State.setLink_fns (s : State) (n : Nat) (x : Link) : (s.setLink n x).fns = s.fns := rfl
@[simp] theorem State.setLink_queues (s : State) (n : Nat) (x : Link) : (s.setLink n x).queues = s.queues := rfl
@[simp] theorem State.setLink_launches (s : State) (n : Nat) (x : Link) : (s.setLink n x).launches = s.launches := rfl
@[simp] theorem State.setLink_groups (s : State) (n : Nat) (x : Link) : (s.setLink n x).groups = s.groups := rfl
@[simp] theorem State.setLink_cores (s : State) (n : Nat) (x : Link) : (s.setLink n x).cores = s.cores := rfl
@[simp] theorem State.setLink_stackTbl (s : State) (n : Nat) (x : Link) : (s.setLink n x).stackTbl = s.stackTbl := rfl
@[simp] theorem State.setLink_clusters (s : State) (n : Nat) (x : Link) : (s.setLink n x).clusters = s.clusters := rfl
@[simp] theorem State.setLink_dies (s : State) (n : Nat) (x : Link) : (s.setLink n x).dies = s.dies := rfl
@[simp] theorem State.setLink_links (s : State) (n : Nat) (x : Link) : (s.setLink n x).links = tset s.links n x := rfl
@[simp] theorem State.setLink_windows (s : State) (n : Nat) (x : Link) : (s.setLink n x).windows = s.windows := rfl
@[simp] theorem State.setLink_pcieUp (s : State) (n : Nat) (x : Link) : (s.setLink n x).pcieUp = s.pcieUp := rfl
@[simp] theorem State.setLink_pcieStatus (s : State) (n : Nat) (x : Link) : (s.setLink n x).pcieStatus = s.pcieStatus := rfl
@[simp] theorem State.setLink_stores (s : State) (n : Nat) (x : Link) : (s.setLink n x).stores = s.stores := rfl
@[simp] theorem State.setLink_outbox (s : State) (n : Nat) (x : Link) : (s.setLink n x).outbox = s.outbox := rfl
@[simp] theorem State.setLink_reqs (s : State) (n : Nat) (x : Link) : (s.setLink n x).reqs = s.reqs := rfl
@[simp] theorem State.setLink_grants (s : State) (n : Nat) (x : Link) : (s.setLink n x).grants = s.grants := rfl
@[simp] theorem State.setLink_granted (s : State) (n : Nat) (x : Link) : (s.setLink n x).granted = s.granted := rfl
@[simp] theorem State.setLink_grantWindow (s : State) (n : Nat) (x : Link) : (s.setLink n x).grantWindow = s.grantWindow := rfl
@[simp] theorem State.setLink_grantCount (s : State) (n : Nat) (x : Link) : (s.setLink n x).grantCount = s.grantCount := rfl
@[simp] theorem State.setLink_fmtReqs (s : State) (n : Nat) (x : Link) : (s.setLink n x).fmtReqs = s.fmtReqs := rfl
@[simp] theorem State.setLink_tlbs (s : State) (n : Nat) (x : Link) : (s.setLink n x).tlbs = s.tlbs := rfl
@[simp] theorem State.setLink_owed (s : State) (n : Nat) (x : Link) : (s.setLink n x).owed = s.owed := rfl
@[simp] theorem State.setLink_hubWaits (s : State) (n : Nat) (x : Link) : (s.setLink n x).hubWaits = s.hubWaits := rfl
@[simp] theorem State.setLink_hubPosts (s : State) (n : Nat) (x : Link) : (s.setLink n x).hubPosts = s.hubPosts := rfl
@[simp] theorem State.setLink_notify (s : State) (n : Nat) (x : Link) : (s.setLink n x).notify = s.notify := rfl
@[simp] theorem State.setLink_notifyProduced (s : State) (n : Nat) (x : Link) : (s.setLink n x).notifyProduced = s.notifyProduced := rfl
@[simp] theorem State.setLink_notifyLost (s : State) (n : Nat) (x : Link) : (s.setLink n x).notifyLost = s.notifyLost := rfl
@[simp] theorem State.setLink_thresh (s : State) (n : Nat) (x : Link) : (s.setLink n x).thresh = s.thresh := rfl
@[simp] theorem State.setLink_epoch (s : State) (n : Nat) (x : Link) : (s.setLink n x).epoch = s.epoch := rfl
@[simp] theorem State.setLink_epochAt (s : State) (n : Nat) (x : Link) : (s.setLink n x).epochAt = s.epochAt := rfl
@[simp] theorem State.setLink_corr (s : State) (n : Nat) (x : Link) : (s.setLink n x).corr = s.corr := rfl
@[simp] theorem State.setLink_cap (s : State) (n : Nat) (x : Link) : (s.setLink n x).cap = s.cap := rfl
@[simp] theorem State.setLink_budget (s : State) (n : Nat) (x : Link) : (s.setLink n x).budget = s.budget := rfl
@[simp] theorem State.setLink_floor (s : State) (n : Nat) (x : Link) : (s.setLink n x).floor = s.floor := rfl
@[simp] theorem State.setLink_copyLimit (s : State) (n : Nat) (x : Link) : (s.setLink n x).copyLimit = s.copyLimit := rfl
@[simp] theorem State.setLink_powerAt (s : State) (n : Nat) (x : Link) : (s.setLink n x).powerAt = s.powerAt := rfl
@[simp] theorem State.setLink_lastPick (s : State) (n : Nat) (x : Link) : (s.setLink n x).lastPick = s.lastPick := rfl
@[simp] theorem State.setLink_vectors (s : State) (n : Nat) (x : Link) : (s.setLink n x).vectors = s.vectors := rfl
@[simp] theorem State.setLink_cfgAnswers (s : State) (n : Nat) (x : Link) : (s.setLink n x).cfgAnswers = s.cfgAnswers := rfl
@[simp] theorem State.setLink_spdmAnswers (s : State) (n : Nat) (x : Link) : (s.setLink n x).spdmAnswers = s.spdmAnswers := rfl
@[simp] theorem State.setLink_mgmt (s : State) (n : Nat) (x : Link) : (s.setLink n x).mgmt = s.mgmt := rfl
@[simp] theorem State.setLink_barAnswers (s : State) (n : Nat) (x : Link) : (s.setLink n x).barAnswers = s.barAnswers := rfl
@[simp] theorem State.setLink_cfgReads (s : State) (n : Nat) (x : Link) : (s.setLink n x).cfgReads = s.cfgReads := rfl
@[simp] theorem State.setLink_peerAnswers (s : State) (n : Nat) (x : Link) : (s.setLink n x).peerAnswers = s.peerAnswers := rfl
@[simp] theorem State.setLink_measured (s : State) (n : Nat) (x : Link) : (s.setLink n x).measured = s.measured := rfl

/-! ## modLaunch -/

@[simp] theorem State.modLaunch_sheaf (s : State) (l : Nat) (f : Launch → Launch) : (s.modLaunch l f).sheaf = s.sheaf := rfl
@[simp] theorem State.modLaunch_differ (s : State) (l : Nat) (f : Launch → Launch) : (s.modLaunch l f).differ = s.differ := rfl
@[simp] theorem State.modLaunch_sheafId (s : State) (l : Nat) (f : Launch → Launch) : (s.modLaunch l f).sheafId = s.sheafId := rfl
@[simp] theorem State.modLaunch_turns (s : State) (l : Nat) (f : Launch → Launch) : (s.modLaunch l f).turns = s.turns := rfl
@[simp] theorem State.modLaunch_turnNo (s : State) (l : Nat) (f : Launch → Launch) : (s.modLaunch l f).turnNo = s.turnNo := rfl
@[simp] theorem State.modLaunch_fresh (s : State) (l : Nat) (f : Launch → Launch) : (s.modLaunch l f).fresh = s.fresh := rfl
@[simp] theorem State.modLaunch_phase (s : State) (l : Nat) (f : Launch → Launch) : (s.modLaunch l f).phase = s.phase := rfl
@[simp] theorem State.modLaunch_refTimer (s : State) (l : Nat) (f : Launch → Launch) : (s.modLaunch l f).refTimer = s.refTimer := rfl
@[simp] theorem State.modLaunch_mem (s : State) (l : Nat) (f : Launch → Launch) : (s.modLaunch l f).mem = s.mem := rfl
@[simp] theorem State.modLaunch_sectors (s : State) (l : Nat) (f : Launch → Launch) : (s.modLaunch l f).sectors = s.sectors := rfl
@[simp] theorem State.modLaunch_areas (s : State) (l : Nat) (f : Launch → Launch) : (s.modLaunch l f).areas = s.areas := rfl
@[simp] theorem State.modLaunch_hot (s : State) (l : Nat) (f : Launch → Launch) : (s.modLaunch l f).hot = s.hot := rfl
@[simp] theorem State.modLaunch_ctxs (s : State) (l : Nat) (f : Launch → Launch) : (s.modLaunch l f).ctxs = s.ctxs := rfl
@[simp] theorem State.modLaunch_keys (s : State) (l : Nat) (f : Launch → Launch) : (s.modLaunch l f).keys = s.keys := rfl
@[simp] theorem State.modLaunch_fns (s : State) (l : Nat) (f : Launch → Launch) : (s.modLaunch l f).fns = s.fns := rfl
@[simp] theorem State.modLaunch_queues (s : State) (l : Nat) (f : Launch → Launch) : (s.modLaunch l f).queues = s.queues := rfl
@[simp] theorem State.modLaunch_launches (s : State) (l : Nat) (f : Launch → Launch) : (s.modLaunch l f).launches = s.launches.modify l f := rfl
@[simp] theorem State.modLaunch_groups (s : State) (l : Nat) (f : Launch → Launch) : (s.modLaunch l f).groups = s.groups := rfl
@[simp] theorem State.modLaunch_cores (s : State) (l : Nat) (f : Launch → Launch) : (s.modLaunch l f).cores = s.cores := rfl
@[simp] theorem State.modLaunch_stackTbl (s : State) (l : Nat) (f : Launch → Launch) : (s.modLaunch l f).stackTbl = s.stackTbl := rfl
@[simp] theorem State.modLaunch_clusters (s : State) (l : Nat) (f : Launch → Launch) : (s.modLaunch l f).clusters = s.clusters := rfl
@[simp] theorem State.modLaunch_dies (s : State) (l : Nat) (f : Launch → Launch) : (s.modLaunch l f).dies = s.dies := rfl
@[simp] theorem State.modLaunch_links (s : State) (l : Nat) (f : Launch → Launch) : (s.modLaunch l f).links = s.links := rfl
@[simp] theorem State.modLaunch_windows (s : State) (l : Nat) (f : Launch → Launch) : (s.modLaunch l f).windows = s.windows := rfl
@[simp] theorem State.modLaunch_pcieUp (s : State) (l : Nat) (f : Launch → Launch) : (s.modLaunch l f).pcieUp = s.pcieUp := rfl
@[simp] theorem State.modLaunch_pcieStatus (s : State) (l : Nat) (f : Launch → Launch) : (s.modLaunch l f).pcieStatus = s.pcieStatus := rfl
@[simp] theorem State.modLaunch_stores (s : State) (l : Nat) (f : Launch → Launch) : (s.modLaunch l f).stores = s.stores := rfl
@[simp] theorem State.modLaunch_outbox (s : State) (l : Nat) (f : Launch → Launch) : (s.modLaunch l f).outbox = s.outbox := rfl
@[simp] theorem State.modLaunch_reqs (s : State) (l : Nat) (f : Launch → Launch) : (s.modLaunch l f).reqs = s.reqs := rfl
@[simp] theorem State.modLaunch_grants (s : State) (l : Nat) (f : Launch → Launch) : (s.modLaunch l f).grants = s.grants := rfl
@[simp] theorem State.modLaunch_granted (s : State) (l : Nat) (f : Launch → Launch) : (s.modLaunch l f).granted = s.granted := rfl
@[simp] theorem State.modLaunch_grantWindow (s : State) (l : Nat) (f : Launch → Launch) : (s.modLaunch l f).grantWindow = s.grantWindow := rfl
@[simp] theorem State.modLaunch_grantCount (s : State) (l : Nat) (f : Launch → Launch) : (s.modLaunch l f).grantCount = s.grantCount := rfl
@[simp] theorem State.modLaunch_fmtReqs (s : State) (l : Nat) (f : Launch → Launch) : (s.modLaunch l f).fmtReqs = s.fmtReqs := rfl
@[simp] theorem State.modLaunch_tlbs (s : State) (l : Nat) (f : Launch → Launch) : (s.modLaunch l f).tlbs = s.tlbs := rfl
@[simp] theorem State.modLaunch_owed (s : State) (l : Nat) (f : Launch → Launch) : (s.modLaunch l f).owed = s.owed := rfl
@[simp] theorem State.modLaunch_hubWaits (s : State) (l : Nat) (f : Launch → Launch) : (s.modLaunch l f).hubWaits = s.hubWaits := rfl
@[simp] theorem State.modLaunch_hubPosts (s : State) (l : Nat) (f : Launch → Launch) : (s.modLaunch l f).hubPosts = s.hubPosts := rfl
@[simp] theorem State.modLaunch_notify (s : State) (l : Nat) (f : Launch → Launch) : (s.modLaunch l f).notify = s.notify := rfl
@[simp] theorem State.modLaunch_notifyProduced (s : State) (l : Nat) (f : Launch → Launch) : (s.modLaunch l f).notifyProduced = s.notifyProduced := rfl
@[simp] theorem State.modLaunch_notifyLost (s : State) (l : Nat) (f : Launch → Launch) : (s.modLaunch l f).notifyLost = s.notifyLost := rfl
@[simp] theorem State.modLaunch_thresh (s : State) (l : Nat) (f : Launch → Launch) : (s.modLaunch l f).thresh = s.thresh := rfl
@[simp] theorem State.modLaunch_epoch (s : State) (l : Nat) (f : Launch → Launch) : (s.modLaunch l f).epoch = s.epoch := rfl
@[simp] theorem State.modLaunch_epochAt (s : State) (l : Nat) (f : Launch → Launch) : (s.modLaunch l f).epochAt = s.epochAt := rfl
@[simp] theorem State.modLaunch_corr (s : State) (l : Nat) (f : Launch → Launch) : (s.modLaunch l f).corr = s.corr := rfl
@[simp] theorem State.modLaunch_cap (s : State) (l : Nat) (f : Launch → Launch) : (s.modLaunch l f).cap = s.cap := rfl
@[simp] theorem State.modLaunch_budget (s : State) (l : Nat) (f : Launch → Launch) : (s.modLaunch l f).budget = s.budget := rfl
@[simp] theorem State.modLaunch_floor (s : State) (l : Nat) (f : Launch → Launch) : (s.modLaunch l f).floor = s.floor := rfl
@[simp] theorem State.modLaunch_copyLimit (s : State) (l : Nat) (f : Launch → Launch) : (s.modLaunch l f).copyLimit = s.copyLimit := rfl
@[simp] theorem State.modLaunch_powerAt (s : State) (l : Nat) (f : Launch → Launch) : (s.modLaunch l f).powerAt = s.powerAt := rfl
@[simp] theorem State.modLaunch_lastPick (s : State) (l : Nat) (f : Launch → Launch) : (s.modLaunch l f).lastPick = s.lastPick := rfl
@[simp] theorem State.modLaunch_vectors (s : State) (l : Nat) (f : Launch → Launch) : (s.modLaunch l f).vectors = s.vectors := rfl
@[simp] theorem State.modLaunch_cfgAnswers (s : State) (l : Nat) (f : Launch → Launch) : (s.modLaunch l f).cfgAnswers = s.cfgAnswers := rfl
@[simp] theorem State.modLaunch_spdmAnswers (s : State) (l : Nat) (f : Launch → Launch) : (s.modLaunch l f).spdmAnswers = s.spdmAnswers := rfl
@[simp] theorem State.modLaunch_mgmt (s : State) (l : Nat) (f : Launch → Launch) : (s.modLaunch l f).mgmt = s.mgmt := rfl
@[simp] theorem State.modLaunch_barAnswers (s : State) (l : Nat) (f : Launch → Launch) : (s.modLaunch l f).barAnswers = s.barAnswers := rfl
@[simp] theorem State.modLaunch_cfgReads (s : State) (l : Nat) (f : Launch → Launch) : (s.modLaunch l f).cfgReads = s.cfgReads := rfl
@[simp] theorem State.modLaunch_peerAnswers (s : State) (l : Nat) (f : Launch → Launch) : (s.modLaunch l f).peerAnswers = s.peerAnswers := rfl
@[simp] theorem State.modLaunch_measured (s : State) (l : Nat) (f : Launch → Launch) : (s.modLaunch l f).measured = s.measured := rfl

/-! ## modGroup -/

@[simp] theorem State.modGroup_sheaf (s : State) (g : Nat) (f : Group → Group) : (s.modGroup g f).sheaf = s.sheaf := rfl
@[simp] theorem State.modGroup_differ (s : State) (g : Nat) (f : Group → Group) : (s.modGroup g f).differ = s.differ := rfl
@[simp] theorem State.modGroup_sheafId (s : State) (g : Nat) (f : Group → Group) : (s.modGroup g f).sheafId = s.sheafId := rfl
@[simp] theorem State.modGroup_turns (s : State) (g : Nat) (f : Group → Group) : (s.modGroup g f).turns = s.turns := rfl
@[simp] theorem State.modGroup_turnNo (s : State) (g : Nat) (f : Group → Group) : (s.modGroup g f).turnNo = s.turnNo := rfl
@[simp] theorem State.modGroup_fresh (s : State) (g : Nat) (f : Group → Group) : (s.modGroup g f).fresh = s.fresh := rfl
@[simp] theorem State.modGroup_phase (s : State) (g : Nat) (f : Group → Group) : (s.modGroup g f).phase = s.phase := rfl
@[simp] theorem State.modGroup_refTimer (s : State) (g : Nat) (f : Group → Group) : (s.modGroup g f).refTimer = s.refTimer := rfl
@[simp] theorem State.modGroup_mem (s : State) (g : Nat) (f : Group → Group) : (s.modGroup g f).mem = s.mem := rfl
@[simp] theorem State.modGroup_sectors (s : State) (g : Nat) (f : Group → Group) : (s.modGroup g f).sectors = s.sectors := rfl
@[simp] theorem State.modGroup_areas (s : State) (g : Nat) (f : Group → Group) : (s.modGroup g f).areas = s.areas := rfl
@[simp] theorem State.modGroup_hot (s : State) (g : Nat) (f : Group → Group) : (s.modGroup g f).hot = s.hot := rfl
@[simp] theorem State.modGroup_ctxs (s : State) (g : Nat) (f : Group → Group) : (s.modGroup g f).ctxs = s.ctxs := rfl
@[simp] theorem State.modGroup_keys (s : State) (g : Nat) (f : Group → Group) : (s.modGroup g f).keys = s.keys := rfl
@[simp] theorem State.modGroup_fns (s : State) (g : Nat) (f : Group → Group) : (s.modGroup g f).fns = s.fns := rfl
@[simp] theorem State.modGroup_queues (s : State) (g : Nat) (f : Group → Group) : (s.modGroup g f).queues = s.queues := rfl
@[simp] theorem State.modGroup_launches (s : State) (g : Nat) (f : Group → Group) : (s.modGroup g f).launches = s.launches := rfl
@[simp] theorem State.modGroup_groups (s : State) (g : Nat) (f : Group → Group) : (s.modGroup g f).groups = s.groups.modify g f := rfl
@[simp] theorem State.modGroup_cores (s : State) (g : Nat) (f : Group → Group) : (s.modGroup g f).cores = s.cores := rfl
@[simp] theorem State.modGroup_stackTbl (s : State) (g : Nat) (f : Group → Group) : (s.modGroup g f).stackTbl = s.stackTbl := rfl
@[simp] theorem State.modGroup_clusters (s : State) (g : Nat) (f : Group → Group) : (s.modGroup g f).clusters = s.clusters := rfl
@[simp] theorem State.modGroup_dies (s : State) (g : Nat) (f : Group → Group) : (s.modGroup g f).dies = s.dies := rfl
@[simp] theorem State.modGroup_links (s : State) (g : Nat) (f : Group → Group) : (s.modGroup g f).links = s.links := rfl
@[simp] theorem State.modGroup_windows (s : State) (g : Nat) (f : Group → Group) : (s.modGroup g f).windows = s.windows := rfl
@[simp] theorem State.modGroup_pcieUp (s : State) (g : Nat) (f : Group → Group) : (s.modGroup g f).pcieUp = s.pcieUp := rfl
@[simp] theorem State.modGroup_pcieStatus (s : State) (g : Nat) (f : Group → Group) : (s.modGroup g f).pcieStatus = s.pcieStatus := rfl
@[simp] theorem State.modGroup_stores (s : State) (g : Nat) (f : Group → Group) : (s.modGroup g f).stores = s.stores := rfl
@[simp] theorem State.modGroup_outbox (s : State) (g : Nat) (f : Group → Group) : (s.modGroup g f).outbox = s.outbox := rfl
@[simp] theorem State.modGroup_reqs (s : State) (g : Nat) (f : Group → Group) : (s.modGroup g f).reqs = s.reqs := rfl
@[simp] theorem State.modGroup_grants (s : State) (g : Nat) (f : Group → Group) : (s.modGroup g f).grants = s.grants := rfl
@[simp] theorem State.modGroup_granted (s : State) (g : Nat) (f : Group → Group) : (s.modGroup g f).granted = s.granted := rfl
@[simp] theorem State.modGroup_grantWindow (s : State) (g : Nat) (f : Group → Group) : (s.modGroup g f).grantWindow = s.grantWindow := rfl
@[simp] theorem State.modGroup_grantCount (s : State) (g : Nat) (f : Group → Group) : (s.modGroup g f).grantCount = s.grantCount := rfl
@[simp] theorem State.modGroup_fmtReqs (s : State) (g : Nat) (f : Group → Group) : (s.modGroup g f).fmtReqs = s.fmtReqs := rfl
@[simp] theorem State.modGroup_tlbs (s : State) (g : Nat) (f : Group → Group) : (s.modGroup g f).tlbs = s.tlbs := rfl
@[simp] theorem State.modGroup_owed (s : State) (g : Nat) (f : Group → Group) : (s.modGroup g f).owed = s.owed := rfl
@[simp] theorem State.modGroup_hubWaits (s : State) (g : Nat) (f : Group → Group) : (s.modGroup g f).hubWaits = s.hubWaits := rfl
@[simp] theorem State.modGroup_hubPosts (s : State) (g : Nat) (f : Group → Group) : (s.modGroup g f).hubPosts = s.hubPosts := rfl
@[simp] theorem State.modGroup_notify (s : State) (g : Nat) (f : Group → Group) : (s.modGroup g f).notify = s.notify := rfl
@[simp] theorem State.modGroup_notifyProduced (s : State) (g : Nat) (f : Group → Group) : (s.modGroup g f).notifyProduced = s.notifyProduced := rfl
@[simp] theorem State.modGroup_notifyLost (s : State) (g : Nat) (f : Group → Group) : (s.modGroup g f).notifyLost = s.notifyLost := rfl
@[simp] theorem State.modGroup_thresh (s : State) (g : Nat) (f : Group → Group) : (s.modGroup g f).thresh = s.thresh := rfl
@[simp] theorem State.modGroup_epoch (s : State) (g : Nat) (f : Group → Group) : (s.modGroup g f).epoch = s.epoch := rfl
@[simp] theorem State.modGroup_epochAt (s : State) (g : Nat) (f : Group → Group) : (s.modGroup g f).epochAt = s.epochAt := rfl
@[simp] theorem State.modGroup_corr (s : State) (g : Nat) (f : Group → Group) : (s.modGroup g f).corr = s.corr := rfl
@[simp] theorem State.modGroup_cap (s : State) (g : Nat) (f : Group → Group) : (s.modGroup g f).cap = s.cap := rfl
@[simp] theorem State.modGroup_budget (s : State) (g : Nat) (f : Group → Group) : (s.modGroup g f).budget = s.budget := rfl
@[simp] theorem State.modGroup_floor (s : State) (g : Nat) (f : Group → Group) : (s.modGroup g f).floor = s.floor := rfl
@[simp] theorem State.modGroup_copyLimit (s : State) (g : Nat) (f : Group → Group) : (s.modGroup g f).copyLimit = s.copyLimit := rfl
@[simp] theorem State.modGroup_powerAt (s : State) (g : Nat) (f : Group → Group) : (s.modGroup g f).powerAt = s.powerAt := rfl
@[simp] theorem State.modGroup_lastPick (s : State) (g : Nat) (f : Group → Group) : (s.modGroup g f).lastPick = s.lastPick := rfl
@[simp] theorem State.modGroup_vectors (s : State) (g : Nat) (f : Group → Group) : (s.modGroup g f).vectors = s.vectors := rfl
@[simp] theorem State.modGroup_cfgAnswers (s : State) (g : Nat) (f : Group → Group) : (s.modGroup g f).cfgAnswers = s.cfgAnswers := rfl
@[simp] theorem State.modGroup_spdmAnswers (s : State) (g : Nat) (f : Group → Group) : (s.modGroup g f).spdmAnswers = s.spdmAnswers := rfl
@[simp] theorem State.modGroup_mgmt (s : State) (g : Nat) (f : Group → Group) : (s.modGroup g f).mgmt = s.mgmt := rfl
@[simp] theorem State.modGroup_barAnswers (s : State) (g : Nat) (f : Group → Group) : (s.modGroup g f).barAnswers = s.barAnswers := rfl
@[simp] theorem State.modGroup_cfgReads (s : State) (g : Nat) (f : Group → Group) : (s.modGroup g f).cfgReads = s.cfgReads := rfl
@[simp] theorem State.modGroup_peerAnswers (s : State) (g : Nat) (f : Group → Group) : (s.modGroup g f).peerAnswers = s.peerAnswers := rfl
@[simp] theorem State.modGroup_measured (s : State) (g : Nat) (f : Group → Group) : (s.modGroup g f).measured = s.measured := rfl

/-! ## modThread -/

@[simp] theorem State.modThread_sheaf (s : State) (r : TRef) (f : Thread → Thread) : (s.modThread r f).sheaf = s.sheaf := rfl
@[simp] theorem State.modThread_differ (s : State) (r : TRef) (f : Thread → Thread) : (s.modThread r f).differ = s.differ := rfl
@[simp] theorem State.modThread_sheafId (s : State) (r : TRef) (f : Thread → Thread) : (s.modThread r f).sheafId = s.sheafId := rfl
@[simp] theorem State.modThread_turns (s : State) (r : TRef) (f : Thread → Thread) : (s.modThread r f).turns = s.turns := rfl
@[simp] theorem State.modThread_turnNo (s : State) (r : TRef) (f : Thread → Thread) : (s.modThread r f).turnNo = s.turnNo := rfl
@[simp] theorem State.modThread_fresh (s : State) (r : TRef) (f : Thread → Thread) : (s.modThread r f).fresh = s.fresh := rfl
@[simp] theorem State.modThread_phase (s : State) (r : TRef) (f : Thread → Thread) : (s.modThread r f).phase = s.phase := rfl
@[simp] theorem State.modThread_refTimer (s : State) (r : TRef) (f : Thread → Thread) : (s.modThread r f).refTimer = s.refTimer := rfl
@[simp] theorem State.modThread_mem (s : State) (r : TRef) (f : Thread → Thread) : (s.modThread r f).mem = s.mem := rfl
@[simp] theorem State.modThread_sectors (s : State) (r : TRef) (f : Thread → Thread) : (s.modThread r f).sectors = s.sectors := rfl
@[simp] theorem State.modThread_areas (s : State) (r : TRef) (f : Thread → Thread) : (s.modThread r f).areas = s.areas := rfl
@[simp] theorem State.modThread_hot (s : State) (r : TRef) (f : Thread → Thread) : (s.modThread r f).hot = s.hot := rfl
@[simp] theorem State.modThread_ctxs (s : State) (r : TRef) (f : Thread → Thread) : (s.modThread r f).ctxs = s.ctxs := rfl
@[simp] theorem State.modThread_keys (s : State) (r : TRef) (f : Thread → Thread) : (s.modThread r f).keys = s.keys := rfl
@[simp] theorem State.modThread_fns (s : State) (r : TRef) (f : Thread → Thread) : (s.modThread r f).fns = s.fns := rfl
@[simp] theorem State.modThread_queues (s : State) (r : TRef) (f : Thread → Thread) : (s.modThread r f).queues = s.queues := rfl
@[simp] theorem State.modThread_launches (s : State) (r : TRef) (f : Thread → Thread) : (s.modThread r f).launches = s.launches := rfl
@[simp] theorem State.modThread_groups (s : State) (r : TRef) (f : Thread → Thread) : (s.modThread r f).groups = s.groups.modify r.g fun g => { g with threads := g.threads.modify r.t f } := rfl
@[simp] theorem State.modThread_cores (s : State) (r : TRef) (f : Thread → Thread) : (s.modThread r f).cores = s.cores := rfl
@[simp] theorem State.modThread_stackTbl (s : State) (r : TRef) (f : Thread → Thread) : (s.modThread r f).stackTbl = s.stackTbl := rfl
@[simp] theorem State.modThread_clusters (s : State) (r : TRef) (f : Thread → Thread) : (s.modThread r f).clusters = s.clusters := rfl
@[simp] theorem State.modThread_dies (s : State) (r : TRef) (f : Thread → Thread) : (s.modThread r f).dies = s.dies := rfl
@[simp] theorem State.modThread_links (s : State) (r : TRef) (f : Thread → Thread) : (s.modThread r f).links = s.links := rfl
@[simp] theorem State.modThread_windows (s : State) (r : TRef) (f : Thread → Thread) : (s.modThread r f).windows = s.windows := rfl
@[simp] theorem State.modThread_pcieUp (s : State) (r : TRef) (f : Thread → Thread) : (s.modThread r f).pcieUp = s.pcieUp := rfl
@[simp] theorem State.modThread_pcieStatus (s : State) (r : TRef) (f : Thread → Thread) : (s.modThread r f).pcieStatus = s.pcieStatus := rfl
@[simp] theorem State.modThread_stores (s : State) (r : TRef) (f : Thread → Thread) : (s.modThread r f).stores = s.stores := rfl
@[simp] theorem State.modThread_outbox (s : State) (r : TRef) (f : Thread → Thread) : (s.modThread r f).outbox = s.outbox := rfl
@[simp] theorem State.modThread_reqs (s : State) (r : TRef) (f : Thread → Thread) : (s.modThread r f).reqs = s.reqs := rfl
@[simp] theorem State.modThread_grants (s : State) (r : TRef) (f : Thread → Thread) : (s.modThread r f).grants = s.grants := rfl
@[simp] theorem State.modThread_granted (s : State) (r : TRef) (f : Thread → Thread) : (s.modThread r f).granted = s.granted := rfl
@[simp] theorem State.modThread_grantWindow (s : State) (r : TRef) (f : Thread → Thread) : (s.modThread r f).grantWindow = s.grantWindow := rfl
@[simp] theorem State.modThread_grantCount (s : State) (r : TRef) (f : Thread → Thread) : (s.modThread r f).grantCount = s.grantCount := rfl
@[simp] theorem State.modThread_fmtReqs (s : State) (r : TRef) (f : Thread → Thread) : (s.modThread r f).fmtReqs = s.fmtReqs := rfl
@[simp] theorem State.modThread_tlbs (s : State) (r : TRef) (f : Thread → Thread) : (s.modThread r f).tlbs = s.tlbs := rfl
@[simp] theorem State.modThread_owed (s : State) (r : TRef) (f : Thread → Thread) : (s.modThread r f).owed = s.owed := rfl
@[simp] theorem State.modThread_hubWaits (s : State) (r : TRef) (f : Thread → Thread) : (s.modThread r f).hubWaits = s.hubWaits := rfl
@[simp] theorem State.modThread_hubPosts (s : State) (r : TRef) (f : Thread → Thread) : (s.modThread r f).hubPosts = s.hubPosts := rfl
@[simp] theorem State.modThread_notify (s : State) (r : TRef) (f : Thread → Thread) : (s.modThread r f).notify = s.notify := rfl
@[simp] theorem State.modThread_notifyProduced (s : State) (r : TRef) (f : Thread → Thread) : (s.modThread r f).notifyProduced = s.notifyProduced := rfl
@[simp] theorem State.modThread_notifyLost (s : State) (r : TRef) (f : Thread → Thread) : (s.modThread r f).notifyLost = s.notifyLost := rfl
@[simp] theorem State.modThread_thresh (s : State) (r : TRef) (f : Thread → Thread) : (s.modThread r f).thresh = s.thresh := rfl
@[simp] theorem State.modThread_epoch (s : State) (r : TRef) (f : Thread → Thread) : (s.modThread r f).epoch = s.epoch := rfl
@[simp] theorem State.modThread_epochAt (s : State) (r : TRef) (f : Thread → Thread) : (s.modThread r f).epochAt = s.epochAt := rfl
@[simp] theorem State.modThread_corr (s : State) (r : TRef) (f : Thread → Thread) : (s.modThread r f).corr = s.corr := rfl
@[simp] theorem State.modThread_cap (s : State) (r : TRef) (f : Thread → Thread) : (s.modThread r f).cap = s.cap := rfl
@[simp] theorem State.modThread_budget (s : State) (r : TRef) (f : Thread → Thread) : (s.modThread r f).budget = s.budget := rfl
@[simp] theorem State.modThread_floor (s : State) (r : TRef) (f : Thread → Thread) : (s.modThread r f).floor = s.floor := rfl
@[simp] theorem State.modThread_copyLimit (s : State) (r : TRef) (f : Thread → Thread) : (s.modThread r f).copyLimit = s.copyLimit := rfl
@[simp] theorem State.modThread_powerAt (s : State) (r : TRef) (f : Thread → Thread) : (s.modThread r f).powerAt = s.powerAt := rfl
@[simp] theorem State.modThread_lastPick (s : State) (r : TRef) (f : Thread → Thread) : (s.modThread r f).lastPick = s.lastPick := rfl
@[simp] theorem State.modThread_vectors (s : State) (r : TRef) (f : Thread → Thread) : (s.modThread r f).vectors = s.vectors := rfl
@[simp] theorem State.modThread_cfgAnswers (s : State) (r : TRef) (f : Thread → Thread) : (s.modThread r f).cfgAnswers = s.cfgAnswers := rfl
@[simp] theorem State.modThread_spdmAnswers (s : State) (r : TRef) (f : Thread → Thread) : (s.modThread r f).spdmAnswers = s.spdmAnswers := rfl
@[simp] theorem State.modThread_mgmt (s : State) (r : TRef) (f : Thread → Thread) : (s.modThread r f).mgmt = s.mgmt := rfl
@[simp] theorem State.modThread_barAnswers (s : State) (r : TRef) (f : Thread → Thread) : (s.modThread r f).barAnswers = s.barAnswers := rfl
@[simp] theorem State.modThread_cfgReads (s : State) (r : TRef) (f : Thread → Thread) : (s.modThread r f).cfgReads = s.cfgReads := rfl
@[simp] theorem State.modThread_peerAnswers (s : State) (r : TRef) (f : Thread → Thread) : (s.modThread r f).peerAnswers = s.peerAnswers := rfl
@[simp] theorem State.modThread_measured (s : State) (r : TRef) (f : Thread → Thread) : (s.modThread r f).measured = s.measured := rfl

/-! ## setMem -/

@[simp] theorem State.setMem_sheaf (s : State) (m : List Host.Cell) : (s.setMem m).sheaf = s.sheaf := rfl
@[simp] theorem State.setMem_differ (s : State) (m : List Host.Cell) : (s.setMem m).differ = s.differ := rfl
@[simp] theorem State.setMem_sheafId (s : State) (m : List Host.Cell) : (s.setMem m).sheafId = s.sheafId := rfl
@[simp] theorem State.setMem_turns (s : State) (m : List Host.Cell) : (s.setMem m).turns = s.turns := rfl
@[simp] theorem State.setMem_turnNo (s : State) (m : List Host.Cell) : (s.setMem m).turnNo = s.turnNo := rfl
@[simp] theorem State.setMem_fresh (s : State) (m : List Host.Cell) : (s.setMem m).fresh = s.fresh := rfl
@[simp] theorem State.setMem_phase (s : State) (m : List Host.Cell) : (s.setMem m).phase = s.phase := rfl
@[simp] theorem State.setMem_refTimer (s : State) (m : List Host.Cell) : (s.setMem m).refTimer = s.refTimer := rfl
@[simp] theorem State.setMem_mem (s : State) (m : List Host.Cell) : (s.setMem m).mem = m := rfl
@[simp] theorem State.setMem_sectors (s : State) (m : List Host.Cell) : (s.setMem m).sectors = s.sectors := rfl
@[simp] theorem State.setMem_areas (s : State) (m : List Host.Cell) : (s.setMem m).areas = s.areas := rfl
@[simp] theorem State.setMem_hot (s : State) (m : List Host.Cell) : (s.setMem m).hot = s.hot := rfl
@[simp] theorem State.setMem_ctxs (s : State) (m : List Host.Cell) : (s.setMem m).ctxs = s.ctxs := rfl
@[simp] theorem State.setMem_keys (s : State) (m : List Host.Cell) : (s.setMem m).keys = s.keys := rfl
@[simp] theorem State.setMem_fns (s : State) (m : List Host.Cell) : (s.setMem m).fns = s.fns := rfl
@[simp] theorem State.setMem_queues (s : State) (m : List Host.Cell) : (s.setMem m).queues = s.queues := rfl
@[simp] theorem State.setMem_launches (s : State) (m : List Host.Cell) : (s.setMem m).launches = s.launches := rfl
@[simp] theorem State.setMem_groups (s : State) (m : List Host.Cell) : (s.setMem m).groups = s.groups := rfl
@[simp] theorem State.setMem_cores (s : State) (m : List Host.Cell) : (s.setMem m).cores = s.cores := rfl
@[simp] theorem State.setMem_stackTbl (s : State) (m : List Host.Cell) : (s.setMem m).stackTbl = s.stackTbl := rfl
@[simp] theorem State.setMem_clusters (s : State) (m : List Host.Cell) : (s.setMem m).clusters = s.clusters := rfl
@[simp] theorem State.setMem_dies (s : State) (m : List Host.Cell) : (s.setMem m).dies = s.dies := rfl
@[simp] theorem State.setMem_links (s : State) (m : List Host.Cell) : (s.setMem m).links = s.links := rfl
@[simp] theorem State.setMem_windows (s : State) (m : List Host.Cell) : (s.setMem m).windows = s.windows := rfl
@[simp] theorem State.setMem_pcieUp (s : State) (m : List Host.Cell) : (s.setMem m).pcieUp = s.pcieUp := rfl
@[simp] theorem State.setMem_pcieStatus (s : State) (m : List Host.Cell) : (s.setMem m).pcieStatus = s.pcieStatus := rfl
@[simp] theorem State.setMem_stores (s : State) (m : List Host.Cell) : (s.setMem m).stores = s.stores := rfl
@[simp] theorem State.setMem_outbox (s : State) (m : List Host.Cell) : (s.setMem m).outbox = s.outbox := rfl
@[simp] theorem State.setMem_reqs (s : State) (m : List Host.Cell) : (s.setMem m).reqs = s.reqs := rfl
@[simp] theorem State.setMem_grants (s : State) (m : List Host.Cell) : (s.setMem m).grants = s.grants := rfl
@[simp] theorem State.setMem_granted (s : State) (m : List Host.Cell) : (s.setMem m).granted = s.granted := rfl
@[simp] theorem State.setMem_grantWindow (s : State) (m : List Host.Cell) : (s.setMem m).grantWindow = s.grantWindow := rfl
@[simp] theorem State.setMem_grantCount (s : State) (m : List Host.Cell) : (s.setMem m).grantCount = s.grantCount := rfl
@[simp] theorem State.setMem_fmtReqs (s : State) (m : List Host.Cell) : (s.setMem m).fmtReqs = s.fmtReqs := rfl
@[simp] theorem State.setMem_tlbs (s : State) (m : List Host.Cell) : (s.setMem m).tlbs = s.tlbs := rfl
@[simp] theorem State.setMem_owed (s : State) (m : List Host.Cell) : (s.setMem m).owed = s.owed := rfl
@[simp] theorem State.setMem_hubWaits (s : State) (m : List Host.Cell) : (s.setMem m).hubWaits = s.hubWaits := rfl
@[simp] theorem State.setMem_hubPosts (s : State) (m : List Host.Cell) : (s.setMem m).hubPosts = s.hubPosts := rfl
@[simp] theorem State.setMem_notify (s : State) (m : List Host.Cell) : (s.setMem m).notify = s.notify := rfl
@[simp] theorem State.setMem_notifyProduced (s : State) (m : List Host.Cell) : (s.setMem m).notifyProduced = s.notifyProduced := rfl
@[simp] theorem State.setMem_notifyLost (s : State) (m : List Host.Cell) : (s.setMem m).notifyLost = s.notifyLost := rfl
@[simp] theorem State.setMem_thresh (s : State) (m : List Host.Cell) : (s.setMem m).thresh = s.thresh := rfl
@[simp] theorem State.setMem_epoch (s : State) (m : List Host.Cell) : (s.setMem m).epoch = s.epoch := rfl
@[simp] theorem State.setMem_epochAt (s : State) (m : List Host.Cell) : (s.setMem m).epochAt = s.epochAt := rfl
@[simp] theorem State.setMem_corr (s : State) (m : List Host.Cell) : (s.setMem m).corr = s.corr := rfl
@[simp] theorem State.setMem_cap (s : State) (m : List Host.Cell) : (s.setMem m).cap = s.cap := rfl
@[simp] theorem State.setMem_budget (s : State) (m : List Host.Cell) : (s.setMem m).budget = s.budget := rfl
@[simp] theorem State.setMem_floor (s : State) (m : List Host.Cell) : (s.setMem m).floor = s.floor := rfl
@[simp] theorem State.setMem_copyLimit (s : State) (m : List Host.Cell) : (s.setMem m).copyLimit = s.copyLimit := rfl
@[simp] theorem State.setMem_powerAt (s : State) (m : List Host.Cell) : (s.setMem m).powerAt = s.powerAt := rfl
@[simp] theorem State.setMem_lastPick (s : State) (m : List Host.Cell) : (s.setMem m).lastPick = s.lastPick := rfl
@[simp] theorem State.setMem_vectors (s : State) (m : List Host.Cell) : (s.setMem m).vectors = s.vectors := rfl
@[simp] theorem State.setMem_cfgAnswers (s : State) (m : List Host.Cell) : (s.setMem m).cfgAnswers = s.cfgAnswers := rfl
@[simp] theorem State.setMem_spdmAnswers (s : State) (m : List Host.Cell) : (s.setMem m).spdmAnswers = s.spdmAnswers := rfl
@[simp] theorem State.setMem_mgmt (s : State) (m : List Host.Cell) : (s.setMem m).mgmt = s.mgmt := rfl
@[simp] theorem State.setMem_barAnswers (s : State) (m : List Host.Cell) : (s.setMem m).barAnswers = s.barAnswers := rfl
@[simp] theorem State.setMem_cfgReads (s : State) (m : List Host.Cell) : (s.setMem m).cfgReads = s.cfgReads := rfl
@[simp] theorem State.setMem_peerAnswers (s : State) (m : List Host.Cell) : (s.setMem m).peerAnswers = s.peerAnswers := rfl
@[simp] theorem State.setMem_measured (s : State) (m : List Host.Cell) : (s.setMem m).measured = s.measured := rfl

/-! ## tick -/

@[simp] theorem State.tick_sheaf (s : State) : (s.tick).sheaf = s.sheaf := rfl
@[simp] theorem State.tick_differ (s : State) : (s.tick).differ = s.differ := rfl
@[simp] theorem State.tick_sheafId (s : State) : (s.tick).sheafId = s.sheafId := rfl
@[simp] theorem State.tick_turns (s : State) : (s.tick).turns = s.turns := rfl
@[simp] theorem State.tick_turnNo (s : State) : (s.tick).turnNo = s.turnNo := rfl
@[simp] theorem State.tick_fresh (s : State) : (s.tick).fresh = s.fresh + 1 := rfl
@[simp] theorem State.tick_phase (s : State) : (s.tick).phase = s.phase := rfl
@[simp] theorem State.tick_refTimer (s : State) : (s.tick).refTimer = s.refTimer := rfl
@[simp] theorem State.tick_mem (s : State) : (s.tick).mem = s.mem := rfl
@[simp] theorem State.tick_sectors (s : State) : (s.tick).sectors = s.sectors := rfl
@[simp] theorem State.tick_areas (s : State) : (s.tick).areas = s.areas := rfl
@[simp] theorem State.tick_hot (s : State) : (s.tick).hot = s.hot := rfl
@[simp] theorem State.tick_ctxs (s : State) : (s.tick).ctxs = s.ctxs := rfl
@[simp] theorem State.tick_keys (s : State) : (s.tick).keys = s.keys := rfl
@[simp] theorem State.tick_fns (s : State) : (s.tick).fns = s.fns := rfl
@[simp] theorem State.tick_queues (s : State) : (s.tick).queues = s.queues := rfl
@[simp] theorem State.tick_launches (s : State) : (s.tick).launches = s.launches := rfl
@[simp] theorem State.tick_groups (s : State) : (s.tick).groups = s.groups := rfl
@[simp] theorem State.tick_cores (s : State) : (s.tick).cores = s.cores := rfl
@[simp] theorem State.tick_stackTbl (s : State) : (s.tick).stackTbl = s.stackTbl := rfl
@[simp] theorem State.tick_clusters (s : State) : (s.tick).clusters = s.clusters := rfl
@[simp] theorem State.tick_dies (s : State) : (s.tick).dies = s.dies := rfl
@[simp] theorem State.tick_links (s : State) : (s.tick).links = s.links := rfl
@[simp] theorem State.tick_windows (s : State) : (s.tick).windows = s.windows := rfl
@[simp] theorem State.tick_pcieUp (s : State) : (s.tick).pcieUp = s.pcieUp := rfl
@[simp] theorem State.tick_pcieStatus (s : State) : (s.tick).pcieStatus = s.pcieStatus := rfl
@[simp] theorem State.tick_stores (s : State) : (s.tick).stores = s.stores := rfl
@[simp] theorem State.tick_outbox (s : State) : (s.tick).outbox = s.outbox := rfl
@[simp] theorem State.tick_reqs (s : State) : (s.tick).reqs = s.reqs := rfl
@[simp] theorem State.tick_grants (s : State) : (s.tick).grants = s.grants := rfl
@[simp] theorem State.tick_granted (s : State) : (s.tick).granted = s.granted := rfl
@[simp] theorem State.tick_grantWindow (s : State) : (s.tick).grantWindow = s.grantWindow := rfl
@[simp] theorem State.tick_grantCount (s : State) : (s.tick).grantCount = s.grantCount := rfl
@[simp] theorem State.tick_fmtReqs (s : State) : (s.tick).fmtReqs = s.fmtReqs := rfl
@[simp] theorem State.tick_tlbs (s : State) : (s.tick).tlbs = s.tlbs := rfl
@[simp] theorem State.tick_owed (s : State) : (s.tick).owed = s.owed := rfl
@[simp] theorem State.tick_hubWaits (s : State) : (s.tick).hubWaits = s.hubWaits := rfl
@[simp] theorem State.tick_hubPosts (s : State) : (s.tick).hubPosts = s.hubPosts := rfl
@[simp] theorem State.tick_notify (s : State) : (s.tick).notify = s.notify := rfl
@[simp] theorem State.tick_notifyProduced (s : State) : (s.tick).notifyProduced = s.notifyProduced := rfl
@[simp] theorem State.tick_notifyLost (s : State) : (s.tick).notifyLost = s.notifyLost := rfl
@[simp] theorem State.tick_thresh (s : State) : (s.tick).thresh = s.thresh := rfl
@[simp] theorem State.tick_epoch (s : State) : (s.tick).epoch = s.epoch := rfl
@[simp] theorem State.tick_epochAt (s : State) : (s.tick).epochAt = s.epochAt := rfl
@[simp] theorem State.tick_corr (s : State) : (s.tick).corr = s.corr := rfl
@[simp] theorem State.tick_cap (s : State) : (s.tick).cap = s.cap := rfl
@[simp] theorem State.tick_budget (s : State) : (s.tick).budget = s.budget := rfl
@[simp] theorem State.tick_floor (s : State) : (s.tick).floor = s.floor := rfl
@[simp] theorem State.tick_copyLimit (s : State) : (s.tick).copyLimit = s.copyLimit := rfl
@[simp] theorem State.tick_powerAt (s : State) : (s.tick).powerAt = s.powerAt := rfl
@[simp] theorem State.tick_lastPick (s : State) : (s.tick).lastPick = s.lastPick := rfl
@[simp] theorem State.tick_vectors (s : State) : (s.tick).vectors = s.vectors := rfl
@[simp] theorem State.tick_cfgAnswers (s : State) : (s.tick).cfgAnswers = s.cfgAnswers := rfl
@[simp] theorem State.tick_spdmAnswers (s : State) : (s.tick).spdmAnswers = s.spdmAnswers := rfl
@[simp] theorem State.tick_mgmt (s : State) : (s.tick).mgmt = s.mgmt := rfl
@[simp] theorem State.tick_barAnswers (s : State) : (s.tick).barAnswers = s.barAnswers := rfl
@[simp] theorem State.tick_cfgReads (s : State) : (s.tick).cfgReads = s.cfgReads := rfl
@[simp] theorem State.tick_peerAnswers (s : State) : (s.tick).peerAnswers = s.peerAnswers := rfl
@[simp] theorem State.tick_measured (s : State) : (s.tick).measured = s.measured := rfl

end Sys2Proof.Machine
end

