-- ==== Sys2Proof/Laws/Table.lean ====
section
/-! SUPPORT. Tables, threads and memory: reading after a write. -/

namespace Sys2Proof.Machine

/-! ## Sparse tables -/

@[simp] theorem tget_tset_same {α : Type} (d : α) (l : List (Nat × α)) (k : Nat) (v : α) : tget d (tset l k v) k = v := by
  induction l with
  | nil => simp [tset, tget]
  | cons p r ih =>
    obtain ⟨i, a⟩ := p
    simp only [tset]
    split
    · simp [tget]
    · split <;> simp_all [tget]

theorem tget_tset_ne {α : Type} (d : α) (l : List (Nat × α)) {k j : Nat} (v : α) (h : j ≠ k) : tget d (tset l k v) j = tget d l j := by
  induction l with
  | nil => simp [tset, tget, Ne.symm h]
  | cons p r ih =>
    obtain ⟨i, a⟩ := p
    simp only [tset]
    split
    · subst_vars; simp [tget, Ne.symm h]
    · split
      · simp [tget, Ne.symm h]
      · simp [tget, ih]

@[simp] theorem core_setCore (s : State) (c : Nat) (x : Core) : (s.setCore c x).core c = x := tget_tset_same ..
@[simp] theorem stack_setStack (s : State) (k : Nat) (x : Stack) : (s.setStack k x).stack k = x := tget_tset_same ..
@[simp] theorem cluster_setCluster (s : State) (c : Nat) (x : Cluster) : (s.setCluster c x).cluster c = x := tget_tset_same ..
@[simp] theorem die_setDie (s : State) (d : Nat) (x : Die) : (s.setDie d x).die d = x := tget_tset_same ..
@[simp] theorem ctx_setCtx (s : State) (c : Nat) (x : Ctx) : (s.setCtx c x).ctx c = x := tget_tset_same ..
@[simp] theorem queue_setQueue (s : State) (q : Nat) (x : Queue) : (s.setQueue q x).queue q = x := tget_tset_same ..
@[simp] theorem fn_setFn (s : State) (f : Nat) (x : Fn) : (s.setFn f x).fn f = x := tget_tset_same ..
@[simp] theorem key_setKey (s : State) (k : Nat) (x : KeySlot) : (s.setKey k x).key k = x := tget_tset_same ..
@[simp] theorem link_setLink (s : State) (n : Nat) (x : Link) : (s.setLink n x).link n = x := tget_tset_same ..

theorem core_setCore_ne (s : State) {c d : Nat} (x : Core) (h : d ≠ c) : (s.setCore c x).core d = s.core d := tget_tset_ne _ _ _ h
theorem stack_setStack_ne (s : State) {k j : Nat} (x : Stack) (h : j ≠ k) : (s.setStack k x).stack j = s.stack j := tget_tset_ne _ _ _ h
theorem cluster_setCluster_ne (s : State) {c d : Nat} (x : Cluster) (h : d ≠ c) : (s.setCluster c x).cluster d = s.cluster d :=
  tget_tset_ne _ _ _ h
theorem die_setDie_ne (s : State) {d e : Nat} (x : Die) (h : e ≠ d) : (s.setDie d x).die e = s.die e := tget_tset_ne _ _ _ h
theorem ctx_setCtx_ne (s : State) {c d : Nat} (x : Ctx) (h : d ≠ c) : (s.setCtx c x).ctx d = s.ctx d := tget_tset_ne _ _ _ h
theorem key_setKey_ne (s : State) {k j : Nat} (x : KeySlot) (h : j ≠ k) : (s.setKey k x).key j = s.key j := tget_tset_ne _ _ _ h

/-! ## Groups and threads -/

theorem group_modGroup_ne (s : State) {g h : Nat} (f : Group → Group) (hne : h ≠ g) : (s.modGroup g f).group h = s.group h := by
  simp [State.group, List.getD_eq_getElem?_getD, Ne.symm hne]

theorem group_modGroup_same (s : State) {g : Nat} (f : Group → Group) (hg : g < s.groups.length) : (s.modGroup g f).group g = f (s.group g) := by
  simp [State.group, List.getD_eq_getElem?_getD, hg]

/-- A group beyond the list is the default before and after. -/
theorem group_of_length_le (s : State) {g : Nat} (h : s.groups.length ≤ g) : s.group g = {} := by
  simp [State.group, List.getD_eq_getElem?_getD, List.getElem?_eq_none h]

theorem group_modThread (s : State) (r : TRef) (f : Thread → Thread) (g : Nat) :
    (s.modThread r f).group g = { s.group g with threads := ((s.modThread r f).group g).threads } := by
  by_cases h : g = r.g
  · subst h
    by_cases hl : r.g < s.groups.length
    · rw [State.modThread, group_modGroup_same _ _ hl]
    · have hl' : s.groups.length ≤ r.g := Nat.not_lt.mp hl
      have : ((s.modThread r f).groups).length ≤ r.g := by simpa using hl'
      rw [group_of_length_le _ this, group_of_length_le _ hl']
  · rw [State.modThread, group_modGroup_ne _ _ h]

theorem thread_modThread_ne (s : State) {r q : TRef} (f : Thread → Thread) (h : q ≠ r) : (s.modThread r f).thread q = s.thread q := by
  by_cases hg : q.g = r.g
  · have ht : r.t ≠ q.t := by
      intro e; exact h (by cases q; cases r; simp_all)
    by_cases hl : r.g < s.groups.length
    · simp only [State.thread, State.modThread]
      rw [hg, group_modGroup_same _ _ hl]
      simp [List.getD_eq_getElem?_getD, ht]
    · have hl' : s.groups.length ≤ r.g := Nat.not_lt.mp hl
      have : ((s.modThread r f).groups).length ≤ r.g := by simpa using hl'
      simp only [State.thread, hg]
      rw [group_of_length_le _ this, group_of_length_le _ hl']
  · simp only [State.thread, State.modThread, group_modGroup_ne _ _ hg]

/-- The state lists this thread. -/
def State.hasThread (s : State) (r : TRef) : Prop := r.g < s.groups.length ∧ r.t < (s.group r.g).threads.length

theorem thread_modThread_same (s : State) {r : TRef} (f : Thread → Thread) (h : s.hasThread r) : (s.modThread r f).thread r = f (s.thread r) := by
  obtain ⟨hg, ht⟩ := h
  simp only [State.thread, State.modThread, group_modGroup_same _ _ hg]
  simp [List.getD_eq_getElem?_getD, ht]

theorem hasThread_of_status (s : State) {r : TRef} (h : (s.thread r).status ≠ .exited) : s.hasThread r := by
  refine ⟨Nat.lt_of_not_le fun hl => h ?_, Nat.lt_of_not_le fun hl => h ?_⟩
  · simp [State.thread, group_of_length_le _ hl]
  · simp [State.thread, List.getD_eq_getElem?_getD, List.getElem?_eq_none hl]

theorem hasThread_modThread (s : State) (r q : TRef) (f : Thread → Thread) : (s.modThread r f).hasThread q ↔ s.hasThread q := by
  simp only [State.hasThread, State.modThread_groups, List.length_modify]
  refine and_congr_right fun hg => ?_
  by_cases h : q.g = r.g
  · rw [State.modThread, h, group_modGroup_same _ _ (h ▸ hg)]; simp
  · rw [State.modThread, group_modGroup_ne _ _ h]

/-- Two changes of one thread. -/
theorem modThread_modThread (s : State) (r : TRef) (f g : Thread → Thread) : (s.modThread r f).modThread r g = s.modThread r (g ∘ f) := by
  simp only [State.modThread, State.modGroup, List.modify_modify_eq]
  congr 2
  funext x
  simp only [Function.comp, List.modify_modify_eq]

/-- A thread replaced by what it becomes. -/
theorem modThread_const (s : State) (r : TRef) (g : Thread → Thread) : (s.modThread r fun _ => g (s.thread r)) = s.modThread r g := by
  simp only [State.modThread, State.modGroup]
  congr 1
  apply List.ext_getElem?
  intro i
  simp only [List.getElem?_modify]
  cases hg : s.groups[i]? with
  | none => simp
  | some x =>
    by_cases h : r.g = i
    · subst h
      have hth : s.thread r = (x.threads[r.t]?).getD { status := .exited } := by
        simp [State.thread, State.group, List.getD_eq_getElem?_getD, hg]
      simp only [if_true, Option.map_eq_map, Option.map_some, Option.some.injEq, Group.mk.injEq, true_and, and_true]
      rw [hth]
      apply List.ext_getElem?
      intro j
      simp only [List.getElem?_modify]
      by_cases hj : r.t = j
      · subst hj
        cases ht : x.threads[r.t]? <;> simp
      · simp [hj]
    · simp [h]

/-! ## Memory -/

theorem memSorted_mono {lo lo' : Nat} {m : List Host.Cell} (h : lo' ≤ lo) (hm : memSorted lo m = true) : memSorted lo' m = true := by
  cases m with
  | nil => rfl
  | cons c r => simp only [memSorted, Bool.and_eq_true, decide_eq_true_eq] at hm ⊢; exact ⟨⟨by omega, hm.1.2⟩, hm.2⟩

theorem memRd_of_lt {lo a : Nat} {m : List Host.Cell} (hm : memSorted lo m = true) (h : a < lo) : memRd m a = 0 := by
  induction m generalizing lo with
  | nil => rfl
  | cons c r ih =>
    obtain ⟨b, v⟩ := c
    simp only [memSorted, Bool.and_eq_true, decide_eq_true_eq] at hm
    have hb : b ≠ a := by omega
    simp only [memRd, hb, if_false]
    exact ih hm.2 (by omega)

/-- A byte written keeps the canonical form. -/
theorem memWr_sorted {lo : Nat} {m : List Host.Cell} {a : Nat} {v : Byte} (hm : memSorted lo m = true) (h : lo ≤ a) :
    memSorted lo (memWr m a v) = true := by
  induction m generalizing lo with
  | nil => simp only [memWr]; split <;> simp_all [memSorted]
  | cons c r ih =>
    obtain ⟨b, w⟩ := c
    simp only [memSorted, Bool.and_eq_true, decide_eq_true_eq] at hm
    simp only [memWr]
    split
    · rename_i hlt
      simp only [memSorted, Bool.and_eq_true, decide_eq_true_eq]
      exact ⟨hm.1, ih hm.2 hlt⟩
    · split
      · rename_i hab
        subst hab
        split
        · exact memSorted_mono (by omega) hm.2
        · rename_i hv
          simp only [memSorted, Bool.and_eq_true, decide_eq_true_eq]
          exact ⟨⟨h, hv⟩, hm.2⟩
      · split
        · simp only [memSorted, Bool.and_eq_true, decide_eq_true_eq]; exact hm
        · rename_i hv
          have hab : a + 1 ≤ b := by omega
          simp only [memSorted, Bool.and_eq_true, decide_eq_true_eq]
          exact ⟨⟨h, hv⟩, ⟨hab, hm.1.2⟩, hm.2⟩

theorem memRd_memWr_same {lo : Nat} {m : List Host.Cell} (a : Nat) (v : Byte) (hm : memSorted lo m = true) :
    memRd (memWr m a v) a = v := by
  induction m generalizing lo with
  | nil => simp only [memWr]; split <;> simp_all [memRd]
  | cons c r ih =>
    obtain ⟨b, w⟩ := c
    simp only [memSorted, Bool.and_eq_true, decide_eq_true_eq] at hm
    simp only [memWr]
    split
    · rename_i hlt
      have : b ≠ a := by omega
      simp [memRd, this, ih hm.2]
    · split
      · subst_vars
        split
        · subst_vars; exact memRd_of_lt hm.2 (by omega)
        · simp [memRd]
      · split
        · subst_vars
          have : b ≠ a := by omega
          simp only [memRd, this, if_false]
          exact memRd_of_lt hm.2 (by omega)
        · simp [memRd]

theorem memRd_memWr_ne {m : List Host.Cell} {a b : Nat} (v : Byte) (h : b ≠ a) : memRd (memWr m a v) b = memRd m b := by
  induction m with
  | nil => simp only [memWr]; split <;> simp [memRd, Ne.symm h]
  | cons c r ih =>
    obtain ⟨x, w⟩ := c
    simp only [memWr]
    split
    · simp [memRd, ih]
    · split
      · subst_vars
        split <;> simp [memRd, Ne.symm h]
      · split <;> simp [memRd, Ne.symm h]

theorem memWrs_wf {m : List Host.Cell} {a : Nat} {bs : List Byte} (h : Memory.wf m = true) : Memory.wf (memWrs m a bs) = true := by
  induction bs generalizing m a with
  | nil => exact h
  | cons b bs ih => exact ih (memWr_sorted h (Nat.zero_le _))

theorem memRd_memWrs_out {m : List Host.Cell} {a b : Nat} {bs : List Byte} (h : b < a ∨ a + bs.length ≤ b) :
    memRd (memWrs m a bs) b = memRd m b := by
  induction bs generalizing m a with
  | nil => rfl
  | cons x bs ih =>
    simp only [List.length_cons] at h
    rw [memWrs, ih (by omega), memRd_memWr_ne _ (by omega)]

theorem memRd_memWrs_in {m : List Host.Cell} {a i : Nat} {bs : List Byte} (hm : Memory.wf m = true) (h : i < bs.length) :
    memRd (memWrs m a bs) (a + i) = bs.getD i 0 := by
  induction bs generalizing m a i with
  | nil => simp at h
  | cons x bs ih =>
    cases i with
    | zero =>
      rw [memWrs, Nat.add_zero, memRd_memWrs_out (by omega)]
      simpa using memRd_memWr_same a x hm
    | succ i =>
      have hi : i < bs.length := by simpa using h
      have := ih (m := memWr m a x) (a := a + 1) (memWr_sorted hm (Nat.zero_le _)) hi
      rw [memWrs, show a + (i + 1) = a + 1 + i by omega, this]
      simp

theorem memFilter_sorted {lo : Nat} {m : List Host.Cell} (p : Host.Cell → Bool) (hm : memSorted lo m = true) : memSorted lo (m.filter p) = true := by
  induction m generalizing lo with
  | nil => rfl
  | cons c r ih =>
    obtain ⟨b, v⟩ := c
    simp only [memSorted, Bool.and_eq_true, decide_eq_true_eq] at hm
    simp only [List.filter_cons]
    split
    · simp only [memSorted, Bool.and_eq_true, decide_eq_true_eq]; exact ⟨hm.1, ih hm.2⟩
    · exact ih (memSorted_mono (by omega) hm.2)

theorem memClear_wf {m : List Host.Cell} {lo hi : Nat} (h : Memory.wf m = true) : Memory.wf (memClear m lo hi) = true := memFilter_sorted _ h

/-! ## Memory of a state -/

/-- Memory is canonical in this state. -/
def State.memOk (s : State) : Prop := Memory.wf s.mem = true

theorem memOk_reset : State.reset.memOk := rfl
theorem memOk_wrs {s : State} (a : Nat) (bs : List Byte) (h : s.memOk) : (s.wrs a bs).memOk := memWrs_wf h
theorem memOk_wr {s : State} (a : Nat) (b : Byte) (h : s.memOk) : (s.wr a b).memOk := memWr_sorted h (Nat.zero_le _)
theorem memOk_clear {s : State} (lo hi : Nat) (h : s.memOk) : (s.clear lo hi).memOk := memClear_wf h

theorem rd_wrs_in {s : State} {a i : Nat} {bs : List Byte} (hm : s.memOk) (h : i < bs.length) : (s.wrs a bs).rd (a + i) = bs.getD i 0 :=
  memRd_memWrs_in hm h

theorem rd_wrs_out {s : State} {a b : Nat} {bs : List Byte} (h : b < a ∨ a + bs.length ≤ b) : (s.wrs a bs).rd b = s.rd b := memRd_memWrs_out h

end Sys2Proof.Machine
end

