-- ==== Sys2Proof/Laws/Seal.lean ====
section
/-! SUPPORT. Bytes and bit fields read back from what was written, and the seals of handles and records. -/

namespace Sys2Proof.Machine

/-! ## Bytes -/

@[simp] theorem bytesOf_length (k v : Nat) : (bytesOf k v).length = k := by
  induction k generalizing v with
  | zero => rfl
  | succ k ih => simp [bytesOf, ih]

theorem ofBytes_bytesOf (k v : Nat) : ofBytes (bytesOf k v) = v % 256 ^ k := by
  induction k generalizing v with
  | zero => simp [bytesOf, ofBytes, Nat.mod_one]
  | succ k ih =>
    simp only [bytesOf, ofBytes, ih, BitVec.toNat_ofNat]
    rw [show 256 ^ (k + 1) = 256 * 256 ^ k by ring, Nat.mod_mul]

theorem memRds_eq {m : List Host.Cell} {a n : Nat} {bs : List Byte} (hl : bs.length = n) (h : ∀ i < n, memRd m (a + i) = bs.getD i 0) : memRds m a n = bs := by
  induction n generalizing a bs with
  | zero => simp [memRds, List.eq_nil_of_length_eq_zero hl]
  | succ n ih =>
    cases bs with
    | nil => simp at hl
    | cons b bs =>
      simp only [memRds, List.cons.injEq]
      refine ⟨by simpa using h 0 (by omega), ih (by simpa using hl) fun i hi => ?_⟩
      have := h (i + 1) (by omega)
      rwa [show a + (i + 1) = a + 1 + i by omega, List.getD_cons_succ] at this

/-- What was written is read. -/
theorem rds_wrs {s : State} (a : Nat) (bs : List Byte) (hm : s.memOk) : (s.wrs a bs).rds a bs.length = bs :=
  memRds_eq rfl fun _ hi => rd_wrs_in hm hi

theorem ofBytes_rds_wrs {s : State} (a k v : Nat) (hm : s.memOk) (hv : v < 2 ^ (8 * k)) : ofBytes ((s.wrs a (bytesOf k v)).rds a k) = v := by
  rw [Nat.pow_mul] at hv
  have := rds_wrs a (bytesOf k v) hm
  rw [bytesOf_length] at this
  rw [this, ofBytes_bytesOf, Nat.mod_eq_of_lt hv]

/-! ## Bit fields -/

/-- A field below a bit does not see what stands from it upward. -/
theorem bits_low (n x k hi lo : Nat) (h : hi < k) (hl : lo ≤ hi) : bits (n + x * 2 ^ k) hi lo = bits n hi lo := by
  unfold bits
  rw [Nat.shiftRight_eq_div_pow, Nat.shiftRight_eq_div_pow]
  obtain ⟨d, rfl⟩ : ∃ d, k = lo + ((hi - lo + 1) + d) := ⟨k - hi - 1, by omega⟩
  rw [Nat.pow_add, Nat.pow_add, show x * (2 ^ lo * (2 ^ (hi - lo + 1) * 2 ^ d)) = 2 ^ lo * (2 ^ (hi - lo + 1) * (2 ^ d * x)) by ring,
    Nat.add_mul_div_left _ _ (Nat.pow_pos (by decide)), Nat.add_mul_mod_self_left]

/-- The field from a bit upward is what stands there. -/
theorem bits_high (n x k hi : Nat) (hn : n < 2 ^ k) (hx : x < 2 ^ (hi - k + 1)) : bits (n + x * 2 ^ k) hi k = x := by
  unfold bits
  rw [Nat.shiftRight_eq_div_pow, Nat.add_mul_div_right _ _ (Nat.pow_pos (by decide)), Nat.div_eq_of_lt hn, Nat.zero_add, Nat.mod_eq_of_lt hx]

/-! ## Handles (R327, R328) -/

/-- A sealed handle as a number: its low 80 bits, and its seal above them. -/
theorem sealed_toNat (s : State) (c n : Nat) : (s.sealed c n).toNat = n % 2 ^ 80 + s.sealOf c (.ofNat 128 (n % 2 ^ 80)) * 2 ^ 80 := by
  have h1 : n % 2 ^ 80 < 2 ^ 80 := Nat.mod_lt _ (Nat.two_pow_pos _)
  have h2 : s.sealOf c (.ofNat 128 (n % 2 ^ 80)) < 2 ^ 48 := by
    unfold State.sealOf
    exact BitVec.isLt _
  unfold State.sealed
  rw [BitVec.toNat_ofNat, BitVec.toNat_ofNat]
  omega

/-- Every field of a handle but its seal is that of the low bits it was made from. -/
theorem sealed_bits (s : State) (c n hi lo : Nat) (h : hi < 80) (hl : lo ≤ hi) : bits (s.sealed c n).toNat hi lo = bits (n % 2 ^ 80) hi lo := by
  rw [sealed_toNat, bits_low _ _ _ _ _ h hl]

theorem sealed_body (s : State) (c n : Nat) : hBody (s.sealed c n) = hBody (.ofNat 128 (n % 2 ^ 80)) := by
  have h1 : (BitVec.ofNat 128 (n % 2 ^ 80)).toNat = n % 2 ^ 80 := by
    rw [BitVec.toNat_ofNat]
    omega
  simp only [hBody, h1]
  rw [sealed_bits _ _ _ _ _ (by decide) (by decide), sealed_bits _ _ _ _ _ (by decide) (by decide)]

/-- The seal of a sealed handle is right. -/
theorem sealed_ok (s : State) (c n : Nat) (h : n % 2 ^ 80 ≠ 0) : s.sealOk c (s.sealed c n) = true := by
  have hs : bits (s.sealed c n).toNat 127 80 = s.sealOf c (s.sealed c n) := by
    rw [sealed_toNat, bits_high _ _ _ _ (Nat.mod_lt _ (Nat.two_pow_pos _)) (by unfold State.sealOf; exact BitVec.isLt _)]
    simp only [State.sealOf, sealed_body]
  have h0 : s.sealed c n ≠ 0 := by
    intro h0
    have := sealed_toNat s c n
    rw [h0] at this
    simp at this
    omega
  simp only [State.sealOk, hs, decide_true, Bool.and_true, decide_eq_true_eq]
  exact h0

/-- The fields of a sealed handle, from the low bits it was made from. -/
theorem sealed_fields (s : State) (c n : Nat) (hn : n < 2 ^ 80) : hHome (s.sealed c n) = bits n 5 0 ∧ hIndex (s.sealed c n) = bits n 29 6 ∧
    hK (s.sealed c n) = bits n 35 30 ∧ hGen (s.sealed c n) = bits n 51 36 ∧ hRights (s.sealed c n) = bits n 57 52 ∧ hKey (s.sealed c n) = bits n 63 58 ∧
    hTag (s.sealed c n) = bits n 67 64 ∧ hInd (s.sealed c n) = decide (bits n 68 68 = 1) := by
  have h (hi lo : Nat) (h : hi < 80) (hl : lo ≤ hi) : bits (s.sealed c n).toNat hi lo = bits n hi lo := by rw [sealed_bits s c n hi lo h hl, Nat.mod_eq_of_lt hn]
  simp only [hHome, hIndex, hK, hGen, hRights, hKey, hTag, hInd]
  refine ⟨h _ _ ?_ ?_, h _ _ ?_ ?_, h _ _ ?_ ?_, h _ _ ?_ ?_, h _ _ ?_ ?_, h _ _ ?_ ?_, h _ _ ?_ ?_, by rw [h _ _ (by decide) (by decide)]⟩ <;> decide

/-- A handle of the same low 80 bits with another seal. -/
def State.missealed (s : State) (c n : Nat) : QWord := .ofNat 128 (n % 2 ^ 80 + (s.sealOf c (.ofNat 128 (n % 2 ^ 80)) + 1) % 2 ^ 48 * 2 ^ 80)

/-- Its seal is not right. -/
theorem missealed_bad (s : State) (c n : Nat) : s.sealOk c (s.missealed c n) = false := by
  have h1 : n % 2 ^ 80 < 2 ^ 80 := Nat.mod_lt _ (Nat.two_pow_pos _)
  have h2 : s.sealOf c (.ofNat 128 (n % 2 ^ 80)) < 2 ^ 48 := by
    unfold State.sealOf
    exact BitVec.isLt _
  have h3 : (s.missealed c n).toNat = n % 2 ^ 80 + (s.sealOf c (.ofNat 128 (n % 2 ^ 80)) + 1) % 2 ^ 48 * 2 ^ 80 := by
    unfold State.missealed
    rw [BitVec.toNat_ofNat]
    omega
  have h4 : s.sealOf c (s.missealed c n) = s.sealOf c (.ofNat 128 (n % 2 ^ 80)) := by
    have h5 : (BitVec.ofNat 128 (n % 2 ^ 80)).toNat = n % 2 ^ 80 := by
      rw [BitVec.toNat_ofNat]
      omega
    have h6 : hBody (s.missealed c n) = hBody (.ofNat 128 (n % 2 ^ 80)) := by
      simp only [hBody, h3, h5]
      rw [bits_low _ _ _ _ _ (by decide) (by decide), bits_low _ _ _ _ _ (by decide) (by decide)]
    simp only [State.sealOf, h6]
  have h7 : bits (s.missealed c n).toNat 127 80 = (s.sealOf c (.ofNat 128 (n % 2 ^ 80)) + 1) % 2 ^ 48 := by
    rw [h3]
    exact bits_high _ _ _ _ h1 (Nat.mod_lt _ (Nat.two_pow_pos 48))
  unfold State.sealOk
  rw [h7, h4, Bool.and_eq_false_iff]
  right
  simp only [decide_eq_false_iff_not]
  omega

/-! ## Records (R300, R301) -/

/-- The record of some low 448 bits, sealed in a context. -/
def sealedRecord (s : State) (c n : Nat) : Packet := .ofNat 512 (n % 2 ^ 448 + (Config.sealRecord (s.ctx c).sealKey c (n % 2 ^ 448)).toNat * 2 ^ 448)

theorem sealedRecord_toNat (s : State) (c n : Nat) :
    (sealedRecord s c n).toNat = n % 2 ^ 448 + (Config.sealRecord (s.ctx c).sealKey c (n % 2 ^ 448)).toNat * 2 ^ 448 := by
  have h1 := Nat.mod_lt n (Nat.two_pow_pos 448)
  have h2 : (Config.sealRecord (s.ctx c).sealKey c (n % 2 ^ 448)).toNat < 2 ^ 64 := BitVec.isLt _
  unfold sealedRecord
  rw [BitVec.toNat_ofNat]
  omega

/-- Every field of a record but its seal is that of the low bits it was made from. -/
theorem sealedRecord_bits (s : State) (c n hi lo : Nat) (h : hi < 448) (hl : lo ≤ hi) : bits (sealedRecord s c n).toNat hi lo = bits (n % 2 ^ 448) hi lo := by
  rw [sealedRecord_toNat, bits_low _ _ _ _ _ h hl]

/-- The seal of a sealed record is right. -/
theorem sealedRecord_ok (s : State) (c n : Nat) : s.recordSealed c (sealedRecord s c n) = true := by
  have h1 := Nat.mod_lt n (Nat.two_pow_pos 448)
  have h2 : (sealedRecord s c n).toNat % 2 ^ 448 = n % 2 ^ 448 := by
    rw [sealedRecord_toNat, Nat.add_mul_mod_self_right, Nat.mod_mod]
  have h3 : bits (sealedRecord s c n).toNat 511 448 = (Config.sealRecord (s.ctx c).sealKey c (n % 2 ^ 448)).toNat := by
    rw [sealedRecord_toNat]
    exact bits_high _ _ _ _ h1 (by rw [show 511 - 448 + 1 = 64 from rfl]; exact BitVec.isLt _)
  unfold State.recordSealed
  rw [h2, h3, decide_eq_true_iff]

end Sys2Proof.Machine
end

