-- ==== Sys2Proof/Laws/Sheaf.lean ====
section
/-! SUPPORT. What a sheaf does (R33, R34, R125): one law for a sheaf whose every lane reaches its effect, and the effects of the register
writes that most instructions end in. -/

namespace Sys2Proof.Machine

theorem hasThread_of_canIssue (s : State) {r : TRef} (h : s.canIssue r = true) : s.hasThread r := by
  apply hasThread_of_status
  intro e
  simp [State.canIssue, e] at h

/-! ## States that differ in threads only -/

/-- u is s but for threads, fresh names and the sheaf's name. -/
def SameShape (s u : State) : Prop :=
  u = { s with groups := u.groups, fresh := u.fresh, sheafId := u.sheafId } ∧ u.groups.length = s.groups.length ∧
    ∀ g, u.group g = { s.group g with threads := (u.group g).threads }

theorem SameShape.refl (s : State) : SameShape s s := ⟨rfl, rfl, fun _ => rfl⟩

theorem SameShape.state {s u : State} (h : SameShape s u) (g : Nat) : (u.group g).state = (s.group g).state := by rw [h.2.2 g]
theorem SameShape.launchIdx {s u : State} (h : SameShape s u) (g : Nat) : (u.group g).launch = (s.group g).launch := by rw [h.2.2 g]
theorem SameShape.coreIdx {s u : State} (h : SameShape s u) (g : Nat) : (u.group g).core = (s.group g).core := by rw [h.2.2 g]

theorem SameShape.ctxOf {s u : State} (h : SameShape s u) (g : Nat) : u.ctxOf g = s.ctxOf g := by
  have hl : u.launches = s.launches := by rw [h.1]
  simp only [State.ctxOf, State.launchOf, State.launch, h.launchIdx, hl]

theorem SameShape.ctx {s u : State} (h : SameShape s u) (x : Nat) : u.ctx x = s.ctx x := by
  have hc : u.ctxs = s.ctxs := by rw [h.1]
  simp only [State.ctx, hc]

theorem SameShape.modThread {s u : State} (h : SameShape s u) (r : TRef) (f : Thread → Thread) : SameShape s (u.modThread r f) := by
  refine ⟨?_, by simpa using h.2.1, fun g => ?_⟩
  · have := h.1
    rw [State.modThread, State.modGroup]
    rw [this]
  · rw [group_modThread, h.2.2 g]

theorem SameShape.fresh {s u : State} (h : SameShape s u) (n : Nat) : SameShape s { u with fresh := n } := by
  refine ⟨?_, h.2.1, fun g => h.2.2 g⟩
  have := h.1
  rw [this]

theorem SameShape.sheafId {s u : State} (h : SameShape s u) (n : Nat) : SameShape s { u with sheafId := n } := by
  refine ⟨?_, h.2.1, fun g => h.2.2 g⟩
  have := h.1
  rw [this]

theorem SameBut.of {s t : State} {rs : List TRef} (h : SameShape s t) (hr : ∀ r, r ∉ rs → t.thread r = s.thread r) : SameBut rs s t :=
  ⟨h.1, h.2.1, h.2.2, hr⟩

/-! ## The lanes of a sheaf in turn -/

theorem canIssue_of {s u : State} {r : TRef} (h : SameShape s u) (ht : u.thread r = s.thread r) : u.canIssue r = s.canIssue r := by
  simp only [State.canIssue, ht, h.state]

/-- A lane that is laneOk runs its effect. -/
theorem runLane_ok {f : Form} {body : State → TRef → LaneRes} {s u : State} {r : TRef} (hs : SameShape s u) (ht : u.thread r = s.thread r)
    (hok : s.laneOk f r = true) :
    runLane f body u r = match body u r with
      | .done s' => (s'.tick.modThread r (·.issued f.sw ((s.thread r).pc + 4)), none)
      | .jump s' pc => (s'.tick.modThread r (·.issued f.sw pc), none)
      | .stay s' => (s', none)
      | .again s' => (s'.tick, none)
      | .fault c d0 d1 => (u, some { r := r, code := c, d0 := d0, d1 := d1 })
      | .faultMask c d0 d1 m => (u, some { r := r, code := c, d0 := d0, d1 := d1, lanes := some (r.t / 32, m) })
      | .doneFault s' c d0 d1 fu m => (s'.tick, some { r := r, code := c, d0 := d0, d1 := d1, lanes := some (fu, m) }) := by
  simp only [State.laneOk, Bool.and_eq_true, Bool.or_eq_true, Bool.not_eq_true', decide_eq_true_eq] at hok
  obtain ⟨⟨⟨⟨hc, hb⟩, hp⟩, hv⟩, hst⟩ := hok
  have hset : (if f.access then u.settle r else u) = u := by
    split
    · rename_i ha
      have : (u.thread r).pend = [] := by
        rcases hp with hp | hp
        · simp [ha] at hp
        · rw [ht]; exact List.isEmpty_iff.mp hp
      simp only [State.settle, this]
    · rfl
  have hpend : (f.access && !(u.thread r).pend.isEmpty) = false := by
    rcases hp with hp | hp
    · simp [hp]
    · rw [ht]; simp [hp]
  have hroom : (f.var && decide (Config.maxOutstanding ≤ (u.thread r).outs.length)) = false := by
    rcases hv with hv | hv
    · simp [hv]
    · rw [ht]; simp [Nat.not_le.mpr hv]
  have hstale : ((u.ctx (u.ctxOf r.g)).stale && (u.thread r).staleRead f.reads) = false := by
    rw [hs.ctxOf, hs.ctx, ht]; exact hst
  have hcan : u.canIssue r = true := by rw [canIssue_of hs ht]; exact hc
  unfold runLane
  rw [ht] at hpend hroom hstale
  simp only [hcan, Bool.not_true, Bool.false_eq_true, if_false, ht, hb, hset, hpend, hroom, hstale] <;> rfl

/-- A sheaf whose every lane reaches its effect: each lane's effect on its own thread, and nothing else. -/
theorem runLanes_does {f : Form} {body : State → TRef → LaneRes} {eff : TRef → Thread → Thread → Prop} (s : State)
    (hbody : ∀ u r, SameShape s u → u.thread r = s.thread r → s.laneOk f r = true →
      ∃ n th, runLane f body u r = ({ u with fresh := n }.modThread r fun _ => th, none) ∧ eff r (s.thread r) th) :
    ∀ (rs : List TRef) (u : State), rs.Nodup → (∀ r ∈ rs, s.laneOk f r = true) → SameShape s u → (∀ r ∈ rs, u.thread r = s.thread r) →
      ∃ t, runLanes f body rs u [] = (t, []) ∧ SameShape s t ∧ (∀ r, r ∉ rs → t.thread r = u.thread r) ∧
        ∀ r ∈ rs, eff r (s.thread r) (t.thread r) := by
  intro rs
  induction rs with
  | nil => intro u _ _ hu _; exact ⟨u, rfl, hu, fun _ _ => rfl, by simp⟩
  | cons r rs ih =>
    intro u hn hl hu ht
    obtain ⟨hr, hn⟩ := List.nodup_cons.mp hn
    have hok := hl r (by simp)
    obtain ⟨n, th, hrun, heff⟩ := hbody u r hu (ht r (by simp)) hok
    have hu' : SameShape s ({ u with fresh := n }.modThread r fun _ => th) := (hu.fresh n).modThread r _
    have hne : ∀ q, q ≠ r → ({ u with fresh := n }.modThread r fun _ => th).thread q = u.thread q := fun q hq =>
      thread_modThread_ne _ _ hq
    have hhas : ({ u with fresh := n } : State).hasThread r := by
      apply hasThread_of_canIssue
      have h2 : ({ u with fresh := n } : State).canIssue r = u.canIssue r := rfl
      rw [h2, canIssue_of hu (ht r (by simp))]
      simp only [State.laneOk, Bool.and_eq_true] at hok
      exact hok.1.1.1.1
    have hsame : ({ u with fresh := n }.modThread r fun _ => th).thread r = th := thread_modThread_same _ _ hhas
    obtain ⟨t, h1, h2, h3, h4⟩ := ih _ hn (fun q hq => hl q (by simp [hq])) hu' fun q hq => by
      rw [hne q (by rintro rfl; exact hr hq)]; exact ht q (by simp [hq])
    refine ⟨t, ?_, h2, ?_, ?_⟩
    · simp only [runLanes, hrun, Option.toList, List.append_nil]; exact h1
    · intro q hq
      simp only [List.mem_cons, not_or] at hq
      rw [h3 q hq.2, hne q hq.1]
    · intro q hq
      rcases List.mem_cons.mp hq with rfl | hq
      · rw [h3 q hr, hsame]; exact heff
      · exact h4 q hq

/-- WHAT A SHEAF DOES: where it issues and every lane's effect is on its own thread, exec answers the state in which each thread of the
sheaf has that effect and nothing else has changed. -/
theorem runSheaf_does {f : Form} {body : State → TRef → LaneRes} {eff : TRef → Thread → Thread → Prop} {s : State} (h : s.sheafOk f = true)
    (hbody : ∀ u r, SameShape s u → u.thread r = s.thread r → s.laneOk f r = true →
      ∃ n th, runLane f body u r = ({ u with fresh := n }.modThread r fun _ => th, none) ∧ eff r (s.thread r) th) :
    ∃ t, runSheaf f body s = .next t ∧ SheafDoes s t eff := by
  simp only [State.sheafOk, Bool.and_eq_true, Bool.or_eq_true, Bool.not_eq_true', decide_eq_true_eq, List.all_eq_true] at h
  obtain ⟨⟨⟨hd, hslot⟩, hn⟩, hl⟩ := h
  have hsh : SameShape s { s.tick with sheafId := s.fresh } := ((SameShape.refl s).fresh _).sheafId _
  obtain ⟨t, h1, h2, h3, h4⟩ := runLanes_does s hbody s.sheaf { s.tick with sheafId := s.fresh } hn hl hsh fun _ _ => rfl
  refine ⟨t, ?_, SameBut.of h2 h3, h4⟩
  have hslot' : (f.slot && decide (Config.returnSlots ≤ (s.core s.sheafCore).retSlots.length)) = false := by
    rcases hslot with hs | hs
    · simp [hs]
    · simp [Nat.not_le.mpr hs]
  unfold runSheaf
  rw [if_neg (by simp [hd]), if_neg (by simp [hslot'])]
  exact congrArg (fun p : State × List LaneFault => Host.Outcome.next (raiseFaults p.2 p.2 [] p.1)) h1

/-! ## Reads and writes of registers -/

/-- What State.reg answers is a value R35 allows. -/
theorem reg_reads (s : State) (r : TRef) (v : BitVec 7) (k : Nat) : (s.thread r).reads v k (s.reg r v k) := by
  unfold Thread.reads State.reg
  split
  · rfl
  · simp only [Thread.rawReg]
    split
    · rename_i c hc
      by_cases hv : c.vals = []
      · left; simp [hv]
      · right
        refine ⟨c, List.mem_of_find?_eq_some hc, by simpa using List.find?_some hc, ?_⟩
        rw [List.getD_eq_getElem?_getD, List.getElem?_eq_getElem (Nat.mod_lt _ (List.length_pos_of_ne_nil hv))]
        exact List.getElem_mem _
    · left; rfl

/-- A lane that writes a group and goes on. -/
theorem runLane_setRegs {f : Form} {body : State → TRef → LaneRes} {s u : State} {r : TRef} {d : BitVec 7} {ws : List Word}
    (hs : SameShape s u) (ht : u.thread r = s.thread r) (hok : s.laneOk f r = true) (hb : body u r = .done (u.setRegs r d ws)) :
    ∃ n th, runLane f body u r = ({ u with fresh := n }.modThread r fun _ => th, none) ∧
      th = ((s.thread r).write d ws).issued f.sw ((s.thread r).pc + 4) := by
  refine ⟨u.fresh + 1, _, ?_, rfl⟩
  rw [runLane_ok hs ht hok, hb, ← ht]
  simp only [Prod.mk.injEq, and_true]
  let g : Thread → Thread := fun th => (th.write d ws).issued f.sw ((u.thread r).pc + 4)
  have h2 : ((u.setRegs r d ws).modThread r fun th => th.issued f.sw ((u.thread r).pc + 4)) = u.modThread r fun _ => g (u.thread r) := by
    rw [modThread_const u r g]
    unfold State.setRegs
    split
    · simp only [g, Thread.write, if_pos, *]
    · simp only [modThread_modThread, g, Thread.write, if_neg, Function.comp_def, *, not_false_eq_true]
  have h3 := congrArg (fun x : State => { x with fresh := u.fresh + 1 }) h2
  have hf : (u.setRegs r d ws).fresh = u.fresh := by unfold State.setRegs; split <;> rfl
  simp only [State.tick, hf]
  exact h3

/-- A lane that goes to a counter. -/
theorem runLane_jump {f : Form} {body : State → TRef → LaneRes} {s u : State} {r : TRef} {pc : Int}
    (hs : SameShape s u) (ht : u.thread r = s.thread r) (hok : s.laneOk f r = true) (hb : body u r = .jump u pc) :
    ∃ n th, runLane f body u r = ({ u with fresh := n }.modThread r fun _ => th, none) ∧ th = (s.thread r).issued f.sw pc := by
  refine ⟨u.fresh + 1, _, ?_, rfl⟩
  rw [runLane_ok hs ht hok, hb, ← ht]
  simp only [Prod.mk.injEq, and_true]
  exact congrArg (fun x : State => { x with fresh := u.fresh + 1 }) (modThread_const u r fun th => th.issued f.sw pc).symm

/-- A result that becomes outstanding, as a change of the thread (R35, R121). -/
theorem issueOut_eq (s : State) (r : TRef) (f : RegField) (val : ResVal) (slot : Option Nat) :
    s.issueOut r f val slot = s.tick.modThread r fun th => th.await f s.fresh val slot := rfl

/-- A lane that leaves a result outstanding and goes on. -/
theorem runLane_issueOut {f : Form} {body : State → TRef → LaneRes} {s u : State} {r : TRef} {g : RegField} {val : ResVal} {slot : Option Nat}
    (hs : SameShape s u) (ht : u.thread r = s.thread r) (hok : s.laneOk f r = true) (hb : body u r = .done (u.issueOut r g val slot)) :
    ∃ n th, runLane f body u r = ({ u with fresh := n }.modThread r fun _ => th, none) ∧
      th = ((s.thread r).await g u.fresh val slot).issued f.sw ((s.thread r).pc + 4) := by
  refine ⟨u.fresh + 2, _, ?_, rfl⟩
  rw [runLane_ok hs ht hok, hb, ← ht, issueOut_eq]
  simp only [Prod.mk.injEq, and_true]
  have h2 := modThread_const u r fun th => (th.await g u.fresh val slot).issued f.sw ((u.thread r).pc + 4)
  have h3 := modThread_modThread u r (fun th => th.await g u.fresh val slot) fun th => th.issued f.sw ((u.thread r).pc + 4)
  exact congrArg (fun x : State => { x with fresh := u.fresh + 2 }) (h3.trans h2.symm)

/-! ## A sheaf of one lane -/

/-- What exec answers for one lane that reaches its effect. -/
theorem runSheaf_one {f : Form} {body : State → TRef → LaneRes} {s : State} {r : TRef} (h : s.oneOk f r = true) :
    runSheaf f body s = match body s.inSheaf r with
      | .done t => .next (t.tick.modThread r (·.issued f.sw ((s.thread r).pc + 4)))
      | .jump t pc => .next (t.tick.modThread r (·.issued f.sw pc))
      | .stay t => .next t
      | .again t => .next t.tick
      | .fault c d0 d1 => .next (raiseFaults [{ r := r, code := c, d0 := d0, d1 := d1 }] [{ r := r, code := c, d0 := d0, d1 := d1 }] [] s.inSheaf)
      | .faultMask c d0 d1 m => .next (raiseFaults [{ r := r, code := c, d0 := d0, d1 := d1, lanes := some (r.t / 32, m) }]
          [{ r := r, code := c, d0 := d0, d1 := d1, lanes := some (r.t / 32, m) }] [] s.inSheaf)
      | .doneFault t c d0 d1 fu m => .next (raiseFaults [{ r := r, code := c, d0 := d0, d1 := d1, lanes := some (fu, m) }]
          [{ r := r, code := c, d0 := d0, d1 := d1, lanes := some (fu, m) }] [] t.tick) := by
  simp only [State.oneOk, State.sheafOk, Bool.and_eq_true, Bool.or_eq_true, Bool.not_eq_true', decide_eq_true_eq, List.all_eq_true] at h
  obtain ⟨hs, ⟨⟨hd, hslot⟩, -⟩, hl⟩ := h
  have hok : s.laneOk f r = true := hl r (by simp [hs])
  have hsh : SameShape s s.inSheaf := ((SameShape.refl s).fresh _).sheafId _
  have hslot' : (f.slot && decide (Config.returnSlots ≤ (s.core s.sheafCore).retSlots.length)) = false := by
    rcases hslot with hs | hs
    · simp [hs]
    · simp [Nat.not_le.mpr hs]
  unfold runSheaf
  rw [if_neg (by simp [hd]), if_neg (by simp [hslot'])]
  have hrun := runLane_ok (body := body) hsh rfl hok
  have hl : runLanes f body s.sheaf s.inSheaf [] = ((runLane f body s.inSheaf r).1, (runLane f body s.inSheaf r).2.toList) := by
    rw [hs]; simp [runLanes]
  refine (congrArg (fun p : State × List LaneFault => Host.Outcome.next (raiseFaults p.2 p.2 [] p.1)) hl).trans ?_
  simp only [hrun]
  cases body s.inSheaf r <;> simp [raiseFaults]

end Sys2Proof.Machine
end

