-- ==== Sys2Proof/Tests/Slice0.lean ====
section
/-! SUPPORT. The author's tests: ill-formed instructions that WellFormed refuses, words written out from the encoding tables, single steps with
results that the spec gives, and for each statement a state and operands that meet its hypotheses, clause by clause. -/

namespace Sys2Proof.Tests

open Sys2Proof Sys2Proof.Machine

set_option Elab.async false

/-! ## Small states -/

/-- Thread 0 of the one group. -/
def lane : TRef := { g := 0, t := 0 }

/-- The state that `withRunner` makes, with thread 0 as the sheaf. -/
def base : State := { State.reset.withRunner with sheaf := [lane] }

/-- Changes to the thread, its registers, its group, its launch, its context and its kernel header. -/
def thr (s : State) (f : Thread → Thread) : State := s.modThread lane f
def regs (s : State) (ps : List (Nat × Word)) : State := thr s fun th => { th with regs := ps.foldl (fun l p => l.set p.1 p.2) th.regs }
def grp (s : State) (f : Group → Group) : State := s.modGroup 0 f
def lau (s : State) (f : Launch → Launch) : State := s.modLaunch 0 f
def hdr (s : State) (f : Header → Header) : State := lau s fun la => { la with hdr := f la.hdr }
def cx (s : State) (f : Ctx → Ctx) : State := s.setCtx 0 (f (s.ctx 0))

/-- The same with every thread of the furrow Ready; the sheaf is still thread 0. -/
def many : State := grp base fun g => { g with threads := g.threads.map fun th => { th with status := .ready } }

/-- All 32 threads in one sheaf. -/
def full : State := { many with sheaf := (List.range 32).map fun t => { g := 0, t := t } }

/-- A form of single registers. -/
def F (rs ws : List (BitVec 7)) : Form := { sw := false, reads := rs.map fun v => { v := v }, writes := ws.map fun v => { v := v } }

/-- What a step answers: a field of the next state. -/
def after {α : Type} (o : Out) (f : State → α) : Option α := match o with
  | .next t => some (f t)
  | _ => none

/-- A register of thread 0 after a step. -/
def regAfter (o : Out) (i : Nat) : Option Word := after o fun t => (t.thread lane).regs.getD i 0

/-! ## Integer and control statements: hypotheses met -/

theorem witness_IntegerResults : full.sheafOk (F [1, 127] [127]) = true ∧ full.sheafOk (F [3, 1, 2] [3]) = true ∧ base.sheafOk (F [1] [3]) = true := by
  decide +kernel

theorem witness_ImmediateFieldAndPairResults :
    full.sheafOk (F [0] [127]) = true ∧ base.sheafOk (F [] [1]) = true ∧ base.sheafOk (F [1, 2] [3]) = true ∧ base.sheafOk (F [3, 1, 2] [3]) = true ∧
    base.sheafOk { sw := true, reads := [{ v := 126, n := 2 }, { v := 2, n := 2 }], writes := [{ v := 126, n := 2 }] } = true ∧
    base.sheafOk { sw := false, reads := [{ v := 126, n := 2 }, { v := 1 }], writes := [{ v := 2, n := 2 }] } = true ∧
    base.sheafOk { sw := false, reads := [{ v := 1 }, { v := 2 }], writes := [{ v := 126, n := 2 }] } = true ∧
    base.sheafOk { sw := false, reads := [{ v := 126, n := 2 }], writes := [{ v := 1 }] } = true := by
  decide +kernel

theorem witness_DivisionResults : full.sheafOk { F [1, 2] [3] with var := true } = true := by decide +kernel

theorem witness_RegisterWriteAndRead : (127 : BitVec 7) ≠ 0 ∧ (base.thread lane).base + (127 : BitVec 7).toNat + [(5 : Word)].length ≤ (base.thread lane).regs.length ∧
    (base.thread lane).cands = [] := by
  decide +kernel

theorem witness_BranchesAndJumps : full.sheafOk (F [1] []) = true ∧ base.sheafOk { sw := true } = true := by decide +kernel

theorem witness_BranchesAndJumps_target : base.sheafOk (F [0] []) = true ∧ ∀ r ∈ base.sheaf, ∀ x, (base.thread r).reads 0 0 x → x.toNat % 4 = 0 :=
  ⟨by decide +kernel, fun _ _ x (h : x = 0) => by subst h; rfl⟩

theorem witness_WindowMoves : base.sheafOk (F [0] []) = true ∧
    (∀ r ∈ base.sheaf, ∀ w, (base.thread r).reads 0 0 w → 0 ≤ 8 * ((15 : BitVec 7).toInt + w.toInt) ∧ 8 * ((15 : BitVec 7).toInt + w.toInt) ≤ (base.thread r).regs.length - 8) ∧
    base.oneOk (F [0] []) lane = true ∧ ∀ w, (base.thread lane).reads 0 0 w → 8 * ((127 : BitVec 7).toInt + w.toInt) < 0 := by
  refine ⟨by decide +kernel, fun r hr w (h : w = 0) => ?_, by decide +kernel, fun w (h : w = 0) => by subst h; decide +kernel⟩
  subst h
  have : r = lane := by simpa [base] using hr
  subst this
  decide +kernel

def withSp (n : Nat) : State := thr base fun th => { th with sp := .ofNat 32 n }
def withFrame (ret wb : Nat) : State := (withSp 240).wrs (spillAddr 0 0 240) (bytesOf 4 ret ++ bytesOf 2 wb)

theorem witness_CallsAndReturns : (∀ n ∈ [15, 16, 240, 256, 257], (withSp n).oneOk (F [] []) lane = true ∧ ((withSp n).thread lane).sp.toNat = n) ∧
    ((withSp 0).launchOf 0).hdr.spill = 256 ∧
    (withFrame 8 120).oneOk (F [] []) lane = true ∧ (withFrame 8 120).rdNat (spillAddr 0 0 240) 16 % 2 ^ 32 = 8 ∧
    (withFrame 8 120).rdNat (spillAddr 0 0 240) 16 / 2 ^ 32 % 2 ^ 16 = 120 ∧ ((withFrame 8 120).thread lane).regs.length = 128 ∧
    (withFrame 2 0).rdNat (spillAddr 0 0 240) 16 % 2 ^ 32 = 2 ∧ (withFrame 4 4).rdNat (spillAddr 0 0 240) 16 / 2 ^ 32 % 2 ^ 16 = 4 ∧
    (withFrame 4 128).rdNat (spillAddr 0 0 240) 16 / 2 ^ 32 % 2 ^ 16 = 128 ∧
    (∀ w ∈ [0, 3], (regs base [(5, .ofNat 32 w)]).oneOk (F [5] []) lane = true ∧ ((regs base [(5, .ofNat 32 w)]).inSheaf.reg lane 5).toNat = w) ∧
    (regs (withSp 15) [(5, 4)]).oneOk (F [5] []) lane = true := by
  decide +kernel

/-- Thread 1 has arrived at a rendezvous of collective k and waits. -/
def meeting (k : Nat) : State :=
  let s := regs many [(1, 3), (2, 3)]
  match (gathers s lane false 1 2 3)[k]? with
  | some c => (grp s fun g => { g with rdvs := [{ furrow := 0, mask := 3, minor := c.minor, arrived := [(1, 0, 0, 7)] }] }).modThread { g := 0, t := 1 } fun th =>
      { th with status := .waiting (.collective 3 c.minor) }
  | none => s

theorem witness_CollectivesMeet :
    (∀ c ∈ gathers base lane false 1 2 3, base.oneOk c.form lane = true ∧ c.mask.getLsbD 0 = false) ∧
    (let s := regs base [(1, 1), (2, 1)]; s.inSheaf.publishNeeds lane 1 = [] ∧ (s.group 0).rdvs = [] ∧ ∀ c ∈ gathers s lane false 1 2 3,
      s.oneOk c.form lane = true ∧ c.mask.toNat = 1 ∧ ∀ l < 32, c.mask.getLsbD l = true → (s.thread { g := 0, t := l }).status ≠ .exited) ∧
    (let s := regs many [(1, 3), (2, 3)]; ∀ c ∈ gathers s lane false 1 2 3,
      s.oneOk c.form lane = true ∧ c.mask.toNat = 3 ∧ ∀ l < 32, c.mask.getLsbD l = true → (s.thread { g := 0, t := l }).status ≠ .exited) ∧
    full.sheafOk { F [] [1] with var := true } = true ∧
    ∀ k < 4, let s := meeting k; ∀ c ∈ (gathers s lane false 1 2 3)[k]?, s.oneOk c.form lane = true ∧ s.inSheaf.publishNeeds lane 1 = [] ∧
      ∃ v ∈ (s.group 0).rdvs, (s.group 0).rdvs.length = 1 ∧ v.furrow = 0 ∧ v.mask = c.mask ∧ v.minor = c.minor ∧ (v.arrived.map (·.1)) = [1] ∧ c.mask = 3 ∧
        (s.thread { g := 0, t := 1 }).status = .waiting (.collective c.mask c.minor) := by
  decide +kernel

theorem witness_CollectivesMeet_clash :
    (∀ v ∈ [({ furrow := 0, mask := 6, minor := 8 } : Rdv), { furrow := 0, mask := 3, minor := 11 }],
      let s := grp (regs many [(1, 3), (2, 3)]) fun g => { g with rdvs := [v] }
      ∀ c ∈ gathers s lane false 1 2 3, s.oneOk c.form lane = true ∧ c.mask.getLsbD 0 = true ∧ v ∈ (s.group 0).rdvs ∧ v.furrow = lane.t / 32 ∧ v.mask &&& c.mask ≠ 0 ∧
        ¬(v.mask = c.mask ∧ v.minor = c.minor)) ∧
    (let s := regs base [(1, 3), (2, 3)]; (s.group 0).rdvs = [] ∧ ∀ c ∈ gathers s lane false 1 2 3, s.oneOk c.form lane = true ∧ c.mask.getLsbD 0 = true ∧
      c.mask.getLsbD 1 = true ∧ (s.thread { g := 0, t := 32 * (lane.t / 32) + 1 }).status = .exited) := by
  decide +kernel

theorem witness_ExitEndsTheThread : ∀ s ∈ [base, many], s.oneOk (F [] []) lane = true ∧ (s.group 0).rdvs = [] ∧ (∀ b ∈ (s.group 0).bars, b.arrived = 0) ∧
    (∀ g ∈ s.groupsOf 0, (s.group g).gbar = 0) ∧ (s.thread lane).outs = [] ∧ (s.group 0).spillAt = none ∧ (s.group 0).record = none ∧
    ((∀ t < (s.group 0).threads.length, t ≠ 0 → (s.thread { g := 0, t := t }).status = .exited) ↔ s = base) := by
  decide +kernel

/-! ## Floating point, formats, memory: hypotheses met -/

theorem witness_RoundingTakesTheNearest : 0 < 1 ∧ 1 < 2 ^ 127 * 1 ∧ ∃ p, (val32 0x3F800000).rat = some p := by
  refine ⟨by decide, by decide, ?_⟩
  have : ∃ n a b, val32 0x3F800000 = .fin n a b := ⟨false, _, _, rfl⟩
  obtain ⟨n, a, b, h⟩ := this
  rw [h]
  exact ⟨_, rfl⟩

theorem witness_FloatArithmetic : full.sheafOk (F [0, 127] [127]) = true ∧ full.sheafOk (F [3, 1, 2] [3]) = true ∧ base.sheafOk (F [1] [3]) = true := by
  decide +kernel

/-- Operands whose exact sum is zero, of opposite sign. -/
theorem witness_FloatArithmetic_zero : ∃ q : ℚ, (val32 0x3F800000).rat = some q ∧ (val32 0xBF800000).rat = some (-q) ∧ (0x3F800000 : Word).msb ≠ (0xBF800000 : Word).msb := by
  have h : ∃ a b, val32 0x3F800000 = .fin false a b ∧ val32 0xBF800000 = .fin true a b := ⟨_, _, rfl, rfl⟩
  obtain ⟨a, b, h1, h2⟩ := h
  exact ⟨a / b, by rw [h1]; simp [Val.rat], by rw [h2]; simp [Val.rat], by decide⟩

theorem witness_BoundedFunctions : full.sheafOk { F [1] [3] with var := true } = true ∧ base.sheafOk { F [1, 2] [3] with var := true } = true := by decide +kernel

/-- Entry 16 of the context holds the descriptor of entry 4. -/
def withEntry : State := cx base fun x => { x with fmt := [9594990450746327040] }

/-- The checks of CVTF and CVTN on entry e at a position. -/
def entryOk (s : State) (e pos : Nat) : Bool :=
  ((s.ctx 0).entry e).valid && decide (e < 13 ∨ 16 ≤ e) && decide ((pos + 1) * ((s.ctx 0).entry e).laneWidth ≤ 32)

theorem witness_Conversions : full.sheafOk (F [1] [3]) = true ∧ full.sheafOk { sw := false, reads := [{ v := 126, n := 2 }], writes := [{ v := 3 }] } = true ∧
    full.sheafOk { sw := false, reads := [{ v := 1 }], writes := [{ v := 126, n := 2 }] } = true ∧ base.sheafOk (F [3, 1] [3]) = true ∧
    base.sheaf = [lane] ∧ base.ctxOf 0 = 0 ∧ entryOk base 12 1 = true ∧ entryOk base 5 7 = true ∧ entryOk withEntry 16 3 = true ∧ withEntry.sheafOk (F [3, 1] [3]) = true ∧
    ((withEntry.ctx 0).entry 16).check = 0 ∧ ((withEntry.ctx 0).entry 16).ovf ≠ 3 ∧ ((base.ctx 0).entry 12).ovf ≠ 3 ∧ base.oneOk (F [1] [3]) lane = true ∧
    ((base.ctx 0).entry 16).valid = false ∧ 32 < (1 + 1) * ((base.ctx 0).entry 0).laneWidth := by
  decide +kernel

/-- A value that is no integer, entries that fault, and an entry whose overflow faults on a value that leaves its range. -/
theorem witness_Conversions_more :
    (∃ q : ℚ, (val32 0x3F000000).rat = some q ∧ ∀ i : ℤ, q ≠ i) ∧
    (let s := regs (cx base fun x => { x with fmt := [0xA5000001 * 2 ^ 32 + 0x80000000] }) [(1, 0x7F800000)];
      s.oneOk (F [3, 1] [3]) lane = true ∧ ((s.tableOf lane).entry 16).valid = true ∧ (0 + 1) * ((s.tableOf lane).entry 16).laneWidth ≤ 32 ∧
      ∀ h, ((s.tableOf lane).entry 16).rnd 0 h (val32 (s.inSheaf.reg lane 1)) = none) ∧
    (∀ e ∈ [13, 14, 15, 16], base.oneOk (F [1] [3]) lane = true ∧ base.oneOk (F [3, 1] [3]) lane = true ∧
      (((base.tableOf lane).entry e).valid = false ∨ e = 13 ∨ e = 14 ∨ e = 15)) := by
  refine ⟨?_, ⟨by decide +kernel, by decide +kernel, by decide +kernel, fun h => rfl⟩, by decide +kernel⟩
  have h : ∃ a b, val32 0x3F000000 = .fin false a b ∧ 2 * a = b ∧ 0 < b := ⟨_, _, rfl, by decide, by decide⟩
  obtain ⟨a, b, h1, h2, h3⟩ := h
  refine ⟨a / b, by rw [h1]; simp [Val.rat], fun i hi => ?_⟩
  have hb : (b : ℚ) ≠ 0 := by positivity
  have ha : 0 < a := by omega
  rw [div_eq_iff hb, ← h2] at hi
  push_cast at hi
  have h4 : (a : ℚ) * (1 - 2 * i) = 0 := by linarith
  rcases mul_eq_zero.1 h4 with h | h
  · exact absurd h (by positivity)
  · have : (2 * i : ℤ) = 1 := by exact_mod_cast (by linarith : (2 * i : ℚ) = 1)
    omega

/-- W[1] holds an entry number, W[2] and W[3] the descriptor of entry 4. -/
def withDesc (e : Nat) (hi : Word) : State := regs base [(1, .ofNat 32 e), (2, 0), (3, hi)]

/-- An FMTSET waits at the hub. -/
def withFmtReq : State := { base with fmtReqs := [{ ctx := 0, entry := 63, desc := 0, out := (lane, 0), kicks := [] }] }

theorem witness_FormatTable :
    (∀ e ∈ [15, 16, 63, 64], (withDesc e 0).oneOk { sw := true, reads := [{ v := 1 }, { v := 2, n := 2 }], var := true } lane = true ∧
      ((withDesc e 0).inSheaf.reg lane 1).toNat = e ∧ ((withDesc e 0).inSheaf.pair lane 2).getLsbD 63 = false) ∧
    ((withDesc 16 0x85280000).inSheaf.pair lane 2).getLsbD 63 = true ∧ (withDesc 16 0x85280000).oneOk { sw := true, reads := [{ v := 1 }, { v := 2, n := 2 }], var := true } lane = true ∧
    Desc.check ((base.ctx 0).entry 4) = 0 ∧ ((base.ctx 0).entry 4).getLsbD 63 = true ∧
    ((withDesc 16 0xFFFFFFFF).inSheaf.pair lane 2).getLsbD 63 = true ∧ Desc.check ((withDesc 16 0xFFFFFFFF).inSheaf.pair lane 2) ≠ 0 ∧
    (∃ q ∈ withFmtReq.fmtReqs, withFmtReq.fmtReqs.length = 1 ∧ q.ctx = 0 ∧ q.kicks = [] ∧ q.entry = 63) ∧
    base.sheafOk { sw := false, reads := [{ v := 0 }], writes := [{ v := 126, n := 2 }], var := true } = true ∧
    base.sheafOk { sw := false, writes := [{ v := 126, n := 2 }], var := true } = true ∧
    base.sheafOk { sw := false, reads := [{ v := 126, n := 2 }], writes := [{ v := 1 }] } = true := by
  decide +kernel

/-- Installs that are the first and the last of their request. -/
theorem witness_FormatTable_installs : ∀ p ∈ [(([] : List Nat), 0), ([0], 1), ([2, 1, 0], 3)], (∀ k < p.2, k ∈ p.1) ∧ p.2 ∉ p.1 ∧ p.2 < 4 := by decide

theorem witness_FormatTable_number : ∀ q ∈ base.sheaf, ∀ x, (base.thread q).reads 0 0 x → x.toNat < 64 := fun _ _ x (h : x = 0) => by subst h; decide

/-- The pair at 10 holds a pointer; the launch has one scratch frame on die 0 with these attributes. -/
def withPtr (hi lo : Nat) (attr : BitVec 64 := 0) : State :=
  lau (regs base [(10, .ofNat 32 lo), (11, .ofNat 32 hi)]) fun la => { la with scratch := [(0, { frames := [3], attrs := [attr] })] }

/-- The first failing check of a 4-byte access through it. -/
def checked (hi lo : Nat) (store : Bool) : Option (Nat × Nat) :=
  pointerFault (withPtr hi lo) lane ((withPtr hi lo).inSheaf.pair lane 10) ((((withPtr hi lo).inSheaf.pair lane 10).toNat % 2 ^ 50 : Nat) : Int) 4 store

theorem witness_PointerChecksInOrder :
    (∀ q ∈ [(0, 0, 7, 0), (0x30000000, 0, 8, 1), (0x28000000, 0, 8, 2), (0x20180000, 0, 8, 2), (0x20000000, 2, 9, 4), (0x10000000, 256, 5, 1),
        (0x20000000, 4096, 5, 0), (0x20000000, 0x100000, 5, 2), (0x40000000, 65536, 6, 0), (0x60000000, 4, 8, 5), (0x80000000, 0, 8, 5)],
      checked q.1 q.2.1 false = some (q.2.2.1, q.2.2.2)) ∧ checked 0x60000000 0 true = some (8, 3) ∧
    (∀ q ∈ [(0x10000000, 252), (0x20000000, 4092), (0x20000000, 524288), (0x40000000, 65532)], checked q.1 q.2 false = none ∧ checked q.1 q.2 true = none) ∧
    checked 0x60000000 0 false = none ∧ (withPtr 0 0).oneOk (ldForm false 1 10 4) lane = true ∧ (withPtr 0 0).oneOk (stForm false 1 10 6) lane = true := by
  decide +kernel

/-- The place of a 4-byte access through the pair at 10. -/
def placeOf (s : State) (store : Bool) : Option Place := (s.inSheaf.resolve lane (s.inSheaf.pair lane 10) 0 4 store).toOption

/-- Die 0 relocks. -/
def relocking (s : State) : State := s.setDie 0 { s.die 0 with relock := some 5 }

theorem witness_LoadsRead : (withPtr 0x10000000 252).oneOk (ldForm false 1 10 4) lane = true ∧
    placeOf (withPtr 0x10000000 252) false = some (.priv (spillAddr 0 0 252)) ∧ placeOf (withPtr 0x60000000 0) false = some (.code 0) ∧
    placeOf (lau (withPtr 0x80000000 0) fun la => { la with const := [1, 2, 3, 4] }) false = some (.const 0) ∧
    placeOf (withPtr 0x20000000 4092) false = some (.loc (gmemAddr 0 4092)) ∧ ownGmem 0 (gmemAddr 0 4092) = true ∧ ownGmem 0 (gmemAddr 0 4095) = true ∧
    (withPtr 0 0).stores = [] ∧ placeOf (withPtr 0x40000000 65532) false = some (.loc (scratchAddr 0 3 65532)) ∧
    (withPtr 0x40000000 65532).inSheaf.loadWaits 0 (scratchAddr 0 3 65532) 4 = false ∧ (relocking (withPtr 0x40000000 0)).oneOk (ldForm false 1 10 4) lane = true ∧
    (relocking (withPtr 0x40000000 65532)).inSheaf.loadWaits 0 (scratchAddr 0 3 65532) 4 = true := by
  decide +kernel

theorem witness_StoresWrite : (withPtr 0x10000000 252).oneOk (stForm false 1 10 4) lane = true ∧ placeOf (withPtr 0x10000000 252) true = some (.priv (spillAddr 0 0 252)) ∧
    placeOf (withPtr 0x20000000 4092) true = some (.loc (gmemAddr 0 4092)) ∧ ((withPtr 0 0).thread lane).after = [] ∧ ((withPtr 0 0).thread lane).atoms = [] ∧
    (withPtr 0 0).watchers (gmemAddr 0 4092) 4 = [] ∧ placeOf (withPtr 0x40000000 65532) true = some (.loc (scratchAddr 0 3 65532)) ∧
    ∀ i < 4, ownGmem 0 (scratchAddr 0 3 65532 + i) = false := by
  decide +kernel

theorem witness_ByteReadAfterWrite : Memory.wf base.mem = true ∧ Memory.wf (base.wr 5 1).mem = true ∧ Memory.wf ([] : List Host.Cell) = true := by decide +kernel

/-- The address of LDS and STS with W[1] and an offset of zero words. -/
def spillAt (w : Word) : Int := ((regs base [(1, w)]).thread lane).sp.toNat + ((regs base [(1, w)]).inSheaf.reg lane 1).toInt

theorem witness_SpillWords : base.oneOk { F [1] [2] with var := true, access := true } lane = true ∧ base.oneOk { F [2, 1] [] with access := true } lane = true ∧
    spillAt 1 % 4 ≠ 0 ∧ spillAt 0 % 4 = 0 ∧ (base.launchOf 0).hdr.spill < spillAt 0 + 4 ∧ spillAt 0xFFFFFFFC % 4 = 0 ∧ 0 ≤ spillAt 0xFFFFFFFC ∧
    spillAt 0xFFFFFFFC + 4 ≤ (base.launchOf 0).hdr.spill ∧ spillAt 0xFFFFFEFC < 0 ∧ spillAt 0xFFFFFEFC % 4 = 0 := by
  decide +kernel

/-- The element that LDF and STF reach, if the checks pass. -/
def elemOf (s : State) (idx : Nat) (store : Bool) : Option Elem := (s.inSheaf.elem lane (s.inSheaf.pair lane 10) idx store).toOption

/-- A page whose entry refuses NaN under its overflow rule. -/
def refusing : State := cx (withPtr 0x40000000 0 0x1000) fun x => { x with fmt := [0x8110201980000000] }

theorem witness_ScratchElements :
    (withPtr 0x20000000 0).oneOk { sw := false, reads := [{ v := 10, n := 2 }, { v := 1 }], writes := [{ v := 2 }], var := true, access := true } lane = true ∧
    (withPtr 0x20000000 0).oneOk { sw := false, reads := [{ v := 2 }, { v := 10, n := 2 }, { v := 1 }], access := true } lane = true ∧
    elemOf (withPtr 0x20000000 0) 0 false = none ∧ elemOf (withPtr 0x20000000 0) 0 true = none ∧
    (∀ q ∈ [(15, 0, 0), (4, 65535, 0), (4, 57343, 0x30000 + 0x100000)], ∀ el ∈ elemOf (withPtr 0x40000000 0 (.ofNat 64 (q.1 * 256 + q.2.2))) q.2.1 true,
      el.e = q.1 ∧ (withPtr 0x40000000 0).inSheaf.elemWaits lane el true = false ∧ (withPtr 0x40000000 0).inSheaf.elemWaits lane el false = false ∧ ownGmem 0 el.addr = false) ∧
    (elemOf (withPtr 0x40000000 0 0xF00) 0 true).isSome = true ∧ (elemOf (withPtr 0x40000000 0 0x400) 65535 true).isSome = true ∧
    ((elemOf (withPtr 0x40000000 0 0x130400) 57343 true).bind fun el => ((withPtr 0x40000000 0).elemScale lane el).2).isSome = true ∧
    (∀ el ∈ elemOf (withPtr 0x40000000 0 0x400) 0 true, (el.desc.rnd 6 ((withPtr 0x40000000 0).laneH lane) (val32 0x3F800000)).isSome = true) ∧
    (∀ el ∈ elemOf refusing 0 true, el.desc.rnd 6 (refusing.laneH lane) (val32 0x7FC00000) = none) ∧ (elemOf refusing 0 true).isSome = true := by
  decide +kernel

/-! ## Atomics and ordering: hypotheses met -/

/-- The first failing check of an atomic's access, and whether resolveAtom answers. -/
def atomFault (s : State) (size : Nat) : Option (Nat × Nat) :=
  pointerFault s lane (s.inSheaf.pair lane 10) (((s.inSheaf.pair lane 10).toNat % 2 ^ 50 : Nat) : Int) size false
def atomAt (s : State) (size : Nat) : Option Nat := (s.inSheaf.resolveAtom lane (s.inSheaf.pair lane 10) size).toOption

theorem witness_AtomicsIssue :
    (∀ x ∈ atomics false 16 10 0 3 5 2 ++ atomics true 16 10 1 0 2 0, ∀ s ∈ [withPtr 0 0, withPtr 0x20000000 4080, withPtr 0x40000000 65520, withPtr 0x60000000 0,
      withPtr 0x80000000 0, withPtr 0x10000000 0], s.oneOk x.form lane = true) ∧
    (∀ z ∈ [4, 8, 16], atomFault (withPtr 0 0) z = some (7, 0) ∧ atomFault (withPtr 0x20000000 4088) 16 = some (9, 16) ∧ atomFault (withPtr 0x20000000 4096) z = some (5, 0) ∧
      (withPtr 0x60000000 2).inSheaf.pair lane 10 = 0x6000000000000002 ∧ 2 % z ≠ 0 ∧ atomFault (withPtr 0x10000000 0) z = none ∧
      atomFault (withPtr 0x20000000 4080) z = none ∧ atomFault (withPtr 0x40000000 65520) z = none) := by
  decide +kernel

/-- A request of a thread for an operation of one word at an address, in the queue of its home's service furrow. -/
def request (op size v x : Nat) (out : Option Nat) : Request :=
  { id := 7, thr := lane, lane := 0, addr := x, ptr := .ofNat 64 (2 * 2 ^ 60 + x - gmemAddr 0 0), pc := 0, req := .atom op size v, out := out }
def serving (q : Request) : State :=
  let s := thr base fun th => { th with atoms := [(7, q.addr, 4)], outs := [{ id := 3, regs := [some 5], val := .awaited, seq := 1 }] }
  { s.setCluster 0 { s.cluster 0 with queue := [{ sheaf := 1, cl := 0, port := 0, reqs := [q] }] } with reqs := [7] }

theorem witness_ServiceFurrowPerforms :
    (∀ op ∈ [0, 4, 8, 12, 13, 14, 15], let s := serving (request op 4 (2 ^ 32 - 1) (gmemAddr 0 4) (some 3)); s.runs 0 = true ∧
      s.atHome (request op 4 (2 ^ 32 - 1) (gmemAddr 0 4) (some 3)) = true ∧ s.watchers (gmemAddr 0 4) 4 = []) ∧
    (let s := serving (request 11 16 (2 ^ 256 - 1) (gmemAddr 0 16) none); s.atHome (request 11 16 (2 ^ 256 - 1) (gmemAddr 0 16) none) = true ∧
      s.watchers (gmemAddr 0 16) 16 = [] ∧ (relocking s).runs 0 = false) ∧
    (let m (n : Nat) : Msg := { sheaf := n, cl := 0, port := 0, reqs := (List.range 32).map fun i => request 0 4 i (gmemAddr 0 (4 * i)) none };
      let size (l : List Msg) : Nat := (l.map fun m => m.reqs.length).sum;
      let c (n : Nat) : Cluster := { ports := [[m 9], [], [], [], [], [], [], []], queue := (List.range n).map m };
      size (c 3).queue + ((List.range 8).map fun p => size (((c 3).ports.getD p []).take 1)).sum = 128 ∧ size (c 4).queue + size (((c 4).ports.getD 0 []).take 1) = 160 ∧
      ∀ k < 8, k ≠ 0 → (c 4).ports.getD k [] = []) := by
  decide +kernel

/-- Thread 0 with a result on its way, Parked. -/
def resultAt (v : ResVal) (slot : Option Nat) : State :=
  thr base fun th => { th with status := .parked, outs := [{ id := 3, regs := [some 5, none], val := v, seq := 1, slot := slot }], cands := [{ id := 3, reg := 5, vals := [0, 9], last := 1 }] }

theorem witness_ResultsLand :
    (∀ v ∈ [ResVal.awaited, .have [1, 2], .sticky 3], ((resultAt v none).thread lane).outs.find? (fun x => x.id = 3) = some { id := 3, regs := [some 5, none], val := v, seq := 1 }) ∧
    ([some 5, none].filterMap (·) : List Nat).Nodup ∧ (5 : Nat) < ((resultAt .awaited none).thread lane).regs.length ∧
    ((resultAt .awaited none).thread lane).cands.find? (fun c => c.reg = 5) = some { id := 3, reg := 5, vals := [0, 9], last := 1 } := by
  decide +kernel

/-- Thread 0 has a store on its way, and with a flag an atomic too. -/
def ordering (atom : Bool) : State :=
  let s := if atom then thr base fun th => { th with atoms := [(7, 256, 4)] } else base
  { s with stores := [{ id := 6, core := 0, thr := lane, addr := 300, val := 1 }], reqs := [7] }

theorem witness_PublishAndRefresh :
    (∀ b ∈ [false, true], (ordering b).oneOk { sw := b } lane = true ∧ ((ordering b).thread lane).pend = []) ∧
    (∀ x ∈ ((ordering false).thread lane).atoms, x.1 ∉ (ordering false).reqs) ∧ (∃ x ∈ ((ordering true).thread lane).atoms, x.1 ∈ (ordering true).reqs) ∧
    (ordering true).needMet ⟨6, false⟩ = false := by
  decide +kernel

/-- An MZERO stands in M. -/
def working : State :=
  let e : Entry := { id := 4, iss := {}, work := .mat (.mzero 0) }
  { base with stackTbl := [(stackOf 0, { base.stack (stackOf 0) with mq := [e] })] }

theorem witness_QueueFence : ∀ s ∈ [base, working], s.oneOk { sw := false, access := true } lane = true ∧
    (∀ c ∈ [0, mateOf 0], (s.core c).copyQ.length = 4 ∧ ∀ q < 6, ∀ e ∈ s.engineQueue c q, isMarker e.work = false) ∧
    ((∃ q < 6, (63 : BitVec 6).getLsbD q = true ∧ s.engineQueue 0 q ≠ []) ↔ s = working) := by
  decide +kernel

/-- Thread 0 waits at a location since a time. -/
def watching (since : Nat) (v : Nat) : State :=
  let s := thr (withPtr 0x20000000 16) fun th => { th with status := .waiting (.monw 0x2000000000000010 (gmemAddr 0 16) 4 v 0 4 since) }
  { s with refTimer := 64000 }

theorem witness_LocationWaits : (withPtr 0x20000000 16).oneOk { sw := false, reads := [{ v := 2, n := 1 }, { v := 10, n := 2 }], access := true } lane = true ∧
    (withPtr 0x20000000 16).oneOk { sw := false, reads := [{ v := 2, n := 2 }, { v := 10, n := 2 }], access := true } lane = true ∧
    atomAt (withPtr 0x20000000 16) 4 = some (gmemAddr 0 16) ∧ atomAt (withPtr 0x20000000 16) 8 = some (gmemAddr 0 16) ∧
    (homeDie (gmemAddr 0 16)).all (withPtr 0x20000000 16).runs = true ∧ ((withPtr 0x20000000 16).thread lane).atoms = [] ∧
    (withPtr 0x20000000 16).rdNat (gmemAddr 0 16) 4 = 0 ∧
    (∀ q ∈ [(0, 0), (0, 1), (1, 1)], ((watching q.1 q.2).thread lane).halted = false ∧ (homeDie (gmemAddr 0 16)).all (watching q.1 q.2).runs = true ∧
      (watching q.1 q.2).rdNat (gmemAddr 0 16) 4 = 0) ∧
    ((watching 0 1).wrs (gmemAddr 0 16) [1]).rdNat (gmemAddr 0 16) 4 = 1 := by
  decide +kernel

/-- Thread 0 backs off until a slice cycle. -/
def backing (due : Nat) : State := thr base fun th => { th with level := 1, status := .backedOff due none }

theorem witness_PollingBacksOff : (∀ w ∈ [0, 1], let s := regs base [(1, .ofNat 32 w)];
      s.oneOk { sw := true, reads := [{ v := 1 }], writes := [{ v := 2 }], var := true } lane = true ∧ (s.inSheaf.reg lane 1).toNat = w) ∧
    (∀ d ∈ [0, 1], ((backing d).thread lane).status = .backedOff d none ∧ ((backing d).thread lane).halted = false ∧ ((backing d).group 0).state = .resident) ∧
    (backing 0).sliceCount ((backing 0).group 0).core = 0 := by
  decide +kernel

/-! ## Barriers and channels: hypotheses met -/

/-- W[1] holds a mask, and barrier 15 has these members and arrivals. -/
def barred (w m a : Nat) : State := grp (regs many [(1, .ofNat 32 w)]) fun g => { g with bars := g.bars.set 15 { members := m, arrived := a } }

theorem witness_NamedBarriers :
    (∀ w ∈ [0, 1, 2], (barred w 1 0).oneOk (F [1] []) lane = true ∧ ((barred w 1 0).inSheaf.reg lane 1).toNat = w ∧ ((barred w 1 0).group 0).bars[15]? = some { members := 1, arrived := 0 }) ∧
    ((barred 1 1 0).launchOf 0).hdr.furrows = 1 ∧ (barred 1 1 2).oneOk (F [1] []) lane = true ∧ (barred 1 1 2).oneOk { F [] [] with access := true } lane = true ∧
    (let s := hdr (grp base fun g => { g with bars := g.bars.take 15 }) fun h => { h with nbar := 15 };
      (s.group 0).bars[15]? = none ∧ s.oneOk (F [1] []) lane = true ∧ s.oneOk { F [] [] with access := true } lane = true) ∧
    ((1 : Nat).testBit 0 = true ∧ (2 : Nat).testBit 0 = false) ∧ (barred 1 1 2).inSheaf.publishNeeds lane 2 = [] ∧ (ordering true).inSheaf.publishNeeds lane 2 ≠ [] ∧
    ((ordering true).group 0).bars[15]? = some { members := 1, arrived := 0 } ∧ (ordering true).oneOk { F [] [] with access := true } lane = true ∧
    (∃ n < ((barred 1 1 2).group 0).threads.length, (1 : Nat).testBit (n / 32) = true ∧ ((barred 1 1 2).thread { g := 0, t := n }).status ≠ .exited ∧
      n ≠ 0 ∧ (2 : Nat).testBit n = false) ∧
    (∀ n < ((barred 1 1 (2 ^ 32 - 2)).group 0).threads.length, n = 0 ∨ (2 ^ 32 - 2 : Nat).testBit n = true) := by
  decide +kernel

/-- An object of 16 bytes at offset 64 of group memory, and a count in W[2], W[3]. -/
def objAt (phase expected arrivals pending n : Nat) (s : State := base) : State :=
  (lau (regs s [(10, 64), (11, 0x20000000), (2, .ofNat 32 n), (3, .ofNat 32 (n / 2 ^ 32))]) id).wrs (gmemAddr 0 64)
    (bytesOf 16 (2 ^ 88 * phase + 2 ^ 72 * expected + 2 ^ 56 * arrivals + pending))

theorem witness_BarrierObjects :
    (∀ n ∈ [0, 1, 65535, 65536], let s := objAt 0 0 0 0 n; s.oneOk { sw := false, reads := [{ v := 2 }, { v := 10, n := 2 }], access := true } lane = true ∧
      Memory.wf s.mem = true ∧ atomAt s 16 = some (gmemAddr 0 64) ∧ (s.inSheaf.reg lane 2).toNat = n ∧ s.reach (gmemAddr 0 64) = true ∧
      (s.obj (gmemAddr 0 64)).expected = 0 ∧ s.objWaiters (gmemAddr 0 64) = []) ∧
    (relocking (objAt 0 0 0 0 1)).reach (gmemAddr 0 64) = false ∧ (relocking (objAt 0 0 0 0 1)).oneOk { sw := false, reads := [{ v := 2 }, { v := 10, n := 2 }], access := true } lane = true ∧
    (let s := (objAt 0 2 2 0 1 many).modThread { g := 0, t := 1 } fun th => { th with status := .waiting (.object 0x2000000000000040 (gmemAddr 0 64) false false) };
      s.objWaiters (gmemAddr 0 64) ≠ [] ∧ (s.obj (gmemAddr 0 64)).expected = 2 ∧ s.oneOk { sw := false, reads := [{ v := 2 }, { v := 10, n := 2 }], access := true } lane = true ∧
      s.reach (gmemAddr 0 64) = true) ∧
    (∀ ph ∈ [0, 1], ((objAt ph 1 1 0 1).obj (gmemAddr 0 64)).phase = ph ∧ (objAt ph 1 1 0 1).objEntries (homeCluster (gmemAddr 0 64)) < 64) ∧
    (∀ n ∈ [2 ^ 55 - 1, 2 ^ 55], let s := objAt 1 3 2 1 n; s.inSheaf.regGroup lane 2 2 = n ∧
      s.oneOk { sw := false, reads := [{ v := 2, n := 2 }, { v := 10, n := 2 }], access := true } lane = true ∧
      s.oneOk { sw := false, reads := [{ v := 10, n := 2 }], access := true } lane = true ∧ s.inSheaf.publishNeeds lane 7 = [] ∧
      s.reach (gmemAddr 0 64) = true ∧ s.obj (gmemAddr 0 64) = { phase := 1, expected := 3, arrivals := 2, pending := 1 }) ∧
    (ordering true).inSheaf.publishNeeds lane 7 ≠ [] ∧
    (∀ b ∈ [0, 1], let o := (objAt 0 1 1 b 0).obj (gmemAddr 0 64); o.expected ≠ 0 ∧ o.arrivals = 1 ∧ (o.arrivedAt 0).phase = 1 - b) := by
  decide +kernel

theorem witness_LaunchWideBarrier :
    (∀ s ∈ [base, many, ordering true], s.oneOk { F [] [] with access := true } lane = true ∧ 0 ∈ s.groupsOf 0 ∧ 0 < s.launches.length) ∧
    (ordering true).inSheaf.publishNeeds lane 7 ≠ [] ∧ base.inSheaf.publishNeeds lane 7 = [] ∧ many.inSheaf.publishNeeds lane 7 = [] ∧
    (base.launch 0).nextLin = (base.launch 0).total ∧ (∀ g ∈ base.groupsOf 0, g = 0) ∧
    (∀ n < (base.group 0).threads.length, (base.thread { g := 0, t := n }).status = .exited ∨ n = 0) ∧
    (∃ n < (many.group 0).threads.length, (many.thread { g := 0, t := n }).status ≠ .exited ∧ n ≠ 0 ∧ (many.group 0).gbar.testBit n = false) ∧
    (∀ k ∈ [7, 8], let s := { thr base (fun th => { th with status := .waiting .gbar }) with grants := [{ launch := 0, cl := 0, threads := [lane] }], grantCount := k };
      s.grants = [{ launch := 0, cl := 0, threads := [lane] }] ∧ s.grantWindow = s.refTimer / 32) := by
  decide +kernel

/-- The pair at 10 names spill memory; channel 1 has entries of 8 bytes and depth 2, its ring is at offset 64 of group memory. -/
def withChan (c : Chan) (hi : Word := 0x10000000) (lo : Word := 0) : State :=
  let s := hdr (regs base [(10, lo), (11, hi)]) fun h => { h with chans := [⟨8, 2, 1⟩, ⟨8, 2, 2⟩] }
  grp s fun g => { g with chans := [{}, c] }

/-- The place of an entry. -/
def entryAt (s : State) (p : DWord) (n : Nat) : Option Place := (s.inSheaf.bound lane p ((p.toNat % 2 ^ 50 : Nat) : Int) n).toOption

theorem witness_ChannelsPassEntries :
    (let s := withChan {}; s.chanDecl 0 1 = some ⟨8, 2, 2⟩ ∧ s.chanDecl 0 2 = none ∧ 1 < (s.group 0).chans.length ∧
      s.oneOk { sw := false, reads := [{ v := 10, n := 2 }], access := true } lane = true ∧
      s.oneOk { sw := false, writes := [{ v := 2, n := 2 }], var := true, access := true } lane = true ∧ (s.chan 0 1).opened = false) ∧
    (∀ q ∈ [(0x20000000, 64, 2), (0x40000000, 0, 4)], let s := withChan {} (.ofNat 32 q.1) (.ofNat 32 q.2.1);
      let s := lau s fun la => { la with scratch := [(0, { frames := [3], attrs := [0] })] }; let p := s.inSheaf.pair lane 10;
      pointerFault s lane p (p.toNat % 2 ^ 50 : Nat) 64 false = none ∧ p.toNat / 2 ^ 60 = q.2.2 ∧ p.toNat % 2 ^ 50 < 2 ^ 19 ∧ (entryAt s p 16).isSome = true) ∧
    (let s := withChan { opened := true, ring := 0x2000000000000040, res := 1, pos := [(0, .reserved)] } 0x20000000 64; let c := s.chan 0 1;
      c.opened = true ∧ c.res ≠ c.pop ∧ s.creditWaiters 0 1 = [] ∧ s.popWaiters 0 1 = [] ∧ (0, PosState.reserved) ∈ c.pos ∧ s.inSheaf.pair lane 10 = c.ring ∧
      (∀ q ∈ c.pos, q.1 = 0) ∧ (c.pos.map (·.1)).Nodup ∧ s.inSheaf.publishNeeds lane 2 = [] ∧ c.res - c.pop < 2) ∧
    (∀ st ∈ [PosState.reserved, .published], let s := withChan { opened := true, ring := 0x2000000000000040, res := 2, vis := 1, pop := 0, pos := [(0, .published), (1, st)] };
      let p := s.inSheaf.pair lane 10; let c := s.chan 0 1;
      (s.thread lane).after = [] ∧ (s.thread lane).atoms = [] ∧ p.toNat / 2 ^ 60 = 1 ∧ p.toNat % 8 = 0 ∧ entryAt s p 8 = some (.priv (spillAddr 0 0 0)) ∧
      2 ≤ c.res - c.pop ∧ c.pop ≠ c.vis ∧ entryAt s c.ring 8 = some (.loc (gmemAddr 0 64)) ∧ ownGmem 0 (gmemAddr 0 64) = true ∧ ownGmem 0 (gmemAddr 0 71) = true ∧
      s.stores = [] ∧ s.oneOk { sw := false, reads := [{ v := 10, n := 2 }], writes := [{ v := 2 }], var := true, access := true } lane = true) ∧
    (let s := withChan { opened := true, ring := 0x2000000000000040, res := 1, vis := 1, pop := 1 }; let c := s.chan 0 1; c.pop = c.vis ∧ c.res - c.pop < 2 ∧
      s.watchers (gmemAddr 0 72) 8 = [] ∧ entryAt s (c.ring + 8) 8 = some (.loc (gmemAddr 0 72)) ∧
      s.oneOk { sw := false, reads := [{ v := 10, n := 2 }], access := true } lane = true ∧ s.creditWaiters 0 1 = [] ∧ s.popWaiters 0 1 = []) := by
  decide +kernel

/-! ## Copies: hypotheses met -/

/-- Core 0 holds kicks of thread 0 in kick register 3. -/
def kicked (n : Nat) (s : State) : State :=
  s.setCore 0 { s.core 0 with kicks := [[], [], [], List.replicate n { iss := { thr := lane }, ptr := 0x2000000000000000, n := 1 }] }

theorem witness_CopyInstructions :
    (∀ q ∈ [(0x20000000, 0), (0x20000000, 3968), (0x20000000, 64), (0x20000000, 4096), (0x40000000, 0), (0x20000000, 524288)], let s := withPtr q.1 q.2;
      s.oneOk { F [] [] with reads := [{ v := 10, n := 2 }], access := true } lane = true ∧ (s.launchOf 0).hdr.producer = some 0 ∧
      (s.inSheaf.pair lane 10).toNat = q.1 * 2 ^ 32 + q.2) ∧
    (let s := hdr (withPtr 0x20000000 0) fun h => { h with producer := none };
      s.oneOk { F [] [] with reads := [{ v := 10, n := 2 }], access := true } lane = true ∧ (s.launchOf 0).hdr.producer ≠ some 0) ∧
    (∀ n ∈ [0, 3, 4], let s := kicked n (withPtr 0x20000000 3968); ((s.core 0).kicks.getD 3 []).length = n ∧ (s.core 0).kicks.length = 4 ∧ (s.launchOf 0).hdr.gmem = 3968 + 128 * 1 ∧
      s.oneOk { F [] [] with reads := [{ v := 10, n := 2 }], access := true } lane = true) ∧
    (∀ w ∈ [0, 4, 6], let s := grp (regs base [(1, .ofNat 32 w)]) fun g => { g with tags := 4 }; s.oneOk (F [1] []) lane = true ∧ (s.inSheaf.reg lane 1).toNat = w ∧
      s.oneOk { F [1] [2] with var := true } lane = true ∧ s.oneOk { F [] [2] with var := true } lane = true ∧ (s.group 0).tags.extractLsb' (32 * 0) 32 = 4) := by
  decide +kernel

/-- A copy request from its fields: value and lowest bit. -/
def request1024 (fs : List (Nat × Nat)) : BitVec 1024 := .ofNat 1024 (fs.map fun p => p.1 * 2 ^ p.2).sum

/-- From scratch or group memory at src to dst, two elements of entry 0, with more fields. -/
def fields (src dst : Nat) (more : List (Nat × Nat)) : List (Nat × Nat) :=
  [(1, 124), (1, 126), (2, 160), (1, 192), (1, 224), (1, 256), (1, 288), (1, 320), (1, 352), (src, 640), (dst, 704)] ++ more

def copyOf (fs : List (Nat × Nat)) (d : BitVec 64 := (base.ctx 0).entry 0) : Copy := { req := request1024 fs, ptr := 0, sdesc := (base.ctx 0).entry 0, ddesc := d }

/-- The Drill's next kick is of a request at offset 128 of group memory. -/
def drilling (fs : List (Nat × Nat)) : State := (kicked 1 base).wrs (gmemAddr 0 0) (bytesOf 128 (request1024 fs).toNat)

/-- A request whose fields are all 0 but for what it names; it takes no check of R267. -/
def plainCopy : List (Nat × Nat) := fields 0x2000000000000040 0x2000000000000080 []

/-- detail1 of the first failing check. -/
def refusalOf (fs : List (Nat × Nat)) : Option Nat := (copyOf fs).fieldFault.map (·.d1)

theorem witness_DrillFetches :
    (∀ fs ∈ [plainCopy, plainCopy ++ [(1, 0)]], let s := drilling fs; (s.core 0).kicks.getD 3 [] = [{ iss := { thr := lane }, ptr := 0x2000000000000000, n := 1 }] ∧
      (s.core 0).copyQ.length = 4 ∧ s.runs (0 / 96) = true ∧ (s.core 0).copyQ.getD 3 [] = [] ∧ ownGmem 0 (gmemAddr 0 0) = true ∧ ownGmem 0 (gmemAddr 0 127) = true ∧
      s.stores = [] ∧ ofBytes (s.rds (gmemAddr 0 ((s.group 0).gbase + 0)) 128) = (request1024 fs).toNat) ∧
    (copyOf plainCopy).fieldFault = none ∧ (copyOf plainCopy).bbar = 0 ∧ (copyOf plainCopy).dkind = 1 ∧ (copyOf plainCopy).recordAddr = 0 ∧
    (copyOf (plainCopy ++ [(1, 0)])).fieldFault.map (fun f => (f.code, f.err.isNone)) = some (1, true) ∧
    refusalOf (plainCopy ++ [(2 ^ 15, 176), (2 ^ 30, 193), (1, 225), (1, 897)]) = some 2 ∧ refusalOf (plainCopy ++ [(1, 127)]) = some 3 ∧
    refusalOf (plainCopy ++ [(6, 140), (1, 136)]) = some 4 ∧ refusalOf (plainCopy ++ [(1, 136), (1, 150)]) = some 5 ∧ refusalOf (plainCopy ++ [(7, 137)]) = some 6 ∧
    refusalOf (plainCopy ++ [(7, 140)]) = some 1 := by
  decide +kernel

/-- Queue C0 of core 0 works on a copy of the group. -/
def copying (c : Copy) (begun : Bool := true) (s : State := base) : State :=
  s.setCore 0 { s.core 0 with copyQ := [[{ id := 9, iss := { thr := lane }, work := .copy c, begun := begun }], [], [], []] }

/-- The place of an endpoint. -/
def engAt (s : State) (p : Nat) (a : Int) (n : Nat) : Option Nat := (s.engPlace lane (.ofNat 64 p) a n).toOption

/-- The place of an endpoint that is read, and of a stamp. -/
def engFrom (s : State) (p : Nat) (a : Int) (n : Nat) : Option Nat := (s.engPlace lane (.ofNat 64 p) a n false).toOption

/-- One element's hypotheses: the queue's copy, its first iteration vector and its source at 64. -/
def elementOk (s : State) (c : Copy) : Bool :=
  decide ((s.workOn 0 0).map (fun p => (p.2.req, p.2.next)) = some (c.req, 0)) && decide (c.next < c.total) && decide (c.src.w ∈ [8, 16, 32]) && decide (c.dst.w ∈ [8, 16, 32]) &&
  decide (c.skind = 1) && decide (c.tensor = none) && decide (engFrom s c.srcBase (c.srcByte ![0, 0, 0, 0, 0]) (c.src.w / 8) = some (gmemAddr 0 64)) && s.reach (gmemAddr 0 64) &&
  decide (c.bbar = 0)

theorem witness_CopiedElements :
    (∀ more ∈ [[], [(1, 140)], [(2, 140)], [(3, 140)]], let c := copyOf (plainCopy ++ more); let s := copying c; Memory.wf s.mem = true ∧ elementOk s c = true ∧
      c.tr = false ∧ c.red ≤ 6 ∧ c.dkind = 1 ∧ c.sfmt = c.dfmt ∧ c.src.w = 32 ∧ c.dst.w = 32 ∧
      engAt s c.dstBase (c.dstByte ![0, 0, 0, 0, 0]) 4 = some (gmemAddr 0 128) ∧ s.reach (gmemAddr 0 128) = true ∧ s.watchers (gmemAddr 0 128) 4 = []) ∧
    (let c := copyOf (plainCopy ++ [(1, 150)]) ((base.ctx 0).entry 3 ||| (3 <<< 31)); let s := (copying c).wrs (gmemAddr 0 64) (bytesOf 4 0x7F000000); elementOk s c = true ∧ c.sfmt ≠ c.dfmt ∧
      Desc.rnd c.ddesc c.rndCode (s.hOf lane 0 0 0) (Desc.value c.sdesc (ofBytes (s.rds (gmemAddr 0 64) 4))) = none ∧ c.dkind = 1 ∧
      engAt s c.dstBase (c.dstByte ![0, 0, 0, 0, 0]) (c.dst.w / 8) = some (gmemAddr 0 128)) ∧
    (let c := copyOf (fields 0x2000000000000040 0x2000000000001000 []); elementOk (copying c) c = true ∧ engAt (copying c) c.dstBase (c.dstByte ![0, 0, 0, 0, 0]) 4 = none) ∧
    (let c := copyOf ((fields 0x2000000000000040 0x1000 []).eraseIdx 1);
      elementOk (copying c) c = true ∧ c.dkind = 0 ∧ ((copying c).launch 0).leases = []) := by
  decide +kernel

theorem witness_CopiedElements_index : (copyOf plainCopy).indexOf ![0, 0, 0, 0, 0] 0 ∧ (copyOf plainCopy).indexOf ![1, 0, 0, 0, 0] 1 := by
  unfold Copy.indexOf
  decide +kernel

/-- A transposed copy of two by two words. -/
def transposed : Copy := copyOf [(1, 124), (1, 126), (1, 136), (2, 160), (2, 192), (1, 224), (1, 256), (1, 288), (1, 320), (1, 352), (2, 384), (2, 416),
  (0x2000000000000040, 640), (0x2000000000000080, 704)]

def fromAt (m n : Nat) : Nat := gmemAddr 0 (64 + 4 * (m + 2 * n))
def toAt (m n : Nat) : Nat := gmemAddr 0 (128 + 4 * (n + 2 * m))

theorem witness_CopiedElements_transposed : let c := transposed; elementOk (copying c) c = true ∧ c.tr = true ∧ c.red = 0 ∧ c.dkind = 1 ∧ c.sfmt = c.dfmt ∧
    c.dst.w = c.src.w ∧ c.src.w = 32 ∧ (List.range 5).map c.bound = [2, 2, 1, 1, 1] := by
  decide +kernel

/-- Both places of an element, and two elements apart. -/
def placesFit (m n : Nat) : Bool :=
  let s := copying transposed
  decide (engFrom s transposed.srcBase (transposed.srcByte ![m, n, 0, 0, 0]) 4 = some (fromAt m n)) && s.reach (fromAt m n) && decide (s.watchers (toAt m n) 4 = []) &&
  decide (engAt s transposed.dstBase (transposed.dstByte ![n, m, 0, 0, 0]) 4 = some (toAt m n)) && s.reach (toAt m n)
def placesApart (m n k l : Nat) : Bool :=
  decide (toAt m n + 4 ≤ fromAt k l ∨ fromAt k l + 4 ≤ toAt m n) && decide ((m = k ∧ n = l) ∨ toAt m n + 4 ≤ toAt k l ∨ toAt k l + 4 ≤ toAt m n)

theorem witness_CopiedElements_places : ∀ m < 2, ∀ n < 2, placesFit m n = true ∧ ∀ k < 2, ∀ l < 2, placesApart m n k l = true := by decide +kernel

/-- The copy has landed n of its elements. -/
def landedCopy (n : Nat) (more : List (Nat × Nat)) (st : Bool := false) : Copy := { copyOf (plainCopy ++ more) with next := n, landed := n, stamped := st }

theorem witness_CopiesComplete :
    (∀ n ∈ [1, 2], ∀ st ∈ [false, true], let c := landedCopy n [(1, 128), (0x2000000000000100, 896)] st; let s := copying c;
      (s.core 0).copyQ.getD 0 [] = [{ id := 9, iss := { thr := lane }, work := .copy c, begun := true }] ∧ (c.landed < c.total ↔ n = 1) ∧ s.runs (0 / 96) = true ∧ c.stamp ≠ 0 ∧
      c.stkind = 1 ∧ c.next ≤ c.total ∧ engFrom s c.stamp (c.stamp % 2 ^ 50 : Nat) 8 = some (gmemAddr 0 256) ∧ s.reach (gmemAddr 0 256) = true ∧
      s.watchers (gmemAddr 0 256) 8 = [] ∧ 0 < s.groups.length) ∧
    (landedCopy 2 []).stamp = 0 ∧
    (let s := grp (copying (landedCopy 2 [(63, 130)]) true many) fun g => { g with threads := g.threads.set 1 { g.threads.getD 1 {} with status := .waiting (.tags true 1 0x80000000) } };
      (s.thread { g := 0, t := 1 }).status = .waiting (.tags true 1 0x80000000) ∧ (s.thread { g := 0, t := 1 }).halted = false ∧
      tagsHold true ((s.group 0).tags ||| (1#64 <<< 63)) 1 0x80000000 = true) ∧
    (∀ q ∈ [(0, 8), (1, 0)], let c := landedCopy 2 [(0x2000000000000040, 832)]; let s := (copying c true (objAt 0 1 q.1 q.2 0)); Memory.wf s.mem = true ∧ c.bbar ≠ 0 ∧
      engAt s c.bbar.toNat (c.bbar.toNat % 2 ^ 50 : Nat) 16 = some (gmemAddr 0 64) ∧ c.landed = c.total ∧ (c.landed * c.dst.w + 7) / 8 - c.counted = 8 ∧
      (s.obj (gmemAddr 0 64)).expected ≠ 0 ∧ -(2 ^ 55 : Int) ≤ (s.obj (gmemAddr 0 64)).pending - 8 ∧ ((s.obj (gmemAddr 0 64)).arrivals = q.1 ∧ (s.obj (gmemAddr 0 64)).pending = q.2)) ∧
    (let c := landedCopy 1 [(0x2000000000000040, 832)]; c.landed ≠ c.total ∧ c.landed * c.dst.w / 8 - c.counted = 4) := by
  decide +kernel

/-! ## Matrices: hypotheses met -/

/-- A slot of entry 4 held by the group. -/
def heldSlot (hs i : Nat) : Nat × Slot := (i, { holder := some { g := 0 }, md := { fmt := 4, scslot := i, hsize := hs } })

/-- The group holds slots 4 and 9 on both mates and accumulator 1. The pair at 10 names the start of its one scratch frame. -/
def tiled (mq : List Entry := []) (s : State := withPtr 0x40000000 0) (hs : Nat := 0) : State :=
  let s := (s.setCore 0 { s.core 0 with slots := [heldSlot hs 4, heldSlot hs 9] }).setCore 1 { s.core 1 with slots := [heldSlot hs 4, heldSlot hs 9] }
  s.setStack 0 { s.stack 0 with mq := mq, accs := [{}, { holder := some { g := 0 } }, {}, {}] }

def zeroing (n : Nat) : List Entry := List.replicate n { id := 4, iss := { thr := lane }, work := .mat (.mzero 1) }

theorem witness_MatrixEntriesIssue :
    (∀ n ∈ [0, 15, 16], let s := tiled (zeroing n); ((s.stack (0 / 2)).mq.filter fun e => !isMarker e.work).length = n ∧ holds 0 (s.acc 0 1).holder = true ∧
      (∀ c ∈ [0, mateOf 0], s.slotUsable 0 c 4 = true ∧ s.slotUsable 0 c 9 = true) ∧
      ∀ w ∈ matRows s.inSheaf lane false 2 10 1 0 0 4 9 1 0, s.oneOk w.form lane = true) ∧
    (let s := tiled; holds 0 (s.acc 0 3).holder = false ∧ s.slotUsable 0 0 31 = false ∧ s.slotUsable 0 1 31 = false) ∧
    (let s := tiled.inSheaf; let f (i : Nat) (c : Nat) := s.latch 0 c i; (∀ ch ∈ [false, true], mmaFault false ch (f 4 0) (f 4 1) (f 9 0) (f 9 1) = none) ∧
      (s.reg lane 10).toNat = 0 ∧ (∀ n ∈ [0, 8191], ((tiled [] (regs base [(2, .ofNat 32 n)])).inSheaf.reg lane 2).toNat = n) ∧ (s.reg lane 2).toNat < 8192 ∧
      Desc.valid ((s.ctx 0).entry 0) = true ∧ Desc.valid ((s.ctx 0).entry 13) = true ∧ (s.storeDest lane (s.pair lane 10) 4 32768).isNone = true ∧
      (s.storeDest lane (s.pair lane 10) 8 65536).isNone = true ∧ max 1 (storeWidth ((s.ctx 0).entry 13) / 8) = 8 ∧
      Desc.valid (f 4 0).ed = true ∧ (f 4 0).md.fmt ≠ 14 ∧ (s.storeDest lane (s.pair lane 10) 1 32768).isNone = true ∧ Desc.kind (f 4 0).ed ≤ 3 ∧
      slotRefuses (f 4 0).ed (f 4 0).md.geom = false ∧ (f 4 0).md.geom = 0) ∧
    (let s := (tiled [] base 3).inSheaf; let f (i : Nat) (c : Nat) := s.latch 0 c i; ∀ ch ∈ [false, true], mmaFault true ch (f 4 0) (f 4 1) (f 9 0) (f 9 1) = none) ∧
    (∀ w ∈ [4, 4 + 64 + 256 * 7], let s := (tiled [] (regs base [(1, .ofNat 32 w)])).inSheaf; let t := s.ctx 0; (s.reg lane 1).toNat = w ∧ w < 2 ^ 14 ∧ w % 64 = 4 ∧
      Desc.valid (t.entry 4) = true ∧ slotRefuses (t.entry 4) (w / 64 % 4) = false ∧ Desc.valid (t.entry 7) = true ∧ Desc.kind (t.entry 7) = 1) ∧
    (∀ q ∈ [[], zeroing 1], let s := tiled q; s.oneOk { sw := false, var := true } lane = true ∧ ((s.stack 0).mq = [] ↔ q = [])) := by
  decide +kernel

theorem witness_MatrixEntriesIssue_markers : ∀ q ∈ [[], zeroing 1], (tiled q).noMarkers 0 := by
  unfold State.noMarkers
  decide +kernel

/-- M of stack 0 holds one entry. -/
def headed (op : MOp) (s : State := tiled) : State := s.setStack 0 { s.stack 0 with mq := [{ id := 4, iss := { thr := lane }, work := .mat op }] }

theorem headed_queue (op : MOp) (k q : Nat) (hk : k = 0 ∨ k = 1) (hq : q < 6) : (headed op).engineQueue k q = if q = 4 then [{ id := 4, iss := { thr := lane }, work := .mat op }] else [] := by
  rcases hk with rfl | rfl <;> interval_cases q <;> rfl

theorem headed_headsM (op : MOp) : (headed op).headsM 0 { id := 4, iss := { thr := lane }, work := .mat op } [] op := by
  refine ⟨rfl, rfl, by simp [stackOf], by rfl, rfl, fun k hk => ?_⟩
  have hk : k = 0 ∨ k = 1 := by simpa [mateOf] using hk
  refine ⟨by rcases hk with rfl | rfl <;> rfl, fun q hq e he => ?_⟩
  rw [headed_queue op k q hk hq] at he
  split at he
  · rw [List.mem_singleton.1 he]
    rfl
  · cases he

/-- A place in scratch. -/
theorem scratch_place (s : State) (r : TRef) (p : DWord) (a n d fr : Nat) (h4 : ptrSpace p = 4) (hd : ptrCluster p / 16 = d)
    (hf : s.scratchFrame (s.group r.g).launch d 0 = some fr) (hn : 0 < n) (ha : a + n ≤ 65536) : s.engWhere r p (a : Nat) n true = .ok (scratchAddr d fr a) := by
  have h0 : a / 65536 = 0 := by omega
  have h1 : (a + n - 1) / 65536 = 0 := by omega
  have h2 : a % 65536 = a := by omega
  have h3 : ¬(2 ^ 50 ≤ a) := by omega
  simp [State.engWhere, h4, State.bound, hd, h0, h1, h2, hf]
  rw [if_neg (by omega)]

theorem at_tile (op : MOp) (a n : Nat) (hn : 0 < n) (ha : a + n ≤ 65536) :
    (headed op).engWhere lane 0x4000000000000000 (a : Nat) n true = .ok (scratchAddr 0 3 a) :=
  scratch_place _ _ _ _ _ _ _ (by decide) (by decide) rfl hn ha

theorem witness_AccumulatorEntries :
    (∀ op : MOp, (headed op).headsM 0 { id := 4, iss := { thr := lane }, work := .mat op } [] op) ∧ Memory.wf (headed (.mzero 1)).mem = true ∧
    1 < ((headed (.mwr 1 8191 5)).stack 0).accs.length ∧ ((headed (.mwr 1 8191 5)).acc 0 1).holder = some { g := 0, releasing := false } ∧
    (headed (.mstore 1 0 0 (dFP32) 0x4000000000000000)).matReady { id := 4, iss := { thr := lane }, work := .mat (.mstore 1 0 0 dFP32 0x4000000000000000) }
      (.mstore 1 0 0 dFP32 0x4000000000000000) = true ∧
    (headed (.mstoreS 4 0x4000000000000000)).matReady { id := 4, iss := { thr := lane }, work := .mat (.mstoreS 4 0x4000000000000000) } (.mstoreS 4 0x4000000000000000) = true :=
  ⟨headed_headsM, by decide +kernel, by decide +kernel, by decide +kernel, by decide +kernel, by decide +kernel⟩

theorem witness_AccumulatorEntries_sums : ∃ cell row col : Nat → ℚ, (∀ y < 8192, (headed (.mchk 1 0)).cellRat 0 1 y = some (cell y)) ∧
    (∀ j < 64, sumRat [] j = some (row j)) ∧ (∀ i < 128, sumRat [] i = some (col i)) ∧
    (∀ j < 64, ∑ i ∈ Finset.range 128, cell (64 * i + j) = row j) ∧ ∀ i < 128, ∑ j ∈ Finset.range 64, cell (64 * i + j) = col i := by
  have h : (valA56 0).rat = some 0 := by
    have : ∃ n a, valA56 0 = .fin n 0 a := ⟨false, _, rfl⟩
    obtain ⟨n, a, h⟩ := this
    simp [h, Val.rat]
  exact ⟨fun _ => 0, fun _ => 0, fun _ => 0, fun _ _ => h, fun _ _ => h, fun _ _ => h, by simp, by simp⟩

/-- The code of 1 in an accumulator. -/
def oneA56 : Nat := rndA56 (val32 0x3F800000)

/-- A row sum that the cells do not have: it is 1, and every cell is zero. -/
theorem witness_AccumulatorEntries_mismatch : ∃ q : ℚ, sumRat [oneA56] 0 = some q ∧ (∑ _i ∈ Finset.range 128, (0 : ℚ)) ≠ q := by
  have h : (match valA56 oneA56 with | .fin n a b => decide (n = false) && decide (a ≠ 0) && decide (b ≠ 0) | _ => false) = true := by decide +kernel
  change ∃ q : ℚ, (valA56 oneA56).rat = some q ∧ _
  generalize valA56 oneA56 = v at h
  match v, h with
  | .fin _ a b, h =>
    simp only [Bool.and_eq_true, decide_eq_true_eq] at h
    obtain ⟨⟨rfl, ha⟩, hb⟩ := h
    have hq : (a : ℚ) / b ≠ 0 := div_ne_zero (by exact_mod_cast ha) (by exact_mod_cast hb)
    exact ⟨a / b, by simp [Val.rat], by simpa using hq.symm⟩

theorem witness_AccumulatorEntries_stores :
    (∀ op x, x < 8192 → (∀ h, (dFP32.rnd 0 h (valA56 0)).isSome = true) ∧ (headed op).engWhere lane 0x4000000000000000 (0 + x * 4 : Nat) 4 true = .ok (scratchAddr 0 3 (4 * x))) ∧
    (∀ x < 8192, ∀ y < 8192, x ≠ y → scratchAddr 0 3 (4 * x) + 4 ≤ scratchAddr 0 3 (4 * y) ∨ scratchAddr 0 3 (4 * y) + 4 ≤ scratchAddr 0 3 (4 * x)) ∧
    (∀ op x, x < 32768 → (headed op).engWhere lane 0x4000000000000000 (0 + x : Nat) 1 true = .ok (scratchAddr 0 3 x)) ∧
    (∀ x < 32768, ∀ y < 32768, scratchAddr 0 3 x = scratchAddr 0 3 y → x = y) ∧ ∀ x < 32768, ∀ y < 32768, scratchAddr 0 3 x ≠ slotAddr 0 4 y := by
  refine ⟨fun op x hx => ⟨fun h => rfl, ?_⟩, fun x _ y _ h => ?_, fun op x hx => ?_, fun x _ y _ h => ?_, fun x _ y _ h => ?_⟩
  · rw [at_tile op _ 4 (by omega) (by omega)]
    congr 2
    omega
  · simp only [scratchAddr]
    omega
  · rw [at_tile op _ 1 (by omega) (by omega)]
    simp
  · simp only [scratchAddr] at h
    omega
  · simp only [scratchAddr, slotAddr, scratchBase, slotBase] at h
    omega

/-- The operands of an MMA and of a HAD on the tiles of `tiled`. -/
def tile (i : Nat) : SlotLatch := tiled.latch 0 0 i

theorem witness_MatrixProducts : (tile 4).md.geom = 0 ∧ (tile 9).md.geom = 0 ∧ (tile 4).md.sums = 0 ∧
    Desc.container (tile 4).ed = 8 ∧ (∀ v h, (Desc.rnd (tile 4).ed 6 h v).isSome = true) := by
  refine ⟨by decide +kernel, by decide +kernel, by decide +kernel, by decide +kernel, fun v h => ?_⟩
  have he : (tile 4).ed = (base.ctx 0).entry 4 := by decide +kernel
  have hv : Desc.ovf (tile 4).ed ≠ 3 ∧ Desc.ovf (tile 4).ed < 3 := by decide +kernel
  have hov : ∀ neg m f, (Desc.overflow (tile 4).ed neg m f).isSome = true := by
    intro neg m f
    unfold Desc.overflow
    rcases hv with ⟨h1, h2⟩
    interval_cases h3 : Desc.ovf (tile 4).ed <;> simp only
    · rfl
    · split
      · rfl
      · split <;> rfl
    · rfl
  cases v <;> simp only [Desc.rnd]
  · split <;> simp [hv.1]
  · split <;> simp [hov]
  · split
    · rfl
    · generalize Desc.around (tile 4).ed _ _ = p
      obtain ⟨lo, hi⟩ := p
      dsimp only
      split_ifs <;> first | rfl | exact hov _ _ _

theorem witness_MatrixProducts_values : ∀ op x i, ∃ q : ℚ, (Desc.value (tile 4).ed ((headed op).slotCode 0 i 8 x)).rat = some q ∧ (headed op).cellRat 0 1 x = some q := by
  intro op x i
  refine ⟨0, ?_, ?_⟩
  · have h0 : (headed op).slotCode 0 i 8 x = 0 := by
      have : (headed op).mem = [] := rfl
      change ofBytes (memRds (headed op).mem _ 1) = 0
      rw [this]
      rfl
    have : ∃ n a, Desc.value (tile 4).ed 0 = .fin n 0 a := ⟨false, _, rfl⟩
    obtain ⟨n, a, h⟩ := this
    rw [h0, h]
    simp [Val.rat]
  · have : ∃ n a, valA56 0 = .fin n 0 a := ⟨false, _, rfl⟩
    obtain ⟨n, a, h⟩ := this
    change (valA56 0).rat = _
    simp [h, Val.rat]

/-- An MLD of thread 0 at the head of C3 of core 0: slot 4, tag 5, its record at 64 KiB. -/
def mldWork : Mld := { mode := 0, slot := 4, ck := false, tag := 5, record := 65536, row0 := 0, k0 := 0, outer := 0, fmts := (base.ctx 0).fmt }
def mldEntry : Entry := { id := 4, iss := { thr := lane }, work := .mld mldWork }

/-- A leaf of frame 1 with key slot 3. -/
def leaf1 : BitVec 64 := .ofNat 64 (1 + 15 * 2 ^ 44 + 3 * 2 ^ 50)

/-- Page 1 of the launch's shadow is frame 1 under key slot 3, which the launch may use; all of it is leased for reading. -/
def paged (s : State) : State :=
  let s := lau s fun la => { la with leases := [{ cls := 0, base := 65536, len := 65536 }], shadow := [{ page := 1, leaf := leaf1 }] }
  s.setKey 3 { state := .loaded, fn := 0, ctxmask := 1, approved := [0] }

def loading : State :=
  let s := paged tiled
  s.setCore 0 { s.core 0 with copyQ := [[], [], [], [mldEntry]], slots := [(4, { holder := some { g := 0 }, md := { fmt := 4, pending := some 4 } })] }

/-- A record of one dimension and extent 0: base 128 KiB, entry 4, key slot 3, all rights. -/
def recordLow : Nat := 512 * 2 ^ 392 + 4 * 2 ^ 346 + 3 * 2 ^ 328 + 63 * 2 ^ 322 + 1 * 2 ^ 319

/-- The same with a record in memory. -/
def loadingOf (rc : Packet) : State := loading.wrs 65536 (bytesOf 64 rc.toNat)

theorem witness_SlotsAndTiles :
    (∀ s ∈ [base, tiled], s.oneOk { sw := false, writes := [{ v := 2 }], var := true } lane = true ∧ (s.launchOf 0).hdr.slots = 4 ∧ (s.stack (0 / 2)).accs.length = 4) ∧
    base.slotsHeld 0 0 = 0 ∧ tiled.slotsHeld 0 0 = 2 ∧ (∀ j < 4, (base.slot 0 (0 + j)).holder = none) ∧ (∀ j < 2, (tiled.slot 0 (0 + j)).holder = none) ∧
    ((tiled.stack 0).accs.filter fun x => holds 0 x.holder).length = 1 ∧ (∀ j < 2, (tiled.acc 0 (2 + j)).holder = none) ∧ (tiled.acc 0 1).holder ≠ none ∧
    (∀ w ∈ [4, 5, 31, 32], let s := tiled [] (regs base [(1, .ofNat 32 w)]); s.oneOk (F [1] []) lane = true ∧ s.oneOk { F [1] [2] with var := true } lane = true ∧
      (s.inSheaf.reg lane 1).toNat = w ∧ ((w < 32 ∧ holds 0 (s.slot 0 w).holder = true ∧ s.slotUsable 0 0 w = true) ↔ w = 4)) ∧ tiled.stackEntries 0 = [] ∧
    (∀ q ∈ [(0, true), (63, true), (64, true), (64, false)], let s := hdr (tiled [] (regs base [(12, .ofNat 32 q.1)])) fun h => { h with producer := if q.2 then some 0 else none };
      s.oneOk { sw := false, reads := [{ v := 12, n := 4 }], access := true } lane = true ∧ (s.inSheaf.quad lane 12).toNat = q.1 ∧
      ((s.launchOf 0).hdr.producer = some (lane.t / 32) ↔ q.2 = true) ∧ (s.core 0).copyQ.length = 4) ∧
    (∀ k ∈ [0, mateOf 0], tiled.slotUsable 0 k 4 = true ∧ tiled.slotUsable 0 k 5 = false) ∧
    (let s := grp (tiled) fun g => { g with state := .saved, displace := [4] }; (s.group 0).state = .saved ∧ (s.group 0).displace = [4] ∧
      holds 0 (s.slot (s.group 0).core 4).holder = true ∧ s.stackEntries (s.group 0).core = []) := by
  decide +kernel

theorem witness_SlotsAndTiles_load : loading.oldestMld 0 = some (0, mldEntry, mldWork) ∧ ((loading.core 0).copyQ.getD 3 []).head?.map (·.id) = some mldEntry.id ∧
    loading.mayBegin mldEntry.iss = true ∧ (∀ d < 4, loading.runs d = true) ∧ (loading.slot 0 4).md.pending = some 4 ∧
    (loading.slot 0 4).holder = some { g := 0, releasing := false } ∧ loading.noMarkers 0 := by
  unfold State.noMarkers
  decide +kernel

theorem witness_SlotsAndTiles_refused : ∃ x, loading.mldRecord mldEntry { mldWork with record := 0 } = .error x := ⟨_, rfl⟩

/-- The state after the Harrow of cluster 0 has filled its TLB with that leaf. -/
def filled (s : State) : State := { s with tlbs := tset [] 1 [{ launch := 0, first := 1, run := 0, page := 1, leaf := leaf1 }] }

/-- The record's bytes are read through the shadow, and nothing but a TLB entry and a hotness residual changes. -/
theorem record_read (s : State) (hl : s.launch 0 = loading.launch 0) (hsec : s.sectors = []) (hareas : s.areas = []) (hhot : s.hot = [])
    (htlb : s.tlbs = []) :
    s.readRecord 0 1 0 65536 64 = .ok ({ filled s with hot := tset [] 8 { residual := 1 } }, ofBytes (s.rds 65536 64)) := by
  have h1 : (loading.launch 0).covers ((65536 : Nat) : Int) 64 false = true := by decide +kernel
  have h2 : (loading.launch 0).shadow = [{ page := 1, leaf := leaf1 }] := by decide +kernel
  have h3 : leafRun leaf1 = 0 ∧ leafKey leaf1 = 3 ∧ runAddr (1, leaf1) 65536 = some 65536 := by decide +kernel
  have h4 : pageChunks 2 65536 64 = [(65536, 64)] := by decide
  have h5 : sectorsOf 65536 64 = [1024] := by decide
  have h6 : physOk 65536 = true ∧ physOk (65536 + 64 - 1) = true := by decide +kernel
  have hleaf : s.engLeaf 0 1 1 = (filled s, some (1, leaf1)) := by
    unfold State.engLeaf filled
    rw [hl]
    simp [htlb, h2, h3.1, tget, tlbPut, tlbRoom]
  have haddr : s.engAddr { l := 0, unit := 1, die := 0, anyFmt := true } ((65536 : Nat) : Int) 64 false = .ok (filled s, 65536, 3) := by
    unfold State.engAddr
    simp only [hl, h1, Int.toNat_natCast, show 65536 / 65536 = 1 by decide, hleaf, h3.2.1, h3.2.2]
    rfl
  have hmain : (filled s).mainRd 65536 64 3 0 = .ok (filled s, s.rds 65536 64) := by
    have : (filled s).sectors = [] := hsec
    unfold State.mainRd
    have ha : (filled s).areas = [] := hareas
    have hn : (filled s).sector 1024 = none := by simp [State.sector, this, ha, sectorOf?, areaSector]
    simp [h6, h5, hn, State.firstFail, State.sectorCheck, State.correct, State.underPairs, State.underPair]
    rfl
  have hread : s.engRd { l := 0, unit := 1, die := 0, anyFmt := true } ((65536 : Nat) : Int) 64 = .ok ((filled s).touches 0 [1024], s.rds 65536 64) := by
    unfold State.engRd
    simp only [haddr, hmain, h5]
  have htouch : (filled s).touches 0 [1024] = { filled s with hot := tset [] 8 { residual := 1 } } := by
    have : (filled s).hot = [] := hhot
    simp [State.touches, State.touch, this, tget]
  unfold State.readRecord
  rw [h4]
  simp only [State.engRdSpan, hread, htouch, List.append_nil]

theorem loading_memOk : loading.memOk := by
  unfold State.memOk
  decide +kernel

theorem loadingOf_rds (rc : Packet) : ofBytes ((loadingOf rc).rds 65536 64) = rc.toNat :=
  ofBytes_rds_wrs 65536 64 rc.toNat loading_memOk rc.isLt

theorem loadingOf_rest (rc : Packet) : (loadingOf rc).launches = loading.launches ∧ (loadingOf rc).sectors = loading.sectors ∧ (loadingOf rc).hot = loading.hot ∧
    (loadingOf rc).ctxs = loading.ctxs ∧ (loadingOf rc).keys = loading.keys ∧ (loadingOf rc).cores = loading.cores ∧ (loadingOf rc).tlbs = loading.tlbs ∧
    (loadingOf rc).areas = loading.areas :=
  ⟨rfl, rfl, rfl, rfl, rfl, rfl, rfl, rfl⟩

/-- A good record is read from memory, and the state after it meets the hypotheses of the load. -/
theorem loaded (rc : Packet) (hs : loading.recordSealed 0 rc = true) (h1 : recInd rc = 0) (h2 : recFmt rc = 4) (h3 : recGeom rc = 0) (h4 : recKey rc = 3)
    (h5 : recRights rc = 63) :
    let s2 : State := { filled (loadingOf rc) with hot := tset [] 8 { residual := 1 } }
    (loadingOf rc).mldRecord mldEntry mldWork = .ok (s2, rc, []) ∧ Memory.wf s2.mem = true ∧ (s2.slot 0 4).md.pending = some 4 := by
  intro s2
  have hl0 : loading.sectors = [] ∧ loading.hot = [] ∧ loading.tlbs = [] ∧ loading.areas = [] := by decide +kernel
  obtain ⟨o1, o2, o3, o4, o5, o6, o7, o8⟩ := loadingOf_rest rc
  have hread := record_read (loadingOf rc) (by rw [State.launch, o1, ← State.launch]) (by rw [o2, hl0.1]) (by rw [o8, hl0.2.2.2]) (by rw [o3, hl0.2.1]) (by rw [o7, hl0.2.2.1])
  rw [loadingOf_rds] at hread
  generalize ht : ({ filled (loadingOf rc) with hot := tset [] 8 { residual := 1 } } : State) = t at hread
  rw [show s2 = t from ht]
  have hctx : ∀ c, t.ctx c = loading.ctx c := by subst ht; exact fun c => by rw [State.ctx, show ∀ x h, ({ filled x with hot := h } : State).ctxs = x.ctxs from fun _ _ => rfl, o4, ← State.ctx]
  have hla : t.launch 0 = loading.launch 0 := by
    subst ht
    rw [State.launch, show ∀ x h, ({ filled x with hot := h } : State).launches = x.launches from fun _ _ => rfl, o1, ← State.launch]
  have hbad : t.recordBad (t.launch 0) rc 4 = none := by
    have hsl : t.recordSealed (loading.launch 0).ctx rc = true := by
      have h0 : (loading.launch 0).ctx = 0 := by decide +kernel
      rw [h0]
      simp only [State.recordSealed, hctx] at hs ⊢
      exact hs
    have hk : t.keyUsable (loading.launch 0) 3 = true := by
      have hkey : t.key 3 = loading.key 3 := by
        subst ht
        rw [State.key, show ∀ x h, ({ filled x with hot := h } : State).keys = x.keys from fun _ _ => rfl, o5, ← State.key]
      simp only [State.keyUsable, hkey, hctx]
      decide +kernel
    rw [hla]
    simp only [State.recordBad, hsl, h4, h5, hk]
    rfl
  have hd2 : Desc.valid (mldWork.table.entry 4) = true ∧ slotRefuses (mldWork.table.entry 4) 0 = false := by decide +kernel
  refine ⟨?_, ?_, ?_⟩
  · have hr : (BitVec.ofNat 512 rc.toNat : Packet) = rc := by simp
    unfold State.mldRecord
    simp only [mldEntry, show mldWork.record = 65536 by rfl, show harrowUnit (clusterOf 0) = 1 by decide, show dieOfCore 0 = 0 by decide, hread]
    simp only [hr, hbad, h1, h2, h3, hd2]
    rfl
  · have hm : t.mem = memWrs loading.mem 65536 (bytesOf 64 rc.toNat) := by
      subst ht
      simp only [filled, loadingOf, State.wrs, State.setMem]
    rw [hm]
    exact memWrs_wf loading_memOk
  · have : t.slot 0 4 = loading.slot 0 4 := by
      subst ht
      rw [State.slot, State.core, show ∀ x h, ({ filled x with hot := h } : State).cores = x.cores from fun _ _ => rfl, o6, ← State.core, ← State.slot]
    rw [this]
    decide +kernel

theorem witness_SlotsAndTiles_loaded : let rc := sealedRecord loading 0 recordLow
    loading.recordSealed 0 rc = true ∧ recInd rc = 0 ∧ recFmt rc = 4 ∧ recGeom rc = 0 ∧ recKey rc = 3 ∧ recRights rc = 63 ∧ recExt rc 0 = 0 := by
  refine ⟨sealedRecord_ok _ _ _, ?_, ?_, ?_, ?_, ?_, ?_⟩
  · rw [recInd, sealedRecord_bits _ _ _ _ _ (by decide) (by decide)]
    decide +kernel
  · rw [recFmt, sealedRecord_bits _ _ _ _ _ (by decide) (by decide)]
    decide +kernel
  · rw [recGeom, sealedRecord_bits _ _ _ _ _ (by decide) (by decide)]
    decide +kernel
  · rw [recKey, sealedRecord_bits _ _ _ _ _ (by decide) (by decide)]
    decide +kernel
  · rw [recRights, sealedRecord_bits _ _ _ _ _ (by decide) (by decide)]
    decide +kernel
  · rw [recExt, sealedRecord_bits _ _ _ _ _ (by decide) (by decide), sealedRecord_bits _ _ _ _ _ (by decide) (by decide)]
    decide +kernel

/-! ## Handles: hypotheses met -/

/-- The registers 12 to 15 of thread 0 hold a 128-bit value. -/
def withQuad (h : QWord) (s : State := base) : State := thr s fun th => { th with regs := th.regs.take 12 ++ wordsOf 4 h.toNat ++ th.regs.drop 16 }

theorem quad_words (h : QWord) (f : Nat → Word) (h0 : f 0 = .ofNat 32 h.toNat) (h1 : f 1 = .ofNat 32 (h.toNat / 2 ^ 32))
    (h2 : f 2 = .ofNat 32 (h.toNat / 2 ^ 32 / 2 ^ 32)) (h3 : f 3 = .ofNat 32 (h.toNat / 2 ^ 32 / 2 ^ 32 / 2 ^ 32)) :
    (BitVec.ofNat 128 (0 + (f 0).toNat * 2 ^ (32 * 0) + (f 1).toNat * 2 ^ (32 * 1) + (f 2).toNat * 2 ^ (32 * 2) + (f 3).toNat * 2 ^ (32 * 3)) : QWord) = h := by
  have hh := h.isLt
  apply BitVec.eq_of_toNat_eq
  rw [h0, h1, h2, h3]
  simp only [BitVec.toNat_ofNat]
  omega

theorem withQuad_quad (h : QWord) : (withQuad h).inSheaf.quad lane 12 = h :=
  quad_words h (fun k => (withQuad h).inSheaf.reg lane 12 k) rfl rfl rfl rfl

/-- The low 80 bits of a handle: home 0, index 3, generation 2, all of key slot 3, tag 0. -/
def handleLow (k rights : Nat) (ind : Bool := false) : Nat := 3 * 2 ^ 6 + k * 2 ^ 30 + 2 * 2 ^ 36 + rights * 2 ^ 52 + 3 * 2 ^ 58 + (if ind then 2 ^ 68 else 0)

/-- A handle of context 0 and the same with a wrong seal. -/
def handle (k rights : Nat) (ind : Bool := false) : QWord := base.sealed 0 (handleLow k rights ind)
def badHandle : QWord := base.missealed 0 (handleLow 5 63)

/-- Good handles that the clauses name: their seals are right and their fields are as they were made. -/
theorem handles_good : ∀ p ∈ [(63, 63, false), (5, 47, false), (5, 63, false), (0, 63, false), (62, 16, false), (0, 63, true), (61, 63, true)],
    base.sealOk 0 (handle p.1 p.2.1 p.2.2) = true ∧ hK (handle p.1 p.2.1 p.2.2) = p.1 ∧ hRights (handle p.1 p.2.1 p.2.2) = p.2.1 ∧
      hInd (handle p.1 p.2.1 p.2.2) = p.2.2 ∧ hTarget (handle p.1 p.2.1 p.2.2) = 3 ∧ hGen (handle p.1 p.2.1 p.2.2) = 2 ∧ hKey (handle p.1 p.2.1 p.2.2) = 3 := by
  intro p hp
  have hlow : handleLow p.1 p.2.1 p.2.2 < 2 ^ 80 ∧ handleLow p.1 p.2.1 p.2.2 % 2 ^ 80 ≠ 0 ∧ bits (handleLow p.1 p.2.1 p.2.2) 35 30 = p.1 ∧
      bits (handleLow p.1 p.2.1 p.2.2) 57 52 = p.2.1 ∧ decide (bits (handleLow p.1 p.2.1 p.2.2) 68 68 = 1) = p.2.2 ∧
      bits (handleLow p.1 p.2.1 p.2.2) 5 0 * 2 ^ 24 + bits (handleLow p.1 p.2.1 p.2.2) 29 6 = 3 ∧ bits (handleLow p.1 p.2.1 p.2.2) 51 36 = 2 ∧
      bits (handleLow p.1 p.2.1 p.2.2) 63 58 = 3 := by
    revert p
    decide +kernel
  obtain ⟨h1, h2, h3, h4, h5, h6, h7, h8⟩ := hlow
  obtain ⟨f1, f2, f3, f4, f5, f6, f7, f8⟩ := sealed_fields base 0 _ h1
  exact ⟨sealed_ok _ _ _ h2, by rw [handle, f3, h3], by rw [handle, f5, h4], by rw [handle, f8, h5], by rw [hTarget, handle, f1, f2, h6], by rw [handle, f4, h7], by rw [handle, f6, h8]⟩

theorem handle_bad : base.sealOk 0 badHandle = false := missealed_bad _ _ _

/-- Seals are judged alike in every state whose context has the same sealing key. -/
theorem sealOk_of (s : State) (h : QWord) (hk : (s.ctx 0).sealKey = (base.ctx 0).sealKey) : s.sealOk 0 h = base.sealOk 0 h := by
  unfold State.sealOk State.sealOf
  rw [hk]

/-- The forms of the handle instructions with the handle in 12 to 15. -/
def handleForms : List Form :=
  [{ sw := false, reads := [{ v := 12, n := 4 }], writes := [{ v := 16, n := 4 }] }, { sw := false, reads := [{ v := 12, n := 4 }], access := true },
   { sw := false, reads := [{ v := 1 }], writes := [{ v := 16, n := 4 }], var := true, access := true },
   { sw := false, reads := [{ v := 1 }, { v := 12, n := 4 }, { v := 2 }], access := true },
   { sw := false, reads := [{ v := 1 }, { v := 12, n := 4 }], writes := [{ v := 1 }], var := true, access := true },
   { sw := false, reads := [{ v := 12, n := 4 }], writes := [{ v := 2 }], var := true, access := true }]

/-- The handle area of the context with one tensor and n cells a cluster, and its cells of cluster 0. -/
def withCells (n : Nat) (cells : List (Nat × Cell)) (s : State := base) : State := cx s fun x => { x with harea := some (1048576, 1, n), cells := cells }

theorem witness_HandlesIssue :
    (∀ s ∈ [withQuad 0, withQuad badHandle, withQuad (handle 63 63), withQuad (handle 5 47), withQuad (handle 5 63), withQuad (handle 5 63) (paged base),
        withQuad (handle 0 63) (paged base), withQuad (handle 0 63) (paged (withCells 1 [])), withQuad (handle 0 63) (paged (withCells 1 [(0, { reserved := some 0, altered := true })])),
        withQuad (handle 0 63) (paged (withCells 1 [(0, {})])), withQuad (handle 0 63) (paged (withCells 1 [(0, { live := true })]))],
      (∀ f ∈ handleForms, s.oneOk f lane = true) ∧ (s.ctx 0).sealKey = (base.ctx 0).sealKey ∧ s.ctxOf 0 = 0) ∧
    base.keyUsable (base.launchOf 0) 3 = false ∧ (paged base).keyUsable ((paged base).launchOf 0) 3 = true ∧
    (∀ cells ∈ [[], [(0, { reserved := some 0, altered := true })], [(0, {})], [(0, { live := true })]], let s := paged (withCells 1 cells); s.keyUsable (s.launchOf 0) 3 = true) ∧
    (base.ctx 0).harea = none ∧ (withCells 0 []).ctx 0 = { base.ctx 0 with harea := some (1048576, 1, 0) } ∧
    (let s := withCells 1 []; s.reservedCell 0 0 = some 0 ∧ (s.cell 0 0).gen < 2 ^ 16 ∧ (s.cell 0 0).altered = false) ∧
    (let s := withCells 1 [(0, { reserved := some 0, altered := true })]; s.reservedCell 0 0 = some 0 ∧ (s.cell 0 0).altered = true) ∧
    (let s := withCells 1 [(0, {})]; s.reservedCell 0 0 = none ∧ s.freeCell 0 (0 / 6) = some 0) ∧
    (let s := withCells 1 [(0, { live := true })]; s.reservedCell 0 0 = none ∧ s.freeCell 0 (0 / 6) = none) := by
  decide +kernel

/-- An image in group memory at 64, whose offset W[1] holds: span, dimensions, rows of an adapter table, formats, key slot 3 and a base. -/
def withImage (span dims ind fmt geom sfmt off : Nat) (s : State := base) : State :=
  (regs s [(1, .ofNat 32 off)]).wrs (gmemAddr 0 64)
    (bytesOf 64 (span + ind * 2 ^ 309 + dims * 2 ^ 319 + 63 * 2 ^ 322 + 3 * 2 ^ 328 + sfmt * 2 ^ 338 + geom * 2 ^ 344 + fmt * 2 ^ 346 + 512 * 2 ^ 392))

/-- The image that HNEW reads, with its checks: odd, its entry dead, its scale's entry dead. -/
def imageChecks (s : State) : Bool × Bool × Bool :=
  let img : Packet := .ofNat 512 (ofBytes (s.inSheaf.viewBytes 0 lane (gmemAddr 0 ((s.group 0).gbase + 64)) 64).2)
  let dims := bits img.toNat 321 319
  let dead (e : Nat) : Bool := decide (e = 14) || !Desc.valid ((s.ctx 0).entry e)
  (decide (bits img.toNat 80 32 ≠ 0 ∨ bits img.toNat 511 448 ≠ 0 ∨ recSpan img = 0 ∨ dims < 1 ∨ 5 < dims ∨ 512 < recInd img), dead (recFmt img),
    decide (recGeom img ≠ 0) && dead (recSfmt img))

theorem witness_HandlesIssue_images :
    (∀ off ∈ [32, 64, 4032, 4096], let s := withImage 1 1 0 4 0 0 off; s.oneOk { sw := false, reads := [{ v := 1 }], writes := [{ v := 16, n := 4 }], var := true, access := true } lane = true ∧
      (s.inSheaf.reg lane 1).toNat = off ∧ ((off % 64 = 0 ∧ off + 64 ≤ (s.launchOf 0).hdr.gmem) ↔ (off = 64 ∨ off = 4032))) ∧
    (∀ p ∈ [(0, 1, 0), (1, 0, 0), (1, 6, 0), (1, 5, 513), (2 ^ 32, 1, 0)], imageChecks (withImage p.1 p.2.1 p.2.2 4 0 0 64) = (true, false, false)) ∧
    imageChecks (withImage 1 5 512 4 0 0 64) = (false, false, false) ∧ imageChecks (withImage 1 1 0 14 0 0 64) = (false, true, false) ∧
    imageChecks (withImage 1 1 0 16 0 0 64) = (false, true, false) ∧ imageChecks (withImage 1 1 0 4 1 14 64) = (false, false, true) ∧
    imageChecks (withImage 1 1 0 4 1 7 64) = (false, false, false) ∧ base.keyUsable (base.launchOf 0) 3 = false ∧
    (let s := withImage 1 1 0 4 0 0 64 (paged base); s.keyUsable (s.launchOf 0) 3 = true ∧ imageChecks s = (false, false, false) ∧
      s.oneOk { sw := false, reads := [{ v := 1 }], writes := [{ v := 16, n := 4 }], var := true, access := true } lane = true) := by
  decide +kernel

/-- The kernel has bin 0 and one record template; W[1] holds an operand. -/
def withBin (n : Nat) (s : State) : State :=
  cx (hdr (regs s [(1, .ofNat 32 n)]) fun h => { h with nbin := 1, nrec := 1, templates := [1 <<< 319] }) fun x =>
    { x with bins := [{ desc := (base.launchOf 0).desc, idx := 0, kernel := 0, count := 4, timer := 0, region := {}, queue := 0 }] }

theorem witness_HandlesIssue_bins :
    (∀ n ∈ [0, 1, 32, 64, 4032, 4096], ∀ s ∈ [withQuad 0 (withBin n base), withQuad badHandle (withBin n base), withQuad (handle 5 63) (withBin n base), withQuad (handle 62 16) (withBin n base)],
      (∀ f ∈ handleForms, s.oneOk f lane = true) ∧
      (s.ctx 0).sealKey = (base.ctx 0).sealKey ∧ (s.inSheaf.reg lane 1).toNat = n ∧ s.binOf (s.launchOf 0) n = (if n = 0 then some 0 else none) ∧
      (s.launchOf 0).hdr.nrec = 1 ∧ (s.launchOf 0).hdr.gmem = 4096 ∧ (s.core 0).copyQ.length = 4 ∧ (s.launchOf 0).hdr.producer = some (lane.t / 32)) ∧
    ((16 : Nat).testBit 5 = false ∧ (63 : Nat).testBit 5 = true ∧ (63 : Nat).testBit 4 = true ∧ (47 : Nat).testBit 4 = false) ∧
    (let s := hdr (withQuad (handle 5 63) (withBin 64 base)) fun h => { h with producer := none }; (∀ f ∈ handleForms, s.oneOk f lane = true) ∧
      (s.launchOf 0).hdr.producer ≠ some (lane.t / 32)) ∧
    (∀ n ∈ [31, 32], let s := (withQuad (handle 5 63) (withBin 64 base)); let s := s.setCore 0 { s.core 0 with copyQ := [[], [], [], List.replicate n mldEntry] };
      (∀ f ∈ handleForms, s.oneOk f lane = true) ∧ (((s.core 0).copyQ.getD 3 []).filter fun e => !isMarker e.work).length = n) := by
  decide +kernel

/-- The tensor that the handles name. -/
def withTensor (st : EntState) (gen returned : Nat) (s : State := base) : State :=
  s.setTensor 0 3 { state := st, gen := gen, returned := returned, image := .ofNat 512 (1 + 3 * 2 ^ 328 + 512 * 2 ^ 392) }

/-- It is as the clauses say in these states. -/
theorem handle_tensor (s : State) (k r : Nat) (st : EntState) (gen ret : Nat) (hs : base.sealOk 0 (handle k r) = true) (hi : hInd (handle k r) = false)
    (ht : hTarget (handle k r) = 3) (hg : hGen (handle k r) = 2) (hk : (s.ctx 0).sealKey = (base.ctx 0).sealKey)
    (h : s.tensor 0 3 = { state := st, gen := gen, returned := ret, image := .ofNat 512 (1 + 3 * 2 ^ 328 + 512 * 2 ^ 392) }) :
    (st = .live → gen = 2 → s.livesAt 0 (handle k r)) ∧ (st ≠ .live ∨ gen ≠ 2 → s.deadAt 0 (handle k r)) := by
  rw [← sealOk_of s _ hk] at hs
  exact ⟨fun h1 h2 => ⟨hs, hi, by rw [ht, h], by rw [ht, h]; exact h1, by rw [ht, h, hg]; exact h2⟩, fun h1 => ⟨hs, hi, by rw [ht, h], by rw [ht, h, hg]; exact h1⟩⟩

theorem witness_HandlesIssue_info :
    (∀ s ∈ [withQuad 0, withQuad badHandle, withQuad (handle 5 63) (withTensor .live 2 7), withQuad (handle 5 63) (withTensor .dying 2 0), withQuad (handle 5 63) (withTensor .free 3 0),
        relocking (withQuad (handle 5 63) (withTensor .live 2 7))], s.oneOk { sw := false, reads := [{ v := 12, n := 4 }], writes := [{ v := 2 }], var := true, access := true } lane = true ∧
      (s.ctx 0).sealKey = (base.ctx 0).sealKey) ∧
    (withTensor .live 2 7).livesAt 0 (handle 5 63) ∧ (withTensor .dying 2 0).deadAt 0 (handle 5 63) ∧ (withTensor .live 3 0).deadAt 0 (handle 5 63) ∧
    (∀ d < 4, base.runs d = true) ∧ (relocking base).runs 0 = false ∧ hHome (handle 5 63) = 0 := by
  have hl : handleLow 5 63 < 2 ^ 80 ∧ bits (handleLow 5 63) 5 0 = 0 := by decide +kernel
  obtain ⟨h1, -, -, h4, h5, h6, -⟩ := handles_good (5, 63, false) (by decide)
  have ht (st : EntState) (gen ret : Nat) := handle_tensor (withTensor st gen ret) 5 63 st gen ret h1 h4 h5 h6 rfl rfl
  refine ⟨by decide +kernel, (ht _ _ _).1 rfl rfl, (ht _ _ _).2 (by decide), (ht _ _ _).2 (by decide), by decide +kernel, by decide +kernel, ?_⟩
  rw [handle, (sealed_fields base 0 _ hl.1).1, hl.2]

/-- H of core 0 holds one entry of the thread. -/
def handing (w : Work) (s : State) : State := s.setCore 0 { s.core 0 with hq := [{ id := 4, iss := { thr := lane }, work := w }] }

/-- The cell that an indirect handle names. -/
def withCell (e : Cell) : State := cx base fun x => { x with harea := some (1048576, 1, 4), cells := [(3, e)] }

theorem witness_HandlesAtTheirHomes :
    (∀ s ∈ [handing (.hand (.post (handle 5 63))) (withTensor .live 2 0), handing (.hand (.post (handle 5 63))) (withTensor .dying 2 0),
        handing (.hand (.post (handle 62 16))) (withTensor .live 2 0), handing (.hand (.post (handle 62 16))) (withTensor .live 2 1),
        handing (.hand (.bind (handle 5 63) 0 9)) (withTensor .live 2 0), handing (.hand (.bind (handle 5 63) 0 9)) (withTensor .free 2 0),
        handing (.hand (.post (handle 0 63 true))) (withCell { pending := true }), handing (.hand (.post (handle 0 63 true))) (withCell { live := true, gen := 2 }),
        handing (.hand (.post (handle 61 63 true))) (withCell { live := true, gen := 2, returned := 2 ^ 61 })],
      s.mayBegin { thr := lane } = true ∧ (∀ d < 4, s.runs d = true) ∧ s.noMarkers 0 ∧ (s.ctx 0).sealKey = (base.ctx 0).sealKey ∧
        ∀ e ∈ (s.core 0).hq, (s.core 0).hq.length = 1 ∧ e.iss.core = 0 ∧ s.recordsBefore e = false ∧ (s.launch e.iss.launch).state ≠ .rollingBack) ∧
    (0 + 2 ^ 5 ≤ 2 ^ 62 ∧ 0 + 2 ^ 62 = 2 ^ 62 ∧ 2 ^ 62 < 1 + 2 ^ 62 ∧ 2 ^ 61 + 2 ^ 61 = 2 ^ 62) ∧
    (∀ e ∈ [({ pending := true } : Cell), { live := true, gen := 2 }, { live := true, gen := 2, returned := 2 ^ 61 }], (withCell e).cell 0 3 = e ∧ e.altered = false) := by
  unfold State.noMarkers
  decide +kernel

theorem witness_HandlesAtTheirHomes_more :
    (let s := { withTensor .live 2 0 with hubPosts := [(0, handle 5 63)] }; s.hubPosts.length = 1 ∧ (s.tensor 0 3).returned + 2 ^ 5 ≤ 2 ^ 62 ∧ s.runs 0 = true ∧
      (s.ctx 0).sealKey = (base.ctx 0).sealKey) ∧
    (∀ n ∈ [3, 4, 5], let q : HnewReq := { id := 4, iss := { thr := lane }, ctx := 0, image := 0, out := 7 };
      let s := cx (withTensor .live 2 0) fun x => { x with harea := some (1048576, n, 0), tensors := [(0, { state := .live }), (1, { state := .live }), (2, { state := .dying }), (3, { state := .live })] };
      let s := s.setCluster 0 { s.cluster 0 with hnews := [q] }; (s.cluster 0).hnews = [q] ∧ s.runs (0 / 16) = true ∧ (s.ctx 0).harea = some (1048576, n, 0) ∧
        (∀ j < 4, (s.tensor 0 (0 * 2 ^ 24 + j)).state ≠ .free) ∧ (s.tensor 0 (0 * 2 ^ 24 + 4)).state = .free ∧ (s.tensor 0 4).altered = false ∧ (s.tensor 0 4).gen < 2 ^ 16 ∧
        recAtag q.image = 0) := by
  decide +kernel

theorem witness_HandlesAtTheirHomes_ends :
    (let s := cx base fun x => { x with cells := [(3, { pending := true })] }; let s := s.setCluster 0 { s.cluster 0 with cellsDue := [(0, 3)] };
      (s.cluster 0).cellsDue = [(0, 3)] ∧ s.runs (0 / 16) = true ∧ (s.cell 0 3).pending = true) ∧
    (∀ g ∈ [2, 0xFFFF], let s := withTensor .dying g (2 ^ 62); (s.tensor 0 (0 * 2 ^ 24 + 3)).state = .dying ∧ s.runs (0 / 16) = true ∧ recAtag (s.tensor 0 3).image = 0 ∧
      (s.tensor 0 3).bin = none) ∧
    (let s := (withBin 0 (withTensor .dying 2 0)); let s := s.setTensor 0 3 { s.tensor 0 3 with bin := some 0 }; (s.tensor 0 3).bin = some 0 ∧ (s.tensor 0 3).state = .dying ∧
      ∀ x ∈ (s.ctx 0).bins[0]?, x.waiting = [] ∧ x.state = .empty ∧ x.records = [] ∧ 2 ≤ x.count) := by
  decide +kernel

theorem witness_HandlesAtTheirHomes_seals : (withTensor .live 2 0).livesAt 0 (handle 5 63) ∧ (withTensor .live 2 1).livesAt 0 (handle 62 16) ∧
    (withTensor .dying 2 0).deadAt 0 (handle 5 63) ∧ base.sealOk 0 (handle 0 63 true) = true ∧ hInd (handle 0 63 true) = true ∧ hGen (handle 0 63 true) = 2 ∧
    cellKey (handle 0 63 true) = 3 ∧ hTarget (handle 0 63 true) = 3 := by
  have hl : handleLow 0 63 true < 2 ^ 80 ∧ bits (handleLow 0 63 true) 5 0 * 65536 + bits (handleLow 0 63 true) 29 6 % 65536 = 3 := by decide +kernel
  obtain ⟨h1, -, -, h4, h5, h6, -⟩ := handles_good (5, 63, false) (by decide)
  obtain ⟨k1, -, -, k4, k5, k6, -⟩ := handles_good (62, 16, false) (by decide)
  obtain ⟨j1, -, -, j4, j5, j6, -⟩ := handles_good (0, 63, true) (by decide)
  have ht (st : EntState) (gen ret : Nat) := handle_tensor (withTensor st gen ret) 5 63 st gen ret h1 h4 h5 h6 rfl rfl
  have hu (st : EntState) (gen ret : Nat) := handle_tensor (withTensor st gen ret) 62 16 st gen ret k1 k4 k5 k6 rfl rfl
  refine ⟨(ht _ _ _).1 rfl rfl, (hu _ _ _).1 rfl rfl, (ht _ _ _).2 (by decide), j1, j4, j6, ?_, j5⟩
  rw [cellKey, handle, (sealed_fields base 0 _ hl.1).1, (sealed_fields base 0 _ hl.1).2.1, hl.2]

/-- C3 of core 0 holds an HREC of the thread. -/
def recording (s : State) : State :=
  let s := hdr s fun h => { h with nrec := 1, templates := [.ofNat 512 (4 * 2 ^ 346 + 2 ^ 319 + 8 * 2 ^ 289)] }
  s.setCore 0 { s.core 0 with copyQ := [[], [], [], [{ id := 4, iss := { thr := lane }, work := .hrec (handle 5 63) 0 64 7 }]] }

theorem witness_HandlesAtTheirHomes_records : let s := recording (withTensor .live 2 0)
    ((s.core 0).copyQ.getD 3 []).length = 1 ∧ s.mayBegin { thr := lane } = true ∧ s.runs (dieOfCore 0) = true ∧ s.noMarkers 0 ∧ (s.ctx 0).sealKey = (base.ctx 0).sealKey ∧
      (s.group 0).state = .resident ∧ Memory.wf s.mem = true ∧ s.watchers (gmemAddr (s.group 0).core ((s.group 0).gbase + 64)) 64 = [] := by
  unfold State.noMarkers
  decide +kernel

/-! ## System and power instructions: hypotheses met -/

theorem witness_SystemReads :
    (∀ s ∈ [base, full], s.sheafOk { sw := false, writes := [{ v := 2 }], var := true } = true ∧ s.sheafOk { sw := true, writes := [{ v := 2, n := 2 }], var := true } = true ∧
      s.sheafOk { sw := true, writes := [{ v := 126, n := 2 }] } = true ∧ s.sheafOk { sw := false, reads := [{ v := 1 }] } = true) ∧ base.oneOk { sw := false } lane = true ∧
    (∀ p ∈ [(0, 1), (0, 0)], let s := base.setStack 0 { base.stack 0 with lower := p.1, upper := p.2 }; s.oneOk { sw := true } lane = true ∧
      ((if (s.group 0).core % 2 = 0 then (s.stack 0).upper < (s.stack 0).lower else (s.stack 0).lower < (s.stack 0).upper) ↔ False)) ∧
    (let s := base.setStack 0 { base.stack 0 with lower := 1, upper := 0 }; s.oneOk { sw := true } lane = true ∧ (s.group 0).core % 2 = 0 ∧ (s.stack 0).upper < (s.stack 0).lower) ∧
    (∀ n ∈ [0x80000000, 4, 0x10400003, 0x10400001, 0], let s := regs base [(1, .ofNat 32 n)]; s.oneOk { sw := false, reads := [{ v := 1 }], writes := [{ v := 2 }] } lane = true ∧
      (s.inSheaf.reg lane 1).toNat = n ∧ ((8 ≤ n / 2 ^ 28 ∨ n / 4 % 2 ^ 20 ≠ 0) ↔ (n = 0x80000000 ∨ n = 4))) ∧
    (∀ c ∈ [0, 1], let m : Monitor := { ctx := some c, source := 1, count := 5 }; let s := base.setCluster 0 { base.cluster 0 with monitors := List.replicate 8 m };
      ((s.cluster 0).monitors.getD 7 {}).ctx = some c ∧ (s.cluster 0).monitors.length = 8 ∧ s.ctxOf 0 = 0 ∧ s.oneOk { sw := false, reads := [{ v := 1 }], writes := [{ v := 2 }] } lane = true) := by
  decide +kernel

theorem witness_TrapsAndBreaks :
    (∀ p ∈ [0, 1, 2], let s := lau base fun la => { la with region := { la.region with policy := p * 4 ^ 0x1C } }; s.oneOk { sw := false, reads := [{ v := 1 }] } lane = true ∧
      actionOf (s.launchOf 0) 0x1C = p) ∧
    (∀ b ∈ [false, true], let s := cx base fun x => { x with debug := b }; s.oneOk { sw := true } lane = true ∧ (s.ctx (s.launchOf 0).ctx).debug = b) ∧
    base.sheaf = [lane] ∧ base.canIssue lane = true := by
  decide +kernel

/-! ## Bins, queues, power and clocks: hypotheses met -/

/-- Bin 0 with some state and records; the pair at 10 holds a pointer. -/
def withRecords (n : Nat) (st : BinState) (busy : Bool) (hi lo : Nat) : State :=
  cx (withBin 0 (withPtr hi lo)) fun x => { x with bins := x.bins.map fun b => { b with state := st, otherBusy := busy, records := List.replicate n [], timer := 100, firstAt := 7 } }

/-- The place that NREC or ENQ reads. -/
def feedAt (s : State) (size len : Nat) : Option Place := (s.inSheaf.resolveN lane (s.inSheaf.pair lane 10) 0 size len false).toOption

/-- What three records do to the bin: the state it takes and the causes fired. -/
def threeTo (s : State) : Option (BinState × List Nat) :=
  ((s.ctx 0).bins[0]?).bind fun b => (binTakes b (List.replicate 3 []) 50).map fun p => (p.1.state, p.2.map (·.1))

theorem witness_BinsFillAndFire :
    (∀ p ∈ [(0x20000000, 64), (0x40000000, 0), (0, 0), (0x30000000, 0), (0x28000000, 0), (0x10000000, 0), (0x20000000, 16), (0x20000000, 4064)],
      let s := withRecords 0 .empty false p.1 p.2; s.oneOk { sw := false, reads := [{ v := 1 }, { v := 10, n := 2 }], access := true } lane = true ∧
        s.binOf (s.launchOf 0) (s.inSheaf.reg lane 1).toNat = some 0 ∧ (feedBad (s.inSheaf.pair lane 10) 32 = none ↔ (p.1 = 0x20000000 ∧ p.2 ≠ 16) ∨ p.1 = 0x40000000)) ∧
    (let s := withBin 1 base; s.binOf (s.launchOf 0) (s.inSheaf.reg lane 1).toNat = none ∧ s.oneOk { sw := false, reads := [{ v := 1 }, { v := 10, n := 2 }], access := true } lane = true ∧
      s.oneOk { sw := true, reads := [{ v := 1 }] } lane = true) ∧
    feedAt (withRecords 0 .empty false 0x20000000 4064) 32 64 = none ∧ feedAt (withRecords 0 .empty false 0x20000000 4000) 32 96 = some (.loc (gmemAddr 0 4000)) ∧
    (let s := withRecords 0 .empty false 0x40000000 0; s.inSheaf.publishNeeds lane 7 = [] ∧ ∀ pl ∈ feedAt s 32 96, s.inSheaf.placeWaits lane pl 96 = false ∧
      (relocking s).inSheaf.placeWaits lane pl 96 = true) ∧
    (let s := { withRecords 0 .empty false 0x20000000 64 with stores := (ordering true).stores }; s.inSheaf.publishNeeds lane 7 ≠ [] ∧
      s.oneOk { sw := false, reads := [{ v := 1 }, { v := 10, n := 2 }], access := true } lane = true) := by
  decide +kernel

theorem witness_BinsFillAndFire_records :
    threeTo (withRecords 0 .empty false 0x20000000 64) = some (.collecting, []) ∧ threeTo (withRecords 1 .collecting false 0x20000000 64) = some (.empty, [1]) ∧
    threeTo (withRecords 1 .collecting true 0x20000000 64) = some (.held, []) ∧ threeTo (withRecords 2 .collecting false 0x20000000 64) = some (.collecting, [4]) ∧
    threeTo (withRecords 2 .collecting true 0x20000000 64) = none ∧ threeTo (withRecords 4 .held true 0x20000000 64) = none ∧
    (∀ b ∈ [false, true], ∀ t ∈ [106, 107], let s := { withRecords 1 .collecting b 0x20000000 64 with refTimer := t }; ∀ x ∈ (s.ctx 0).bins[0]?, x.waiting = [] ∧ x.timer ≠ 0 ∧
      x.otherBusy = b ∧ x.state = .collecting ∧ (x.firstAt + x.timer ≤ s.refTimer ↔ t = 107) ∧ s.oneOk { sw := true, reads := [{ v := 1 }] } lane = true ∧ s.ctxOf 0 = 0) := by
  decide +kernel

/-- Queue 5, of 4 packets, with some indices; W[1] names a queue and the pair at 10 a packet. -/
def withQueue (q : Nat) (st : QState) (dev : Bool) (w : Nat) (hi lo : Nat) (hd : Option (BitVec 1024) := some 0) : State :=
  (regs (withPtr hi lo) [(1, .ofNat 32 q)]).setQueue 5 { state := st, qlog := 2, devmode := dev, write := w, head := hd }

/-- The queue may not be fed. -/
def shut (s : State) : Bool :=
  let q := (s.inSheaf.reg lane 1).toNat
  decide (1024 ≤ q ∨ (s.queue q).state = .closed ∨ (s.queue q).ctx ≠ 0 ∨ (s.queue q).devmode = false)

theorem witness_PacketsEnqueue :
    (∀ s ∈ [withQueue 5 .running true 0 0x20000000 64, withQueue 5 .running true 4 0x20000000 3968, withQueue 5 .running false 0 0x20000000 64, withQueue 1024 .running true 0 0x20000000 64,
        withQueue 5 .running true 0 0x20000000 4032, withQueue 5 .running true 0 0 0, { withQueue 5 .running true 0 0x20000000 64 with stores := (ordering true).stores }],
      s.oneOk { sw := false, reads := [{ v := 1 }, { v := 10, n := 2 }], writes := [{ v := 1 }], var := true, access := true } lane = true) ∧
    shut (withQueue 5 .running true 0 0x20000000 64) = false ∧ shut (withQueue 5 .running false 0 0x20000000 64) = true ∧ shut (withQueue 1024 .running true 0 0x20000000 64) = true ∧
    shut (withQueue 5 .closed true 0 0x20000000 64) = true ∧ (∀ w ∈ [3, 4], let x := (withQueue 5 .running true w 0x20000000 64).queue 5; (x.write - x.read = 2 ^ x.qlog ↔ w = 4) ∧ x.head ≠ none) ∧
    feedBad ((withQueue 5 .running true 0 0 0).inSheaf.pair lane 10) 64 = some (7, 0) ∧ feedBad ((withQueue 5 .running true 0 0x20000000 64).inSheaf.pair lane 10) 64 = none ∧
    feedAt (withQueue 5 .running true 0 0x20000000 4032) 64 128 = none ∧ feedAt (withQueue 5 .running true 0 0x20000000 3968) 64 128 = some (.loc (gmemAddr 0 3968)) ∧
    (withQueue 5 .running true 0 0x20000000 64).inSheaf.publishNeeds lane 7 = [] ∧
    (withQueue 5 .running true 0 0x20000000 64).inSheaf.placeWaits lane (.loc (gmemAddr 0 64)) 128 = false ∧
    ({ withQueue 5 .running true 0 0x20000000 64 with stores := (ordering true).stores } : State).inSheaf.publishNeeds lane 7 ≠ [] ∧
    ((withQueue 5 .running true 0 0x20000000 64).group 0).launch < (withQueue 5 .running true 0 0x20000000 64).launches.length := by
  decide +kernel

/-- A Yoke at a time. -/
def yoked (y : Yoke) (budget t : Nat) (trip calm : Option Nat) (s : State := base) : State :=
  { s.setStack 0 { s.stack 0 with yoke := y, budget := budget, tripSince := trip, calmSince := calm } with refTimer := t }

theorem witness_YokesBalance :
    (∀ t ∈ [15, 16], ((yoked .balanced 20000 t none none).stack 0).lastSample + 16 ≤ (yoked .balanced 20000 t none none).refTimer ↔ t = 16) ∧
    (∀ m ∈ [3374, 3375], 3375 ≤ ((m : Int) - 0).natAbs ↔ m = 3375) ∧ (0 + 2000 < (yoked .balanced 20000 2001 (some 0) none).refTimer) ∧
    (∀ p ∈ [(Yoke.balanced, 20000), (.shunting, 10), (.throttled, 10)], let s := yoked p.1 p.2 16 none none; (s.stack 0).yoke = p.1 ∧ (s.stack 0).yoke ≠ .tripped ∧
      (s.stack 0).tripSince = none ∧ (s.stack 0).budget - (s.refTimer - (s.stack 0).lastSample) = (if p.2 = 10 then 0 else 19984)) ∧
    (let s := yoked .tripped 0 10000 none (some 0) (grp base fun g => { g with state := .stopped }); (s.stack 0).yoke = .tripped ∧ (∀ g < s.groups.length, (s.group g).state ≠ .resident ∧
      (s.group g).state ≠ .halting) ∧ (s.stack 0).mq = [] ∧ (s.stack 0).calmSince = some 0 ∧ 0 + 10000 ≤ s.refTimer) ∧
    (let s := yoked .tripped 0 10000 none none; (s.stack 0).yoke = .tripped ∧ (s.stack 0).calmSince = none) ∧
    (let s := thr (yoked .balanced 20000 16 none none) fun th => { th with status := .waiting (.balidle 3) }; (s.thread lane).status = .waiting (.balidle 3) ∧ (s.thread lane).halted = false ∧
      (s.group 0).core / 2 = 0 ∧ (s.group 0).core % 2 = 0 ∧ s.refTimer < 3 + 64000) ∧
    (let s := thr (yoked .balanced 20000 64003 none none) fun th => { th with status := .waiting (.balidle 3) }; 3 + 64000 ≤ s.refTimer ∧ (s.thread lane).halted = false) ∧
    (∀ t ∈ [999, 1000, 4000], let s := yoked .throttled 0 t none (some 0); (s.stack 0).yoke = .throttled ∧ ((s.stack 0).lastStep + 1000 ≤ s.refTimer ↔ t ≠ 999) ∧ (s.core 0).k ≤ 8 ∧
      (s.core 1).k ≤ 8 ∧ (0 + 4000 ≤ s.refTimer ↔ t = 4000)) := by
  decide +kernel

/-- Die 0 at a time, and its cluster 0. -/
def timed (t : Nat) (f : Die → Die := id) (c : Cluster → Cluster := id) : State :=
  let s := base.setDie 0 (f (base.die 0))
  { s.setCluster 0 (c (s.cluster 0)) with refTimer := t }

theorem witness_ClocksAndPower :
    (∀ t ∈ [4999, 5000], (timed t).refTimer % 5000 = 0 ∧ ((timed t).die 0).lastBoundary < (timed t).refTimer ↔ t = 5000) ∧
    (∀ t ∈ [2499, 2500], let s := timed t fun d => { d with relock := some 2500, goal := (20, List.replicate 16 20) }; (s.die 0).relock = some 2500 ∧ (s.die 0).goal.2.length = 16 ∧
      (2500 ≤ s.refTimer ↔ t = 2500)) ∧ ((timed 0).die 0).relock = none ∧
    (∀ t ∈ [6, 7], let s := timed t id fun c => { c with fall := 2, fallAt := 7 }; ((s.cluster (16 * 0 + 0)).fall = 2 ∧ (s.cluster (16 * 0 + 0)).fallAt ≤ s.refTimer) ↔ t = 7) ∧
    (∀ i < 16, ((timed 7).cluster (16 * 0 + i)).fall ≠ 2 ∧ ((timed 25000).cluster (16 * 0 + i)).mhz ≤ 20) ∧
    (∀ t ∈ [24999, 25000], ((timed t).die 0).refillAt + 25000 ≤ (timed t).refTimer ↔ t = 25000) ∧ 20 < ((timed 0 id fun c => { c with mhz := 24 }).cluster (16 * 0 + 0)).mhz ∧
    (∀ t ∈ [9999, 10000], (timed t).powerAt + 10000 ≤ (timed t).refTimer ↔ t = 10000) ∧
    (∀ p ∈ [(1, 10, 10), (2, 10, 10), (1, 9, 10)], let s := { timed p.2.1 with cap := { stage := p.1, due := p.2.2, seq := 5 } }; s.cap.stage = p.1 ∧ (s.cap.due ≤ s.refTimer ↔ p.2.1 = 10)) ∧
    (∀ q ∈ [4, 5, 6], let s := { timed 0 with cap := { stage := 1, seq := 5 } }; let seq := (BitVec.ofNat 64 (q + 700 * 2 ^ 32 + 3 * 2 ^ 48)).extractLsb' 0 32;
      (s.cap.stage = 0 ∨ 1 ≤ (seq - .ofNat 32 s.cap.seq).toNat ∧ (seq - .ofNat 32 s.cap.seq).toNat ≤ 2 ^ 31 - 1) ↔ q = 6) ∧
    ((BitVec.ofNat 64 (6 + 700 * 2 ^ 32 + 3 * 2 ^ 48)).extractLsb' 48 16).toNat ≠ 0 ∧
    (∀ src ∈ [1, 5], let s := timed 0 (fun d => { d with pulses := 64 }) fun c => { c with monitors := List.replicate 8 { ctx := some 0, source := src, enable := true } };
      let m := (s.cluster 0).monitors.getD 3 {}; m.ctx = some 0 ∧ m.enable = true ∧ m.source = src ∧ m.sampledAt + 64 ≤ s.cycles 0) ∧
    (∀ n ∈ [2 ^ 30 - 1, 2 ^ 30], let x := (cx base fun x => { x with headland := n, hlog := 30 }).ctx 0; x.state ≠ .free ∧ (2 ^ x.hlog ≤ x.headland ↔ n = 2 ^ 30)) ∧
    (∀ q ∈ [(0, 0, 0), (2, 0, 2), (3, 1, 3)], actionOf ((lau base fun la => { la with replayable := true, region := { la.region with policy := q.1 * 4 ^ 0x1A, replaylim := q.2.1 } }).launch 0) 0x1A = q.2.2) ∧
    (State.reset.ctx 0).state = .free := by
  decide +kernel

/-! ## Admin commands: hypotheses met -/

/-- An admin packet from its fields: value and lowest bit. -/
def pktOf (fs : List (Nat × Nat)) : Packet := .ofNat 512 (fs.map fun p => p.1 * 2 ^ p.2).sum

/-- Context 0 in a state. -/
def ctxIn (st : CtxState) (fn : Nat := 0) : State := cx base fun x => { x with state := st, fn := fn }

theorem witness_AdminCommandsComplete : fieldOf (pktOf [(64, 8)]) 8 8 = 64 ∧ fieldOf (pktOf [(63, 8)]) 8 8 = 63 ∧
    (((ctxIn .active 1).ctx 0).state ≠ .free ∧ ((ctxIn .active 1).ctx 0).fn ≠ 0) ∧ ((ctxIn .closing).ctx 0).state ∉ [CtxState.opened, .active] ∧
    ((ctxIn .free 7).ctx 0).state = .free ∧
    (let s := base.setFn 3 { admlog := 2, admring := 64, admcpl := 64 }; (s.fn 3).admlog ≠ 0 ∧ (s.fn 3).admring ≠ 0 ∧ (s.fn 3).admcpl ≠ 0 ∧ (base.fn 3).admlog = 0) := by
  decide +kernel

/-- A key slot bound to the contexts of a mask. -/
def keyed (k mask : Nat) (s : State) (st : KeyState := .loaded) : State := s.setKey k { state := st, ctxmask := .ofNat 64 mask }

theorem witness_ContextCommandsAct_create :
    (∀ p ∈ [(3, 0, 0), (3, 19, 0), (3, 20, 0), (3, 40, 0), (3, 41, 0), (2, 0, 0), (3, 0, 3), (3, 0, 2)], let s := keyed 3 1 (ctxIn .free);
      let q := pktOf [(p.1, 66), (p.2.1, 60), (p.2.2, 54)]; fieldOf q 8 8 < 64 ∧ (s.ctx 0).state = .free ∧ fieldOf q 256 64 = 0 ∧
      (((s.key (fieldOf q 66 6)).state = .loaded ∧ (s.key (fieldOf q 66 6)).ctxmask.getLsbD 0 = true) ↔ p.1 = 3) ∧ fieldOf q 60 6 = p.2.1 ∧ (q.getLsbD 55 = true ↔ 2 ≤ p.2.2) ∧
      (q.getLsbD 54 = true ↔ p.2.2 = 3) ∧ (s.fn 0).keyed = false) ∧
    (let s := (keyed 3 1 (ctxIn .free)).setFn 0 { keyed := true }; (s.fn 0).keyed = true) := by
  decide +kernel

/-- The page at VA 64 KiB is mapped to frame 1 through the tree at 128 KiB. -/
def tabled (s : State) (leaf : Nat := 1 + 15 * 2 ^ 44 + 3 * 2 ^ 50 + 2 ^ 57 + 2 ^ 63) : State :=
  let s := cx s fun x => { x with ptroot := 0x20000 }
  (((s.wrs 0x20000 (bytesOf 8 (2 ^ 63 + 0x28000))).wrs 0x28000 (bytesOf 8 (2 ^ 63 + 0x30000))).wrs 0x30000 (bytesOf 8 (2 ^ 63 + 0x38000))).wrs 0x38008 (bytesOf 8 leaf)

theorem witness_ContextCommandsAct_contexts :
    (∀ st ∈ [CtxState.opened, .active, .quiescing, .suspended, .closing], ((ctxIn st).ctx 0).state = st ∧ ((ctxIn st).ctx 0).fn = 0) ∧
    (∀ p ∈ [(65537, 0, 0), (65536, 0, 0), (65536 + 0, 0, 0)], let q := pktOf [(p.1, 448), (64, 416)]; (fieldOf q 448 64 % 64 = 0 ↔ p.1 = 65536) ∧ fieldOf q 352 64 % 16 = 0 ∧
      fieldOf q 336 16 = 0) ∧
    ((ctxIn .active).virtRd ((ctxIn .active).ctx 0) 65536 64).isNone = true ∧
    (let s := tabled (ctxIn .active); (s.virtRd (s.ctx 0) 65536 64).isSome = true ∧ (s.ctx 0).kernels = []) ∧
    (let m : Measured := { desc := 65536, len := 64, digest := 0 }; (∃ k ∈ List.replicate 256 m, k.desc = 65536) ∧ ¬∃ k ∈ List.replicate 256 m, k.desc = 65600) ∧
    (∀ n ∈ [0, 2, 2 ^ 20, 2 ^ 20 + 1], fieldOf (pktOf [(n, 416), (0x40000, 448)]) 416 32 = n) ∧
    (let s := (ctxIn .active).wrs 0x40000 (bytesOf 16 (0x50000 + 0x60000 * 2 ^ 64)); ∃ u bs, s.physRd 0x40000 16 = .ok (u, bs) ∧
      (List.range 2).map (fun i => ofBytes ((bs.drop (8 * i)).take 8)) = [0x50000, 0x60000] ∧ (∀ f ∈ [0x50000, 0x60000], f % 65536 = 0 ∧ physOk f = true) ∧
      (s.ctx 0).snapBusy = []) ∧
    (let s := (ctxIn .active).wrs 0x40000 (bytesOf 8 0x50001); ∃ u bs, s.physRd 0x40000 8 = .ok (u, bs) ∧ ofBytes ((bs.drop 0).take 8) % 65536 ≠ 0) := by
  refine ⟨by decide +kernel, by decide +kernel, by decide +kernel, by decide +kernel, by decide +kernel, by decide +kernel, ⟨_, _, rfl, ?_⟩, ⟨_, _, rfl, ?_⟩⟩ <;> decide +kernel

/-- The launch's save area stands in the mapped page and has room. -/
def saving (s : State) : State :=
  (tabled (lau s fun la => { la with region := { la.region with save := 65536 } })).wrs 65536 (bytesOf 16 (2 ^ 24))

theorem witness_ContextCommandsAct_suspend :
    (ctxIn .active).ctxLive 0 = [0] ∧ ((ctxIn .active).preempt [0]).isNone = true ∧ ((saving (ctxIn .active)).preempt [0]).isSome = true ∧
    (∀ u ∈ (saving (ctxIn .active)).preempt [0], (u.setCtx 0 { u.ctx 0 with state := .suspended }).suspendOver 0 = false) ∧
    (let s := grp (ctxIn .active) fun g => { g with state := .retired }; s.ctxLive 0 = [] ∧ (s.setCtx 0 { s.ctx 0 with state := .suspended }).suspendOver 0 = true) := by
  decide +kernel

theorem witness_ContextCommandsAct_operands :
    (∀ n ∈ [0, 19, 20, 40, 41], fieldOf (pktOf [(n, 256)]) 256 6 = n) ∧
    (∀ p ∈ [(65536, 1, 0), (65537, 1, 0), (65536, 0, 0), (65536, 2 ^ 20, 1), (65536, 2 ^ 20 + 1, 1)], let q := pktOf [(p.1, 448), (p.2.1, 416), (p.2.2, 415)];
      fieldOf q 448 64 = p.1 ∧ fieldOf q 416 32 = p.2.1 ∧ (q.getLsbD 415 = true ↔ p.2.2 = 1)) ∧
    (∀ n ∈ [63, 64], let s := cx base fun x => { x with holds := List.replicate n { va := 65536, pages := 1 } }; (s.ctx 0).holds.length = n ∧ ({ va := 65536, pages := 1 } : Hold) ∈ (s.ctx 0).holds ∧
      ({ va := 65536, pages := 2 } : Hold) ∉ (s.ctx 0).holds) ∧
    (base.pinned 0 65536 1 = false ∧ (paged base).pinned 0 65536 1 = true) ∧
    (∀ st ∈ [QState.closed, .running, .stopped], ∀ c ∈ [0, 1], let s := (ctxIn .active).setQueue 1023 { state := st, ctx := c }; (s.queue 1023).state = st ∧ (s.queue 1023).ctx = c ∧
      s.queueBusy 1023 = false) ∧ fieldOf (pktOf [(1023, 342)]) 342 10 = 1023 ∧ base.queueBusy 0 = true ∧
    (∀ b ∈ [false, true], (cx (ctxIn .opened) fun x => { x with usedHnew := b }).ctx 0 = { base.ctx 0 with state := .opened, usedHnew := b }) ∧
    (∀ p ∈ [(65536, 1), (65537, 1), (65536, 0)], let q := pktOf [(p.1, 448), (p.2, 424)]; fieldOf q 448 64 = p.1 ∧ fieldOf q 424 24 = p.2) ∧
    (∀ p ∈ [(128, 64, 2), (64, 64, 2), (128, 32, 2), (128, 64, 1), (128, 64, 15)], let q := pktOf [(p.1, 448), (p.2.1, 384), (p.2.2, 364)];
      fieldOf q 448 64 = p.1 ∧ fieldOf q 384 64 = p.2.1 ∧ fieldOf q 364 4 = p.2.2) ∧
    (base.queue 5).state = .closed ∧ (base.ctxQueues 0).length < 64 := by
  decide +kernel

theorem witness_ContextCommandsAct_ends :
    ((ctxIn .closing).ctx 0).state = .closing ∧ (lau (ctxIn .closing) fun la => { la with state := .gone }).torn 0 = true ∧ (ctxIn .active).torn 0 = false ∧
    (∀ st ∈ [KeyState.empty, .loaded, .zeroizing], ((keyed 5 1 base st).key 5).state = st ∧ ((keyed 5 1 base st).key 5).fn = 0) ∧
    (∀ c < 64, (State.reset.ctx c).state = .free) ∧ fieldOf (pktOf [(5, 378), (0x40000, 448), (1, 384)]) 448 64 % 16 = 0 ∧
    (fieldOf (pktOf [(5, 378), (0x40000, 448), (1, 384)]) 384 64 = 1 ∧ fieldOf (pktOf [(5, 256)]) 256 6 = 5) ∧
    ((keyed 5 1 base).key 5).ctxmask.getLsbD 0 = true ∧ (base.ctx 0).fn = 0 ∧ (base.ctx 0).state = .active ∧ (keyed 5 2 base).key 5 = { state := .loaded, ctxmask := 2 } ∧
    (∀ e ∈ base.allEntries, isMarker e.work = true) := by
  decide +kernel

/-- A key blob at 256 KiB that approves one digest. -/
def withBlob : State := (State.reset.wrs 0x40090 (bytesOf 4 1)).wrs 0x40094 (bytesOf 48 9)

/-- What IMPORTKEY reads: how many digests, and the value of their bytes. -/
def blobOf (s : State) : Option (Nat × Nat) :=
  match s.physRd 0x40000 148 with
  | .ok (u, bs) => match u.physRd (0x40000 + 148) (48 * ofBytes ((bs.drop 144).take 4)) with
    | .ok (_, ds) => some (ofBytes ((bs.drop 144).take 4), ofBytes ds)
    | .error _ => none
  | .error _ => none

theorem witness_ContextCommandsAct_import : blobOf withBlob = some (1, 9) ∧ (withBlob.key 5).state = .empty := by decide +kernel

theorem witness_ModuleCommandsAct :
    (∀ n ∈ [383, 384], fieldOf (pktOf [(n, 256)]) 256 9 = n) ∧ base.coreLive 383 = [] ∧ base.coreLive 0 = [0] ∧ (base.preempt [0]).isNone = true ∧
    (∀ u ∈ (saving base).preempt ((saving base).coreLive 0), u.coreLive 0 = [0]) ∧ ((saving base).preempt ((saving base).coreLive 0)).isSome = true ∧
    (∀ p ∈ [(0x40000, 64, true), (0x40001, 64, false), (0x40000, 0, false), (0x40000, 65, false), (2 ^ 52, 64, false), (2 ^ 52 - 64, 128, false)],
      let q := pktOf [(p.1, 448), (p.2.1, 384), (7, 380)]; fieldOf q 448 64 = p.1 ∧ fieldOf q 384 64 = p.2.1 ∧
      ((p.1 % 64 ≠ 0 ∨ p.2.1 % 64 ≠ 0 ∨ p.2.1 < 64 ∨ rangeOk p.1 p.2.1 = false) ↔ p.2.2 = false)) ∧ base.sectors = [] ∧
    (∀ p ∈ [(5, false), (6, true), (20, true), (21, false)], fieldOf (pktOf [(0x40000, 448), (p.1, 440)]) 440 8 = p.1 ∧
      ((p.1 < 6 ∨ 20 < p.1 ∨ rangeOk 0x40000 (64 + 32 * 2 ^ p.1) = false) ↔ p.2 = false)) ∧
    (∀ p ∈ [(0, 0, true), (599, 0, false), (600, 12, true), (2400, 24, true), (2401, 0, false), (0, 11, false), (0, 25, false)],
      fieldOf (pktOf [(p.1, 496), (p.2.1, 464)]) 496 16 = p.1 ∧ fieldOf (pktOf [(p.1, 496), (p.2.1, 464)]) (464 + 8 * 0) 8 = p.2.1 ∧
      (((p.1 ≠ 0 ∧ (p.1 < 600 ∨ 2400 < p.1)) ∨ (p.2.1 ≠ 0 ∧ (p.2.1 < 12 ∨ 24 < p.2.1))) ↔ p.2.2 = false)) := by
  decide +kernel

theorem witness_ModuleCommandsAct_links :
    (∀ p ∈ [(65536, 2 ^ 24), (65537, 1), (65536, 2 ^ 24 + 1)], fieldOf (pktOf [(p.1, 448), (p.2, 416)]) 448 64 = p.1 ∧ fieldOf (pktOf [(p.1, 448), (p.2, 416)]) 416 32 = p.2) ∧
    (∀ p ∈ [(11, 1000, 1), (12, 0, 1), (0, 1001, 0), (0, 0, 0)], let q := pktOf [(p.1, 256), (p.2.1, 288), (p.2.2, 260)]; fieldOf q 256 4 = p.1 ∧ fieldOf q 288 16 = p.2.1 ∧
      (q.getLsbD 260 = true ↔ p.2.2 = 1)) ∧
    (∀ st ∈ [LinkState.down, .training, .up, .degraded, .recovering, .fenced], ((base.setLink 3 { state := st }).link 3).state = st) ∧
    ((paged base).setFn 3 { pending := some (.pagehold 0 65536 1) }).fn 3 = { pending := some (.pagehold 0 65536 1) } ∧ (paged base).pinned 0 65536 1 = true ∧
    (∀ t ∈ [9, 10], let s := { base.setCore 5 { base.core 5 with outUntil := some 10 } with refTimer := t }; (s.core 5).outUntil = some 10 ∧ (10 ≤ s.refTimer ↔ t = 10)) ∧
    (∀ t ∈ [999999, 1000000], let s := { base with refTimer := t }; s.epoch ≠ 0 ∧ (s.epochAt + 1000 * s.epoch ≤ s.refTimer ↔ t = 1000000)) ∧
    (∀ n ∈ [0, 1], let s := { base with sectors := [(4096, { tag := 7, key := 3, addr := 4096, errors := n })] }; sectorOf? s.sectors (0x40000 / 64) = some { tag := 7, key := 3, addr := 4096, errors := n } ∧
      physOk (0x40000 / 64 * 64) = true ∧ (∀ d < 4, s.runs d = true) ∧ s.corr = 0) := by
  decide +kernel

theorem witness_ResetsAndRegisters :
    (State.reset.phase = .starting ∧ ({ base with phase := .up } : State).phase ≠ .starting) ∧
    (∀ p ∈ [(1, true), (4, true), (5, false), (0, false)], let s := { base.setFn 3 { admlog := 2, admring := 64, admcpl := 64 } with phase := .up, pcieUp := [0] }; (s.fn 3).admlog ≠ 0 ∧ (s.fn 3).admring ≠ 0 ∧
      (s.fn 3).admcpl ≠ 0 ∧ (s.fn 3).admhead = (s.fn 3).admtail ∧ s.phase = .up ∧ 0 ∈ s.pcieUp ∧ (((s.fn 3).admtail < p.1 ∧ p.1 ≤ (s.fn 3).admhead + 2 ^ (s.fn 3).admlog) ↔ p.2 = true)) ∧
    (let s := { base.setFn 3 { admring := 64, admcpl := 64 } with phase := .up, pcieUp := [0] }; (s.fn 3).admlog = 0 ∧ (s.fn 3).admhead = (s.fn 3).admtail) ∧
    (let s := { base.setFn 3 { admtail := 1 } with phase := .up, pcieUp := [0] }; (s.fn 3).admhead ≠ (s.fn 3).admtail) ∧
    (∀ p ∈ [(0, false), (1, true), (4, true), (5, false)], let s := { base.setQueue 7 { state := .running, qlog := 2 } with pcieUp := [0] }; s.owed = [] ∧ 0 ∈ s.pcieUp ∧ (s.queue 7).state ≠ .closed ∧ (s.queue 7).devmode = false ∧
      (s.ctx (s.queue 7).ctx).fn = 0 ∧ (((s.queue 7).write < p.1 ∧ p.1 ≤ (s.queue 7).read + 2 ^ (s.queue 7).qlog) ↔ p.2 = true)) ∧
    (∀ q ∈ [(TdiState.run, TdiState.error, true, true), (.run, .configUnlocked, true, true), (.configLocked, .run, true, false), (.configLocked, .run, false, false)],
      let s := base.setFn 3 { tdi := q.1, keyed := q.2.2.1 }; (s.fn 3).pending = none ∧
      ((((s.fn 3).tdi = .run ∧ (q.2.1 = .error ∨ q.2.1 = .configUnlocked)) ∨ ((s.fn 3).keyed = true ∧ q.2.2.2 = false)) ↔ (q.1 = .run ∨ q.2.2.1 = true))) := by
  decide +kernel


/-! ## Links, launches and faults: hypotheses met -/

/-- What a walk of context 0's tree finds. -/
def found (s : State) (va : Nat) : Option (Option (BitVec 64)) := (s.walk (s.ctx 0) va).toOption.map Prod.snd

/-- The leaf that `tabled` installs. -/
def leaf3 : BitVec 64 := .ofNat 64 (1 + 15 * 2 ^ 44 + 3 * 2 ^ 50 + 2 ^ 57 + 2 ^ 63)

/-- Link 2 is up, and window 1 is the mapped page. -/
def windowed (pages : Nat) : State := { (keyed 3 1 (tabled base)).setLink 2 { state := .up } with windows := [(1, { base := 65536, pages := pages, ctx := 0, write := false })] }

/-- A read of 16 bytes through window 1. -/
def peerRead (off : Nat) : PeerAccess := { link := 2, win := 1, offset := off, write := false, tag := 0, data := [], len := 16 }

theorem witness_LinksAndPeers :
    (2 ∉ base.pcieUp ∧ ∀ n < 2, n ∉ base.pcieUp ∨ n ∈ base.pcieUp) ∧ (1 ∉ base.pcieUp) ∧
    (∀ st ∈ [LinkState.training, .recovering, .up, .fenced], ((base.setLink 11 { state := st, domain := 7 }).link 11).state = st ∧ ((base.setLink 11 { state := st, domain := 7 }).link 11).domain = 7) ∧
    (∀ t ∈ [99999999, 100000000], let s := { base.setLink 11 { state := .training } with refTimer := t }; (s.link 11).since + 100000000 ≤ s.refTimer ↔ t = 100000000) ∧
    (∀ t ∈ [9999999, 10000000], let s := { base.setLink 11 { state := .recovering } with refTimer := t }; (s.link 11).since + (s.link 11).timeout * 1000000 ≤ s.refTimer ↔ t = 10000000) ∧
    (∀ q ∈ [(0, true), (1, false), (2, false)], ∀ st ∈ [LinkState.up, .recovering], let l := (base.setLink 11 { state := st, replay := [{ seq := 4095, entry := 1, elems := [] }, { seq := 0, entry := 2, elems := [] }] }).link 11;
      (l.state = .up ∨ l.state = .degraded ∨ l.state = .recovering) ∧ (∀ x ∈ l.replay, x.seq ≠ 17) ∧ l.replay = [{ seq := 4095, entry := 1, elems := [] }] ++ { seq := 0, entry := 2, elems := [] } :: [] ∧ (q.1 ≠ 2 ∨ l.replay ≠ [])) ∧
    (∀ q ∈ [(65520, 1, true), (65521, 1, false), (0, 0, false)], let s := windowed q.2.1; let a := peerRead q.1; let w := tget {} s.windows a.win;
      a.link < 12 ∧ (s.link a.link).state = .up ∧ (∀ d < 4, s.runs d = true) ∧ (s.ctx w.ctx).state = .active ∧
      ((w.pages ≠ 0 ∧ a.offset + a.len ≤ w.pages * 65536 ∧ w.base + a.offset + a.len ≤ 2 ^ 64) ↔ q.2.2 = true)) ∧
    (let s := windowed 1; found s (65536 + 65520) = some (some leaf3) ∧ (65536 + 65520) % 65536 + 16 ≤ 65536 ∧ (s.key (leafKey leaf3)).boundTo (s.ctx 0).fn 0 = true ∧
      ((s.mainRd (leafFrame leaf3 * 65536 + 65520) 16 (leafKey leaf3) 0).toOption.map (·.2)) = some (List.replicate 16 0)) ∧
    (let s := windowed 2; (peerRead 65536).offset + 16 ≤ 2 * 65536 ∧ found s (65536 + 65536) = some none) := by
  decide +kernel

/-- Queue 5 with a head packet, of context 0. -/
def headed5 (p : BitVec 1024) (f : Queue → Queue := id) : State := base.setQueue 5 (f { state := .running, qlog := 2, write := 1, head := some p })

/-- A head packet with one dependence and a deadline. -/
def waitsFor : BitVec 1024 := .ofNat 1024 (1 + 1 * 2 ^ 8 + 1000 * 2 ^ 384)

/-- The launch, leasing the mapped page for reading. -/
def leasing (cls : Nat) (s : State := tabled base) : State :=
  (lau s fun la => { la with state := .leasing, leases := [{ cls := cls, base := 65536, len := 100 }] }).setKey 3 { state := .loaded, ctxmask := 1, approved := [0] }

/-- A launch with a page to mark, and a snapshot pool. -/
def marking (lim : Nat) (pool busy : List Nat) : State :=
  cx (lau (paged base) fun la => { la with state := .marking, region := { la.region with replaylim := lim }, leases := [{ cls := 1, base := 65536, len := 65536 }] })
    fun x => { x with snapPool := pool, snapBusy := busy }

theorem witness_LaunchesArePicked :
    (∀ t ∈ [15, 16], let s := { headed5 1 with lastPick := some 0, refTimer := t }; ((∃ t0, s.lastPick = some t0 ∧ s.refTimer < t0 + 16) ↔ t = 15)) ∧ base.candidates.2 = [] ∧
    (headed5 1).candidates.2 ≠ [] ∧ (headed5 waitsFor).candidates.2 = [] ∧ (headed5 waitsFor fun a => { a with met := [0] }).candidates.2 ≠ [] ∧
    (∀ t ∈ [15999, 16000], let s := { headed5 waitsFor with refTimer := t }; ((s.queue 5).readAt + 16000 ≤ s.refTimer ↔ t = 16000) ∧ (s.queue 5).head = some waitsFor) ∧
    (∀ la ∈ (headed5 waitsFor).launches, la.queue ≠ 5 ∨ la.node.isSome = true) ∧
    (∀ t ∈ [999, 1000], let s := { headed5 waitsFor with refTimer := t }; (waitsFor.extractLsb' 384 64).toNat ≠ 0 ∧ ((waitsFor.extractLsb' 384 64).toNat ≤ s.refTimer ↔ t = 1000) ∧
      (s.queue 5).headMissed = false) ∧
    (∀ c ∈ [0, 1], let s := { leasing c with refTimer := 16000 }; let la := s.launch 0; la.leafReadAt + 16000 ≤ s.refTimer ∧ la.state = .leasing ∧
      (∀ e ∈ la.leases, e.pages = [e.base / 65536] ∧ (s.ctx la.ctx).held (e.base / 65536) = false) ∧ la.leases.length = 1 ∧ found s 65536 = some (some leaf3) ∧ leafWrite leaf3 = true ∧
      s.keyUsable la (leafKey leaf3) = true) ∧
    (∀ t ∈ [1023999, 1024000], let s := { lau (leasing 0) fun la => { la with asked := [(7, 0)] } with refTimer := t }; (s.launch 0).asked = [(7, 0)] ∧ (0 + 1024000 ≤ s.refTimer ↔ t = 1024000) ∧
      (s.ctx 0).held 7 = false ∧ found s (7 * 65536) = some none) ∧
    (∀ q ∈ [(0, [9], []), (1, [], []), (1, [9], [9]), (1, [9], [])], let s := marking q.1 q.2.1 q.2.2; let la := s.launch 0; la.state = .marking ∧ (∀ p ∈ la.shadow, p.marked = false) ∧
      (la.shadow.filter fun p => la.writePage p.page).length = 1 ∧ (s.ctx la.ctx).snapPool = q.2.1 ∧ ((s.ctx la.ctx).snapPool.filter fun f => !(s.ctx la.ctx).snapBusy.contains f).length =
        (if q = (1, [9], []) ∨ q = (0, [9], []) then 1 else 0)) := by
  decide +kernel

/-- One more group of the launch to place, with no pairing and no budget limits. -/
def placing : State := lau base fun la => { la with state := .placing, gx := 2, hdr := { la.hdr with free := true, spill := 0 }, region := { la.region with band := 2 } }

theorem witness_LaunchesArePicked_placing :
    placing.placeOrder = [0] ∧ placing.nextItem 0 = some { parts := [none], even := false } ∧ (placing.launch 0).hdr.spill = 0 ∧ (placing.launch 0).node = none ∧
    (placing.bestCore 0 { parts := [none], even := false } []).isSome = true ∧ State.reset.placeOrder = [] ∧
    (∀ t ∈ [15999, 16000, 63999, 64000], let s := { lau placing fun la => { la with waitingSince := some 0 } with refTimer := t }; ((s.launch 0).state = .placing ∧ (s.launch 0).waitingSince = some 0 ∧
      (s.launch 0).reserved = none) ∧ (0 + 16000 ≤ s.refTimer ↔ t ≠ 15999) ∧ (0 + 64000 ≤ s.refTimer ↔ t = 64000)) := by
  decide +kernel

/-- Group 0 is Halting. -/
def halted : State := grp base fun g => { g with state := .halting, record := some 0 }

theorem halted_alone (r : TRef) (h : r.g ≠ 0) : watched (halted.thread r).status = none := by
  have hl : halted.groups.length = 1 := rfl
  have : halted.group r.g = {} := List.getD_eq_default _ _ (by omega)
  simp [State.thread, this, watched]

theorem witness_LaunchesEnd :
    (halted.group 0).state = .halting ∧ halted.saveReady 0 = true ∧ (∀ k ∈ halted.fns, k.2.pending = none) ∧ (base.group 0).state ≠ .halting ∧
    (∀ st ∈ [LState.draining, .finished, .rollingBack], let s := lau base fun la => { la with state := st }; (s.launch 0).state = st ∧ s.opsLeft 0 = false ∧ 0 < s.launches.length ∧
      (s.launch 0).node = none ∧ (s.launch 0).heldFault = none ∧ (s.launch 0).shadow = []) ∧
    (∀ a ∈ [0, 65600], let s := tabled (lau base fun la => { la with state := .finished, donesig := a }); (s.launch 0).donesig = a ∧ ((s.virtRd (s.ctx 0) a 8).isSome = true ↔ a = 65600) ∧
      (∀ p ∈ s.virtRd (s.ctx 0) a 8, (p.1.virtWr (s.ctx 0) a (bytesOf 8 1)).isSome = true)) ∧
    (∀ w ∈ [true, false], let s := lau (paged base) fun la => { la with shadow := [{ page := 1, leaf := leaf1, marked := true, wanted := w, frame := 9 }] }; (s.launch 0).shadow.length = 1 ∧
      s.frameRuns (leafFrame leaf1) = true ∧ s.frameRuns 9 = true ∧ leafFrame leaf1 ≠ 9 ∧ Memory.wf s.mem = true ∧ s.sectors = []) := by
  decide +kernel

/-- A fault ring of two records in the mapped page. -/
def ringed (produced consumed : Nat) : State := (tabled base).wrs 65536 (bytesOf 16 (produced + consumed * 2 ^ 64))

theorem witness_FaultsTaken_record :
    (∀ q ∈ [(2, 0, true), (1, 0, false), (1, 1, false)], let s := ringed q.1 q.2.1; let x := s.ctx 0; (s.virtRd x 65536 64).isSome = true ∧ ∀ p ∈ s.virtRd x 65536 64,
      (ofBytes p.2 % 2 ^ 64 = ofBytes p.2 / 2 ^ 64 % 2 ^ 64 + 2 ^ 1 ↔ q.2.2 = true) ∧ (p.1.virtWr x (65536 + 16) (bytesOf 8 1)).isSome = true ∧
      (p.1.virtWr x (65536 + 64 + 64) (bytesOf 64 0)).isSome = true ∧ ∀ v ∈ p.1.virtWr x (65536 + 64 + 64) (bytesOf 64 0), (v.virtWr x 65536 (bytesOf 8 2)).isSome = true) ∧
    ((ringed 1 0).launch 0).replays < 256 ∧ ((ringed 1 0).launch 0).queue < 65536 := by
  decide +kernel

/-- A launch whose region gives a fault code an action. -/
def acting (code act : Nat) (lim : Nat := 0) : State :=
  lau base fun la => { la with replayable := true, region := { la.region with policy := act * 4 ^ code, replaylim := lim } }

theorem witness_FaultsTaken_actions :
    faultAction ((acting 0x10 0).launch 0) 0x10 = 0 ∧ faultAction ((acting 0x01 0).launch 0) 0x01 = 1 ∧ faultAction ((acting 0x0E 1).launch 0) 0x0E = 2 ∧
    faultAction ((acting 0x1D 2).launch 0) 0x1D = 0 ∧ faultAction ((acting 0x17 3 1).launch 0) 0x17 = 3 ∧ faultAction ((acting 0x17 3 0).launch 0) 0x17 = 2 ∧
    faultAction ((acting 0x11 3 1).launch 0) 0x11 = 3 ∧ (base.group 0).state = .resident ∧ (base.launch 0).state = .running ∧
    (lau base fun la => { la with state := .draining }).launch 0 = { base.launch 0 with state := .draining } := by
  decide +kernel

/-! ## Decoding, steps and invariants: hypotheses met -/

theorem witness_EncodeAndDecodeAgree : (Instr.addi false 2 0 1).wf = true ∧ encode (.addi false 2 0 1) = some 0x0C100001 ∧ decode 0x0C100001 = some (.addi false 2 0 1) := by
  decide +kernel

/-- Function 0's ring holds one packet of a code. -/
def ringCmd (code : Nat) : State :=
  let s := base.setFn 0 { admring := 64, admlog := 2, admcpl := 4096, admtail := 1 }
  { s.wrs (2 ^ 60 + 64) [.ofNat 8 code] with phase := .up, pcieUp := [0], turns := [.admin 0] }

theorem witness_StepRunsDecoded :
    let s := { base with sheaf := [] }; s.turns = [.issue 0] ∧ s.runs (0 / 96) = true ∧ (s.core 0).tracks = [] ∧ s.readyOn 0 = [lane] ∧
      ∀ i ∈ (s.instrAt (s.group lane.g).launch (s.thread lane).pc), ({ s with turns := [] } : State).stalls 0 [lane] i = false := by
  decide +kernel

theorem witness_StepRunsDecoded_event : encode .slewGrant = none ∧ Instr.slewGrant ≠ .illegalInstruction ∧ (∀ q ∈ commandCodes, ∀ fn p, Instr.slewGrant ≠ q.2 fn p) := by
  refine ⟨by decide +kernel, nofun, ?_⟩
  intro q hq fn p
  simp only [commandCodes, List.mem_cons, List.not_mem_nil, or_false] at hq
  rcases hq with rfl | rfl | rfl | rfl | rfl | rfl | rfl | rfl | rfl | rfl | rfl | rfl | rfl | rfl | rfl | rfl | rfl | rfl | rfl | rfl | rfl | rfl | rfl | rfl <;> exact nofun

/-- The code of the packet that function 0's ring offers next. -/
def nextCode (s : State) : Nat :=
  fieldOf (.ofNat 512 (ofBytes (s.rds (2 ^ 60 + ((s.fn 0).admring.toNat + 64 * ((s.fn 0).admhead % 2 ^ (s.fn 0).admlog)) % 2 ^ 60) 64))) 0 8

theorem witness_StepRunsDecoded_admin : ∀ c ∈ [0x18, 0x19], (ringCmd c).adminReady 0 = true ∧ (ringCmd c).turns = [.admin 0] ∧ nextCode (ringCmd c) = c := by
  decide +kernel

theorem witness_EveryStepKeepsMemoryCanonical : let s := State.reset.withFetchWord 32 0x0C080005
    Memory.wf s.mem = true ∧ after (step s) (fun t => Memory.wf t.mem) = some true := by
  decide +kernel

/-! ## Ill-formed instructions are refused -/

/-- Odd pairs, quads and eights out of place (R25, R28). -/
theorem test_wf_groups : ∀ i ∈ [Instr.add64 false 1 2 4, .add64 false 2 1 4, .add64 false 2 4 1, .sub64 false 1 2 4, .sub64 false 2 1 4, .sub64 false 2 4 1, .shl64 false 1 2 3,
    .shl64 false 2 1 3, .shr64 false 1 2 3, .shr64 false 2 1 3, .mul64 false 1 2 4, .mul64 false 2 1 4, .mul64 false 2 4 1, .ptr false 1 2 3, .ptrsp false 2 1, .ptrrk false 2 1,
    .ptrof false 2 1, .acsH2 false 9 4 5, .ldf false 2 1 3, .stf false 2 1 3, .fmtset false 1 3, .fmtget false 1 2, .fmtgetSt false 1 0, .fmtchk false 2 1 0 0, .barinitM false 2 1,
    .bararrM false 1, .barwaitM false 2 1, .barsyncM false 1, .barexpM false 1 2, .barexpM false 2 1, .chinit false 1 0, .chpush false 1 0, .chpop false 2 1 0, .chres false 1 0,
    .chpub false 1 0, .chpoll false 2 1 0, .mrd false 1 2 0, .mwr false 2 1 0, .mstoreS false 0 1, .mld false 0 0 2 0 0, .hnew false 2 1, .hdrop false 2, .hrec false 1 2 3, .hinfo false 1 2,
    .hbind false 1 2 3, .clkrd false 1, .clkrdNom false 1, .refrd false 1, .enq false 2 1], i.wf = false := by
  decide +kernel

/-- Sizes, roundings, scopes, kinds and counts without a meaning, and groups that depend on a size (R30, R31, R32). -/
theorem test_wf_fields : ∀ i ∈ [Instr.ld false 8 12 7 0, .ld false 8 11 0 0, .ld false 9 12 5 0, .ld false 10 12 6 0, .st false 8 12 1 0, .st false 8 12 3 0, .st false 8 12 7 0,
    .st false 8 11 0 0, .st false 9 12 5 0, .st false 10 12 6 0, .cvti false 1 2 0 6, .cvtu false 1 2 0 6, .cvta false 1 3 0, .cvta false 1 3 1, .cvtn false 1 2 3 7 0, .phase false 12 1,
    .phase false 0 0, .fence false 12 1, .fence false 0 0, .qfence false 0, .monw false 8 12 12 0 0, .monw false 8 12 0 3 0, .monw false 8 11 0 0 0, .monw false 9 12 0 0 1,
    .ckick false 0 11 1, .ckick false 0 12 0, .ckick false 0 12 65, .mstore false 7 0 12 0, .mstore false 0 0 11 0, .mqnt false 7 0 1 0 0, .had false 0 7 0 0, .had false 0 0 3 0,
    .sclaim false 1 3 1, .sclaim false 1 0 0, .sclaim false 1 0 33, .srel false 3 1 1, .srel false 0 1 0, .srel false 0 1 33, .sinfo false 1 2 3, .hsplit false 8 8 0, .hsplit false 9 12 0,
    .hsplit false 8 13 0, .pcls false 3, .sysrd false 1 23, .syswr false 1 15, .syswr false 1 18, .errrd false 1 4, .monrd false 1 3 0, .monrd false 1 32 0, .nrec false 1 11 1,
    .nrec false 1 12 0, .nrec false 1 12 33], i.wf = false := by
  decide +kernel

/-- The same of the atomics (R236). -/
theorem test_wf_atomics : ∀ i ∈ [Instr.aadd false 1 11 0 0 0, .aadd false 1 12 0 0 12, .aand false 1 11 0 0 0, .aand false 1 12 0 0 12, .aor false 1 11 0 0 0, .aor false 1 12 0 0 12,
    .axor false 1 11 0 0 0, .axor false 1 12 0 0 12, .amin false 1 11 0 0 0, .amin false 1 12 0 0 12, .amax false 1 11 0 0 0, .amax false 1 12 0 0 12, .aminu false 1 11 0 0 0,
    .aminu false 1 12 0 0 12, .amaxu false 1 11 0 0 0, .amaxu false 1 12 0 0 12, .axchg false 1 11 0 0 0, .axchg false 1 12 0 0 12, .acas false 8 11 0 0 0, .acas false 8 12 0 0 12,
    .acas false 9 12 0 0 0, .acas64 false 8 11 0 0 0, .acas64 false 8 12 0 0 12, .acas64 false 10 12 0 0 0, .acas128 false 8 11 0 0 0, .acas128 false 8 12 0 0 12, .acas128 false 12 12 0 0 0,
    .afadd false 1 11 0 0 0, .afadd false 1 12 0 0 12, .afaddB2 false 1 11 0 0 0, .afaddB2 false 1 12 0 0 12, .ald false 8 11 0 0 0, .ald false 8 12 0 0 12, .ald false 8 12 3 0 0,
    .ald false 8 12 0 2 0, .ald false 9 12 1 0 0, .ald false 10 12 2 0 0, .ast false 8 11 0 0 0, .ast false 8 12 0 0 12, .ast false 8 12 3 0 0, .ast false 8 12 0 1 0, .ast false 9 12 1 0 0,
    .ast false 10 12 2 0 0], i.wf = false := by
  decide +kernel

/-- Words that R32 calls illegal: unused majors and minors, nonzero reserved fields, ill-formed fields. -/
theorem test_illegal_words : ∀ w ∈ [0x00000000, 0x7400_0000, 0x7C00_0000, 0x3060_0001, 0x0780_0000, 0x09E0_0000, 0x0B00_0000, 0x06E0_0001, 0x2C10_0000, 0x2840_0000, 0xB440_B020, 0x0800_0060],
    decode (.ofNat 32 w) = none := by
  decide +kernel

/-! ## Steps with results that the spec gives -/

/-- W[d] after thread 0 of `base` runs a word, with some registers. -/
def ran (w : Nat) (ps : List (Nat × Word)) (d : Nat) : Option Word := regAfter (step ((regs base ps).wrs 64 (bytesOf 4 w))) d

/-- The two rows of R156's table. -/
theorem test_acs : ran 0x0AE20205 [(4, 0x005F0064), (5, 0x000C0003)] 8 = some 0x0070006B ∧ ran 0x0AE20205 [(4, 0x005F0064), (5, 0x000C0003)] 9 = some 1 ∧
    ran 0x0AE20205 [(4, 0x80057FF0), (5, 0x00000020)] 8 = some 0x80258010 ∧ ran 0x0AE20205 [(4, 0x80057FF0), (5, 0x00000020)] 9 = some 2 := by
  decide +kernel

/-- The program after R161: MOVHI and MUL at lane 31. -/
theorem test_movhi_mul : ran 0x242891A0 [] 5 = some 0x12340000 ∧ ran 0x04438185 [(3, 496), (5, 0x12340567)] 14 = some 0x44CA7790 := by decide +kernel

/-- PTR of a thread's own core, as R154 gives it for cluster rank 0 and core index 0. -/
theorem test_ptr : ran 0x09628409 [(8, 0x40), (9, 0x80020000)] 10 = some 0x40 ∧ ran 0x09628409 [(8, 0x40), (9, 0x80020000)] 11 = some 0x20000000 := by decide +kernel

/-- CALL pushes a frame and jumps (R160): the program after R161. -/
theorem test_call : after (step ((withSp 32).wrs 64 (bytesOf 4 0x2C080002))) (fun t => ((t.thread lane).pc, (t.thread lane).sp, t.rds (spillAddr 0 0 16) 4)) =
    some (8, 16, [4, 0, 0, 0]) := by
  decide +kernel

/-- Rows of R171's table, by CVTN.ne to entry 7 into byte 0. -/
theorem test_m8 : ∀ p ∈ [(0x3F800000, 0x60), (0x41500000, 0x2D), (0xC0400000, 0xF8), (0x3DCCCCCD, 0x3D), (0x41780000, 0x10), (0x46C00000, 0x02), (0x47400000, 0x01), (0x47435000, 0x01),
    (0x37800000, 0x00), (0x7FC00000, 0x80)], ran 0x444021C0 [(2, .ofNat 32 p.1)] 8 = some (.ofNat 32 p.2) := by
  decide +kernel

/-- A count of 33 acts as 1 (R147), and w0 takes no write (R149). -/
theorem test_sra_and_w0 : ran 0x0580_C082 [(1, 0x80000000), (2, 33)] 3 = some 0xC0000000 ∧ ran 0x0C00_0001 [] 0 = some 0 := by decide +kernel

/-- The first instruction after reset runs: ADDI w1, w0, 5. -/
theorem test_first_step : regAfter (step (State.reset.withFetchWord 32 0x0C080005)) 1 = some 5 := by decide +kernel

/-- Reset is canonical, and its one step changes no memory. -/
theorem test_reset_step : after (step State.reset) (fun t => t.mem) = some [] := by decide +kernel

/-! ## A word of every instruction, field by field as R29 to R31 lay them out -/

theorem test_words_1 : ∀ p ∈ ([
    (0b0_00001_00000_0001000_0001100_0000110, .add false 8 12 6), (0b0_00001_00001_0001000_0001100_0000110, .sub false 8 12 6),
    (0b1_00001_00010_0001000_0001100_0000110, .mul true 8 12 6), (0b0_00001_00011_0001000_0001100_0000110, .mulh false 8 12 6),
    (0b0_00001_00100_0001000_0001100_0000110, .mulhu false 8 12 6), (0b1_00001_00101_0001000_0001100_0000110, .mad true 8 12 6),
    (0b0_00001_00110_0001000_0001100_0000110, .and false 8 12 6), (0b0_00001_00111_0001000_0001100_0000110, .or false 8 12 6),
    (0b1_00001_01000_0001000_0001100_0000110, .xor true 8 12 6), (0b0_00001_01001_0001000_0001100_0000110, .andn false 8 12 6),
    (0b0_00001_01010_0001000_0001100_0000110, .shl false 8 12 6), (0b1_00001_01011_0001000_0001100_0000110, .shr true 8 12 6),
    (0b0_00001_01100_0001000_0001100_0000110, .sra false 8 12 6), (0b0_00001_01101_0001000_0001100_0000110, .rot false 8 12 6),
    (0b1_00001_01110_0001000_0001100_0000110, .min true 8 12 6), (0b0_00001_01111_0001000_0001100_0000110, .max false 8 12 6),
    (0b0_00001_10000_0001000_0001100_0000110, .minu false 8 12 6), (0b1_00001_10001_0001000_0001100_0000110, .maxu true 8 12 6),
    (0b0_00001_10010_0001000_0001100_0000110, .seq false 8 12 6), (0b0_00001_10011_0001000_0001100_0000110, .sne false 8 12 6),
    (0b1_00001_10100_0001000_0001100_0000110, .slt true 8 12 6), (0b0_00001_10101_0001000_0001100_0000110, .sltu false 8 12 6),
    (0b0_00001_10110_0001000_0001100_0000110, .sel false 8 12 6), (0b1_00001_10111_0001000_0001100_0000000, .clz true 8 12),
    (0b0_00001_11000_0001000_0001100_0000000, .popc false 8 12), (0b0_00001_11001_0001000_0001100_0000000, .brev false 8 12),
    (0b1_00001_11010_0001000_0001100_0000110, .divu true 8 12 6), (0b0_00001_11011_0001000_0001100_0000110, .remu false 8 12 6)] : List (Nat × Instr)), decode (.ofNat 32 p.1) = some p.2 := by
  decide +kernel

theorem test_words_2 : ∀ p ∈ ([
    (0b0_00010_00000_0001000_0001100_00_00101, .shli false 8 12 5), (0b1_00010_00001_0001000_0001100_00_00101, .shri true 8 12 5),
    (0b0_00010_00010_0001000_0001100_00_00101, .srai false 8 12 5), (0b0_00010_00011_0001000_0001100_00_00101, .roti false 8 12 5),
    (0b1_00010_00100_0001000_0001100_0000110, .bfe true 8 12 6), (0b0_00010_00101_0001000_0001100_0000110, .bfi false 8 12 6),
    (0b0_00010_00110_0001000_0001100_0000110, .add64 false 8 12 6), (0b1_00010_00111_0001000_0001100_0000110, .sub64 true 8 12 6),
    (0b0_00010_01000_0001000_0001100_0000110, .shl64 false 8 12 6), (0b0_00010_01001_0001000_0001100_0000110, .shr64 false 8 12 6),
    (0b1_00010_01010_0001000_0001100_0000110, .mul64 true 8 12 6), (0b0_00010_01011_0001000_0001100_0000110, .ptr false 8 12 6),
    (0b0_00010_01100_0001000_0001100_0000000, .ptrsp false 8 12), (0b1_00010_01101_0001000_0001100_0000000, .ptrrk true 8 12),
    (0b0_00010_01110_0001000_0001100_0000000, .ptrof false 8 12), (0b0_00010_10000_0001000_0001100_0000110, .addH2 false 8 12 6),
    (0b1_00010_10001_0001000_0001100_0000110, .subH2 true 8 12 6), (0b0_00010_10010_0001000_0001100_0000110, .maxH2 false 8 12 6),
    (0b0_00010_10011_0001000_0001100_0000110, .minH2 false 8 12 6), (0b1_00010_10100_0001000_0001100_0000110, .maxuH2 true 8 12 6),
    (0b0_00010_10101_0001000_0001100_0000110, .minuH2 false 8 12 6), (0b0_00010_10110_0001000_0001100_0000110, .packH2 false 8 12 6),
    (0b1_00010_10111_0001000_0001100_0000110, .acsH2 true 8 12 6), (0b0_00011_0001000_0001100_100110100101, .addi false 8 12 2469),
    (0b0_00100_0001000_0001100_100110100101, .andi false 8 12 2469), (0b1_00101_0001000_0001100_100110100101, .ori true 8 12 2469),
    (0b0_00110_0001000_0001100_100110100101, .xori false 8 12 2469), (0b0_00111_0001000_0001100_100110100101, .slti false 8 12 2469),
    (0b1_01000_0001000_0001100_100110100101, .sltiu true 8 12 2469), (0b0_01001_0001000_1011010010110100101, .movhi false 8 370085)] : List (Nat × Instr)), decode (.ofNat 32 p.1) = some p.2 := by
  decide +kernel

theorem test_words_3 : ∀ p ∈ ([
    (0b0_01010_0000_101_0001100_100110100101, .bcc false 5 12 2469), (0b1_01011_0000000_1011010010110100101, .jmp true 370085),
    (0b0_01011_0000001_1011010010110100101, .call false 370085), (0b0_01100_000000000000_0001100_0000000, .jmpr false 12),
    (0b1_01100_000010000000_0001100_0000000, .callr true 12), (0b0_01100_00010000000000000000000000, .ret false),
    (0b0_01100_00011000000000000000000000, .exit false), (0b1_01100_00100000000000000000000000, .yield true),
    (0b0_01100_00101000000000000000000000, .nop false), (0b0_01100_00110000000_1_0001100_0000110, .winb false 1 12 6),
    (0b1_01100_00111_0001000_0001100_0000000, .elect true 8 12), (0b0_01100_010000000000_0001100_0000000, .fsync false 12),
    (0b0_01100_01001_0001000_0001100_0000110, .fshfl false 8 12 6), (0b1_01100_01010_0001000_0001100_0000000, .fballot true 8 12),
    (0b0_01100_01011_0001000_0001100_0000000, .poll false 8 12), (0b0_01101_0001000_0001100_110_101010101, .ld false 8 12 6 341),
    (0b1_01110_0001000_0001100_100_101010101, .st true 8 12 4 341), (0b0_01111_00000_0001000_0001100_0000110, .ldf false 8 12 6),
    (0b0_01111_00001_0001000_0001100_0000110, .stf false 8 12 6), (0b1_01111_00010_0001000_0001100_1010101, .lds true 8 12 85),
    (0b0_01111_00011_0001000_0001100_1010101, .sts false 8 12 85)] : List (Nat × Instr)), decode (.ofNat 32 p.1) = some p.2 := by
  decide +kernel

theorem test_words_4 : ∀ p ∈ ([
    (0b0_10000_00000_0001000_0001100_0000110, .fadd false 8 12 6), (0b1_10000_00001_0001000_0001100_0000110, .fsub true 8 12 6),
    (0b0_10000_00010_0001000_0001100_0000110, .fmul false 8 12 6), (0b0_10000_00011_0001000_0001100_0000110, .ffma false 8 12 6),
    (0b1_10000_00100_0001000_0001100_0000110, .fmin true 8 12 6), (0b0_10000_00101_0001000_0001100_0000110, .fmax false 8 12 6),
    (0b0_10000_00110_0001000_0001100_0000000, .fabs false 8 12), (0b1_10000_00111_0001000_0001100_0000000, .fneg true 8 12),
    (0b0_10000_01000_0001000_0001100_0000110, .fcmp false 8 12 6), (0b0_10000_01001_0001000_0001100_0000110, .fsel false 8 12 6),
    (0b1_10000_01010_0001000_0001100_0000000, .frcp true 8 12), (0b0_10000_01011_0001000_0001100_0000000, .frsq false 8 12),
    (0b0_10000_01100_0001000_0001100_0000000, .fsqrt false 8 12), (0b1_10000_01101_0001000_0001100_0000000, .fexp2 true 8 12),
    (0b0_10000_01110_0001000_0001100_0000000, .flog2 false 8 12), (0b0_10000_01111_0001000_0001100_0000000, .fsin false 8 12),
    (0b1_10000_10000_0001000_0001100_0000000, .fcos true 8 12), (0b0_10000_10001_0001000_0001100_0000110, .fdiv false 8 12 6),
    (0b0_10000_10010_0001000_0001100_0000110, .hadd2B false 8 12 6), (0b1_10000_10011_0001000_0001100_0000110, .hmul2B true 8 12 6),
    (0b0_10000_10100_0001000_0001100_0000110, .hfma2B false 8 12 6), (0b0_10000_10101_0001000_0001100_0000110, .hadd2F false 8 12 6),
    (0b1_10000_10110_0001000_0001100_0000110, .hmul2F true 8 12 6), (0b0_10000_10111_0001000_0001100_0000110, .hfma2F false 8 12 6),
    (0b0_10000_11000_0001000_0001100_1_000_011, .cvti false 8 12 1 3), (0b1_10000_11001_0001000_0001100_1_000_011, .cvtu true 8 12 1 3),
    (0b0_10000_11010_0001000_0001100_1_000000, .cvta false 8 12 1), (0b0_10001_0001000_0001100_100101_111_001, .cvtf false 8 12 37 1),
    (0b1_10001_0001000_0001100_100101_011_001, .cvtn true 8 12 37 3 1)] : List (Nat × Instr)), decode (.ofNat 32 p.1) = some p.2 := by
  decide +kernel

theorem test_words_5 : ∀ p ∈ ([
    (0b0_10010_000000000000_0001100_0000110, .fmtset false 12 6), (0b0_10010_00001_0001000_0001100_0000000, .fmtget false 8 12),
    (0b1_10010_00001_0001000_000000010_10101, .fmtgetSt true 8 21), (0b0_10010_00010_0001000_0001100_1_100101, .fmtchk false 8 12 1 37),
    (0b0_10011_0001000_0001100_1_0000_01_0111_0, .aadd false 8 12 1 1 7), (0b1_10011_0001000_0001100_1_0001_01_0111_0, .aand true 8 12 1 1 7),
    (0b0_10011_0001000_0001100_1_0010_01_0111_0, .aor false 8 12 1 1 7), (0b0_10011_0001000_0001100_1_0011_01_0111_0, .axor false 8 12 1 1 7),
    (0b1_10011_0001000_0001100_1_0100_01_0111_0, .amin true 8 12 1 1 7), (0b0_10011_0001000_0001100_1_0101_01_0111_0, .amax false 8 12 1 1 7),
    (0b0_10011_0001000_0001100_1_0110_01_0111_0, .aminu false 8 12 1 1 7), (0b1_10011_0001000_0001100_1_0111_01_0111_0, .amaxu true 8 12 1 1 7),
    (0b0_10011_0001000_0001100_1_1000_01_0111_0, .axchg false 8 12 1 1 7), (0b0_10011_0001000_0001100_1_1001_01_0111_0, .acas false 8 12 1 1 7),
    (0b1_10011_0001000_0001100_1_1010_01_0111_0, .acas64 true 8 12 1 1 7), (0b0_10011_0001000_0001100_1_1011_01_0111_0, .acas128 false 8 12 1 1 7),
    (0b0_10011_0001000_0001100_1_1100_01_0111_0, .afadd false 8 12 1 1 7), (0b1_10011_0001000_0001100_1_1101_01_0111_0, .afaddB2 true 8 12 1 1 7),
    (0b0_10011_0001000_0001100_11110_01_0111_0, .ald false 8 12 2 1 7), (0b0_10011_0001000_0001100_01111_10_0111_1, .ast false 8 12 1 2 7),
    (0b1_10100_0000000000000000_0111_01_0000, .phase true 7 1), (0b0_10100_0000000000000001_0111_01_0000, .fence false 7 1),
    (0b0_10100_00000000000000100000_101001, .qfence false 41), (0b1_10100_0001000_0001100_11_0111_01_1_000, .monw true 8 12 7 1 1)] : List (Nat × Instr)), decode (.ofNat 32 p.1) = some p.2 := by
  decide +kernel

theorem test_words_6 : ∀ p ∈ ([
    (0b0_10101_0000000_0001100_000_1011_00000, .barinit false 12 11), (0b0_10101_0001000_0001100_000000010000, .barinitM false 8 12),
    (0b1_10101_00000000000000001_1011_00000, .bararr true 11), (0b0_10101_0000000_0001100_001000010000, .bararrM false 12),
    (0b0_10101_00000000000000010_1011_00000, .barwait false 11), (0b1_10101_0001000_0001100_010000010000, .barwaitM true 8 12),
    (0b0_10101_00000000000000011_1011_00000, .barsync false 11), (0b0_10101_0000000_0001100_011000010000, .barsyncM false 12),
    (0b1_10101_0001000_0001100_100000010000, .barexpM true 8 12), (0b0_10101_00000000000000101000000000, .gbar false),
    (0b0_10110_000000000000_0001100_0000_101, .chinit false 12 5), (0b1_10110_000010000000_0001100_0000_101, .chpush true 12 5),
    (0b0_10110_00010_0001000_0001100_0000_101, .chpop false 8 12 5), (0b0_10110_00011_0001000_00000000000_101, .chres false 8 5),
    (0b1_10110_001000000000_0001100_0000_101, .chpub true 12 5), (0b0_10110_00101_0001000_0001100_0000_101, .chpoll false 8 12 5),
    (0b0_10111_0000000000_10_0001100_0100001, .ckick false 2 12 33), (0b1_10111_000010000000_0001100_000000_1, .ctagwAny true 12 1),
    (0b0_10111_000100000000_0001100_000000_1, .ctagwAll false 12 1), (0b0_10111_00011_0001000_0001100_000000_1, .ctagff false 8 12 1),
    (0b1_10111_001000000000_0001100_000000_1, .ctagclr true 12 1), (0b0_10111_00101_0001000_000000000000_10, .cstat false 8 2)] : List (Nat × Instr)), decode (.ofNat 32 p.1) = some p.2 := by
  decide +kernel

theorem test_words_7 : ∀ p ∈ ([
    (0b0_11000_0000000000_10_00000000000000, .mzero false 2), (0b1_11000_000010000_1_10_00_10011_00_01001, .mmaP true 1 2 19 9),
    (0b0_11000_000100000_1_10_00_10011_00_01001, .mmaC false 1 2 19 9), (0b0_11000_00011_0001000_0001100_00000_10, .mrd false 8 12 2),
    (0b1_11000_00100_0001000_0001100_00000_10, .mwr true 8 12 2), (0b0_11000_0010100_011_10_0001100_0_100101, .mstore false 3 2 12 37),
    (0b0_11000_0010110_10011_0001100_0000000, .mstoreS false 19 12), (0b1_11000_0011000_011_10_0001100_10_10011, .mqnt true 3 2 12 2 19),
    (0b0_11000_001110_1_011_01_00_10011_0000000, .had false 1 3 1 19), (0b0_11000_01000_0001000_00000_10_0000000, .mchk false 8 2),
    (0b1_11000_01001000000000000000000000, .mwait true), (0b0_11001_00000_0001000_00000_01_0_011011, .sclaim false 8 1 27),
    (0b0_11001_0000100000_01_0001100_0_011011, .srel false 1 12 27), (0b1_11001_00010_10_10011_0001100_1_101001, .mld true 2 19 12 1 41),
    (0b0_11001_00011_0001000_0001100_00000_01, .sinfo false 8 12 1), (0b0_11010_00000_0001000_0001100_0000000, .hnew false 8 12),
    (0b1_11010_00001_0001000_0001100_0_101001, .hsplit true 8 12 41), (0b0_11010_000100000000_0001100_0000000, .hdrop false 12),
    (0b0_11010_00011_0001000_0001100_1001101, .hrec false 8 12 77), (0b1_11010_00100_0001000_0001100_0000000, .hinfo true 8 12),
    (0b0_11010_00101_0001000_0001100_0000110, .hbind false 8 12 6), (0b0_11011_000000000000000000000000_10, .pcls false 2),
    (0b1_11011_00001000000000000000000_101, .burn true 5), (0b0_11011_00010000000000000000000000, .balidle false),
    (0b0_11011_00011_0001000_00000000000000, .ykrd false 8), (0b1_11011_00100_0001000_00000000000000, .permits true 8)] : List (Nat × Instr)), decode (.ofNat 32 p.1) = some p.2 := by
  decide +kernel

theorem test_words_8 : ∀ p ∈ ([
    (0b0_11100_00000_0001000_0000000_0010110, .sysrd false 8 22), (0b0_11100_000010000000_0001100_0010001, .syswr false 12 17),
    (0b1_11100_000100000000_0001100_1011101, .trap true 12 93), (0b0_11100_00011_0001000_0000000_0000011, .errrd false 8 3),
    (0b0_11100_00100_0001000_00000000000000, .clkrd false 8), (0b1_11100_00101_0001000_00000000000000, .clkrdNom true 8),
    (0b0_11100_00110_0001000_00000000000000, .refrd false 8), (0b0_11100_00111_0001000_0001100_0000_101, .moncfg false 8 12 5),
    (0b1_11100_01000_0001000_0010001_0000_101, .monrd true 8 17 5), (0b0_11100_0100100000000000000_1011101, .brk false 93),
    (0b0_11100_01010_0001000_0001100_0010101, .nrec false 8 12 21), (0b1_11100_010110000000_0001100_0000000, .binflush true 12),
    (0b0_11100_01100_0001000_0001100_0000000, .enq false 8 12)] : List (Nat × Instr)), decode (.ofNat 32 p.1) = some p.2 := by
  decide +kernel

/-! ## Clauses that meet, wait or stop: hypotheses met -/

/-- A store of the thread is on its way and a release of the thread waits for it. -/
def releasing (s : State := withPtr 0x40000000 0) : State :=
  { thr s (fun th => { th with after := [{ id := 6, home := false }] }) with stores := [{ id := 6, core := 0, thr := lane, addr := 300, val := 1 }] }

theorem witness_StoresWrite_waits : (releasing (withPtr 0x20000000 16)).publishing lane = true ∧
    (releasing (withPtr 0x20000000 16)).oneOk (stForm false 1 10 4) lane = true ∧ placeOf (releasing (withPtr 0x20000000 16)) true = some (.loc (gmemAddr 0 16)) ∧
    (withPtr 0x20000000 16).publishing lane = false ∧ (∀ i < 4, (withPtr 0x20000000 16).unitBusy (gmemAddr 0 16 + i) = false) := by
  decide +kernel

theorem witness_ServiceFurrowPerforms_busy : let q := request 0 4 1 (gmemAddr 0 4) none
    let s := serving q
    let s := s.setCluster 0 { s.cluster 0 with busy := [gmemAddr 0 4 / 16] }
    s.runs 0 = true ∧ q.addr / 16 ∈ (s.cluster 0).busy ∧ (s.cluster 0).queue = [{ sheaf := 1, cl := 0, port := 0, reqs := [q] }] := by
  decide +kernel

theorem witness_PublishAndRefresh_waits : releasing.publishing lane = true ∧ releasing.oneOk { sw := false } lane = true ∧
    (∃ e ∈ releasing.stores, e.thr = lane ∧ releasing.needMet ⟨e.id, false⟩ = false) := by
  decide +kernel

theorem witness_QueueFence_kicks : ∀ s ∈ [kicked 1 base, kicked 1 working], s.oneOk { sw := false, access := true } lane = true ∧
    (∀ c ∈ [0, mateOf 0], (s.core c).copyQ.length = 4 ∧ ∀ q < 6, ∀ e ∈ s.engineQueue c q, isMarker e.work = false) ∧ (s.core 0).kicksIn 63 ≠ [] ∧ (s.core 0).kicksIn 7 = [] ∧
    ((∃ q < 6, s.engineQueue 0 q ≠ []) ↔ s = kicked 1 working) := by
  decide +kernel

theorem witness_LaunchWideBarrier_relocking : let s := relocking (thr base fun th => { th with status := .waiting .gbar })
    let t := { s with grants := [{ launch := 0, cl := 0, threads := [lane] }] }
    t.grants = [{ launch := 0, cl := 0, threads := [lane] }] ∧ t.runs (0 / 16) = false ∧ (if t.grantWindow = t.refTimer / 32 then t.grantCount else 0) < 8 := by
  decide +kernel

theorem witness_SlotsAndTiles_pair :
    (let s := base; (s.launchOf 0).hdr.slots = 4 ∧ s.slotsHeld 0 0 + 4 ≤ 4 ∧ s.slotsCharged (mateOf 0) + 4 ≤ 32 ∧ ∀ j < 4, (s.slot 0 j).holder = none ∧ (s.slot (mateOf 0) j).holder = none) ∧
    (let s := hdr tiled fun h => { h with slots := 40 }; s.slotsHeld 0 0 + 31 ≤ (s.launchOf 0).hdr.slots ∧ 32 < s.slotsCharged (mateOf 0) + 31 ∧
      s.oneOk { sw := false, writes := [{ v := 2 }], var := true } lane = true) := by
  decide +kernel

/-- The tile load has begun and has two elements still to write. -/
def tileMeta : SlotMeta := { fmt := 4, scslot := 4, src := true }
def tileLeft : List TilePut := [{ cores := [0], pos := 0, code := 255, scale := none }, { cores := [0], pos := 16383, code := 1, scale := none }]
def tileWork : Mld := { mldWork with tile := some (tileMeta, tileLeft) }
def finishing : State :=
  let e : Entry := { id := 4, iss := { thr := lane }, work := .mld tileWork, begun := true }
  loading.setCore 0 { loading.core 0 with copyQ := [[], [], [], [e]] }

theorem witness_SlotsAndTiles_ends : (finishing.oldestMld 0).map (fun p => (p.1, p.2.2)) = some (0, tileWork) ∧ (finishing.core 0).copyQ.length = 4 ∧
    (∀ d < 4, finishing.runs d = true) ∧ Memory.wf finishing.mem = true ∧ 0 < finishing.groups.length ∧ Desc.container (tileWork.table.entry 4) = 8 ∧
    (tileLeft.map (·.pos)).Nodup ∧ (∀ p ∈ tileLeft, p.cores = [0] ∧ p.pos < 16384 ∧ p.code < 2 ^ 8 ∧ p.scale = none) ∧
    loading.outstandingBytes 0 + 16383 * 8 / 8 < loading.copyLimit := by
  decide +kernel

theorem witness_HandlesAtTheirHomes_template : (∀ e ∈ [14, 16], e = 14 ∨ ((recording base).fmtCtx 0 (0 / 96) |>.entry e).valid = false) ∧
    (let tm : Packet := .ofNat 512 (4 * 2 ^ 346 + 1 * 2 ^ 344 + 16 * 2 ^ 338); recFmt tm = 4 ∧ recGeom tm = 1 ∧ recSfmt tm = 16 ∧
      ((recording base).fmtCtx 0 (0 / 96) |>.entry 4).valid = true) := by
  decide +kernel

/-- A second group stands on core 0 under the same launch, with a boost claim. -/
def twoGroups : State := { base with groups := base.groups ++ [{ base.group 0 with cls := 2 }] }

theorem witness_SystemReads_claims : twoGroups.oneOk { sw := false } lane = true ∧
    ((List.range twoGroups.groups.length).any fun h => h ≠ 0 && (twoGroups.group h).state = .resident && (twoGroups.group h).core / 6 = 0 && (twoGroups.group h).cls = 2) = true ∧
    ((List.range base.groups.length).any fun h => h ≠ 0 && (base.group h).state = .resident && (base.group h).core / 6 = 0 && (base.group h).cls = 2) = false ∧
    (base.group 0).cls ≠ 2 ∧ ((grp base fun g => { g with cls := 2 }).group 0).cls = 2 ∧ (grp base fun g => { g with cls := 2 }).oneOk { sw := true } lane = true := by
  decide +kernel

/-- Unit 7 of cluster 0 is held by context 1, which took it in this cycle; the status of that MONCFG went to register 9 of thread 1. -/
def taken (w : Nat) : State :=
  let m : Monitor := { ctx := some 1, source := 1, count := 5, setAt := some (base.cycles 0, [({ g := 0, t := 1 }, 9)]) }
  regs (base.setCluster 0 { base.cluster 0 with monitors := List.replicate 8 m }) [(1, .ofNat 32 w)]

theorem witness_SystemReads_tie : ∀ w ∈ [0x80000000, 0, 0x10400001], (taken w).oneOk { sw := false, reads := [{ v := 1 }], writes := [{ v := 2 }] } lane = true ∧
    ((taken w).inSheaf.reg lane 1).toNat = w ∧ (taken w).ctxOf 0 = 0 ∧ (((taken w).cluster 0).monitors.getD 7 {}).ctx = some 1 ∧ 0 < 1 ∧
    (((taken w).cluster 0).monitors.getD 7 {}).setAt = some ((taken w).cycles 0, [({ g := 0, t := 1 }, 9)]) ∧ ({ g := 0, t := 1 } : TRef) ≠ lane ∧
    1 < ((taken w).group 0).threads.length := by
  decide +kernel

/-- What a BRK meets: the record is written, and the group goes on, waits or halts. -/
def brkRecord : FaultInfo := { code := 0x1C, d1 := 2 ^ 63, lanes := 1, launch := some 0, group := some 0 }
def broken (s : State) : State := (cx s fun x => { x with debug := true }).takeFault 0 brkRecord

theorem witness_TrapsAndBreaks_saves : ((broken base).group 0).state = .resident ∧ ((broken base).preempt [0]).isNone = true ∧ (broken base).hubWaits = false ∧
    ((broken (saving base)).group 0).state = .resident ∧ (∀ w ∈ (broken (saving base)).preempt [0], w.hubWaits = false ∧ (w.group 0).state = .halting) ∧
    ((broken (saving base)).preempt [0]).isSome = true ∧
    (∀ w ∈ (broken (relocking (saving base))).preempt [0], w.hubWaits = true) ∧ (relocking (saving base)).hubWaits = false := by
  decide +kernel

/-- The save area of the bins stands in the mapped page; three records go to the filling buffer of bin 0. -/
def storing (s : State) : State := cx (tabled s) fun x => { x with savebase := 65536 }

theorem witness_BinsFillAndFire_store : let s := storing (withRecords 0 .empty false 0x20000000 64)
    s.oneOk { sw := false, reads := [{ v := 1 }, { v := 10, n := 2 }], access := true } lane = true ∧ (s.virtPut 0 65536 (List.replicate 96 1)).hubWaits = false ∧
      ((s.virtWr (s.ctx 0) 65536 (List.replicate 96 1)).isSome = true) ∧
      ((relocking s).virtPut 0 65536 (List.replicate 96 1)).hubWaits = true ∧ (relocking s).hubWaits = false := by
  decide +kernel

theorem witness_PacketsEnqueue_hub : let s := tabled (withQueue 5 .running true 0 0x40000000 0)
    (s.virtPut 0 65536 (List.replicate 128 1)).hubWaits = false ∧ ((relocking s).virtPut 0 65536 (List.replicate 128 1)).hubWaits = true := by
  decide +kernel

theorem witness_YokesBalance_currents :
    (∀ g < base.groups.length, (base.group g).core = 0 → (base.group g).burn ≤ 0) ∧ base.runs (0 / 96) = true ∧ (relocking base).runs (0 / 96) = false ∧
    (headed (.mzero 1)).arrayServes (0 / 2) = true ∧ base.arrayServes (0 / 2) = false ∧ base.quiet 0 = false ∧ base.quiet 5 = true ∧
    (let s := grp base fun g => { g with burn := 7 }; (∀ g < s.groups.length, (s.group g).burn ≤ 7) ∧ (s.group 0).burn = 7 ∧ (s.group 0).core = 0 ∧ (s.group 0).state = .resident) := by
  decide +kernel

theorem witness_ClocksAndPower_waits :
    (let s := relocking (timed 7 id fun c => { c with fall := 2, fallAt := 7 }); s.runs 0 = false ∧ (s.cluster 0).fall = 2 ∧ (s.cluster 0).fallAt ≤ s.refTimer) ∧
    (let s := cx (tabled base) fun x => { x with hangbuf := 65536, headland := 2 ^ 30, hlog := 30 }; (s.ctx 0).state ≠ .free ∧ 2 ^ (s.ctx 0).hlog ≤ (s.ctx 0).headland ∧ (s.ctx 0).hangbuf ≠ 0 ∧
      (s.virtPut 0 65536 (List.replicate 16 1)).hubWaits = false ∧ ((relocking s).virtPut 0 65536 (List.replicate 16 1)).hubWaits = true) := by
  decide +kernel

theorem witness_AdminCommandsComplete_vectors : ∀ v ∈ [31, 32], let s := base.setFn 3 { admlog := 2, admring := 64, admcpl := 64, admvec := v }
    (s.fn 3).admlog ≠ 0 ∧ (s.fn 3).admring ≠ 0 ∧ (s.fn 3).admcpl ≠ 0 ∧ ((s.fn 3).admvec < (if (3 : Nat) = 0 then 2048 else 32) ↔ v = 31) := by
  decide +kernel

theorem witness_ContextCommandsAct_hub :
    (let s := tabled (ctxIn .active); (∀ p ∈ s.virtRd (s.ctx 0) 65536 64, p.1.hubWaits = false) ∧ ∀ p ∈ (relocking s).virtRd (s.ctx 0) 65536 64, p.1.hubWaits = true) ∧
    (let s := tabled (ctxIn .active); (s.cmdRd 0 0x20000 16).1.hubWaits = false ∧ ((relocking s).cmdRd 0 0x20000 16).1.hubWaits = true ∧ (s.cmdRd 0 0x20000 16).2.isSome = true ∧
      (s.cmdRd 0 (2 ^ 52) 16).2 = none) ∧
    (let s := cx (tabled (withTensor .live 2 7 (lau (ctxIn .closing) fun la => { la with state := .gone }))) fun x => { x with rootrcb := 65536 };
      s.torn 0 = true ∧ (relocking s).torn 0 = true ∧ (s.killTensors 0 (s.ctx 0).tensors).owed.any (fun o => o.ofCtx 0) = false ∧
      ((relocking s).killTensors 0 (s.ctx 0).tensors).owed.any (fun o => o.ofCtx 0) = true) := by
  decide +kernel

theorem witness_ModuleCommandsAct_tags :
    (let s := { base with sectors := [(4096, { tag := 7, key := 3, addr := 4096 }), (4097, { tag := 7, key := 3, addr := 9 })] }; s.notify = none ∧
      sectorOf? s.sectors 4096 = some { tag := 7, key := 3, addr := 4096 } ∧ sectorOf? s.sectors 4097 = some { tag := 7, key := 3, addr := 9 } ∧ sectorOf? s.sectors 4098 = none) ∧
    (∀ u ∈ (relocking (saving base)).preempt ((saving base).coreLive 0), u.hubWaits = true) ∧ ((relocking (saving base)).preempt ((saving base).coreLive 0)).isSome = true := by
  decide +kernel

theorem witness_ResetsAndRegisters_waits :
    (let s := { base with phase := .up, pcieUp := [0] }; s.phase = .up ∧ 0 ∈ s.pcieUp) ∧ ¬(base.phase = .up ∧ 0 ∈ base.pcieUp) ∧
    (let s := tabled (headed5 1) ; let s := { s.setQueue 5 { s.queue 5 with ctl := 65536, head := none } with pcieUp := [0] }; s.owed = [] ∧ (s.queue 5).devmode = false ∧
      (({ s with hubWaits := false } : State).ringDoor 0 5 2).hubWaits = false ∧ (({ relocking s with hubWaits := false } : State).ringDoor 0 5 2).hubWaits = true) ∧
    (let s := { base with pcieUp := [0], owed := [.door 0 5 1] }; 0 ∈ s.pcieUp ∧ s.owed ≠ []) ∧
    (let s := saving (base.setFn 0 { tdi := .run, keyed := true }); (s.fn 0).pending = none ∧ ((s.setFn 0 { s.fn 0 with keyed := false }).loseStream 0).hubWaits = false ∧
      (((relocking s).setFn 0 { s.fn 0 with keyed := false }).loseStream 0).hubWaits = true) := by
  decide +kernel

theorem witness_LinksAndPeers_replays : let l := (base.setLink 11 { state := .up, credit := 2048, replay := [{ seq := 4095, entry := 1, elems := [] }, { seq := 0, entry := 2, elems := [] }] }).link 11
    (l.state = .up ∨ l.state = .degraded) ∧ l.replay = [{ seq := 4095, entry := 1, elems := [] }] ++ { seq := 0, entry := 2, elems := [] } :: [] ∧
      (∀ y ∈ ([{ seq := 4095, entry := 1, elems := [] }] : List Tx), y.seq ≠ 0) ∧ (∀ x ∈ l.replay, x.seq ≠ 17) ∧ 2048 = l.credit := by
  decide +kernel

/-- A write of 2 bytes through window 1, which takes writes, and the leaf it meets. -/
def peerWrite : PeerAccess := { link := 2, win := 1, offset := 8, write := true, tag := 0, data := [1, 2], len := 0 }
def writable (leaf : Nat := 1 + 15 * 2 ^ 44 + 3 * 2 ^ 50 + 2 ^ 57 + 2 ^ 63) : State :=
  { (keyed 3 1 (tabled base leaf)).setLink 2 { state := .up } with windows := [(1, { base := 65536, pages := 1, ctx := 0, write := true })] }

theorem witness_LinksAndPeers_writes : (∀ d < 4, writable.runs d = true) ∧ (writable.link 2).state = .up ∧ (tget {} writable.windows 1).write = true ∧ (writable.ctx 0).state = .active ∧
    found writable (65536 + 8) = some (some leaf3) ∧ (writable.key (leafKey leaf3)).boundTo (writable.ctx 0).fn 0 = true ∧ leafWrite leaf3 = true ∧ (writable.ctx 0).measuredPage (65536 + 8) = false ∧
    (∀ c < 8, writable.thresh.getD c 0 = 0) ∧ (writable.mainWr (leafFrame leaf3 * 65536 + 8) [1, 2] (leafKey leaf3) 0).toOption.isSome = true ∧
    ((found (writable (1 + 15 * 2 ^ 44 + 3 * 2 ^ 50 + 2 ^ 63)) (65536 + 8)).bind id).map leafWrite = some false := by
  decide +kernel

/-- A group of a low band stands on core 0, the other cores are kept out, and a launch of a higher band has waited 16 us for all slots of a core. -/
def crowdedCore (c : Nat) : Core := { base.core c with out := decide (c ≠ 0) }
def crowded : State :=
  let s := saving (lau base fun la => { la with hdr := { la.hdr with free := true, spill := 0 } })
  let s := { s with cores := (List.range 384).map fun c => (c, crowdedCore c) }
  let la := s.launch 0
  { s with launches := [la, { la with state := .placing, nextLin := 0, waitingSince := some 0, hdr := { la.hdr with slots := 32 }, region := { la.region with band := 2 } }], refTimer := 16000 }

theorem tget_map {α : Type} (d : α) (f : Nat → α) (k : Nat) : ∀ l : List Nat, k ∈ l → tget d (l.map fun c => (c, f c)) k = f k
  | c :: l, h => by
    by_cases hc : c = k
    · simp [tget, hc]
    · simpa [tget, hc] using tget_map d f k l ((List.mem_cons.1 h).resolve_left (Ne.symm hc))

theorem crowded_out (k : Nat) (h : k < 384) (h0 : k ≠ 0) : (crowded.core k).out = true := by
  change (tget {} ((List.range 384).map fun c => (c, crowdedCore c)) k).out = true
  rw [tget_map _ _ _ _ (List.mem_range.2 h)]
  simp [crowdedCore, h0]

theorem witness_LaunchesArePicked_room : crowded.nextItem 1 = some { parts := [none] } ∧ (crowded.launch 1).state = .placing ∧ (crowded.launch 1).waitingSince = some 0 ∧
    (∀ k < 384, crowded.itemFits 1 { parts := [none] } [] k = false) ∧
    crowded.removal 1 { parts := [none] } 0 (crowded.victims 2 0 false) [] = some [0] ∧ (crowded.preempt [0]).isSome = true ∧
    (∀ u ∈ crowded.preempt [0], u.hubWaits = false) ∧ ∀ k, crowded.coreKey 1 k = k := by
  have hg : crowded.groupsOf 1 = [] := by decide +kernel
  refine ⟨by decide +kernel, by decide +kernel, by decide +kernel, fun k hk => ?_, by decide +kernel, by decide +kernel, by decide +kernel, fun k => by simp [State.coreKey, hg]⟩
  by_cases h0 : k = 0
  · subst h0
    decide +kernel
  · simp [State.itemFits, State.fits, crowded_out k hk h0]

theorem witness_FaultsTaken_late :
    (let s := lau base fun la => { la with state := .draining }; (s.launch 0).state = .draining ∧ (s.launch 0).ended = false) ∧
    (let s := lau base fun la => { la with state := .draining, ended := true }; (s.launch 0).state = .draining ∧ (s.launch 0).ended = true) ∧
    (let s := { base with owed := [.door 0 5 1] }; s.owed ≠ []) ∧ (∀ d < 4, (ringed 1 0).runs d = true) ∧ (ringed 1 0).owed = [] := by
  decide +kernel

theorem witness_LaunchesEnd_ready :
    (let s := lau base fun la => { la with state := .rollingBack, rereadSector := some 65536 }; homeDie 65536 = some 0 ∧ s.runs 0 = true ∧ (relocking s).runs 0 = false ∧ s.opsLeft 0 = false) := by
  decide +kernel

/-! ## What refuses a format, and a tile that is read: hypotheses met -/

/-- A record of one element: base 65,792, entry 4, key slot 3, all rights, one dimension of extent 1. -/
def recordTile : Nat := 257 * 2 ^ 392 + 4 * 2 ^ 346 + 3 * 2 ^ 328 + 63 * 2 ^ 322 + 1 * 2 ^ 319 + 1 * 2 ^ 289

theorem recordTile_fields : let rc := sealedRecord loading 0 recordTile
    recInd rc = 0 ∧ recFmt rc = 4 ∧ recGeom rc = 0 ∧ recKey rc = 3 ∧ recRights rc = 63 ∧ recAtag rc = 0 ∧ recBase rc = 65792 ∧ (∀ k < 5, recExt rc k = 1) := by
  intro rc
  have hb : ∀ hi lo, hi < 448 → lo ≤ hi → bits rc.toNat hi lo = bits (recordTile % 2 ^ 448) hi lo := fun hi lo h1 h2 => sealedRecord_bits _ _ _ _ _ h1 h2
  refine ⟨?_, ?_, ?_, ?_, ?_, ?_, ?_, ?_⟩
  · rw [recInd, hb _ _ (by decide) (by decide)]; decide +kernel
  · rw [recFmt, hb _ _ (by decide) (by decide)]; decide +kernel
  · rw [recGeom, hb _ _ (by decide) (by decide)]; decide +kernel
  · rw [recKey, hb _ _ (by decide) (by decide)]; decide +kernel
  · rw [recRights, hb _ _ (by decide) (by decide)]; decide +kernel
  · rw [recAtag, hb _ _ (by decide) (by decide)]; decide +kernel
  · rw [recBase, hb _ _ (by decide) (by decide)]; decide +kernel
  · intro k hk
    interval_cases k <;> simp only [recExt] <;> rw [hb 321 319 (by decide) (by decide), hb _ _ (by decide) (by decide)] <;> decide +kernel

/-- After the record is read and the slot takes its metadata. -/
def tileBegun (rc : Packet) : State :=
  let s2 : State := { filled (loadingOf rc) with hot := tset [] 8 { residual := 1 } }
  s2.setSlot 0 4 fun sl => { sl with md := { fmt := recFmt rc, geom := 0, sfmt := recSfmt rc, scslot := 4, src := true }, sums := [] }

/-- What the reads of the tile keep: all but the hotness of sectors. -/
def TileKeeps (rc : Packet) (u : State) : Prop := ∃ x, u = { tileBegun rc with hot := x }

theorem tileBegun_rest (rc : Packet) : (tileBegun rc).launches = loading.launches ∧ (tileBegun rc).ctxs = loading.ctxs ∧
    (tileBegun rc).tlbs = tset [] 1 [{ launch := 0, first := 1, run := 0, page := 1, leaf := leaf1 }] ∧ (tileBegun rc).sectors = loading.sectors ∧
    (tileBegun rc).areas = loading.areas ∧ (tileBegun rc).mem = (loadingOf rc).mem ∧ (tileBegun rc).thresh = loading.thresh := by
  obtain ⟨o1, o2, o3, o4, o5, o6, o7, o8⟩ := loadingOf_rest rc
  refine ⟨?_, ?_, ?_, ?_, ?_, ?_, ?_⟩ <;> simp only [tileBegun, State.setSlot, State.setCore, filled, o1, o2, o4, o8]
  simp only [loadingOf, State.wrs, State.setMem]

theorem tile_read (rc : Packet) (hk : recKey rc = 3) (ht : recAtag rc = 0) (u : State) (h : TileKeeps rc u) :
    ∃ u', u.engRd (harrowAcc mldEntry rc false) ((65792 : Nat) : Int) 1 = .ok (u', (tileBegun rc).rds 65792 1) ∧ TileKeeps rc u' := by
  have h1 : (loading.launch 0).covers ((65792 : Nat) : Int) 1 false = true := by decide +kernel
  have h2 : leafKey leaf1 = 3 ∧ runAddr (1, leaf1) 65792 = some 65792 ∧ (∀ f, leafPasses f leaf1 = true) := by
    refine ⟨by decide +kernel, by decide +kernel, fun f => ?_⟩
    have : leafFmt leaf1 = 15 := by decide +kernel
    simp [leafPasses, this]
  have h4 : sectorsOf 65792 1 = [1028] := by decide
  have h5 : physOk 65792 = true ∧ physOk (65792 + 1 - 1) = true := by decide +kernel
  obtain ⟨x, rfl⟩ := h
  obtain ⟨r1, r2, r3, r4, r5, r6, r7⟩ := tileBegun_rest rc
  have hl : ∀ l, ({ tileBegun rc with hot := x } : State).launch l = loading.launch l := fun l => by
    rw [State.launch, show ({ tileBegun rc with hot := x } : State).launches = (tileBegun rc).launches from rfl, r1, ← State.launch]
  generalize hu : ({ tileBegun rc with hot := x } : State) = u at hl ⊢
  have htl : u.tlbs = tset [] 1 [{ launch := 0, first := 1, run := 0, page := 1, leaf := leaf1 }] := by rw [← hu]; exact r3
  have hleaf : u.engLeaf 0 1 1 = (u, some (1, leaf1)) := by
    unfold State.engLeaf
    simp [htl, tget, tset]
  have haddr : u.engAddr (harrowAcc mldEntry rc false) ((65792 : Nat) : Int) 1 false = .ok (u, 65792, 3) := by
    unfold State.engAddr
    simp only [harrowAcc, mldEntry, hl, h1, hk]
    simp only [show harrowUnit (clusterOf 0) = 1 by decide, Int.toNat_natCast, show 65792 / 65536 = 1 by decide, hleaf, h2.2.1, h2.2.2]
    rfl
  have hn : u.sector 1028 = none := by
    have e1 : u.sectors = [] := by rw [← hu]; exact r4.trans (by decide +kernel)
    have e2 : u.areas = [] := by rw [← hu]; exact r5.trans (by decide +kernel)
    simp [State.sector, e1, e2, sectorOf?, areaSector]
  have hmain : u.mainRd 65792 1 3 0 = .ok (u, u.rds 65792 1) := by
    unfold State.mainRd
    simp [h5, h4, hn, State.firstFail, State.sectorCheck, State.correct, State.underPairs, State.underPair]
  refine ⟨u.touches 0 [1028], ?_, ?_⟩
  · unfold State.engRd
    rw [haddr]
    simp only [harrowAcc, mldEntry, ht, hmain, h4, show dieOfCore 0 = 0 by decide]
    have hm : u.mem = (tileBegun rc).mem := by rw [← hu]
    exact congrArg (fun m => Except.ok (u.touches 0 [1028], memRds m 65792 1)) hm
  · have e : u.thresh.getD 0 0 = 0 := by
      rw [show u.thresh = (tileBegun rc).thresh by rw [← hu], r7]
      decide +kernel
    have : ∃ h, u.touch 0 1028 = { u with hot := h } := by
      unfold State.touch
      simp only [e]
      split
      · exact ⟨_, rfl⟩
      · exact ⟨_, rfl⟩
    obtain ⟨h, hh⟩ := this
    refine ⟨h, ?_⟩
    rw [State.touches, hh, State.touches, ← hu]


theorem tileBegun_keeps (rc : Packet) : TileKeeps rc (tileBegun rc) := by
  unfold TileKeeps
  generalize tileBegun rc = b
  exact ⟨b.hot, rfl⟩

/-- What the clause of a plain record asks of a record and the state after it is read. -/
def TileWitness (rc : Packet) : Prop :=
    let s2 : State := { filled (loadingOf rc) with hot := tset [] 8 { residual := 1 } }
    let i0 (x : Nat) : Nat := 256 * mldWork.k0 + x % 256
    let i1 (x : Nat) : Nat := mldWork.row0 + x / 256
    let i2 : Nat := mldWork.outer % recExt rc 2
    let i3 : Nat := mldWork.outer / recExt rc 2 % recExt rc 3
    let bit (x : Nat) : Nat := 8 * recBase rc + 8 * (i0 x + recStride rc 1 * i1 x) + 2048 * (i2 * recStride rc 2 + i3 * recStride rc 3 +
      mldWork.outer / (recExt rc 2 * recExt rc 3) * recStride rc 4)
    (loadingOf rc).mldRecord mldEntry mldWork = .ok (s2, rc, []) ∧ recInd rc = 0 ∧ recGeom rc = 0 ∧ (s2.slot 0 4).md.pending = some 4 ∧
    Desc.container (mldWork.table.entry (recFmt rc)) = 8 ∧
    TileKeeps rc (s2.setSlot 0 4 fun sl => { sl with md := { fmt := recFmt rc, geom := 0, sfmt := recSfmt rc, scslot := 4, src := true }, sums := [] }) ∧
    (∀ u, TileKeeps rc u → Memory.wf u.mem = true) ∧ (i0 0 < recExt rc 0 ∧ i1 0 < recExt rc 1 ∧ i2 < recExt rc 2 ∧ i3 < recExt rc 3) ∧
    ∀ u x, TileKeeps rc u → x < 16384 → i0 x < recExt rc 0 ∧ i1 x < recExt rc 1 →
      ∃ u', u.engRd (harrowAcc mldEntry rc false) ((bit x / 8 : Nat) : Int) (max 1 (8 / 8)) = .ok (u', (tileBegun rc).rds 65792 1) ∧ TileKeeps rc u'

theorem tile_witness (rc : Packet) (hs : loading.recordSealed 0 rc = true) (f1 : recInd rc = 0) (f2 : recFmt rc = 4) (f3 : recGeom rc = 0) (f4 : recKey rc = 3)
    (f5 : recRights rc = 63) (f6 : recAtag rc = 0) (f7 : recBase rc = 65792) (he : ∀ k < 5, recExt rc k = 1) : TileWitness rc := by
  have hz : mldWork.k0 = 0 ∧ mldWork.row0 = 0 ∧ mldWork.outer = 0 := by decide
  obtain ⟨l1, l2, l3⟩ := loaded rc hs f1 f2 f3 f4 f5
  refine ⟨l1, f1, f3, l3, ?_, tileBegun_keeps rc, ?_, ?_, ?_⟩
  · rw [f2]
    decide +kernel
  · rintro u ⟨x, rfl⟩
    have h : (tileBegun rc).mem = memWrs loading.mem 65536 (bytesOf 64 rc.toNat) := by
      rw [(tileBegun_rest rc).2.2.2.2.2.1]
      simp only [loadingOf, State.wrs, State.setMem]
    rw [show ∀ (s : State) h, ({ s with hot := h } : State).mem = s.mem from fun _ _ => rfl, h]
    exact memWrs_wf loading_memOk
  · simp [hz, he]
  · intro u x hu hx hin
    have h0 : x = 0 := by
      simp only [hz, he 0 (by decide), he 1 (by decide)] at hin
      omega
    subst h0
    simp only [hz, he 2 (by decide), he 3 (by decide), f7]
    simpa using tile_read rc f4 f6 u hu

theorem witness_SlotsAndTiles_inside : TileWitness (sealedRecord loading 0 recordTile) :=
  let ⟨f1, f2, f3, f4, f5, f6, f7, f8⟩ := recordTile_fields
  tile_witness _ (sealedRecord_ok _ _ _) f1 f2 f3 f4 f5 f6 f7 f8

/-! ## Further clauses: hypotheses met -/

theorem witness_SlotsAndTiles_saves :
    (let s := grp tiled fun g => { g with state := .saved, displace := [4] }; keeps 0 (s.slot (s.group 0).core 4).holder = true ∧ s.hubWaits = false ∧
      (s.putPart 0 (slotsPart (s.launchOf 0).hdr) [1]).hubWaits = false) ∧
    (let s := cx (grp tiled fun g => { g with state := .saved, displace := [4], record := some 0 }) fun x => { x with ptroot := 0x20000 };
      (s.group 0).savedSlots.length < (s.launchOf 0).hdr.slots ∧ (relocking s).hubWaits = false ∧
      ((relocking s).putPart 0 (slotsPart (s.launchOf 0).hdr) (s.rds (slotAddr 0 4 0) 32768)).hubWaits = true) := by
  decide +kernel

theorem witness_FormatTable_more :
    ((withDesc 64 0).oneOk { sw := false, reads := [{ v := 1 }], writes := [{ v := 4, n := 2 }], var := true } lane = true ∧ ((withDesc 64 0).inSheaf.reg lane 1).toNat = 64) ∧
    (let q : FmtReq := { ctx := 0, entry := 63, desc := 0, out := (lane, 0), kicks := [], done := [2, 1, 0] };
      let s := { base with fmtReqs := [q, { q with entry := 16, done := [] }] };
      s.fmtReqs = q :: [{ q with entry := 16, done := [] }] ∧ (∀ p ∈ s.fmtReqs.drop 1, p.done = [] ∧ p.ctx = 0 ∧ p ≠ q) ∧ 3 ≤ q.done.length) ∧
    (∃ p ∈ withFmtReq.fmtReqs, p.ctx = withFmtReq.ctxOf 0) ∧ base.fmtReqs = [] := by
  decide +kernel

/-- The last element of the block is written beyond the end of group memory, the others inside. -/
def overrun : Copy := { transposed with req := request1024 [(1, 124), (1, 126), (1, 136), (2, 160), (2, 192), (1, 224), (1, 256), (1, 288), (1, 320), (1, 352), (2, 384), (2, 416),
  (0x2000000000000040, 640), (0x2000000000000FF4, 704)] }

theorem witness_CopiedElements_overrun : let s := copying overrun
    elementOk s overrun = true ∧ overrun.tr = true ∧ overrun.red = 0 ∧ overrun.dkind = 1 ∧ overrun.sfmt = overrun.dfmt ∧ overrun.next = 0 ∧ overrun.landed = 0 ∧
    (List.range 5).map overrun.bound = [2, 2, 1, 1, 1] ∧ engAt s overrun.dstBase (overrun.dstByte ![1, 1, 0, 0, 0]) 4 = none ∧
    ∀ m < 2, ∀ n < 2, engFrom s overrun.srcBase (overrun.srcByte ![m, n, 0, 0, 0]) 4 = some (fromAt m n) ∧ s.reach (fromAt m n) = true ∧
      ((m, n) ≠ (1, 1) → engAt s overrun.dstBase (overrun.dstByte ![n, m, 0, 0, 0]) 4 = some (gmemAddr 0 (4084 + 4 * (n + 2 * m))) ∧
        s.reach (gmemAddr 0 (4084 + 4 * (n + 2 * m))) = true ∧ s.watchers (gmemAddr 0 (4084 + 4 * (n + 2 * m))) 4 = []) := by
  decide +kernel

/-- The group's slot 4 on both mates has other metadata. -/
def remade (md : SlotMeta) (s : State := tiled) : State := (s.setSlot 0 4 fun sl => { sl with md := md }).setSlot 1 4 fun sl => { sl with md := md }

/-- The latch of a slot of a core. -/
def latchOf (s : State) (c i : Nat) : SlotLatch := s.inSheaf.latch 0 c i

theorem tiled_elems : ¬elemBad (latchOf tiled 0 4) ∧ ¬elemBad (latchOf tiled 0 9) ∧ ¬scaleBad (latchOf tiled 0 4) ∧ ¬scaleBad (latchOf tiled 0 9) ∧
    latchOf tiled 1 4 = latchOf tiled 0 4 ∧ latchOf tiled 1 9 = latchOf tiled 0 9 ∧ (latchOf tiled 0 4).md.geom = 0 ∧ (latchOf tiled 0 9).md.geom = 0 := by
  unfold elemBad scaleBad
  decide +kernel

theorem witness_MatrixEntriesIssue_pass (ch : Bool) : ∀ p ∈ mmaChecks false ch (latchOf tiled 0 4) (latchOf tiled 1 4) (latchOf tiled 0 9) (latchOf tiled 1 9), ¬p.1 := by
  obtain ⟨h1, h2, h3, h4, h5, h6, h7, h8⟩ := tiled_elems
  rw [h5, h6]
  generalize latchOf tiled 0 4 = a at *
  generalize latchOf tiled 0 9 = b at *
  simp [mmaChecks, h1, h2, h3, h4, h7, h8]

theorem witness_MatrixEntriesIssue_refused :
    elemBad (latchOf (remade { fmt := 14 }) 0 4) ∧ scaleBad (latchOf (remade { fmt := 4, geom := 1, sfmt := 14 }) 0 4) ∧
    ¬elemBad (latchOf (remade { fmt := 4, geom := 1, sfmt := 14 }) 0 4) ∧
    (∀ md ∈ [({ fmt := 14 } : SlotMeta), { fmt := 4, geom := 1, sfmt := 14 }], let s := remade md; holds 0 (s.acc 0 1).holder = true ∧
      ∀ c ∈ [0, mateOf 0], s.slotUsable 0 c 4 = true ∧ s.slotUsable 0 c 9 = true) ∧
    ((tiled [] (regs base [(10, 8192)])).inSheaf.reg lane 10).toNat = 8192 ∧ ((tiled [] (regs base [(10, 16384)])).inSheaf.reg lane 10).toNat = 2 ^ 14 := by
  unfold elemBad scaleBad
  decide +kernel

/-- A chained product of scaled tiles whose first scale is no power of 2. -/
def scaled4 : SlotLatch := { md := { fmt := 4, geom := 1, sfmt := 7, scslot := 4 }, ed := (base.ctx 0).entry 4, sd := (base.ctx 0).entry 7 }

theorem witness_MatrixProducts_refused : let op := MOp.mma true false 1 4 9 scaled4 (tile 9)
    let s := headed op (tiled.wr (slotAddr 0 4 scaleTail) 0x41)
    s.headsM 0 { id := 4, iss := { thr := lane }, work := .mat op } [] op ∧ scaled4.md.geom ≠ 0 ∧ Desc.kind scaled4.sd = 1 ∧ s.scaleCode 0 4 (geomElems 1) 0 0 = 0x41 ∧
    0x41 % 128 ≠ 0 ∧ (m8Fields (0x41 % 128)).2.1 ≠ 0 ∧ Memory.wf s.mem = true := by
  unfold State.headsM State.noMarkers
  decide +kernel

/-- Lanes 0 and 1 of furrow 0 meet in a rendezvous. -/
def rendezvous : State := grp many fun g => { g with rdvs := [{ furrow := 0, mask := 3, minor := 9, arrived := [(1, 0, 0, 7)] }] }

/-- Every thread but 0 waits at named barrier 2, which furrow 0 is a member of. -/
def allButOne : State := grp many fun g => { g with
  bars := g.bars.set 2 { members := 1, arrived := 2 ^ 32 - 2 }
  threads := g.threads.zipIdx.map fun p => if p.2 = 0 then p.1 else { p.1 with status := .waiting (.namedBar 2) } }

theorem witness_ExitEndsTheThread_more :
    (rendezvous.oneOk (F [] []) lane = true ∧ (∃ v ∈ (rendezvous.group 0).rdvs, v.furrow = lane.t / 32 ∧ v.mask.getLsbD (lane.t % 32) = true)) ∧
    (let s := allButOne; s.oneOk (F [] []) lane = true ∧ (s.group 0).rdvs = [] ∧ (∀ g ∈ s.groupsOf 0, (s.group g).gbar = 0) ∧
      (s.group 0).bars[2]? = some { members := 1, arrived := 2 ^ 32 - 2 } ∧ (∀ c < 16, c ≠ 2 → ∀ b ∈ (s.group 0).bars[c]?, b.arrived = 0) ∧ (s.group 0).bars.length ≤ 16 ∧
      (s.group 0).threads.length = 32 ∧ ∀ t < 32, t ≠ 0 → (1 : Nat).testBit (t / 32) = true ∧ (s.thread { g := 0, t := t }).status = .waiting (.namedBar 2) ∧ (2 ^ 32 - 2 : Nat).testBit t = true) := by
  decide +kernel

theorem witness_HandlesIssue_atom : let s := { thr (withImage 1 1 0 4 0 0 64) (fun th => { th with atoms := [(7, gmemAddr 0 68, 4)] }) with reqs := [7] }
    s.ownAtom lane (gmemAddr 0 64) 64 = true ∧ (withImage 1 1 0 4 0 0 64).ownAtom lane (gmemAddr 0 64) 64 = false ∧
    s.oneOk { sw := false, reads := [{ v := 1 }], writes := [{ v := 16, n := 4 }], var := true, access := true } lane = true ∧ (s.inSheaf.reg lane 1).toNat = 64 := by
  decide +kernel

theorem witness_HandlesAtTheirHomes_reach : ∀ i < 4, (recording (withTensor .live 2 0)).reach (gmemAddr 0 64 + 16 * i) = true := by
  decide +kernel

theorem witness_ContextCommandsAct_area : let p := pktOf [(65536, 448), (1, 424)]
    ((ctxIn .opened).ctx 0).usedHnew = false ∧ fieldOf p 448 64 = 65536 ∧ fieldOf p 424 24 = 1 ∧ (homeDie 65536).all (ctxIn .opened).runs = true ∧
    (homeDie 65536).all (relocking (ctxIn .opened)).runs = false ∧ (∀ n ∈ [0, 17], fieldOf (pktOf [(n, 384)]) 384 32 = n ∧ (n = 0 ∨ 16 < n)) := by
  decide +kernel

theorem witness_ModuleCommandsAct_relocks : (homeDie 0x40000).all base.runs = true ∧ (homeDie 0x40000).all (relocking base).runs = false ∧
    (relocking base).hubWaits = false ∧ base.notify = none := by
  decide +kernel

theorem witness_LinksAndPeers_more :
    (let l : Link := { state := .up, rxSeq := 4095 }; ∀ f ∈ [({ type := 1, crcOk := true, seq := 4094, ack := 0 } : Flit)], f.seq ≠ l.rxSeq ∧ f.crcOk = true ∧ f.type = 1) ∧
    (let s := { base with phase := .up, pcieUp := [0], pcieStatus := [(0, 5, 16)] }; 0 ∈ s.pcieUp ∧ s.phase = .up ∧ s.pcieStatus = (0, 5, 16) :: []) ∧
    (let s := { base with phase := .up, pcieUp := [0] }; (1 : Nat) ∉ s.pcieUp) := by
  decide +kernel

theorem witness_LaunchesEnd_scratch : let s := lau base fun la => { la with state := .rollingBack, scratch := [(0, { frames := [3], attrs := [] })] }
    (∀ p ∈ (s.launch 0).scratch, p.2.frames = [] ∨ s.runs p.1 = true) ∧ ¬(∀ p ∈ ((relocking s).launch 0).scratch, p.2.frames = [] ∨ (relocking s).runs p.1 = true) ∧
    s.opsLeft 0 = false ∧ (s.launch 0).heldFault = none ∧ 0 < s.launches.length := by
  decide +kernel
end Sys2Proof.Tests
end

section
/-! Reading what was written (R1, R206, R212 to R214): the canonical form names a memory by its bytes, and a core's view of a byte that one of its
threads has stored is the stored value, wherever the store stands on its way to its home. -/

namespace Sys2Proof.Machine

/-! ## A canonical memory is known by what it reads as -/

theorem memSorted_cons {lo b : Nat} {v : Byte} {m : List Host.Cell} :
    memSorted lo ((b, v) :: m) = true ↔ lo ≤ b ∧ v ≠ 0 ∧ memSorted (b + 1) m = true := by
  simp [memSorted, and_assoc]

theorem memRd_cons_same (b : Nat) (v : Byte) (m : List Host.Cell) : memRd ((b, v) :: m) b = v := by simp [memRd]

theorem memRd_cons_ne {a b : Nat} (v : Byte) (m : List Host.Cell) (h : b ≠ a) : memRd ((b, v) :: m) a = memRd m a := by simp [memRd, h]

theorem eq_nil_of_memRd_zero {lo : Nat} {m : List Host.Cell} (hm : memSorted lo m = true) (h : ∀ a, memRd m a = 0) : m = [] := by
  cases m with
  | nil => rfl
  | cons x m =>
    obtain ⟨b, v⟩ := x
    obtain ⟨-, hv, -⟩ := memSorted_cons.1 hm
    exact absurd (memRd_cons_same b v m ▸ h b) hv

/-- The first byte listed is the lowest that does not read as unwritten, so two memories list the same one first. -/
theorem head_le_of_memRd_eq {lo b b' : Nat} {v v' : Byte} {m m' : List Host.Cell} (hm : memSorted lo ((b, v) :: m) = true)
    (hm' : memSorted lo ((b', v') :: m') = true) (h : ∀ a, memRd ((b, v) :: m) a = memRd ((b', v') :: m') a) : b' ≤ b := by
  obtain ⟨-, hv, -⟩ := memSorted_cons.1 hm
  obtain ⟨-, hv', hr'⟩ := memSorted_cons.1 hm'
  refine Nat.le_of_not_lt fun hlt => hv ?_
  have hlow : memSorted b' ((b', v') :: m') = true := memSorted_cons.2 ⟨le_rfl, hv', hr'⟩
  calc v = memRd ((b, v) :: m) b := (memRd_cons_same b v m).symm
    _ = memRd ((b', v') :: m') b := h b
    _ = 0 := memRd_of_lt hlow hlt

theorem mem_ext_sorted {lo : Nat} {m m' : List Host.Cell} (hm : memSorted lo m = true) (hm' : memSorted lo m' = true)
    (h : ∀ a, memRd m a = memRd m' a) : m = m' := by
  induction m generalizing lo m' with
  | nil => exact (eq_nil_of_memRd_zero hm' fun a => (h a).symm).symm
  | cons x m ih =>
    obtain ⟨b, v⟩ := x
    cases m' with
    | nil => exact eq_nil_of_memRd_zero hm h
    | cons x' m' =>
      obtain ⟨b', v'⟩ := x'
      obtain rfl : b' = b := le_antisymm (head_le_of_memRd_eq hm hm' h) (head_le_of_memRd_eq hm' hm fun a => (h a).symm)
      obtain ⟨-, -, hr⟩ := memSorted_cons.1 hm
      obtain ⟨-, -, hr'⟩ := memSorted_cons.1 hm'
      have hv : v = v' := by simpa only [memRd_cons_same] using h b'
      have hrest : ∀ a, memRd m a = memRd m' a := fun a => by
        by_cases hab : b' = a
        · subst hab; rw [memRd_of_lt hr (Nat.lt_succ_self _), memRd_of_lt hr' (Nat.lt_succ_self _)]
        · simpa only [memRd_cons_ne _ _ hab] using h a
      rw [hv, ih hr hr' hrest]

theorem mem_ext {m m' : List Host.Cell} (hm : Memory.wf m = true) (hm' : Memory.wf m' = true) (h : ∀ a, memRd m a = memRd m' a) : m = m' :=
  mem_ext_sorted hm hm' h

/-! ## The value of a byte that a core's thread stored -/

/-- A byte at an address is the last that a thread of a core stored there: that store is retired and has not reached a die copy, or the byte stands
in the core's own group memory with no store of the core in the way (R213). -/
def State.lastStored (s : State) (c a : Nat) (v : Byte) : Prop :=
  (∃ before e after, s.stores = before ++ e :: after ∧ e.core = c ∧ e.addr = a ∧ e.val = v ∧ e.nib = 0 ∧ e.fwd = none ∧
    e.shared = false ∧ ∀ x ∈ after, ¬(x.core = c ∧ x.addr = a)) ∨
  (ownGmem c a = true ∧ s.rd a = v ∧ ∀ x ∈ s.stores, ¬(x.core = c ∧ x.addr = a))

/-- A store entry as a refresh leaves it: what a die copy already holds may be marked (R220). -/
def SEntry.marks (p : SEntry → Prop) [DecidablePred p] (e : SEntry) : SEntry := if p e ∧ e.fwd.isSome then { e with shared := true } else e

@[simp] theorem SEntry.marks_core (p : SEntry → Prop) [DecidablePred p] (e : SEntry) : (e.marks p).core = e.core := by
  unfold SEntry.marks; split <;> rfl

@[simp] theorem SEntry.marks_addr (p : SEntry → Prop) [DecidablePred p] (e : SEntry) : (e.marks p).addr = e.addr := by
  unfold SEntry.marks; split <;> rfl

theorem SEntry.marks_of_fwd_none (p : SEntry → Prop) [DecidablePred p] {e : SEntry} (h : e.fwd = none) : e.marks p = e := by
  simp [SEntry.marks, h]

section
variable {s t : State} {c a : Nat} {v : Byte}

/-- Only the memory and the retired stores say what was last stored. -/
theorem State.lastStored.congr (h : s.lastStored c a v) (hs : t.stores = s.stores) (hm : t.mem = s.mem) : t.lastStored c a v := by
  simpa only [State.lastStored, State.rd, hs, hm] using h

theorem State.lastStored.marked (p : SEntry → Prop) [DecidablePred p] (h : s.lastStored c a v)
    (hs : t.stores = s.stores.map (·.marks p)) (hm : t.mem = s.mem) : t.lastStored c a v := by
  rcases h with ⟨l, e, l', hl, hc, ha, hv, hn, hf, hsh, hafter⟩ | ⟨ho, hr, hnone⟩
  · refine .inl ⟨l.map (·.marks p), e, l'.map (·.marks p), ?_, hc, ha, hv, hn, hf, hsh, ?_⟩
    · rw [hs, hl, List.map_append, List.map_cons, SEntry.marks_of_fwd_none p hf]
    · simpa using hafter
  · refine .inr ⟨ho, ?_, ?_⟩
    · simpa only [State.rd, hm] using hr
    · simpa [hs] using hnone

/-- A store entry of another byte, put behind the others. -/
theorem State.lastStored.appended {e : SEntry} (h : s.lastStored c a v) (he : e.addr ≠ a) (hs : t.stores = s.stores ++ [e]) (hm : t.mem = s.mem) :
    t.lastStored c a v := by
  have hne : ¬(e.core = c ∧ e.addr = a) := fun h => he h.2
  rcases h with ⟨l, x, l', hl, hc, ha, hv, hn, hf, hsh, hafter⟩ | ⟨ho, hr, hnone⟩
  · refine .inl ⟨l, x, l' ++ [e], by simp [hs, hl], hc, ha, hv, hn, hf, hsh, fun y hy => ?_⟩
    rcases List.mem_append.1 hy with hy | hy
    · exact hafter y hy
    · exact List.mem_singleton.1 hy ▸ hne
  · refine .inr ⟨ho, by simpa only [State.rd, hm] using hr, fun y hy => ?_⟩
    rcases List.mem_append.1 (hs ▸ hy) with hy | hy
    · exact hnone y hy
    · exact List.mem_singleton.1 hy ▸ hne

/-- A write of other bytes at their home. -/
theorem State.lastStored.wrs_out {b : Nat} {bs : List Byte} (h : s.lastStored c a v) (ho : a < b ∨ b + bs.length ≤ a) :
    (s.wrs b bs).lastStored c a v := by
  rcases h with h | ⟨hg, hr, hnone⟩
  · exact .inl h
  · exact .inr ⟨hg, by rw [rd_wrs_out ho, hr], hnone⟩

/-! ## What a refresh and a rereading MONW leave of it -/

theorem refreshView_mem (s : State) (k scope : Nat) : (s.refreshView k scope).mem = s.mem := by
  unfold State.refreshView; split <;> rfl

theorem refreshView_stores (s : State) (k scope : Nat) : (s.refreshView k scope).stores =
    s.stores.map (·.marks fun e => 4 ≤ scope ∧ e.core = k) := by
  unfold State.refreshView
  split
  · next h => simp [SEntry.marks, Nat.not_le.2 h]
  · next h => simp [SEntry.marks, Nat.not_lt.1 h]

theorem sees_stores (s : State) (r : TRef) (ids : List Nat) : (s.sees r ids).stores = s.stores := by
  unfold State.sees; split <;> rfl

theorem sees_mem (s : State) (r : TRef) (ids : List Nat) : (s.sees r ids).mem = s.mem := by
  unfold State.sees; split <;> rfl

theorem State.lastStored.refresh (h : s.lastStored c a v) (r : TRef) (scope : Nat) (needs : List Need) :
    (s.refresh r scope needs).lastStored c a v := by
  unfold State.refresh
  extract_lets
  split
  · exact (h.marked _ (refreshView_stores s _ scope) (refreshView_mem s _ scope)).congr (sees_stores ..) (sees_mem ..)
  · exact h.congr rfl rfl

theorem refresh_mem (s : State) (r : TRef) (scope : Nat) (needs : List Need) : (s.refresh r scope needs).mem = s.mem := by
  unfold State.refresh
  extract_lets
  split
  · exact (sees_mem ..).trans (refreshView_mem s _ scope)
  · rfl

theorem State.lastStored.monwRead (h : s.lastStored c a v) (n : Nat) (r : TRef) : (s.monwRead n r).lastStored c a v := by
  unfold State.monwRead
  split
  · split
    · exact State.lastStored.refresh (h.congr (t := (s.wakeAt n r).observe r) rfl rfl) ..
    · exact h
  · exact h

theorem monwRead_mem (s : State) (n : Nat) (r : TRef) : (s.monwRead n r).mem = s.mem := by
  unfold State.monwRead
  split
  · split
    · exact refresh_mem ..
    · rfl
  · rfl

theorem State.lastStored.monwGo (h : s.lastStored c a v) (n : Nat) (rs : List TRef) : (s.monwGo n rs).lastStored c a v := by
  induction rs generalizing s with
  | nil => exact h
  | cons r rs ih => exact ih (h.monwRead n r)

theorem monwGo_mem (s : State) (n : Nat) (rs : List TRef) : (s.monwGo n rs).mem = s.mem := by
  induction rs generalizing s with
  | nil => rfl
  | cons r rs ih => exact (ih (s.monwRead n r)).trans (monwRead_mem s n r)

theorem State.lastStored.monwReads (h : s.lastStored c a v) (rs : List TRef) : (s.monwReads rs).lastStored c a v := by
  cases rs with
  | nil => exact h
  | cons r rs => exact State.lastStored.monwGo (h.congr (t := s.tick) rfl rfl) _ _

theorem monwReads_mem (s : State) (rs : List TRef) : (s.monwReads rs).mem = s.mem := by
  cases rs with
  | nil => rfl
  | cons r rs => exact monwGo_mem _ _ _

theorem homeWr_mem (s : State) (b : Nat) (bs : List Byte) : (s.homeWr b bs).mem = memWrs s.mem b bs := monwReads_mem _ _

/-! ## Stores -/

theorem storeByte_wf (hm : Memory.wf s.mem = true) (k : Nat) (r : TRef) (b : Nat) (w : Byte) (nib : Nat) :
    Memory.wf (s.storeByte k r b w nib).mem = true := by
  unfold State.storeByte
  extract_lets
  split
  · rw [homeWr_mem]; exact memWrs_wf hm
  · exact hm

/-- A store leaves what was last stored in another byte. -/
theorem State.lastStored.storeByte_ne {b : Nat} (h : s.lastStored c a v) (hb : b ≠ a) (k : Nat) (r : TRef) (w : Byte) (nib : Nat) :
    (s.storeByte k r b w nib).lastStored c a v := by
  unfold State.storeByte
  extract_lets
  split
  · exact (h.wrs_out (by simp; omega)).monwReads _
  · exact h.appended (e := { id := s.fresh, core := k, thr := r, addr := b, val := w, nib := nib, after := _ }) hb rfl rfl

/-- A store of a whole byte is the last of its core in that byte. -/
theorem lastStored_storeByte (hm : s.memOk) (c : Nat) (r : TRef) (a : Nat) (v : Byte) : (s.storeByte c r a v 0).lastStored c a v := by
  unfold State.storeByte
  extract_lets _ atoms held
  split
  next hc =>
    simp only [Bool.and_eq_true, Bool.not_eq_true'] at hc
    obtain ⟨⟨⟨hown, -⟩, hheld⟩, -⟩ := hc
    refine State.lastStored.monwReads (.inr ⟨hown, ?_, ?_⟩) _
    · exact rd_wrs_in (i := 0) (bs := [mergeNib (s.rd a) v 0]) hm Nat.zero_lt_one
    · simpa [held, State.wrs] using hheld
  next =>
    exact .inl ⟨s.stores, { id := s.fresh, core := c, thr := r, addr := a, val := v, nib := 0, after := atoms }, [], rfl, rfl, rfl,
      rfl, rfl, rfl, rfl, by simp⟩

theorem State.lastStored.storeBytes_lt (h : s.lastStored c a v) (k : Nat) (r : TRef) {b : Nat} (bs : List Byte) (hb : a < b) :
    (s.storeBytes k r b bs).lastStored c a v := by
  induction bs generalizing s b with
  | nil => exact h
  | cons w ws ih => exact ih (h.storeByte_ne (Nat.ne_of_gt hb) k r w 0) (Nat.lt_succ_of_lt hb)

theorem lastStored_storeBytes (hm : s.memOk) (c : Nat) (r : TRef) (x : Nat) (bs : List Byte) (i : Nat) (hi : i < bs.length) :
    (s.storeBytes c r x bs).lastStored c (x + i) bs[i] := by
  induction bs generalizing s x i with
  | nil => simp at hi
  | cons b bs ih =>
    cases i with
    | zero => exact (lastStored_storeByte hm c r x b).storeBytes_lt c r bs (Nat.lt_succ_self _)
    | succ i =>
      rw [show x + (i + 1) = x + 1 + i by omega]
      exact ih (storeByte_wf hm ..) (x + 1) i (Nat.lt_of_succ_lt_succ hi)

/-! ## Loads -/

theorem fetch_stores (s : State) (k b need : Nat) : (s.fetch k b need).1.stores = s.stores := by
  rw [State.fetch]
  split
  · rfl
  · extract_lets
    split <;> rfl

theorem fetch_mem (s : State) (k b need : Nat) : (s.fetch k b need).1.mem = s.mem := by
  rw [State.fetch]
  split
  · rfl
  · extract_lets
    split <;> rfl

/-- The stores of a core that its loads of a byte go through. -/
def State.coreStores (s : State) (c a : Nat) : List SEntry := s.stores.filter fun e => e.core = c && e.addr = a && !e.shared

/-- What a load of a byte does: it takes a base value, of the core's own group memory where the byte lies there, and puts the stores of the core
over it (R213). It is a statement about the function that is given, so that unfolding `State.viewByte` in it leaves the addresses alone. -/
def LoadsByte (view : State → Nat → TRef → Nat → State × Byte) : Prop :=
  ∀ s c r a, ∃ t ids base, view s c r a = (State.sees t r ids, (s.coreStores c a).foldl (fun v e => mergeNib v e.val e.nib) base) ∧
    t.stores = s.stores ∧ t.mem = s.mem ∧ (ownGmem c a = true → base = s.rd a)

theorem viewByte_loadsByte : LoadsByte State.viewByte := by
  suffices h : ∀ view, view = State.viewByte → LoadsByte view from h _ rfl
  intro view hview
  delta State.viewByte at hview
  subst hview
  intro s c r a
  beta_reduce
  extract_lets es need
  split
  next t base hb =>
    refine ⟨t, _, base.val, rfl, ?_⟩
    split at hb
    · obtain ⟨rfl, rfl⟩ := Prod.mk.inj hb
      exact ⟨rfl, rfl, fun _ => rfl⟩
    next ho =>
      split at hb
      · obtain ⟨rfl, rfl⟩ := Prod.mk.inj hb
        exact ⟨rfl, rfl, fun h => absurd h ho⟩
      · obtain rfl : (s.fetch c a need).1 = t := congrArg Prod.fst hb
        exact ⟨fetch_stores .., fetch_mem .., fun h => absurd h ho⟩

/-- A load of a byte leaves what was last stored there, and in any other byte. -/
theorem State.lastStored.viewByte (h : s.lastStored c a v) (k : Nat) (r : TRef) (b : Nat) : (s.viewByte k r b).1.lastStored c a v := by
  obtain ⟨t, ids, base, he, hs, hm, -⟩ := viewByte_loadsByte s k r b
  rw [he]
  exact h.congr ((sees_stores ..).trans hs) ((sees_mem ..).trans hm)

/-- The stores of a core over a base value end in the last stored byte. -/
theorem lastStored_foldl (h : s.lastStored c a v) (base : Byte) (hb : ownGmem c a = true → base = s.rd a) :
    (s.coreStores c a).foldl (fun v e => mergeNib v e.val e.nib) base = v := by
  have hnil {l : List SEntry} (h : ∀ x ∈ l, ¬(x.core = c ∧ x.addr = a)) : (l.filter fun x => x.core = c && x.addr = a && !x.shared) = [] :=
    List.filter_eq_nil_iff.2 fun x hx => by simpa using fun h1 h2 => absurd ⟨h1, h2⟩ (h x hx)
  unfold State.coreStores
  rcases h with ⟨l, e, l', hl, hc, ha, hv, hn, -, hsh, hafter⟩ | ⟨ho, hr, hnone⟩
  · simp [hl, hc, ha, hv, hsh, hnil hafter, mergeNib, hn]
  · simp [hnil hnone, hb ho, hr]

theorem viewByte_of_lastStored (h : s.lastStored c a v) (r : TRef) : (s.viewByte c r a).2 = v := by
  obtain ⟨t, ids, base, he, -, -, hb⟩ := viewByte_loadsByte s c r a
  rw [he]
  exact lastStored_foldl h base hb

/-- A load of more bytes is a load of the first and then one of the rest. Like `LoadsByte`, it is about functions that are given. -/
def SplitsFirst (byte : State → Nat → TRef → Nat → State × Byte)
    (bytes : State → Nat → TRef → Nat → Nat → State × List Byte) : Prop :=
  ∀ s c r a n, (bytes s c r a (n + 1)).2 = (byte s c r a).2 :: (bytes (byte s c r a).1 c r (a + 1) n).2

theorem viewBytes_splitsFirst : SplitsFirst State.viewByte State.viewBytes := by
  suffices h : ∀ byte, byte = State.viewByte → ∀ bytes, bytes = State.viewBytes → SplitsFirst byte bytes from h _ rfl _ rfl
  intro byte hbyte bytes hbytes
  delta State.viewBytes at hbytes
  generalize hf : @State.viewBytes._f = f at hbytes
  delta State.viewBytes._f at hf
  rw [← hbyte] at hf
  clear hbyte
  subst hf hbytes
  exact fun _ _ _ _ _ => rfl

theorem viewBytes_of_lastStored (c : Nat) (r : TRef) (x : Nat) (bs : List Byte) (h : ∀ i (hi : i < bs.length), s.lastStored c (x + i) bs[i]) :
    (s.viewBytes c r x bs.length).2 = bs := by
  induction bs generalizing s x with
  | nil => rfl
  | cons b bs ih =>
    have hrest : ((s.viewByte c r x).1.viewBytes c r (x + 1) bs.length).2 = bs :=
      ih (x + 1) fun i hi => by
        have := (h (i + 1) (Nat.succ_lt_succ hi)).viewByte c r x
        rwa [show x + (i + 1) = x + 1 + i by omega] at this
    have hfirst : (s.viewByte c r x).2 = b := viewByte_of_lastStored (h 0 (Nat.succ_pos _)) r
    exact (viewBytes_splitsFirst ..).trans (congrArg₂ List.cons hfirst hrest)

theorem viewBytes_storeBytes (hm : s.memOk) (c : Nat) (r : TRef) (x : Nat) (bs : List Byte) :
    ((s.storeBytes c r x bs).viewBytes c r x bs.length).2 = bs :=
  viewBytes_of_lastStored c r x bs (lastStored_storeBytes hm c r x bs)

end

end Sys2Proof.Machine

open Sys2Proof Sys2Proof.Machine

/-- Settles O18. A write is read back by the laws of the memory's list, which its bytes determine; a load finds its own thread's last store by the
invariant `State.lastStored`, which the store sets up and neither later stores to other bytes nor loads disturb. -/
theorem byteReadAfterWrite : Obligations.ByteReadAfterWrite :=
  ⟨fun _ x bs hm => ⟨memOk_wrs x bs hm, rds_wrs x bs hm, fun _ ha => rd_wrs_out ha⟩, fun _ _ => mem_ext,
    fun _ c r x bs hm => viewBytes_storeBytes hm c r x bs⟩

end

section
/-! Every step keeps the memory in its canonical form (R1, R198, R206, R309). The memory is written only through the laws of the list that
holds it; each operation of the model below has one lemma, `memOk_` and its name, that says that it keeps the form, and its proof follows the
operation's branches. What an operation answers beside a state is covered by a predicate on its answers.

The kernel cannot evaluate some of the model's functions on open terms. Where a proof would make it do so, `exists_eq` puts a variable for the
function before a match on its answer is taken apart, or a `suffices` does so for the function that is to be unfolded. -/

namespace Sys2Proof.Machine

/-! ## Answers whose states have canonical memory -/

/-- The state that an operation answers with something beside it. -/
def PairOk {β : Type} (p : State × β) : Prop := p.1.memOk

/-- Of an answer that holds no state nothing is asked. -/
def AnyOk {α : Type} (_ : α) : Prop := True

/-- An answer that may be missing. -/
def OptOk {α : Type} (P : α → Prop) : Option α → Prop
  | some a => P a
  | none => True

/-- An answer, or the failure in its place. -/
def ExcOk {ε α : Type} (P : ε → Prop) (Q : α → Prop) : Except ε α → Prop
  | .error e => P e
  | .ok a => Q a

/-- The outcome of a step of the instruction table. -/
def OutOk : Out → Prop
  | .next t => t.memOk
  | _ => True

/-- What one lane's effect ends in (R33). -/
def LaneRes.memOk : LaneRes → Prop
  | .done s | .jump s _ | .stay s | .again s | .doneFault s _ _ _ _ _ => s.memOk
  | .fault _ _ _ | .faultMask _ _ _ _ => True

/-- What an Admin command ends in (R58). -/
def Adm.memOk : Adm → Prop
  | .done s | .refused s _ | .wait s _ => s.memOk
  | .refuse _ => True

/-- What a turn calls for. -/
def Act.memOk : Act → Prop
  | .run _ s => s.memOk
  | .did o => OutOk o

/-- A scan of pages on its way. -/
def Scan.memOk (x : Scan) : Prop := x.s.memOk

theorem pairOk {β : Type} {s : State} {b : β} (h : s.memOk) : PairOk (s, b) := h

theorem PairOk.fst {β : Type} {p : State × β} {t : State} {b : β} (h : PairOk p) (e : p = (t, b)) : t.memOk := by
  subst e
  exact h

theorem OutOk.next {o : Out} {t : State} (h : OutOk o) (e : o = .next t) : t.memOk := by
  subst e
  exact h

theorem OptOk.some {α : Type} {P : α → Prop} {o : Option α} {a : α} (h : OptOk P o) (e : o = some a) : P a := by
  subst e
  exact h

theorem OptOk.getD {α : Type} {P : α → Prop} {o : Option α} {a : α} (h : OptOk P o) (ha : P a) : P (o.getD a) := by
  cases o with
  | none => exact ha
  | some b => exact h

theorem ExcOk.ok {ε α : Type} {P : ε → Prop} {Q : α → Prop} {x : Except ε α} {a : α} (h : ExcOk P Q x) (e : x = .ok a) : Q a := by
  subst e
  exact h

theorem ExcOk.error {ε α : Type} {P : ε → Prop} {Q : α → Prop} {x : Except ε α} {a : ε} (h : ExcOk P Q x) (e : x = .error a) : P a := by
  subst e
  exact h

/-! ## What branches, folds and recursions keep -/

theorem ite_keeps {α : Type} {P : α → Prop} {c : Prop} [Decidable c] {a b : α} (ha : P a) (hb : P b) : P (if c then a else b) := by
  split <;> assumption

theorem foldl_keeps {α β : Type} {P : β → Prop} {f : β → α → β} {l : List α} {b : β} (h : P b) (hf : ∀ b a, P b → P (f b a)) :
    P (l.foldl f b) := by
  induction l generalizing b with
  | nil => exact h
  | cons a l ih => exact ih (hf b a h)

/-- A recursion over a number, by the function that its definition gives to `Nat.brecOn`. -/
theorem brecOn_nat_keeps {C : Nat → Type} {P : ∀ n, C n → Prop} {F : ∀ n, Nat.below (motive := C) n → C n} (hzero : ∀ b, P 0 (F 0 b))
    (hsucc : ∀ n b, P n b.1 → P (n + 1) (F (n + 1) b)) (n : Nat) : P n (Nat.brecOn n F) := by
  induction n with
  | zero => exact hzero _
  | succ n ih => exact hsucc n _ ih

/-- A recursion over a list, by the function that its definition gives to `List.brecOn`. -/
theorem brecOn_list_keeps {α : Type} {C : List α → Type} {P : ∀ l, C l → Prop} {F : ∀ l, List.below (motive := C) l → C l}
    (hnil : ∀ b, P [] (F [] b)) (hcons : ∀ a l b, P l b.1 → P (a :: l) (F (a :: l) b)) (l : List α) : P l (List.brecOn l F) := by
  induction l with
  | nil => exact hnil _
  | cons a l ih => exact hcons a l _ ih

/-- A state built from parts has canonical memory where the part for the memory is canonical. -/
theorem memOk_upd {t : State} (h : match t with | { mem := m, .. } => Memory.wf m = true) : t.memOk := h

variable {s : State}

/-! ## The operations of Machine/Ops -/

theorem memOk_setCore {c : Nat} {x : Core} (h : s.memOk) : (s.setCore c x).memOk := memOk_upd h

theorem memOk_setStack {k : Nat} {x : Stack} (h : s.memOk) : (s.setStack k x).memOk := memOk_upd h

theorem memOk_setCluster {c : Nat} {x : Cluster} (h : s.memOk) : (s.setCluster c x).memOk := memOk_upd h

theorem memOk_setDie {d : Nat} {x : Die} (h : s.memOk) : (s.setDie d x).memOk := memOk_upd h

theorem memOk_setCtx {c : Nat} {x : Ctx} (h : s.memOk) : (s.setCtx c x).memOk := memOk_upd h

theorem memOk_setQueue {q : Nat} {x : Queue} (h : s.memOk) : (s.setQueue q x).memOk := memOk_upd h

theorem memOk_setFn {f : Nat} {x : Fn} (h : s.memOk) : (s.setFn f x).memOk := memOk_upd h

theorem memOk_setKey {k : Nat} {x : KeySlot} (h : s.memOk) : (s.setKey k x).memOk := memOk_upd h

theorem memOk_setLink {n : Nat} {x : Link} (h : s.memOk) : (s.setLink n x).memOk := memOk_upd h

theorem memOk_modLaunch {l : Nat} {f : Launch → Launch} (h : s.memOk) : (s.modLaunch l f).memOk := memOk_upd h

theorem memOk_modGroup {g : Nat} {f : Group → Group} (h : s.memOk) : (s.modGroup g f).memOk := memOk_upd h

theorem memOk_modThread {r : TRef} {f : Thread → Thread} (h : s.memOk) : (s.modThread r f).memOk := memOk_modGroup h

theorem memOk_tick (h : s.memOk) : s.tick.memOk := memOk_upd h

theorem memOk_meet {a : Nat} (h : s.memOk) : (s.meet a).memOk := ite_keeps h (memOk_upd h)

theorem memOk_hubStep {f : State → State} (hf : ∀ (u : State), u.memOk → (f u).memOk) (h : s.memOk) : (hubStep f s).memOk :=
  ite_keeps h (hf _ h)

theorem memOk_underPair {key n : Nat} (h : s.memOk) : (s.underPair key n).memOk := by
  unfold State.underPair
  split
  · exact h
  · exact ite_keeps h (memOk_upd (memOk_wrs _ _ h))

theorem memOk_underPairs {key : Nat} {l : List Nat} (h : s.memOk) : (s.underPairs key l).memOk := by
  induction l generalizing s with
  | nil => exact h
  | cons a l ih => exact ih (memOk_underPair h)

theorem memOk_encodeSectors {key : Nat} {l : List Nat} (h : s.memOk) : (s.encodeSectors key l).memOk := by
  induction l generalizing s with
  | nil => exact h
  | cons a l ih =>
    unfold State.encodeSectors
    split
    · exact ite_keeps (ih (memOk_upd h)) (ih (memOk_underPair h))
    · exact ih (memOk_upd h)

theorem memOk_ownSectors {l : List Nat} (h : s.memOk) : (s.ownSectors l).memOk := by
  induction l generalizing s with
  | nil => exact h
  | cons a l ih =>
    unfold State.ownSectors
    split
    · exact ih h
    · exact ih (memOk_upd h)

theorem memOk_ownWr {pa : Nat} {bs : List Byte} (h : s.memOk) : (s.ownWr pa bs).memOk := memOk_wrs _ _ (memOk_ownSectors h)

theorem memOk_raise {fn v : Nat} (h : s.memOk) : (s.raise fn v).memOk := ite_keeps (memOk_upd h) h

theorem memOk_post {kind addr info ctx : Nat} (h : s.memOk) : (s.post kind addr info ctx).memOk := by
  unfold State.post
  split
  · exact memOk_upd h
  · exact ite_keeps (memOk_upd h) (ite_keeps (memOk_ownWr (memOk_upd h))
      (ite_keeps (memOk_raise (memOk_ownWr (memOk_upd (memOk_ownWr h)))) (memOk_ownWr (memOk_upd (memOk_ownWr h)))))

theorem memOk_correct {l : List Nat} (h : s.memOk) : (s.correct l).memOk := by
  induction l generalizing s with
  | nil => exact h
  | cons a l ih =>
    unfold State.correct
    split
    · exact ite_keeps (ih (ite_keeps (memOk_post (memOk_setDie (memOk_upd h))) (memOk_setDie (memOk_upd h)))) (ih h)
    · exact ih h

theorem memOk_mainRd {pa n key tag : Nat} (h : s.memOk) : ExcOk AnyOk PairOk (s.mainRd pa n key tag) := by
  refine ite_keeps trivial ?_
  split
  · exact trivial
  · exact memOk_correct h

theorem memOk_overwrite {pa n : Nat} (h : s.memOk) : (s.overwrite pa n).memOk := memOk_upd h

theorem memOk_mainWr {pa : Nat} {bs : List Byte} {key tag : Nat} (h : s.memOk) : ExcOk AnyOk State.memOk (s.mainWr pa bs key tag) := by
  refine ite_keeps trivial ?_
  split
  · exact trivial
  · exact memOk_overwrite (memOk_wrs _ _ (memOk_encodeSectors (memOk_correct h)))

theorem memOk_physRd {pa n : Nat} (h : s.memOk) : ExcOk AnyOk PairOk (s.physRd pa n) := memOk_mainRd h

theorem memOk_touch {cls n : Nat} (h : s.memOk) : (s.touch cls n).memOk :=
  ite_keeps (memOk_upd h) (ite_keeps (memOk_post (memOk_upd h)) (memOk_upd h))

theorem memOk_touches {cls : Nat} {l : List Nat} (h : s.memOk) : (s.touches cls l).memOk := by
  induction l generalizing s with
  | nil => exact h
  | cons a l ih => exact ih (memOk_touch h)

/-- What one read of a walk keeps (R310). -/
def WalkReads {α : Type} (f : State → Nat → Nat → Except (State × MemFail × Nat) (State × α)) : Prop :=
  ∀ s node lvl, s.memOk → ExcOk PairOk PairOk (f s node lvl)

theorem ExcOk.bind {ε α β : Type} {P : ε → Prop} {Q : α → Prop} {R : β → Prop} {x : Except ε α} {f : α → Except ε β}
    (h : ExcOk P Q x) (hf : ∀ a, Q a → ExcOk P R (f a)) : ExcOk P R (x >>= f) := by
  cases x with
  | error _ => exact h
  | ok a => exact hf a h

theorem memOk_walk {x : Ctx} {va : Nat} (h : s.memOk) : ExcOk PairOk PairOk (s.walk x va) := by
  unfold State.walk
  extract_lets -underBinder step
  have hstep : WalkReads step := by
    intro s node lvl hs
    unfold step
    split
    · next e => exact (memOk_mainRd (memOk_meet hs)).ok e
    · exact memOk_meet hs
  refine ExcOk.bind (hstep _ _ _ h) fun ⟨s3, e3⟩ h3 => ?_
  refine ite_keeps h3 (ExcOk.bind (hstep _ _ _ h3) fun ⟨s2, e2⟩ h2 => ?_)
  refine ite_keeps h2 (ExcOk.bind (hstep _ _ _ h2) fun ⟨s1, e1⟩ h1 => ?_)
  refine ite_keeps h1 (ExcOk.bind (hstep _ _ _ h1) fun ⟨s0, e0⟩ h0 => ?_)
  exact ite_keeps h0 h0

theorem memOk_virtRd_go {x : Ctx} {l : List (Nat × Nat)} {l' : List Byte} (h : s.memOk) : OptOk PairOk (State.virtRd.go x l s l') := by
  induction l generalizing s l' with
  | nil => exact h
  | cons a l ih =>
    unfold State.virtRd.go
    have hwalk := memOk_walk (x := x) (va := a.1) h
    obtain ⟨walk, he⟩ := exists_eq (a' := @State.walk)
    rw [← he] at hwalk ⊢
    split
    · next e =>
      have h1 := hwalk.ok e
      split
      · next e2 => exact ih ((memOk_mainRd (memOk_meet h1)).ok e2)
      · exact trivial
    · exact trivial

theorem memOk_virtRd {x : Ctx} {va n : Nat} (h : s.memOk) : OptOk PairOk (s.virtRd x va n) := memOk_virtRd_go h

theorem memOk_virtWr_go {x : Ctx} {l : List (Nat × Nat)} {l' : List Byte} (h : s.memOk) : OptOk State.memOk (State.virtWr.go x l s l') := by
  induction l generalizing s l' with
  | nil => exact h
  | cons a l ih =>
    unfold State.virtWr.go
    have hwalk := memOk_walk (x := x) (va := a.1) h
    obtain ⟨walk, he⟩ := exists_eq (a' := @State.walk)
    rw [← he] at hwalk ⊢
    split
    · next e =>
      have h1 := hwalk.ok e
      split
      · next e2 => exact ih ((memOk_mainWr (memOk_meet h1)).ok e2)
      · exact trivial
    · exact trivial

theorem memOk_virtWr {x : Ctx} {va : Nat} {bs : List Byte} (h : s.memOk) : OptOk State.memOk (s.virtWr x va bs) := memOk_virtWr_go h

theorem memOk_virtNote_go {c : Nat} {x : Ctx} {l : List (Nat × Nat)} (h : s.memOk) : (State.virtNote.go c x l s).memOk := by
  induction l generalizing s with
  | nil => exact h
  | cons a l ih =>
    unfold State.virtNote.go
    have hwalk := memOk_walk (x := x) (va := a.1) h
    obtain ⟨walk, he⟩ := exists_eq (a' := @State.walk)
    rw [← he] at hwalk ⊢
    split
    · next e => exact memOk_post (hwalk.error e)
    · next e => exact hwalk.ok e
    · next e =>
      have h1 := hwalk.ok e
      split
      · exact memOk_post h1
      · next e2 => exact ih ((memOk_mainRd (memOk_meet h1)).ok e2)

theorem memOk_virtNote {c va n : Nat} (h : s.memOk) : (s.virtNote c va n).memOk := memOk_virtNote_go h

theorem memOk_virtPut {c va : Nat} {bs : List Byte} (h : s.memOk) : (s.virtPut c va bs).memOk :=
  OptOk.getD (memOk_virtWr h) (memOk_virtNote h)

theorem memOk_wakeAt {n : Nat} {r : TRef} (h : s.memOk) : (s.wakeAt n r).memOk := memOk_modThread (memOk_setCtx h)

theorem memOk_wakesAt {n : Nat} {l : List TRef} (h : s.memOk) : (s.wakesAt n l).memOk := by
  induction l generalizing s with
  | nil => exact h
  | cons a l ih => exact ih (memOk_wakeAt h)

theorem memOk_wakes {rs : List TRef} (h : s.memOk) : (s.wakes rs).memOk := memOk_wakesAt (memOk_tick h)

theorem memOk_wake {r : TRef} (h : s.memOk) : (s.wake r).memOk := memOk_wakeAt (memOk_tick h)

theorem memOk_settleMat {c : Nat} (h : s.memOk) : (s.settleMat c).memOk := memOk_setStack (memOk_setCore (memOk_setCore h))

theorem memOk_fulfil {r : TRef} {id : Nat} {ws : List Word} (h : s.memOk) : (s.fulfil r id ws).memOk := memOk_modThread h

theorem memOk_setEngineQueue {c q : Nat} {l : List Entry} (h : s.memOk) : (s.setEngineQueue c q l).memOk :=
  ite_keeps (memOk_setStack h) (ite_keeps (memOk_setCore h) (memOk_setCore h))

theorem memOk_popMarker {c q : Nat} (h : s.memOk) : OptOk State.memOk (s.popMarker c q) := by
  unfold State.popMarker
  split
  · exact trivial
  · exact ite_keeps (foldl_keeps h fun _ _ ht => memOk_setEngineQueue ht) trivial

theorem memOk_popMarkers {c : Nat} {l : List Nat} (h : s.memOk) : OptOk State.memOk (s.popMarkers c l) := by
  induction l with
  | nil => exact trivial
  | cons q l ih =>
    unfold State.popMarkers
    split
    · next e => exact (memOk_popMarker h).some e
    · exact ih

theorem memOk_popWait {c : Nat} (h : s.memOk) : OptOk State.memOk (s.popWait c) := by
  unfold State.popWait
  split
  · split
    · exact memOk_modThread (memOk_fulfil (memOk_setEngineQueue h))
    · exact trivial
  · exact trivial

theorem memOk_settleMarkers {c n : Nat} (h : s.memOk) : (s.settleMarkers c n).memOk := by
  induction n generalizing s with
  | zero => exact h
  | succ l ih =>
    unfold State.settleMarkers
    split
    · next e => exact ih ((memOk_popWait h).some e)
    · split
      · next e2 => exact ih ((memOk_popMarkers h).some e2)
      · exact h

theorem memOk_queuesMoved {c : Nat} (h : s.memOk) : (s.queuesMoved c).memOk :=
  memOk_settleMat (memOk_settleMarkers (memOk_settleMarkers h))

theorem memOk_allMoved {l : List Nat} (h : s.memOk) : (s.allMoved l).memOk := by
  induction l generalizing s with
  | nil => exact h
  | cons c l ih =>
    rw [State.allMoved]
    exact ih (memOk_queuesMoved h)

theorem memOk_releaseMat {g : Nat} (h : s.memOk) : (s.releaseMat g).memOk :=
  memOk_settleMat (memOk_setStack (memOk_setCore (memOk_setCore h)))

theorem memOk_areaFree {ctx save n : Nat} (h : s.memOk) : (s.areaFree ctx save n).memOk := by
  unfold State.areaFree
  split
  · next e => exact memOk_virtPut ((memOk_virtRd h).some e)
  · exact memOk_virtNote h

theorem memOk_orOwe {o : Owed} {f : State → State} (h : s.memOk) (hf : ∀ (u : State), u.memOk → (f u).memOk) : (s.orOwe o f).memOk :=
  ite_keeps (memOk_upd h) (ite_keeps (memOk_upd h) (memOk_upd (hf _ (memOk_upd h))))

theorem memOk_saveFree {l : Launch} {n : Nat} (h : s.memOk) : (s.saveFree l n).memOk := memOk_orOwe h (fun _ hu => memOk_areaFree hu)

theorem memOk_freeGroup {g : Nat} (h : s.memOk) : (s.freeGroup g).memOk :=
  memOk_modGroup (ite_keeps (memOk_saveFree (ite_keeps (memOk_saveFree (memOk_releaseMat h)) (memOk_releaseMat h)))
    (ite_keeps (memOk_saveFree (memOk_releaseMat h)) (memOk_releaseMat h)))

theorem memOk_drainCheck {l : Nat} (h : s.memOk) : (s.drainCheck l).memOk := ite_keeps (memOk_modLaunch h) h

theorem memOk_slotLane {c k : Nat} (h : s.memOk) : (s.slotLane c k).memOk := memOk_setCore h

theorem memOk_freeSlotLanes {c : Nat} {l : List Outst} (h : s.memOk) : (s.freeSlotLanes c l).memOk := by
  induction l generalizing s with
  | nil => exact h
  | cons a l ih =>
    unfold State.freeSlotLanes
    split
    · exact ih h
    · exact ih (memOk_slotLane h)

theorem memOk_leaveWaits {g : Nat} {left : Thread → Bool} (h : s.memOk) : (s.leaveWaits g left).memOk := ite_keeps (memOk_setCtx h) h

theorem memOk_stopGroup {g : Nat} (h : s.memOk) : (s.stopGroup g).memOk :=
  ite_keeps h (memOk_drainCheck (memOk_queuesMoved (memOk_setCore (memOk_modGroup (memOk_freeGroup (memOk_freeSlotLanes (memOk_leaveWaits h)))))))

theorem memOk_stopGroups {l : List Nat} (h : s.memOk) : (s.stopGroups l).memOk := by
  induction l generalizing s with
  | nil => exact h
  | cons a l ih => exact ih (memOk_stopGroup h)

theorem memOk_dispose {l : Nat} {replay : Bool} (h : s.memOk) : (s.dispose l replay).memOk := by
  unfold State.dispose
  extract_lets -underBinder t
  exact memOk_allMoved (s := t) (memOk_upd h)

theorem memOk_endLaunch {l : Nat} (h : s.memOk) : (s.endLaunch l).memOk :=
  ite_keeps h (memOk_dispose (memOk_stopGroups (memOk_modLaunch h)))

theorem memOk_rollback {l : Nat} {sector : Option Nat} (h : s.memOk) : (s.rollback l sector).memOk :=
  memOk_dispose (memOk_stopGroups (memOk_modLaunch h))

theorem memOk_rootRing {x : Ctx} (h : s.memOk) : OptOk PairOk (s.rootRing x) := by
  unfold State.rootRing
  split
  · next e => exact pairOk ((memOk_virtRd h).some e)
  · exact trivial

theorem memOk_ringWrite {ring lg : Nat} {f : FaultInfo} {la : Launch} {ctx action lin : Nat} (h : s.memOk) :
    PairOk (s.ringWrite ring lg f la ctx action lin) := by
  unfold State.ringWrite
  extract_lets -underBinder
  split
  · exact memOk_virtNote h
  · next e =>
      refine ite_keeps (memOk_virtPut ((memOk_virtRd h).some e)) ?_
      extract_lets -underBinder
      split
      · exact memOk_virtNote ((memOk_virtRd h).some e)
      · next e2 =>
          split
          · exact memOk_virtNote ((memOk_virtWr ((memOk_virtRd h).some e)).some e2)
          · next e3 =>
              exact ite_keeps (memOk_raise ((memOk_virtWr ((memOk_virtWr ((memOk_virtRd h).some e)).some e2)).some e3))
                ((memOk_virtWr ((memOk_virtWr ((memOk_virtRd h).some e)).some e2)).some e3)

theorem memOk_toRing {ctx : Nat} {f : FaultInfo} {la : Launch} {action lin : Nat} {ring : Option (Nat × Nat)} (h : s.memOk) :
    (s.toRing ctx f la action lin ring).memOk := by
  refine ite_keeps (memOk_setCtx ?_) ?_
  · split
    · exact memOk_ringWrite h
    · split
      · next e2 => exact memOk_ringWrite ((memOk_rootRing h).some e2)
      · exact memOk_virtNote h
  · split
    · exact memOk_ringWrite h
    · split
      · next e2 => exact memOk_ringWrite ((memOk_rootRing h).some e2)
      · exact memOk_virtNote h

theorem memOk_record {ctx : Nat} {f : FaultInfo} {action : Nat} {ring : Option (Nat × Nat)} (h : s.memOk) : (s.record ctx f action ring).memOk :=
  memOk_orOwe (memOk_setCtx h) (fun _ hu => memOk_toRing hu)

theorem memOk_takeFault {ctx : Nat} {f : FaultInfo} (h : s.memOk) : (s.takeFault ctx f).memOk := by
  unfold State.takeFault
  split
  · exact memOk_record h
  · refine ite_keeps (memOk_rollback (memOk_modLaunch h))
      (ite_keeps (memOk_record h) (ite_keeps ?_
      (ite_keeps (memOk_record h) (ite_keeps (memOk_endLaunch (memOk_record h)) (memOk_rollback (memOk_record h))))))
    split
    · exact memOk_stopGroup (memOk_record h)
    · exact memOk_record h

theorem memOk_failLaunch {l code d0 d1 : Nat} (h : s.memOk) : (s.failLaunch l code d0 d1).memOk := memOk_modLaunch (memOk_record h)

theorem memOk_engineFault {i : Issuer} {code d0 d1 : Nat} {sector : Option Nat} (h : s.memOk) : (s.engineFault i code d0 d1 sector).memOk :=
  memOk_takeFault h

/-! ## The operations of Machine/View -/

theorem memOk_dropCopies {d : Nat} {p : Nat → Bool} (h : s.memOk) : (s.dropCopies d p).memOk := ite_keeps h (memOk_setDie h)

theorem memOk_shareSeen {r : TRef} (h : s.memOk) : (s.shareSeen r).memOk := ite_keeps (memOk_modThread (memOk_dropCopies h)) h

theorem memOk_publish {r : TRef} {scope : Nat} (h : s.memOk) : (s.publish r scope).memOk :=
  memOk_modThread (ite_keeps h (memOk_shareSeen h))

theorem memOk_refreshView {c scope : Nat} (h : s.memOk) : (s.refreshView c scope).memOk := ite_keeps h (memOk_upd (memOk_setCore h))

theorem memOk_sees {r : TRef} {ids : List Nat} (h : s.memOk) : (s.sees r ids).memOk := ite_keeps h (memOk_modThread h)

theorem memOk_refreshNow {r : TRef} {scope : Nat} (h : s.memOk) : (s.refreshNow r scope).memOk := memOk_sees (memOk_refreshView h)

theorem memOk_refresh {r : TRef} {scope : Nat} {needs : List Need} (h : s.memOk) : (s.refresh r scope needs).memOk :=
  ite_keeps (memOk_refreshNow h) (memOk_modThread h)

theorem memOk_settle_go {r : TRef} {l : List Pend} (h : s.memOk) : (State.settle.go r l s).memOk := by
  induction l generalizing s with
  | nil => exact memOk_modThread h
  | cons a l ih => exact ite_keeps (ih (memOk_refreshNow h)) (memOk_modThread h)

theorem memOk_settle {r : TRef} (h : s.memOk) : (s.settle r).memOk := by
  unfold State.settle
  split
  · exact h
  · exact memOk_settle_go h

theorem memOk_observe {r : TRef} (h : s.memOk) : (s.observe r).memOk := memOk_modThread h

theorem memOk_monwRead {n : Nat} {r : TRef} (h : s.memOk) : (s.monwRead n r).memOk := by
  unfold State.monwRead
  split
  · exact ite_keeps (memOk_refresh (memOk_observe (memOk_wakeAt h))) h
  · exact h

theorem memOk_monwGo {n : Nat} {l : List TRef} (h : s.memOk) : (s.monwGo n l).memOk := by
  induction l generalizing s with
  | nil => exact h
  | cons a l ih => exact ih (memOk_monwRead h)

theorem memOk_monwReads {l : List TRef} (h : s.memOk) : (s.monwReads l).memOk := by
  unfold State.monwReads
  split
  · exact h
  · exact memOk_monwGo (memOk_tick h)

theorem memOk_homeWr {a : Nat} {bs : List Byte} (h : s.memOk) : (s.homeWr a bs).memOk := memOk_monwReads (memOk_wrs _ _ h)

theorem memOk_fetch {c a need : Nat} (h : s.memOk) : PairOk (s.fetch c a need) :=
  ite_keeps (memOk_setCore h) (ite_keeps (memOk_setCore h) (memOk_setCore (memOk_setDie h)))

theorem memOk_viewByte {c : Nat} {r : TRef} {a : Nat} (h : s.memOk) : PairOk (s.viewByte c r a) := by
  obtain ⟨t, ids, base, he, -, hm, -⟩ := viewByte_loadsByte s c r a
  rw [he]
  exact memOk_sees (show Memory.wf t.mem = true from hm ▸ h)

theorem memOk_viewBytes {c : Nat} {r : TRef} {a n : Nat} (h : s.memOk) : PairOk (s.viewBytes c r a n) := by
  have hbyte (s : State) (hs : s.memOk) (a : Nat) : PairOk (s.viewByte c r a) := memOk_viewByte hs
  suffices hf : ∀ f, f = State.viewBytes → PairOk (f s c r a n) from hf _ rfl
  intro f hf
  delta State.viewBytes at hf
  obtain ⟨body, hbody⟩ := exists_eq (a' := @State.viewBytes._f)
  rw [← hbody] at hf
  subst hf
  delta State.viewBytes._f at hbody
  obtain ⟨byte, he⟩ := exists_eq (a' := @State.viewByte)
  rw [← he] at hbyte hbody
  subst hbody
  refine brecOn_nat_keeps (C := fun _ => State → Nat → State × List Byte) (P := fun _ f => ∀ s a, s.memOk → PairOk (f s a))
    (fun _ _ _ hs => hs) (fun n below ih s a hs => ?_) n s a h
  exact ih _ _ (hbyte s hs a)

theorem memOk_storeByte {c : Nat} {r : TRef} {a : Nat} {v : Byte} {nib : Nat} (h : s.memOk) : (s.storeByte c r a v nib).memOk :=
  ite_keeps (memOk_homeWr h) (memOk_upd (memOk_tick (memOk_setCore h)))

theorem memOk_storeBytes {c : Nat} {r : TRef} {a : Nat} {l : List Byte} (h : s.memOk) : (s.storeBytes c r a l).memOk := by
  induction l generalizing s a with
  | nil => exact h
  | cons a l ih => exact ih (memOk_storeByte h)

theorem memOk_drain {n : Nat} (h : s.memOk) : (s.drain n).memOk := by
  unfold State.drain
  split
  · exact h
  · exact ite_keeps h (ite_keeps (ite_keeps h (memOk_upd (memOk_setDie h))) (ite_keeps h (memOk_homeWr (memOk_upd h))))

/-! ## The operations of Machine/Operands -/

theorem memOk_setRegs {r : TRef} {v : BitVec 7} {ws : List Word} (h : s.memOk) : (s.setRegs r v ws).memOk :=
  ite_keeps h (memOk_modThread h)

theorem memOk_setReg {r : TRef} {v : BitVec 7} {w : Word} (h : s.memOk) : (s.setReg r v w).memOk := memOk_setRegs h

theorem memOk_issueOut {r : TRef} {f : RegField} {val : ResVal} {slot : Option Nat} (h : s.memOk) : (s.issueOut r f val slot).memOk :=
  memOk_modThread (memOk_tick h)

theorem memOk_issueVal {r : TRef} {v : BitVec 7} {n val : Nat} (h : s.memOk) : (s.issueVal r v n val).memOk := memOk_issueOut h

theorem memOk_landOut {r : TRef} {id : Nat} (h : s.memOk) : (s.landOut r id).memOk := by
  unfold State.landOut
  split
  · exact h
  · split
    · exact h
    · split
      · exact memOk_slotLane (memOk_modThread (memOk_tick h))
      · exact memOk_modThread (memOk_tick h)
    · split
      · exact memOk_slotLane (memOk_modThread (memOk_tick h))
      · exact memOk_modThread (memOk_tick h)

theorem memOk_runLane {f : Form} {body : State → TRef → LaneRes} {r : TRef}
    (hbody : ∀ (u : State) (r : TRef), u.memOk → (body u r).memOk) (h : s.memOk) : PairOk (runLane f body s r) := by
  unfold runLane
  refine ite_keeps h (ite_keeps h ?_)
  extract_lets -underBinder s1 th
  have h1 : s1.memOk := ite_keeps (memOk_settle h) h
  refine ite_keeps h1 (ite_keeps (memOk_modThread h1) (ite_keeps h1 ?_))
  have hres := hbody s1 r h1
  split
  case h_5 => exact h1
  case h_6 => exact h1
  all_goals next e => rw [e] at hres; exact hres

theorem memOk_runLanes {f : Form} {body : State → TRef → LaneRes} {l : List TRef} {l' : List LaneFault}
    (hbody : ∀ (u : State) (r : TRef), u.memOk → (body u r).memOk) (h : s.memOk) : PairOk (runLanes f body l s l') := by
  induction l generalizing s l' with
  | nil => exact h
  | cons a l ih => exact ih (memOk_runLane hbody h)

theorem memOk_raiseFaults {all l : List LaneFault} {l' : List Nat} (h : s.memOk) : (raiseFaults all l l' s).memOk := by
  induction l generalizing l' s with
  | nil => exact h
  | cons a l ih => exact ite_keeps (ih h) (ih (memOk_takeFault h))

theorem memOk_raiseMismatch_go {hit : List TRef} {l : List LaneFault} {l' : List Nat} (h : s.memOk) : (raiseMismatch.go hit l l' s).memOk := by
  induction l generalizing l' s with
  | nil => exact h
  | cons a l ih => exact ite_keeps (ih h) (ih (memOk_takeFault h))

theorem memOk_raiseMismatch {lanes : Nat} {rs : List TRef} (h : s.memOk) : (raiseMismatch lanes rs s).memOk := memOk_raiseMismatch_go h

theorem memOk_runSheaf {f : Form} {body : State → TRef → LaneRes} (hbody : ∀ (u : State) (r : TRef), u.memOk → (body u r).memOk)
    (h : s.memOk) : OutOk (runSheaf f body s) :=
  ite_keeps (memOk_raiseMismatch (memOk_upd h)) (ite_keeps h (memOk_raiseFaults (memOk_runLanes hbody (memOk_upd (memOk_tick h)))))

theorem memOk_loadAt {r : TRef} {p : Place} {n : Nat} (h : s.memOk) : PairOk (s.loadAt r p n) := by
  unfold State.loadAt
  extract_lets -underBinder
  split
  · exact memOk_viewBytes h
  · exact h
  · exact h
  · exact h

theorem memOk_storeAt {r : TRef} {p : Place} {bs : List Byte} (h : s.memOk) : (s.storeAt r p bs).memOk := by
  unfold State.storeAt
  split
  · exact memOk_storeBytes h
  · exact memOk_wrs _ _ h
  · exact h

theorem memOk_viewSpans {c : Nat} {r : TRef} {l : List (Nat × Nat)} (h : s.memOk) : PairOk (s.viewSpans c r l) := by
  induction l generalizing s with
  | nil => exact h
  | cons a l ih => exact ih (memOk_viewBytes h)

theorem memOk_loadSpan {r : TRef} {p : Place} {n : Nat} (h : s.memOk) : PairOk (s.loadSpan r p n) := by
  unfold State.loadSpan
  split
  · exact memOk_viewSpans h
  · exact memOk_loadAt h

theorem memOk_storeSpans {c : Nat} {r : TRef} {l : List (Nat × Nat)} {l' : List Byte} (h : s.memOk) : (s.storeSpans c r l l').memOk := by
  induction l generalizing s l' with
  | nil => exact h
  | cons a l ih => exact ih (memOk_storeBytes h)

theorem memOk_storeSpan {r : TRef} {p : Place} {bs : List Byte} (h : s.memOk) : (s.storeSpan r p bs).memOk := by
  unfold State.storeSpan
  split
  · exact memOk_storeSpans h
  · exact memOk_storeAt h

theorem memOk_backOff {r : TRef} {poll : Option Wait} (h : s.memOk) : (s.backOff r poll).memOk := memOk_modThread h

/-! ## The operations of Machine/Integer -/

theorem memOk_fixed2 {g : Word → Word → Word} {sw : Bool} {d a b : BitVec 7} (h : s.memOk) : OutOk (fixed2 g sw d a b s) :=
  memOk_runSheaf (fun _ _ hu => memOk_setReg hu) h

theorem memOk_fixed3 {g : Word → Word → Word → Word} {sw : Bool} {d a b : BitVec 7} (h : s.memOk) : OutOk (fixed3 g sw d a b s) :=
  memOk_runSheaf (fun _ _ hu => memOk_setReg hu) h

theorem memOk_fixed1 {g : Word → Word} {sw : Bool} {d a : BitVec 7} (h : s.memOk) : OutOk (fixed1 g sw d a s) :=
  memOk_runSheaf (fun _ _ hu => memOk_setReg hu) h

theorem memOk_fixedPair {g : Nat → Nat → Nat} {sw : Bool} {d a b : BitVec 7} (h : s.memOk) : OutOk (fixedPair g sw d a b s) :=
  memOk_runSheaf (fun _ _ hu => memOk_setRegs hu) h

theorem memOk_fixedShift {g : Nat → Nat → Nat} {sw : Bool} {d a b : BitVec 7} (h : s.memOk) : OutOk (fixedShift g sw d a b s) :=
  memOk_runSheaf (fun _ _ hu => memOk_setRegs hu) h

theorem memOk_var2 {g : Word → Word → Word} {sw : Bool} {d a b : BitVec 7} (h : s.memOk) : OutOk (var2 g sw d a b s) :=
  memOk_runSheaf (fun _ _ hu => memOk_issueVal hu) h

theorem memOk_ptrField {hi lo : Nat} {sw : Bool} {d a : BitVec 7} (h : s.memOk) : OutOk (ptrField hi lo sw d a s) :=
  memOk_runSheaf (fun _ _ hu => memOk_setReg hu) h

theorem memOk_execPtr {sw : Bool} {d a b : BitVec 7} (h : s.memOk) : OutOk (execPtr sw d a b s) :=
  memOk_runSheaf (fun _ _ hu => memOk_setRegs hu) h

theorem memOk_execAcsH2 {sw : Bool} {d a b : BitVec 7} (h : s.memOk) : OutOk (execAcsH2 sw d a b s) :=
  memOk_runSheaf (fun _ _ hu => memOk_setRegs hu) h

theorem memOk_execMovhi {sw : Bool} {d : BitVec 7} {i : BitVec 19} (h : s.memOk) : OutOk (execMovhi sw d i s) :=
  memOk_runSheaf (fun _ _ hu => memOk_setReg hu) h

/-! ## The operations of Machine/Barrier -/

theorem memOk_monitor {core ctx source v : Nat} (h : s.memOk) : (s.monitor core ctx source v).memOk := ite_keeps (memOk_setCluster h) h

theorem memOk_waitOn {r : TRef} {w : Wait} (h : s.memOk) : (s.waitOn r w).memOk := memOk_modThread h

theorem memOk_leaveAt {n : Nat} {r : TRef} {scope : Nat} (h : s.memOk) : (s.leaveAt n r scope).memOk :=
  memOk_refresh (ite_keeps (memOk_observe (memOk_monitor (memOk_wakeAt h))) (memOk_monitor (memOk_wakeAt h)))

theorem memOk_leaveAll {n scope : Nat} {l : List TRef} (h : s.memOk) : (s.leaveAll n scope l).memOk := by
  induction l generalizing s with
  | nil => exact h
  | cons a l ih => exact ih (memOk_leaveAt h)

theorem memOk_leaveBarrier {r : TRef} {scope : Nat} (h : s.memOk) : (s.leaveBarrier r scope).memOk := memOk_leaveAt (memOk_tick h)

theorem memOk_leaveBarriers {scope : Nat} {rs : List TRef} (h : s.memOk) : (s.leaveBarriers scope rs).memOk :=
  ite_keeps h (memOk_leaveAll (memOk_tick h))

theorem memOk_namedCheck {g b : Nat} (h : s.memOk) : (s.namedCheck g b).memOk := by
  unfold State.namedCheck
  extract_lets -underBinder
  split
  · exact h
  · exact ite_keeps (memOk_leaveBarriers (memOk_modGroup h)) h

theorem memOk_namedChecks {g : Nat} {l : List Nat} (h : s.memOk) : (s.namedChecks g l).memOk := by
  induction l generalizing s with
  | nil => exact h
  | cons a l ih => exact ih (memOk_namedCheck h)

theorem memOk_arriveNamed {r : TRef} {b : Nat} {wait : Bool} (h : s.memOk) : (s.arriveNamed r b wait).memOk := by
  unfold State.arriveNamed
  split
  · exact trivial
  · exact ite_keeps trivial (ite_keeps trivial
      (ite_keeps h (memOk_namedCheck (ite_keeps (memOk_waitOn (memOk_modGroup (memOk_publish h))) (memOk_modGroup (memOk_publish h))))))

theorem memOk_putObj {a : Nat} {o : Obj} (h : s.memOk) : (s.putObj a o).memOk := memOk_leaveBarriers (memOk_homeWr h)

theorem memOk_objStep {a : Nat} {x : ObjStep} (h : s.memOk) : ExcOk AnyOk State.memOk (s.objStep a x) := by
  unfold State.objStep
  split
  · exact ite_keeps trivial (memOk_homeWr h)
  · exact ite_keeps trivial (memOk_putObj h)

theorem memOk_objCount {a c : Nat} (h : s.memOk) : PairOk (s.objCount a c) := by
  unfold State.objCount
  extract_lets -underBinder o
  split
  · exact h
  · split
    · exact pairOk (memOk_putObj h)
    · exact pairOk (memOk_putObj h)

theorem memOk_waitObj {r : TRef} {ptr : DWord} {a par : Nat} (h : s.memOk) : (s.waitObj r ptr a par).memOk :=
  ite_keeps (memOk_refresh (memOk_observe h)) (ite_keeps (memOk_backOff (memOk_modThread h)) (memOk_waitOn h))

theorem memOk_objAddr {r : TRef} {v : BitVec 7} : ExcOk LaneRes.memOk AnyOk (s.objAddr r v) := by
  suffices hf : ∀ f, f = State.objAddr → ExcOk LaneRes.memOk AnyOk (f s r v) from hf _ rfl
  intro f hf
  delta State.objAddr at hf
  subst hf
  beta_reduce
  extract_lets -underBinder
  split <;> exact trivial

theorem memOk_gbarCheck {l : Nat} (h : s.memOk) : (s.gbarCheck l).memOk := ite_keeps (memOk_modLaunch (memOk_upd h)) h

theorem memOk_freeGrant {g : Grant} (h : s.memOk) : (s.freeGrant g).memOk := memOk_leaveBarriers h

theorem memOk_freeGrants {l : List Grant} (h : s.memOk) : (s.freeGrants l).memOk := by
  induction l generalizing s with
  | nil => exact h
  | cons a l ih => exact ih (memOk_freeGrant h)

theorem memOk_execSlewGrant (h : s.memOk) : OutOk (execSlewGrant s) := by
  unfold execSlewGrant
  extract_lets -underBinder w s1
  have h1 : s1.memOk := ite_keeps h (memOk_upd h)
  show State.memOk _
  split
  · exact h1
  · next g gs _ =>
    refine ite_keeps h1 ?_
    extract_lets -underBinder s2
    have h2 : s2.memOk := memOk_upd h1
    exact ite_keeps (memOk_freeGrant h2) (memOk_upd h2)

theorem memOk_execBarinit {sw : Bool} {a : BitVec 7} {b : BitVec 4} (h : s.memOk) : OutOk (execBarinit sw a b s) := by
  refine memOk_runSheaf (fun u r hu => ?_) h
  extract_lets -underBinder
  split
  · exact trivial
  · exact ite_keeps trivial (ite_keeps trivial (memOk_modGroup hu))

theorem memOk_execBararr {sw : Bool} {b : BitVec 4} (h : s.memOk) : OutOk (execBararr sw b s) :=
  memOk_runSheaf (fun _ _ hu => memOk_arriveNamed hu) h

theorem memOk_execBarsync {sw : Bool} {b : BitVec 4} (h : s.memOk) : OutOk (execBarsync sw b s) :=
  memOk_runSheaf (fun _ _ hu => memOk_arriveNamed hu) h

theorem memOk_execBarwait {sw : Bool} {b : BitVec 4} (h : s.memOk) : OutOk (execBarwait sw b s) := by
  refine memOk_runSheaf (fun u r hu => ?_) h
  split
  · exact trivial
  · exact ite_keeps (memOk_waitOn hu) (memOk_refresh hu)

theorem memOk_execBarinitM {sw : Bool} {d a : BitVec 7} (h : s.memOk) : OutOk (execBarinitM sw d a s) := by
  refine memOk_runSheaf (fun u r hu => ?_) h
  split
  · next e => exact memOk_objAddr.error e
  · refine ite_keeps trivial (ite_keeps hu ?_)
    split
    · next e2 => exact (memOk_objStep hu).ok e2
    · exact trivial

theorem memOk_objArrive {bytes : State → TRef → Nat} {wait : Bool} {a : BitVec 7} {r : TRef} (h : s.memOk) :
    (objArrive bytes wait a s r).memOk := by
  suffices hf : ∀ f, f = objArrive → (f bytes wait a s r).memOk from hf _ rfl
  intro f hf
  delta objArrive at hf
  subst hf
  beta_reduce
  split
  · next e => exact memOk_objAddr.error e
  · extract_lets -underBinder
    refine ite_keeps trivial (ite_keeps h ?_)
    split
    · next e => exact ite_keeps (memOk_waitObj (memOk_publish ((memOk_objStep h).ok e))) (memOk_publish ((memOk_objStep h).ok e))
    · exact trivial

theorem memOk_execBararrM {sw : Bool} {a : BitVec 7} (h : s.memOk) : OutOk (execBararrM sw a s) :=
  memOk_runSheaf (fun _ _ hu => memOk_objArrive hu) h

theorem memOk_execBarsyncM {sw : Bool} {a : BitVec 7} (h : s.memOk) : OutOk (execBarsyncM sw a s) :=
  memOk_runSheaf (fun _ _ hu => memOk_objArrive hu) h

theorem memOk_execBarexpM {sw : Bool} {d a : BitVec 7} (h : s.memOk) : OutOk (execBarexpM sw d a s) :=
  memOk_runSheaf (fun _ _ hu => memOk_objArrive hu) h

theorem memOk_execBarwaitM {sw : Bool} {d a : BitVec 7} (h : s.memOk) : OutOk (execBarwaitM sw d a s) := by
  refine memOk_runSheaf (fun u r hu => ?_) h
  split
  · next e => exact memOk_objAddr.error e
  · exact ite_keeps hu (ite_keeps trivial (memOk_waitObj hu))

theorem memOk_execGbar {sw : Bool} (h : s.memOk) : OutOk (execGbar sw s) :=
  memOk_runSheaf (fun _ _ hu => ite_keeps hu (memOk_gbarCheck (memOk_waitOn (memOk_modGroup (memOk_publish hu))))) h

/-! ## The operations of Machine/Control -/

theorem memOk_execBcc {sw : Bool} {c : BitVec 3} {a : BitVec 7} {i : BitVec 12} (h : s.memOk) : OutOk (execBcc sw c a i s) :=
  memOk_runSheaf (fun _ _ hu => ite_keeps hu hu) h

theorem memOk_execJmp {sw : Bool} {i : BitVec 19} (h : s.memOk) : OutOk (execJmp sw i s) := memOk_runSheaf (fun _ _ hu => hu) h

theorem memOk_execJmpr {sw : Bool} {a : BitVec 7} (h : s.memOk) : OutOk (execJmpr sw a s) :=
  memOk_runSheaf (fun _ _ hu => ite_keeps trivial hu) h

theorem memOk_callTo {r : TRef} {t : Int} (h : s.memOk) : (callTo s r t).memOk := ite_keeps trivial (memOk_modThread (memOk_wrs _ _ h))

theorem memOk_execCall {sw : Bool} {i : BitVec 19} (h : s.memOk) : OutOk (execCall sw i s) :=
  memOk_runSheaf (fun _ _ hu => memOk_callTo hu) h

theorem memOk_execCallr {sw : Bool} {a : BitVec 7} (h : s.memOk) : OutOk (execCallr sw a s) :=
  memOk_runSheaf (fun _ _ hu => ite_keeps trivial (memOk_callTo hu)) h

theorem memOk_execRet {sw : Bool} (h : s.memOk) : OutOk (execRet sw s) := by
  refine memOk_runSheaf (fun u r hu => ?_) h
  extract_lets -underBinder th sp f ret wb
  clear_value f
  exact ite_keeps trivial (ite_keeps trivial (ite_keeps trivial (memOk_modThread hu)))

theorem memOk_execNop {sw : Bool} (h : s.memOk) : OutOk (execNop sw s) := memOk_runSheaf (fun _ _ hu => hu) h

theorem memOk_execWinb {sw : Bool} {x : BitVec 1} {a b : BitVec 7} (h : s.memOk) : OutOk (execWinb sw x a b s) :=
  memOk_runSheaf (fun _ _ hu => ite_keeps trivial (memOk_modThread hu)) h

theorem memOk_pollDone {r : TRef} (h : s.memOk) : (s.pollDone r).memOk := ite_keeps h (memOk_modThread (memOk_setCtx h))

theorem memOk_execPoll {sw : Bool} {d a : BitVec 7} (h : s.memOk) : OutOk (execPoll sw d a s) :=
  memOk_runSheaf (fun _ _ hu => ite_keeps (memOk_issueVal (memOk_pollDone hu)) (memOk_issueVal (memOk_backOff hu))) h

theorem memOk_execYield {sw : Bool} (h : s.memOk) : OutOk (execYield sw s) := memOk_runSheaf (fun _ _ hu => memOk_modThread hu) h

theorem memOk_finishRdv_go {g : Nat} {v : Rdv} {last n : Nat} {l : List (Nat × Word × Word × Nat)} (h : s.memOk) :
    (State.finishRdv.go g v last n l s).memOk := by
  induction l generalizing s with
  | nil => exact h
  | cons a l ih => exact ih (ite_keeps (memOk_refresh (ite_keeps h (memOk_fulfil h))) (memOk_leaveAt (ite_keeps h (memOk_fulfil h))))

theorem memOk_finishRdv {g : Nat} {v : Rdv} {last : Nat} (h : s.memOk) : (s.finishRdv g v last).memOk :=
  memOk_finishRdv_go (memOk_tick h)

theorem memOk_joinRdv {r : TRef} {mask : Word} {minor : Nat} {val src : Word} {out : Nat} (h : s.memOk) :
    (s.joinRdv r mask minor val src out).memOk :=
  ite_keeps (memOk_finishRdv (memOk_modGroup (memOk_publish h))) (memOk_waitOn (memOk_modGroup (memOk_publish h)))

theorem memOk_collective {minor : Nat} {d : BitVec 7} {mask val src : State → TRef → Word} {r : TRef} (h : s.memOk) :
    (collective minor d mask val src s r).memOk := by
  unfold collective
  extract_lets -underBinder
  split
  · exact trivial
  · exact ite_keeps h (memOk_joinRdv (ite_keeps h (memOk_issueOut h)))

theorem memOk_execFsync {sw : Bool} {a : BitVec 7} (h : s.memOk) : OutOk (execFsync sw a s) :=
  memOk_runSheaf (fun _ _ hu => memOk_collective hu) h

theorem memOk_execFshfl {sw : Bool} {d a b : BitVec 7} (h : s.memOk) : OutOk (execFshfl sw d a b s) :=
  memOk_runSheaf (fun _ _ hu => memOk_collective hu) h

theorem memOk_execFballot {sw : Bool} {d a : BitVec 7} (h : s.memOk) : OutOk (execFballot sw d a s) :=
  memOk_runSheaf (fun _ _ hu => memOk_collective hu) h

theorem memOk_execElect {sw : Bool} {d a : BitVec 7} (h : s.memOk) : OutOk (execElect sw d a s) :=
  ite_keeps (memOk_runSheaf (fun _ _ hu => memOk_issueVal hu) h) (memOk_runSheaf (fun _ _ hu => memOk_collective hu) h)

theorem memOk_retireCheck {g : Nat} (h : s.memOk) : (s.retireCheck g).memOk :=
  ite_keeps (memOk_gbarCheck (memOk_drainCheck (memOk_modGroup (memOk_freeGroup h)))) h

theorem memOk_execExit {sw : Bool} (h : s.memOk) : OutOk (execExit sw s) :=
  memOk_runSheaf (fun _ _ hu => ite_keeps (memOk_modThread (memOk_freeSlotLanes (ite_keeps (memOk_publish hu) (memOk_setCtx (memOk_publish hu)))))
    (memOk_retireCheck (memOk_gbarCheck (memOk_namedChecks
    (memOk_modThread (memOk_freeSlotLanes (ite_keeps (memOk_publish hu) (memOk_setCtx (memOk_publish hu))))))))) h

/-! ## The operations of Machine/Flags -/

theorem memOk_setFlags {r : TRef} {f : Flg} (h : s.memOk) : (s.setFlags r f).memOk := memOk_modThread h

theorem memOk_clearFlags {r : TRef} {c : Flg} (h : s.memOk) : (s.clearFlags r c).memOk := memOk_modThread h

/-! ## The operations of Machine/Float -/

theorem memOk_flt2 {g : Word → Word → Word × Flg} {sw : Bool} {d a b : BitVec 7} (h : s.memOk) : OutOk (flt2 g sw d a b s) :=
  memOk_runSheaf (fun _ _ hu => memOk_setFlags (memOk_setReg hu)) h

theorem memOk_flt3 {g : Word → Word → Word → Word × Flg} {sw : Bool} {d a b : BitVec 7} (h : s.memOk) : OutOk (flt3 g sw d a b s) :=
  memOk_runSheaf (fun _ _ hu => memOk_setFlags (memOk_setReg hu)) h

theorem memOk_fltVar1 {g : Word → Word × Flg} {sw : Bool} {d a : BitVec 7} (h : s.memOk) : OutOk (fltVar1 g sw d a s) :=
  memOk_runSheaf (fun _ _ hu => memOk_setFlags (memOk_issueVal hu)) h

theorem memOk_execFdiv {sw : Bool} {d a b : BitVec 7} (h : s.memOk) : OutOk (execFdiv sw d a b s) :=
  memOk_runSheaf (fun _ _ hu => memOk_setFlags (memOk_issueVal hu)) h

theorem memOk_cvtInt {lo hi : Int} {rd : Word → Int} {sw : Bool} {d a : BitVec 7} {v : BitVec 1} {m : BitVec 3} (h : s.memOk) :
    OutOk (cvtInt lo hi rd sw d a v m s) :=
  memOk_runSheaf (fun _ _ hu => memOk_setFlags (memOk_setReg hu)) h

theorem memOk_execCvta {sw : Bool} {d a : BitVec 7} {v : BitVec 1} (h : s.memOk) : OutOk (execCvta sw d a v s) :=
  ite_keeps (memOk_runSheaf (fun _ _ hu => memOk_setFlags (memOk_setReg hu)) h) (memOk_runSheaf (fun _ _ hu => memOk_setRegs hu) h)

theorem memOk_execCvtf {sw : Bool} {d a : BitVec 7} {e : BitVec 6} {p : BitVec 3} (h : s.memOk) : OutOk (execCvtf sw d a e p s) := by
  refine memOk_runSheaf (fun u r hu => ?_) h
  extract_lets -underBinder
  split
  · exact trivial
  · exact memOk_setReg hu

theorem memOk_execCvtn {sw : Bool} {d a : BitVec 7} {e : BitVec 6} {m p : BitVec 3} (h : s.memOk) : OutOk (execCvtn sw d a e m p s) := by
  refine memOk_runSheaf (fun u r hu => ?_) h
  extract_lets -underBinder
  split
  · exact trivial
  · split
    · exact trivial
    · exact memOk_setFlags (memOk_setReg hu)

theorem memOk_execFmtset {sw : Bool} {a b : BitVec 7} (h : s.memOk) : OutOk (execFmtset sw a b s) := by
  refine memOk_runSheaf (fun u r hu => ite_keeps trivial ?_) h
  split
  · exact trivial
  · exact memOk_upd (memOk_issueOut hu)

theorem memOk_execFmtsetInstall {ctx : Nat} (h : s.memOk) : OutOk (execFmtsetInstall ctx s) := by
  unfold execFmtsetInstall
  split
  · exact h
  · split
    · exact h
    · exact ite_keeps (memOk_upd h) (memOk_landOut (memOk_fulfil (memOk_setCtx (memOk_upd h))))

theorem memOk_execFmtget {sw : Bool} {d a : BitVec 7} (h : s.memOk) : OutOk (execFmtget sw d a s) :=
  memOk_runSheaf (fun _ _ hu => ite_keeps trivial (memOk_issueVal hu)) h

theorem memOk_execFmtgetSt {sw : Bool} {d : BitVec 7} {c : BitVec 5} (h : s.memOk) : OutOk (execFmtgetSt sw d c s) :=
  memOk_runSheaf (fun _ _ hu => memOk_clearFlags (memOk_issueVal hu)) h

theorem memOk_execFmtchk {sw : Bool} {d a : BitVec 7} {x : BitVec 1} {e : BitVec 6} (h : s.memOk) : OutOk (execFmtchk sw d a x e s) :=
  memOk_runSheaf (fun _ _ hu => memOk_setReg hu) h

/-! ## The operations of Machine/Access -/

theorem memOk_execLd {sw : Bool} {d a : BitVec 7} {z : BitVec 3} {o : BitVec 9} (h : s.memOk) : OutOk (execLd sw d a z o s) := by
  refine memOk_runSheaf (fun u r hu => ?_) h
  extract_lets -underBinder
  split
  · exact trivial
  · refine ite_keeps hu (memOk_issueVal ?_)
    split
    · exact memOk_viewBytes hu
    · exact hu
    · exact hu
    · exact hu

theorem memOk_execSt {sw : Bool} {d a : BitVec 7} {z : BitVec 3} {o : BitVec 9} (h : s.memOk) : OutOk (execSt sw d a z o s) := by
  refine memOk_runSheaf (fun u r hu => ?_) h
  extract_lets -underBinder
  split
  · exact trivial
  · exact ite_keeps hu (memOk_storeAt hu)

theorem memOk_elemCode {r : TRef} {el : Elem} (h : s.memOk) : PairOk (s.elemCode r el) := memOk_viewBytes h

theorem memOk_elemScale {r : TRef} {el : Elem} (h : s.memOk) : PairOk (s.elemScale r el) := by
  have hview (c a) : PairOk (s.viewBytes c r a 1) := memOk_viewBytes h
  suffices hf : ∀ f, f = State.elemScale → PairOk (f s r el) from hf _ rfl
  intro f hf
  delta State.elemScale at hf
  obtain ⟨view, he⟩ := exists_eq (a' := @State.viewBytes)
  rw [← he] at hview hf
  subst hf
  beta_reduce
  split
  · exact h
  · split
    next e => exact (hview _ _).fst e

theorem memOk_execLdf {sw : Bool} {d a b : BitVec 7} (h : s.memOk) : OutOk (execLdf sw d a b s) := by
  refine memOk_runSheaf (fun u r hu => ?_) h
  extract_lets -underBinder
  split
  · exact trivial
  · next el _ =>
    refine ite_keeps hu ?_
    split
    next u1 code e1 =>
    have h1 : u1.memOk := (memOk_elemCode hu).fst e1
    split
    next u2 sc e2 =>
    have h2 : u2.memOk := (memOk_elemScale h1).fst e2
    refine ite_keeps (memOk_issueVal h2) ?_
    extract_lets -underBinder
    split
    · exact memOk_issueVal h2
    · exact memOk_setFlags (memOk_issueVal h2)

theorem memOk_execStf {sw : Bool} {d a b : BitVec 7} (h : s.memOk) : OutOk (execStf sw d a b s) := by
  refine memOk_runSheaf (fun u r hu => ?_) h
  extract_lets -underBinder
  split
  · exact trivial
  · refine ite_keeps hu (ite_keeps (ite_keeps (memOk_storeBytes hu) (memOk_storeByte hu)) ?_)
    split
    · next e2 =>
        split
        · split
          · exact trivial
          · exact memOk_setFlags (ite_keeps (memOk_storeBytes (PairOk.fst (memOk_elemScale hu) e2))
              (memOk_storeByte (PairOk.fst (memOk_elemScale hu) e2)))

theorem memOk_execLds {sw : Bool} {d a o : BitVec 7} (h : s.memOk) : OutOk (execLds sw d a o s) := by
  refine memOk_runSheaf (fun u r hu => ?_) h
  split
  · exact trivial
  · exact memOk_issueVal hu

theorem memOk_execSts {sw : Bool} {d a o : BitVec 7} (h : s.memOk) : OutOk (execSts sw d a o s) := by
  refine memOk_runSheaf (fun u r hu => ?_) h
  split
  · exact trivial
  · exact memOk_wrs _ _ hu

/-! ## The operations of Machine/Atomic -/

theorem memOk_send {cl port : Nat} {q : Request} (h : s.memOk) : (s.send cl port q).memOk := memOk_upd h

theorem memOk_takeSlot {c : Nat} (h : s.memOk) : (s.takeSlot c).memOk := memOk_setCore h

theorem memOk_atomLane {f : AtomForm} {a : BitVec 7} {r : TRef} (h : s.memOk) : (atomLane f a s r).memOk := by
  suffices hf : ∀ g, g = atomLane → (g f a s r).memOk from hf _ rfl
  intro g hg
  delta atomLane at hg
  subst hg
  beta_reduce
  extract_lets -underBinder
  split
  · exact trivial
  · extract_lets -underBinder v g acquire s1 own needs cl id placed q s2 s3 s4 s5
    have h1 : s1.memOk := ite_keeps (memOk_publish h) h
    have h3 : s3.memOk := ite_keeps (memOk_issueOut (memOk_takeSlot (memOk_tick h1))) (memOk_tick h1)
    have h5 : s5.memOk := memOk_modThread (memOk_send h3)
    exact ite_keeps (memOk_refresh h5) h5

theorem memOk_atom {op : Nat} {sw : Bool} {d a : BitVec 7} {nr : Bool} {order : BitVec 2} {scope : BitVec 4} {z : BitVec 2} (h : s.memOk) :
    OutOk (atom op sw d a nr order scope z s) :=
  memOk_runSheaf (fun _ _ hu => memOk_atomLane hu) h

theorem memOk_arrive {n : Nat} (h : s.memOk) : (s.arrive n).memOk := by
  unfold State.arrive
  split
  · exact h
  · exact ite_keeps (memOk_upd (memOk_setCluster h)) h

theorem memOk_execServiceMessageAccept {cl : Nat} (h : s.memOk) : OutOk (execServiceMessageAccept cl s) :=
  ite_keeps h (memOk_setCluster h)

theorem memOk_reqDone {q : Request} (h : s.memOk) : (s.reqDone q).memOk := memOk_upd (memOk_modThread h)

theorem memOk_observeReq {q : Request} (h : s.memOk) : (s.observeReq q).memOk :=
  ite_keeps h (ite_keeps (memOk_dropCopies h) (memOk_modThread h))

theorem memOk_performReq {same : List Request} {q : Request} (h : s.memOk) : (s.performReq same q).memOk := by
  unfold State.performReq
  split
  · split
    · exact memOk_takeFault (memOk_reqDone h)
    · split
      · split
        · split
          · exact memOk_fulfil (memOk_monitor (memOk_reqDone (memOk_observeReq (memOk_homeWr h))))
          · exact memOk_monitor (memOk_reqDone (memOk_observeReq (memOk_homeWr h)))
        · split
          · exact memOk_fulfil (memOk_monitor (memOk_reqDone (memOk_observeReq h)))
          · exact memOk_monitor (memOk_reqDone (memOk_observeReq h))

theorem memOk_performReqs {l : List (List Request × Request)} (h : s.memOk) : (s.performReqs l).memOk := by
  induction l generalizing s with
  | nil => exact h
  | cons a l ih => exact ih (memOk_performReq h)

theorem memOk_execServiceFurrowPerform {cl : Nat} (h : s.memOk) : OutOk (execServiceFurrowPerform cl s) :=
  ite_keeps h (memOk_performReqs (memOk_setCluster h))

theorem memOk_execResultWriteback {g t id : Nat} (h : s.memOk) : OutOk (execResultWriteback g t id s) := ite_keeps h (memOk_landOut h)

/-! ## The operations of Machine/Sync -/

theorem memOk_phaseLane {k scope : Nat} {r : TRef} (h : s.memOk) : (phaseLane k scope s r).memOk :=
  ite_keeps (memOk_publish h) (ite_keeps (memOk_refresh h) (memOk_refresh (memOk_publish h)))

theorem memOk_execPhase {sw : Bool} {c : BitVec 4} {k : BitVec 2} (h : s.memOk) : OutOk (execPhase sw c k s) :=
  memOk_runSheaf (fun _ _ hu => memOk_phaseLane hu) h

theorem memOk_fenceRel {r : TRef} {scope : Nat} (h : s.memOk) : (s.fenceRel r scope).memOk := memOk_publish (memOk_publish h)

theorem memOk_fenceLane {k scope : Nat} {r : TRef} (h : s.memOk) : (fenceLane k scope s r).memOk :=
  ite_keeps (memOk_refresh h) (ite_keeps (memOk_fenceRel h) (memOk_refresh (memOk_fenceRel h)))

theorem memOk_execFence {sw : Bool} {c : BitVec 4} {k : BitVec 2} (h : s.memOk) : OutOk (execFence sw c k s) :=
  memOk_runSheaf (fun _ _ hu => memOk_fenceLane hu) h

theorem memOk_putMarker {r : TRef} {mask : Nat} {kicks : List Nat} (h : s.memOk) : (s.putMarker r mask kicks).memOk :=
  foldl_keeps (memOk_tick h) fun _ _ ht => memOk_setEngineQueue ht

theorem memOk_qfenceLane {mask : Nat} {r : TRef} (h : s.memOk) : (qfenceLane mask s r).memOk :=
  memOk_queuesMoved (ite_keeps (memOk_putMarker h) (memOk_putMarker (memOk_putMarker h)))

theorem memOk_execQfence {sw : Bool} {m : BitVec 6} (h : s.memOk) : OutOk (execQfence sw m s) :=
  memOk_runSheaf (fun _ _ hu => memOk_qfenceLane hu) h

theorem memOk_execMonw {sw : Bool} {d a : BitVec 7} {c : BitVec 4} {k : BitVec 2} {w : BitVec 1} (h : s.memOk) : OutOk
    (execMonw sw d a c k w s) := by
  refine memOk_runSheaf (fun u r hu => ?_) h
  extract_lets -underBinder
  split
  · exact trivial
  · exact ite_keeps hu (ite_keeps (memOk_refresh (memOk_observe hu)) (memOk_waitOn hu))

theorem memOk_execMonwTimeout {g t : Nat} (h : s.memOk) : OutOk (execMonwTimeout g t s) := by
  unfold execMonwTimeout
  extract_lets -underBinder
  split
  · exact ite_keeps h (ite_keeps (memOk_monwRead (memOk_tick h)) (memOk_modThread h))
  · exact h

/-! ## The operations of Machine/Channel -/

theorem memOk_setChan {g ch : Nat} {c : Chan} (h : s.memOk) : (s.setChan g ch c).memOk := memOk_modGroup h

theorem memOk_reserve {r : TRef} {ch : Nat} (h : s.memOk) : (s.reserve r ch).memOk := memOk_monitor (memOk_setChan h)

theorem memOk_copyBytes {r : TRef} {src dst : DWord} {n : Nat} (h : s.memOk) : (s.copyBytes r src dst n).memOk := by
  unfold State.copyBytes
  split
  · refine memOk_storeSpan ?_
    split
    · exact memOk_viewSpans h
    · exact memOk_loadAt h
  · exact h

theorem memOk_doRes {r : TRef} {ch : Nat} {d : BitVec 7} {dc : ChanDecl} (h : s.memOk) : (s.doRes r ch d dc).memOk :=
  memOk_issueVal (memOk_reserve h)

theorem memOk_doPush {r : TRef} {ch : Nat} {src : DWord} {dc : ChanDecl} (h : s.memOk) : (s.doPush r ch src dc).memOk :=
  memOk_setChan (memOk_publish (memOk_copyBytes (memOk_reserve h)))

theorem memOk_doPop {r : TRef} {ch : Nat} {dst : DWord} {d : BitVec 7} {v : Nat} {dc : ChanDecl} (h : s.memOk) : (s.doPop r ch dst d v dc).memOk :=
  memOk_issueVal (memOk_setChan (memOk_copyBytes (memOk_refresh h)))

theorem memOk_copyFault {r : TRef} {p : DWord} {e : Nat × Nat} (h : s.memOk) : (s.copyFault r p e).memOk :=
  memOk_raiseFaults (memOk_modThread h)

theorem memOk_copyServed {r : TRef} {src p : DWord} {n : Nat} {t : State} (h : s.memOk) (ht : t.memOk) :
    OptOk State.memOk (s.copyServed r src p n t) := by
  unfold State.copyServed
  split
  · exact memOk_copyFault h
  · exact ite_keeps trivial (memOk_wake ht)

theorem memOk_serveOne {g ch : Nat} (h : s.memOk) : OptOk State.memOk (s.serveOne g ch) := by
  unfold State.serveOne
  split
  · exact trivial
  · extract_lets -underBinder c a b
    clear_value a b
    split
    · split
      · exact memOk_copyServed h (memOk_doPop h)
      · exact trivial
    · split
      · exact memOk_wake (memOk_doRes h)
      · exact memOk_copyServed h (memOk_doPush h)
      · exact trivial
    · exact trivial

theorem memOk_serve {g ch n : Nat} (h : s.memOk) : (s.serve g ch n).memOk := by
  induction n generalizing s with
  | zero => exact h
  | succ l ih =>
    refine ite_keeps h ?_
    split
    · next e => exact ih ((memOk_serveOne h).some e)
    · exact h

theorem memOk_served {g ch : Nat} (h : s.memOk) : (s.served g ch).memOk := memOk_serve h

theorem memOk_serveGroup {g : Nat} (h : s.memOk) : (s.serveGroup g).memOk := foldl_keeps h fun _ _ ht => memOk_served ht

theorem memOk_serveAll (h : s.memOk) : s.serveAll.memOk := foldl_keeps h fun _ _ ht => memOk_serveGroup ht

theorem memOk_execChinit {sw : Bool} {a : BitVec 7} {h : BitVec 3} (hs : s.memOk) : OutOk (execChinit sw a h s) := by
  refine memOk_runSheaf (fun u r hu => ?_) hs
  extract_lets -underBinder
  split
  · exact trivial
  · refine ite_keeps trivial (ite_keeps trivial (ite_keeps trivial (ite_keeps trivial ?_)))
    split
    · exact trivial
    · exact ite_keeps trivial (memOk_setChan hu)

theorem memOk_execChres {sw : Bool} {d : BitVec 7} {h : BitVec 3} (hs : s.memOk) : OutOk (execChres sw d h s) := by
  refine memOk_runSheaf (fun u r hu => ?_) hs
  extract_lets -underBinder
  split
  · exact trivial
  · exact ite_keeps hu (ite_keeps (memOk_waitOn (memOk_tick hu)) (memOk_doRes hu))

theorem memOk_execChpub {sw : Bool} {a : BitVec 7} {h : BitVec 3} (hs : s.memOk) : OutOk (execChpub sw a h s) := by
  refine memOk_runSheaf (fun u r hu => ?_) hs
  extract_lets -underBinder
  split
  · exact trivial
  · extract_lets -underBinder
    split
    · exact trivial
    · exact ite_keeps hu (memOk_served (memOk_setChan (memOk_publish hu)))

theorem memOk_execChpush {sw : Bool} {a : BitVec 7} {h : BitVec 3} (hs : s.memOk) : OutOk (execChpush sw a h s) := by
  refine memOk_runSheaf (fun u r hu => ?_) hs
  obtain ⟨resolve, he⟩ := exists_eq (a' := @State.resolveN)
  rw [← he]
  extract_lets -underBinder
  split
  · exact trivial
  · extract_lets -underBinder
    split
    · exact trivial
    · exact ite_keeps hu (ite_keeps (memOk_waitOn (memOk_tick hu)) (ite_keeps hu (memOk_served (memOk_doPush hu))))

theorem memOk_execChpop {sw : Bool} {d a : BitVec 7} {h : BitVec 3} (hs : s.memOk) : OutOk (execChpop sw d a h s) := by
  refine memOk_runSheaf (fun u r hu => ?_) hs
  obtain ⟨resolve, he⟩ := exists_eq (a' := @State.resolveN)
  rw [← he]
  extract_lets -underBinder
  split
  · exact trivial
  · extract_lets -underBinder
    split
    · exact trivial
    · exact ite_keeps hu (ite_keeps (memOk_waitOn (memOk_tick hu)) (ite_keeps hu (memOk_served (memOk_doPop hu))))

theorem memOk_execChpoll {sw : Bool} {d a : BitVec 7} {h : BitVec 3} (hs : s.memOk) : OutOk (execChpoll sw d a h s) := by
  refine memOk_runSheaf (fun u r hu => ?_) hs
  obtain ⟨resolve, he⟩ := exists_eq (a' := @State.resolveN)
  rw [← he]
  extract_lets -underBinder
  split
  · exact trivial
  · extract_lets -underBinder
    split
    · exact trivial
    · exact ite_keeps hu (ite_keeps (memOk_modThread (memOk_backOff (memOk_issueVal hu)))
        (ite_keeps hu (memOk_served (memOk_pollDone (memOk_doPop hu)))))

/-! ## The operations of Machine/Engine -/

theorem memOk_engLeaf {l unit page : Nat} (h : s.memOk) : PairOk (s.engLeaf l unit page) := by
  unfold State.engLeaf
  extract_lets -underBinder
  split
  · exact h
  · split
    · exact h
    · exact memOk_upd h

theorem memOk_dropTlb {l : Nat} (h : s.memOk) : (s.dropTlb l).memOk := memOk_upd h

theorem memOk_engAddr {a : Access} {va : Int} {n : Nat} {write : Bool} (h : s.memOk) : ExcOk AnyOk PairOk (s.engAddr a va n write) := by
  refine ite_keeps trivial ?_
  split
  · exact trivial
  · refine ite_keeps trivial (ite_keeps trivial ?_)
    split
    · exact trivial
    · split
      · exact h
      · split
        · exact h
        · exact memOk_upd h

theorem memOk_engRd {a : Access} {va : Int} {n : Nat} (h : s.memOk) : ExcOk AnyOk PairOk (s.engRd a va n) := by
  unfold State.engRd
  split
  · exact trivial
  · next e =>
      split
      · exact trivial
      · next e2 => exact memOk_touches ((memOk_mainRd ((memOk_engAddr h).ok e)).ok e2)

theorem memOk_wantCopy {l : Nat} {va : Int} (h : s.memOk) : (s.wantCopy l va).memOk := memOk_modLaunch h

theorem memOk_engWr {a : Access} {va : Int} {bs : List Byte} (h : s.memOk) : ExcOk AnyOk State.memOk (s.engWr a va bs) := by
  unfold State.engWr
  split
  · exact trivial
  · next e =>
      split
      · exact trivial
      · next e2 => exact memOk_monwReads (memOk_touches ((memOk_mainWr ((memOk_engAddr h).ok e)).ok e2))

theorem memOk_readElem {m : Mover} {e : Endpoint} {bit : Int} {got : Option Nat} (h : s.memOk) : ExcOk AnyOk PairOk (s.readElem m e bit got) := by
  unfold State.readElem
  extract_lets -underBinder
  split
  · split
    · next e2 => exact pairOk ((memOk_engRd h).ok e2)
    · exact trivial
  · split
    · exact h
    · exact trivial
  · exact ite_keeps trivial h
  · refine ite_keeps trivial (ite_keeps h ?_)
    split
    · exact h
    · exact trivial

theorem memOk_writeElem {m : Mover} {e : Endpoint} {bit : Int} {code : Nat} (h : s.memOk) : ExcOk AnyOk State.memOk (s.writeElem m e bit code) := by
  unfold State.writeElem
  extract_lets -underBinder
  split
  · refine ite_keeps ?_ ?_
    · split
      · next e2 => exact (memOk_engWr h).ok e2
      · exact trivial
    · split
      · exact trivial
      · next e2 =>
          split
          · exact trivial
          · next e3 =>
              split
              · next e4 => exact (memOk_engWr ((memOk_mainRd ((memOk_engAddr h).ok e2)).ok e3)).ok e4
              · exact trivial
  · split
    · exact memOk_homeWr h
    · exact trivial
  · exact ite_keeps trivial (foldl_keeps h fun _ _ ht => memOk_wrs _ _ ht)
  · exact ite_keeps trivial (ite_keeps (memOk_homeWr (memOk_modLaunch h)) (memOk_modLaunch h))

theorem memOk_failEntry {i : Issuer} {e : EngErr} {d1 : Nat} (h : s.memOk) : (s.failEntry i e d1).memOk := by
  refine memOk_engineFault ?_
  split
  · exact memOk_post h
  · exact h

theorem memOk_setTag {g tag : Nat} (h : s.memOk) : (s.setTag g tag).memOk :=
  foldl_keeps (memOk_wakes (memOk_modGroup h)) fun _ _ ht => memOk_observe ht

/-! ## The operations of Machine/Copy -/

theorem memOk_engRdSpan {a : Access} {l : List (Nat × Nat)} (h : s.memOk) : ExcOk PairOk PairOk (s.engRdSpan a l) := by
  induction l generalizing s with
  | nil => exact h
  | cons a l ih =>
    unfold State.engRdSpan
    split
    · exact h
    · next e =>
        split
        · next e2 => exact (ih ((memOk_engRd h).ok e)).error e2
        · next e2 => exact pairOk ((ih ((memOk_engRd h).ok e)).ok e2)

theorem memOk_readRecord {l unit die va n : Nat} (h : s.memOk) : ExcOk PairOk PairOk (s.readRecord l unit die va n) := by
  unfold State.readRecord
  split
  · next e => exact pairOk ((memOk_engRdSpan h).error e)
  · next e => exact pairOk ((memOk_engRdSpan h).ok e)

theorem memOk_fetchFault {i : Issuer} {c : Copy} (h : s.memOk) : ExcOk PairOk PairOk (s.fetchFault i c) := by
  unfold State.fetchFault
  split
  · exact h
  · split
    · exact h
    · refine ite_keeps h (ite_keeps h ?_)
      extract_lets -underBinder
      split
      · next e3 => exact pairOk ((memOk_readRecord h).error e3)
      · next e3 =>
          extract_lets -underBinder
          split
          · exact pairOk ((memOk_readRecord h).ok e3)
          · exact ite_keeps (pairOk ((memOk_readRecord h).ok e3)) (pairOk ((memOk_readRecord h).ok e3))

theorem memOk_setSlot {c i : Nat} {f : Slot → Slot} (h : s.memOk) : (s.setSlot c i f).memOk := memOk_setCore h

theorem memOk_placeEntry {c q : Nat} {put : List Entry → List Entry} {e : Entry} (h : s.memOk) : (s.placeEntry c q put e).memOk :=
  memOk_monitor (memOk_setCore h)

theorem memOk_placeCopy {c q : Nat} {e : Entry} (h : s.memOk) : (s.placeCopy c q e).memOk := memOk_placeEntry h

theorem memOk_execDrillFetch {core q : Nat} (h : s.memOk) : OutOk (execDrillFetch core q s) := by
  suffices hf : ∀ f, f = execDrillFetch → OutOk (f core q s) from hf _ rfl
  intro f hf
  delta execDrillFetch at hf
  subst hf
  beta_reduce
  extract_lets -underBinder
  split
  · exact h
  · refine ite_keeps h ?_
    extract_lets -underBinder
    split
    next t bs e1 =>
    have ht : t.memOk := (memOk_viewBytes h).fst e1
    extract_lets -underBinder _ _ t1
    have h1 : t1.memOk := memOk_setCore ht
    refine ite_keeps h ?_
    split
    · next e2 =>
      have h2 := (memOk_fetchFault h1).error e2
      split
      · exact memOk_queuesMoved (memOk_failEntry h2)
      · exact memOk_queuesMoved (memOk_engineFault h2)
    · next t2 c2 e2 =>
      have h2 : t2.memOk := (memOk_fetchFault h1).ok e2
      extract_lets -underBinder slot t3
      have h3 : t3.memOk := ite_keeps (foldl_keeps h2 fun _ _ hu => memOk_setSlot hu) h2
      exact memOk_queuesMoved (memOk_placeEntry (memOk_tick h3))

theorem memOk_putEntry {c q : Nat} {e : Entry} (h : s.memOk) : (s.putEntry c q e).memOk := memOk_setCore h

theorem memOk_dropEntry {c q id : Nat} (h : s.memOk) : (s.dropEntry c q id).memOk := memOk_setCore h

theorem memOk_failCopy {core q : Nat} {e : Entry} {c : Copy} {n : Nat} {err : EngErr} (h : s.memOk) : (s.failCopy core q e c n err).memOk :=
  memOk_queuesMoved (memOk_failEntry (memOk_dropEntry h))

theorem memOk_failAt {s t : State} {core q : Nat} {e : Entry} {c : Copy} {n : Nat} {err : EngErr} (h : s.memOk) (ht : t.memOk) :
    (s.failAt t core q e c n err).memOk :=
  ite_keeps h (memOk_failCopy ht)

theorem memOk_copyRead {e : Entry} {c : Copy} {core n : Nat} (h : s.memOk) : ExcOk AnyOk PairOk (s.copyRead e c core n) :=
  ite_keeps trivial (memOk_readElem h)

theorem memOk_sendElem {e : Entry} {d : Endpoint} {bit : Int} {n cap : Nat} (h : s.memOk) : ExcOk AnyOk State.memOk (s.sendElem e d bit n cap) := by
  refine ite_keeps trivial ?_
  split
  · exact trivial
  · exact memOk_modLaunch (memOk_setLink h)

theorem memOk_copyPut {e : Entry} {c : Copy} {core n code : Nat} (h : s.memOk) : ExcOk AnyOk State.memOk (s.copyPut e c core n code) :=
  ite_keeps trivial (ite_keeps (memOk_sendElem h) (memOk_writeElem h))

theorem memOk_askPeer {core q : Nat} {e : Entry} {c : Copy} {n : Nat} (h : s.memOk) : (s.askPeer core q e c n).memOk := by
  refine ite_keeps h ?_
  split
  · exact h
  · exact memOk_putEntry (memOk_setLink h)

theorem memOk_askCopy {e : Entry} {c : Copy} {core n : Nat} (h : s.memOk) : (s.askCopy e c core n).memOk := by
  refine ite_keeps h ?_
  split
  · exact ite_keeps (memOk_wantCopy h) h
  · exact h

theorem memOk_landed {core q : Nat} {e : Entry} {c : Copy} (h : s.memOk) : (s.landed core q e c).memOk := by
  unfold State.landed
  extract_lets -underBinder
  refine ite_keeps (memOk_putEntry h) ?_
  split
  · exact memOk_putEntry h
  · split
    next s1 bad e1 =>
    have h1 : s1.memOk := (memOk_objCount h).fst e1
    exact ite_keeps (memOk_engineFault (memOk_putEntry h1)) (memOk_putEntry h1)

theorem memOk_tookTurn {core q : Nat} (h : s.memOk) : (s.tookTurn core q).memOk := memOk_setCore h

theorem memOk_askFor {core q : Nat} {e : Entry} {c : Copy} {n : Nat} (h : s.memOk) : (s.askFor core q e c n).memOk :=
  memOk_askPeer (memOk_askCopy h)

theorem memOk_copyOne {e : Entry} {c : Copy} {core n : Nat} (h : s.memOk) : ExcOk PairOk State.memOk (s.copyOne e c core n) := by
  unfold State.copyOne
  split
  · exact h
  · next e =>
      split
      · exact pairOk ((memOk_copyRead h).ok e)
      · split
        · exact pairOk ((memOk_copyRead h).ok e)
        · next e3 => exact (memOk_copyPut ((memOk_copyRead h).ok e)).ok e3

theorem memOk_execCopyElement {core q : Nat} (h : s.memOk) : OutOk (execCopyElement core q s) := by
  unfold execCopyElement
  split
  · exact h
  · refine ite_keeps h (ite_keeps (memOk_askFor h) ?_)
    split
    · next e2 => exact memOk_failAt h ((memOk_copyOne h).error e2)
    · next e2 => exact memOk_tookTurn (memOk_landed ((memOk_copyOne h).ok e2))

theorem memOk_copyCodes {e : Entry} {c : Copy} {core : Nat} {l : List Nat} (h : s.memOk) : ExcOk PairOk PairOk (s.copyCodes e c core l) := by
  induction l generalizing s with
  | nil => exact h
  | cons a l ih =>
    unfold State.copyCodes
    split
    · exact h
    · next e =>
        split
        · exact pairOk ((memOk_copyRead h).ok e)
        · split
          · next e3 => exact (ih ((memOk_copyRead h).ok e)).error e3
          · next e3 => exact pairOk ((ih ((memOk_copyRead h).ok e)).ok e3)

theorem memOk_copyPuts {e : Entry} {c : Copy} {core : Nat} {l : List (Nat × Nat)} (h : s.memOk) :
    ExcOk AnyOk State.memOk (s.copyPuts e c core l) := by
  induction l generalizing s with
  | nil => exact h
  | cons a l ih =>
    unfold State.copyPuts
    split
    · exact trivial
    · next e => exact ih ((memOk_copyPut h).ok e)

theorem memOk_copyBlock {e : Entry} {c : Copy} {core : Nat} {b : List Nat} (h : s.memOk) : ExcOk PairOk State.memOk (s.copyBlock e c core b) := by
  unfold State.copyBlock
  split
  · next e => exact (memOk_copyCodes h).error e
  · next e =>
      split
      · exact pairOk ((memOk_copyCodes h).ok e)
      · next e2 => exact (memOk_copyPuts ((memOk_copyCodes h).ok e)).ok e2

theorem memOk_execTransposerBlock {core q : Nat} (h : s.memOk) : OutOk (execTransposerBlock core q s) := by
  unfold execTransposerBlock
  split
  · exact h
  · refine ite_keeps h ?_
    extract_lets -underBinder
    split
    · exact memOk_askFor h
    · split
      · next e3 => exact memOk_failAt h ((memOk_copyBlock h).error e3)
      · next e3 => exact memOk_tookTurn (memOk_landed ((memOk_copyBlock h).ok e3))

theorem memOk_reduceAt {e : Entry} {c : Copy} {core n x : Nat} (h : s.memOk) : ExcOk AnyOk State.memOk (s.reduceAt e c core n x) := by
  refine ite_keeps trivial (ite_keeps ?_ ?_)
  · split
    · exact trivial
    · next e =>
        split
        · exact trivial
        · next e2 => exact memOk_engWr ((memOk_mainRd ((memOk_engAddr h).ok e)).ok e2)
  · split
    · exact trivial
    · exact memOk_homeWr h

theorem memOk_reduceOne {e : Entry} {c : Copy} {core n : Nat} (h : s.memOk) : ExcOk PairOk State.memOk (s.reduceOne e c core n) := by
  unfold State.reduceOne
  split
  · exact h
  · next e =>
      split
      · exact pairOk ((memOk_copyRead h).ok e)
      · next e2 => exact (memOk_reduceAt ((memOk_copyRead h).ok e)).ok e2

theorem memOk_execReductionElement {core q : Nat} (h : s.memOk) : OutOk (execReductionElement core q s) := by
  unfold execReductionElement
  split
  · exact h
  · refine ite_keeps h (ite_keeps (memOk_askFor h) ?_)
    split
    · next e2 => exact memOk_failCopy ((memOk_reduceOne h).error e2)
    · next e2 => exact memOk_tookTurn (memOk_landed ((memOk_reduceOne h).ok e2))

theorem memOk_writeStamp {core q : Nat} {e : Entry} {c : Copy} (h : s.memOk) : (s.writeStamp core q e c).memOk := by
  refine ite_keeps (ite_keeps h ?_) (ite_keeps (ite_keeps (memOk_wantCopy h) h) ?_)
  · split
    · exact memOk_failCopy h
    · next e => exact memOk_putEntry ((memOk_sendElem h).ok e)
  · split
    · exact memOk_failCopy h
    · next e => exact memOk_putEntry ((memOk_writeElem h).ok e)

theorem memOk_endCopy {core q : Nat} {e : Entry} {c : Copy} (h : s.memOk) : (s.endCopy core q e c).memOk :=
  memOk_queuesMoved (memOk_setTag (memOk_monitor (memOk_modGroup (memOk_dropEntry h))))

theorem memOk_execCopyComplete {core q : Nat} (h : s.memOk) : OutOk (execCopyComplete core q s) := by
  unfold execCopyComplete
  split
  · exact h
  · split
    · exact ite_keeps h (ite_keeps (ite_keeps h (memOk_writeStamp h)) (memOk_endCopy h))
    · exact h

theorem memOk_execCkick {sw : Bool} {q : BitVec 2} {a n : BitVec 7} (h : s.memOk) : OutOk (execCkick sw q a n s) :=
  memOk_runSheaf (fun _ _ hu => ite_keeps trivial
    (ite_keeps trivial (ite_keeps trivial (ite_keeps trivial (ite_keeps hu (memOk_setCore (memOk_tick hu))))))) h

theorem memOk_tagWait {all sw : Bool} {a : BitVec 7} {h : BitVec 1} (hs : s.memOk) : OutOk (tagWait all sw a h s) :=
  memOk_runSheaf (fun _ _ hu => ite_keeps (memOk_observe hu) (memOk_waitOn hu)) hs

theorem memOk_execCtagwAny {sw : Bool} {a : BitVec 7} {h : BitVec 1} (hs : s.memOk) : OutOk (execCtagwAny sw a h s) :=
  memOk_tagWait hs

theorem memOk_execCtagwAll {sw : Bool} {a : BitVec 7} {h : BitVec 1} (hs : s.memOk) : OutOk (execCtagwAll sw a h s) :=
  memOk_tagWait hs

theorem memOk_execCtagff {sw : Bool} {d a : BitVec 7} {h : BitVec 1} (hs : s.memOk) : OutOk (execCtagff sw d a h s) :=
  memOk_runSheaf (fun _ _ hu => memOk_issueVal (ite_keeps hu (memOk_observe hu))) hs

theorem memOk_execCtagclr {sw : Bool} {a : BitVec 7} {h : BitVec 1} (hs : s.memOk) : OutOk (execCtagclr sw a h s) :=
  memOk_runSheaf (fun _ _ hu => memOk_modGroup hu) hs

theorem memOk_execCstat {sw : Bool} {d : BitVec 7} {q : BitVec 2} (h : s.memOk) : OutOk (execCstat sw d q s) :=
  memOk_runSheaf (fun _ _ hu => memOk_issueVal hu) h

/-! ## The operations of Machine/Matrix -/

theorem memOk_setAcc {core n : Nat} {a : Acc} (h : s.memOk) : (s.setAcc core n a).memOk := memOk_setStack h

theorem memOk_putSlotCode {c i w x code : Nat} (h : s.memOk) : (s.putSlotCode c i w x code).memOk :=
  ite_keeps (memOk_wr _ _ h) (memOk_wrs _ _ h)

theorem memOk_putScale {c i g r b code : Nat} (h : s.memOk) : (s.putScale c i g r b code).memOk := memOk_wr _ _ h

theorem memOk_doMma {e : Entry} {chained had : Bool} {n ia ib : Nat} {al bl : SlotLatch} (h : s.memOk) :
    (s.doMma e chained had n ia ib al bl).memOk := by
  unfold State.doMma
  extract_lets -underBinder _ _ _ _ bad
  clear_value bad
  split
  · exact memOk_engineFault h
  · exact memOk_setAcc h

theorem memOk_hadRuns {c i : Nat} {d : Desc} {k mode : Nat} {h : Nat → Nat} {exact : Bool} {l : List Nat} (hs : s.memOk) :
    PairOk (s.hadRuns c i d k mode h exact l) := by
  induction l generalizing s exact with
  | nil => exact hs
  | cons a l ih =>
    unfold State.hadRuns
    extract_lets -underBinder
    split
    · exact hs
    · exact ih (foldl_keeps hs fun _ _ ht => memOk_putSlotCode ht)

theorem memOk_doHad {e : Entry} {c i n mode : Nat} {l : SlotLatch} (h : s.memOk) : PairOk (s.doHad e c i n mode l) :=
  memOk_setSlot (memOk_hadRuns h)

theorem memOk_quantElems {c slot r : Nat} {d : Desc} {mode : Nat} {h : Nat → Nat} {e : Int} {l : List (Nat × Nat × Nat)} (hs : s.memOk) :
    PairOk (s.quantElems c slot r d mode h e l) := by
  induction l generalizing s with
  | nil => exact hs
  | cons a l ih =>
    unfold State.quantElems
    split
    · exact hs
    · exact ih (memOk_putSlotCode hs)

theorem memOk_quantBlocks {core slot q : Nat} {l : SlotLatch} {mode : Nat} {h : Nat → Nat} {acc : Acc} {g : Nat} {l' : List (Nat × Nat)}
    (hs : s.memOk) : PairOk (s.quantBlocks core slot q l mode h acc g l') := by
  induction l' generalizing s with
  | nil => exact hs
  | cons a l ih =>
    unfold State.quantBlocks
    extract_lets -underBinder
    split
    · next e => exact pairOk (PairOk.fst (memOk_quantElems (ite_keeps hs (memOk_putScale hs))) e)
    · next e => exact ih (PairOk.fst (memOk_quantElems (ite_keeps hs (memOk_putScale hs))) e)

theorem memOk_doMqnt {e : Entry} {n mode q slot : Nat} {l : SlotLatch} (h : s.memOk) : PairOk (s.doMqnt e n mode q slot l) :=
  memOk_quantBlocks h

theorem memOk_storeElems {e : Entry} {d : Desc} {mode t : Nat} {acc : Acc} {ptr : DWord} {l : List Nat} (h : s.memOk) :
    PairOk (s.storeElems e d mode t acc ptr l) := by
  induction l generalizing s with
  | nil => exact h
  | cons a l ih =>
    unfold State.storeElems
    extract_lets -underBinder
    split
    · exact h
    · split
      · exact h
      · exact ih (memOk_homeWr h)

theorem memOk_storeSlot {e : Entry} {slot : Nat} {ptr : DWord} {l : List Nat} (h : s.memOk) : PairOk (s.storeSlot e slot ptr l) := by
  induction l generalizing s with
  | nil => exact h
  | cons a l ih =>
    unfold State.storeSlot
    extract_lets -underBinder
    split
    · exact h
    · exact ih (memOk_homeWr h)

theorem memOk_doMat {e : Entry} {op : MOp} (h : s.memOk) : (s.doMat e op).memOk := by
  cases op with
  | mzero n => exact memOk_setAcc h
  | mma ch had n ia ib al bl => exact memOk_doMma h
  | mrd n x out => exact memOk_fulfil h
  | mwr n x v => exact memOk_setAcc h
  | mstore n mode k d ptr =>
    unfold State.doMat
    dsimp only
    split
    · next e => exact (memOk_storeElems h).fst e
    · next e => exact memOk_engineFault ((memOk_storeElems h).fst e)
  | mstoreS slot ptr =>
    unfold State.doMat
    dsimp only
    split
    · next e => exact (memOk_storeSlot h).fst e
    · next e => exact memOk_engineFault ((memOk_storeSlot h).fst e)
  | mqnt n mode q slot l =>
    unfold State.doMat
    dsimp only
    split
    · next e => exact (memOk_doMqnt h).fst e
    · next e => exact memOk_engineFault ((memOk_doMqnt h).fst e)
  | had pair mode n slot l lm =>
    unfold State.doMat
    dsimp only
    split
    · next e => exact memOk_engineFault ((memOk_doHad h).fst e)
    · next e1 =>
      refine ite_keeps ((memOk_doHad h).fst e1) ?_
      split
      · next e2 => exact memOk_engineFault ((memOk_doHad ((memOk_doHad h).fst e1)).fst e2)
      · next e2 => exact (memOk_doHad ((memOk_doHad h).fst e1)).fst e2
  | mchk n out =>
    unfold State.doMat
    dsimp only
    split
    · exact memOk_fulfil h
    · exact memOk_engineFault (memOk_fulfil h)

theorem memOk_execMEntryPerform {stack : Nat} (h : s.memOk) : OutOk (execMEntryPerform stack s) := by
  unfold execMEntryPerform
  extract_lets -underBinder
  split
  · exact h
  · split
    · exact ite_keeps (P := OutOk) h (memOk_queuesMoved (memOk_doMat (memOk_setStack h)))
    · exact h

theorem memOk_mldElem {e : Entry} {m : Mld} {rec? : Option (Packet × Nat)} {w geom k : Nat} (h : s.memOk) :
    ExcOk PairOk PairOk (s.mldElem e m rec? w geom k) := by
  unfold State.mldElem
  extract_lets -underBinder
  split
  · exact h
  · refine ite_keeps h ?_
    split
    extract_lets -underBinder
    split
    · exact h
    · next e1 =>
      have h1 := (memOk_engRd h).ok e1
      extract_lets -underBinder
      split
      · split
        · exact h1
        · next e2 => exact (memOk_engRd h1).ok e2
      · exact h1

theorem memOk_mldElems {e : Entry} {m : Mld} {src : Nat → Option (Packet × Nat)} {w geom : Nat} {cs : List Nat} {l : List (Nat × Nat)}
    (h : s.memOk) : PairOk (s.mldElems e m src w geom cs l) := by
  induction l generalizing s with
  | nil => exact h
  | cons a l ih =>
    unfold State.mldElems
    split
    · next e1 => exact (memOk_mldElem h).error e1
    · next e1 => exact ih ((memOk_mldElem h).ok e1)

theorem memOk_putTile {slot w g : Nat} {p : TilePut} (h : s.memOk) : (s.putTile slot w g p).memOk := by
  refine foldl_keeps h fun t a ht => ?_
  extract_lets -underBinder
  split
  · exact memOk_putScale (memOk_putSlotCode ht)
  · exact memOk_putSlotCode ht

theorem memOk_putTiles {slot w g : Nat} {l : List TilePut} (h : s.memOk) : (s.putTiles slot w g l).memOk :=
  foldl_keeps h fun _ _ ht => memOk_putTile ht

theorem memOk_adapters {e : Entry} {r : Packet} {l : List Nat} (h : s.memOk) : ExcOk PairOk PairOk (s.adapters e r l) := by
  induction l generalizing s with
  | nil => exact h
  | cons a l ih =>
    refine ite_keeps (ih h) ?_
    extract_lets -underBinder
    split
    · next e => exact pairOk ((memOk_readRecord h).error e)
    · next e =>
        split
        · next e2 => exact pairOk ((memOk_readRecord ((memOk_readRecord h).ok e)).error e2)
        · next e2 =>
            extract_lets -underBinder
            split
            · exact pairOk ((memOk_readRecord ((memOk_readRecord h).ok e)).ok e2)
            · refine ite_keeps (pairOk ((memOk_readRecord ((memOk_readRecord h).ok e)).ok e2)) ?_
              split
              · next e4 => exact (ih ((memOk_readRecord ((memOk_readRecord h).ok e)).ok e2)).error e4
              · next e4 => exact pairOk ((ih ((memOk_readRecord ((memOk_readRecord h).ok e)).ok e2)).ok e4)

theorem memOk_mldRecord {e : Entry} {m : Mld} (h : s.memOk) : ExcOk PairOk PairOk (s.mldRecord e m) := by
  unfold State.mldRecord
  split
  · next e => exact pairOk ((memOk_readRecord h).error e)
  · next e =>
      extract_lets -underBinder
      split
      · exact pairOk ((memOk_readRecord h).ok e)
      · refine ite_keeps (pairOk ((memOk_readRecord h).ok e))
          (ite_keeps (pairOk ((memOk_readRecord h).ok e))
          (ite_keeps (pairOk ((memOk_readRecord h).ok e)) (ite_keeps (pairOk ((memOk_readRecord h).ok e)) ?_)))
        extract_lets -underBinder
        split
        · next e3 => exact (memOk_adapters ((memOk_readRecord h).ok e)).error e3
        · next e3 => exact pairOk ((memOk_adapters ((memOk_readRecord h).ok e)).ok e3)

theorem memOk_installMeta {e : Entry} {m : Mld} {md : SlotMeta} (h : s.memOk) : (s.installMeta e m md).memOk :=
  foldl_keeps h fun _ _ ht => memOk_setSlot ht

theorem memOk_mldHalves {e : Entry} {m : Mld} {r : Packet} {ads : List (Nat × Packet)} {w : Nat} {l : List (List Nat × Nat)} (h : s.memOk) :
    PairOk (s.mldHalves e m r ads w l) := by
  have hread (s : State) (hs : s.memOk) (src w geom cs l) : PairOk (s.mldElems e m src w geom cs l) := memOk_mldElems hs
  suffices hf : ∀ f, f = State.mldHalves → PairOk (f s e m r ads w l) from hf _ rfl
  intro f hf
  delta State.mldHalves at hf
  obtain ⟨body, hbody⟩ := exists_eq (a' := @State.mldHalves._f)
  rw [← hbody] at hf
  subst hf
  delta State.mldHalves._f at hbody
  obtain ⟨elems, he⟩ := exists_eq (a' := @State.mldElems)
  rw [← he] at hread hbody
  subst hbody
  refine brecOn_list_keeps (C := fun _ => State → State × List TilePut × Option (EngErr × Nat)) (P := fun _ f => ∀ s, s.memOk → PairOk (f s))
    (fun _ _ hs => hs) (fun a l below ih s hs => ?_) l s h
  dsimp only
  split
  · next e => exact (hread _ hs ..).fst e
  · next e => exact ih _ ((hread _ hs ..).fst e)

theorem memOk_mldSums {e : Entry} {m : Mld} {md : SlotMeta} (h : s.memOk) : (s.mldSums e m md).memOk :=
  foldl_keeps h fun _ _ ht => ite_keeps (memOk_setSlot ht) ht

theorem memOk_endMld {e : Entry} {m : Mld} {md : SlotMeta} (h : s.memOk) : (s.endMld e m md).memOk :=
  memOk_setTag (ite_keeps (memOk_mldSums h) h)

theorem memOk_beginMld {s0 : State} {core : Nat} {e : Entry} {m : Mld} (h : s0.memOk) : (s0.beginMld core e m).memOk := by
  unfold State.beginMld
  split
  · next e => exact memOk_queuesMoved (memOk_failEntry (memOk_installMeta (memOk_dropEntry ((memOk_mldRecord h).error e))))
  · next e =>
      refine ite_keeps h ?_
      split
      · next e2 =>
          exact memOk_queuesMoved (memOk_failEntry
            (memOk_dropEntry (memOk_putTiles (PairOk.fst (memOk_mldHalves (memOk_installMeta ((memOk_mldRecord h).ok e))) e2))))
      · next e2 =>
          exact memOk_putEntry (memOk_putTiles (memOk_tick (PairOk.fst (memOk_mldHalves (memOk_installMeta ((memOk_mldRecord h).ok e))) e2)))

theorem memOk_execHarrowMld {cl : Nat} (h : s.memOk) : OutOk (execHarrowMld cl s) := by
  unfold execHarrowMld
  split
  · exact h
  · refine ite_keeps h ?_
    split
    · exact ite_keeps h (memOk_beginMld h)
    · exact memOk_queuesMoved (memOk_endMld (memOk_dropEntry (memOk_putTiles h)))

theorem memOk_matLane {mk : State → TRef → Nat → Except LaneRes (State × MOp)} {r : TRef}
    (hmk : ∀ (u : State) (r : TRef) (x : Nat), u.memOk → ExcOk LaneRes.memOk PairOk (mk u r x)) (h : s.memOk) : (matLane mk s r).memOk := by
  unfold matLane
  extract_lets -underBinder
  split
  · next e => exact (hmk _ _ _ h).error e
  · next e => exact ite_keeps h (memOk_monitor (memOk_setStack (memOk_tick ((hmk _ _ _ h).ok e))))

theorem memOk_ownedAcc {r : TRef} {c n : Nat} {k : Except LaneRes (State × MOp)} (hk : ExcOk LaneRes.memOk PairOk k) :
    ExcOk LaneRes.memOk PairOk (ownedAcc s r c n k) := by
  unfold ownedAcc
  split
  · exact trivial
  · exact hk

theorem memOk_ownedSlot {r : TRef} {i : Nat} {cs : List Nat} {k : Except LaneRes (State × MOp)} (hk : ExcOk LaneRes.memOk PairOk k) :
    ExcOk LaneRes.memOk PairOk (ownedSlot s r i cs k) := by
  unfold ownedSlot
  split
  · exact trivial
  · exact hk

theorem memOk_execMzero {sw : Bool} {c : BitVec 2} (h : s.memOk) : OutOk (execMzero sw c s) :=
  memOk_runSheaf (fun _ _ hu => memOk_matLane (fun _ _ _ hu => memOk_ownedAcc hu) hu) h

theorem memOk_mma {chained sw : Bool} {h : BitVec 1} {c : BitVec 2} {x y : BitVec 5} (hs : s.memOk) : OutOk (mma chained sw h c x y s) := by
  refine memOk_runSheaf (fun u r hu => memOk_matLane (fun u r x hu => memOk_ownedAcc (memOk_ownedSlot (memOk_ownedSlot ?_))) hu) hs
  extract_lets -underBinder
  split
  · exact trivial
  · exact hu

theorem memOk_execMmaP {sw : Bool} {h : BitVec 1} {c : BitVec 2} {x y : BitVec 5} (hs : s.memOk) : OutOk (execMmaP sw h c x y s) :=
  memOk_mma hs

theorem memOk_execMmaC {sw : Bool} {h : BitVec 1} {c : BitVec 2} {x y : BitVec 5} (hs : s.memOk) : OutOk (execMmaC sw h c x y s) :=
  memOk_mma hs

theorem memOk_execMrd {sw : Bool} {d a : BitVec 7} {c : BitVec 2} (h : s.memOk) : OutOk (execMrd sw d a c s) :=
  memOk_runSheaf (fun _ _ hu => memOk_matLane (fun _ _ _ hu => memOk_ownedAcc (ite_keeps trivial (memOk_issueOut hu))) hu) h

theorem memOk_execMwr {sw : Bool} {d a : BitVec 7} {c : BitVec 2} (h : s.memOk) : OutOk (execMwr sw d a c s) :=
  memOk_runSheaf (fun _ _ hu => memOk_matLane (fun _ _ _ hu => memOk_ownedAcc (ite_keeps trivial hu)) hu) h

theorem memOk_storeDest {r : TRef} {p : DWord} {size len : Nat} : OptOk LaneRes.memOk (s.storeDest r p size len) := by
  refine ite_keeps trivial (ite_keeps trivial (ite_keeps trivial (ite_keeps trivial ?_)))
  split <;> exact trivial

theorem memOk_execMstore {sw : Bool} {m : BitVec 3} {c : BitVec 2} {a : BitVec 7} {e : BitVec 6} (h : s.memOk) : OutOk
    (execMstore sw m c a e s) := by
  refine memOk_runSheaf (fun u r hu => memOk_matLane (fun u r x hu => memOk_ownedAcc (ite_keeps trivial ?_)) hu) h
  split
  · next e => exact memOk_storeDest.some e
  · exact hu

theorem memOk_execMstoreS {sw : Bool} {x : BitVec 5} {a : BitVec 7} (h : s.memOk) : OutOk (execMstoreS sw x a s) := by
  refine memOk_runSheaf (fun u r hu => memOk_matLane (fun u r x hu => memOk_ownedSlot (ite_keeps trivial ?_)) hu) h
  split
  · next e => exact memOk_storeDest.some e
  · exact hu

theorem memOk_execMqnt {sw : Bool} {m : BitVec 3} {c : BitVec 2} {a : BitVec 7} {q : BitVec 2} {x : BitVec 5} (h : s.memOk) :
    OutOk (execMqnt sw m c a q x s) :=
  memOk_runSheaf (fun _ _ hu => memOk_matLane (fun _ _ _ hu => memOk_ownedAcc
    (memOk_ownedSlot (ite_keeps trivial (ite_keeps trivial (ite_keeps trivial (memOk_setSlot (memOk_setSlot hu))))))) hu) h

theorem memOk_execHad {sw : Bool} {p : BitVec 1} {m : BitVec 3} {n : BitVec 2} {x : BitVec 5} (h : s.memOk) : OutOk (execHad sw p m n x s) :=
  memOk_runSheaf (fun _ _ hu => memOk_matLane (fun _ _ _ hu => memOk_ownedSlot
    (ite_keeps trivial (ite_keeps trivial (foldl_keeps hu fun _ _ ht => memOk_setSlot ht)))) hu) h

theorem memOk_execMchk {sw : Bool} {d : BitVec 7} {c : BitVec 2} (h : s.memOk) : OutOk (execMchk sw d c s) :=
  memOk_runSheaf (fun _ _ hu => memOk_matLane (fun _ _ _ hu => memOk_ownedAcc (memOk_issueOut hu)) hu) h

theorem memOk_execMwait {sw : Bool} (h : s.memOk) : OutOk (execMwait sw s) :=
  memOk_runSheaf (fun _ _ hu => memOk_queuesMoved (memOk_setStack (memOk_issueOut hu))) h

theorem memOk_claimSlot {g c i : Nat} (h : s.memOk) : (s.claimSlot g c i).memOk := memOk_setSlot (memOk_clear _ _ h)

theorem memOk_claimSlots {g i n : Nat} {cs : List Nat} (h : s.memOk) : (s.claimSlots g i n cs).memOk :=
  foldl_keeps h fun _ _ ht => foldl_keeps ht fun _ _ ht => memOk_claimSlot ht

theorem memOk_needed {h : Option Holder} {code : Nat → Nat} (hs : s.memOk) : (s.needed h code).memOk := by
  unfold State.needed
  split
  · exact ite_keeps (memOk_modGroup hs) hs
  · exact hs

theorem memOk_needSlots {i n : Nat} {cs : List Nat} (h : s.memOk) : (s.needSlots i n cs).memOk :=
  foldl_keeps h fun _ _ ht => foldl_keeps ht fun _ _ ht => memOk_needed ht

def Claim.memOk : Claim → Prop
  | .got s _ | .wait s => s.memOk
  | .refused => True

theorem memOk_claim {g kind n : Nat} (h : s.memOk) : (s.claim g kind n).memOk := by
  unfold State.claim
  extract_lets -underBinder
  split
  · refine ite_keeps trivial ?_
    split
    · exact foldl_keeps h fun _ _ h => memOk_setAcc h
    · split
      · exact foldl_keeps h fun _ _ h => memOk_needed h
      · exact trivial
  · refine ite_keeps trivial ?_
    split
    · exact memOk_claimSlots h
    · split
      · exact memOk_needSlots h
      · exact trivial

theorem memOk_execSclaim {sw : Bool} {d : BitVec 7} {k : BitVec 2} {n : BitVec 6} (h : s.memOk) : OutOk (execSclaim sw d k n s) := by
  refine memOk_runSheaf (fun u r hu => ?_) h
  have hc := memOk_claim (g := r.g) (kind := k.toNat) (n := n.toNat) hu
  split
  · next e => rw [e] at hc; exact memOk_issueVal hc
  · exact memOk_issueVal hu
  · next e => rw [e] at hc; exact hc

theorem memOk_execSrel {sw : Bool} {k : BitVec 2} {a : BitVec 7} {n : BitVec 6} (h : s.memOk) : OutOk (execSrel sw k a n s) := by
  refine memOk_runSheaf (fun u r hu => ite_keeps ?_ ?_) h
  · split
    · exact trivial
    · exact memOk_settleMat (foldl_keeps hu fun _ _ ht => memOk_setAcc ht)
  · extract_lets -underBinder
    split
    · exact trivial
    · exact memOk_settleMat (foldl_keeps hu fun t a ht => foldl_keeps ht fun _ _ ht => memOk_setSlot ht)

theorem memOk_execSinfo {sw : Bool} {d a : BitVec 7} {k : BitVec 2} (h : s.memOk) : OutOk (execSinfo sw d a k s) :=
  memOk_runSheaf (fun _ _ hu => memOk_issueVal hu) h

theorem memOk_execMld {sw : Bool} {m : BitVec 2} {x : BitVec 5} {a : BitVec 7} {c : BitVec 1} {g : BitVec 6} (h : s.memOk) :
    OutOk (execMld sw m x a c g s) := by
  refine memOk_runSheaf (fun u r hu => ite_keeps trivial ?_) h
  split
  · exact trivial
  · exact ite_keeps trivial (ite_keeps hu (memOk_placeCopy (foldl_keeps (memOk_tick hu) fun _ _ ht => memOk_setSlot ht)))

/-! ## The operations of Machine/Picker -/

theorem memOk_retrack {c : Nat} {ready : List TRef} (h : s.memOk) : (s.retrack c ready).memOk := by
  unfold State.retrack
  extract_lets -underBinder
  split
  · exact memOk_setCore h
  · exact ite_keeps (memOk_setCore h) (memOk_setCore h)

theorem memOk_setCell {x k : Nat} {e : Cell} (h : s.memOk) : (s.setCell x k e).memOk := memOk_setCtx h

theorem memOk_reserveCell {x core : Nat} (h : s.memOk) : (s.reserveCell x core).memOk := by
  unfold State.reserveCell
  split
  · exact memOk_setCell h
  · exact h

theorem memOk_refillCells {x cl : Nat} (h : s.memOk) : (s.refillCells x cl).memOk := foldl_keeps h fun _ _ ht => memOk_reserveCell ht

theorem memOk_endPick {c : Nat} {picked : Option Track} {stalled : List Track} {sheaf : List TRef} (h : s.memOk) :
    (s.endPick c picked stalled sheaf).memOk :=
  memOk_upd (memOk_setCore h)

theorem memOk_pickGo {c : Nat} {ready : List TRef} {l l' : List Track} (h : s.memOk) : PairOk (s.pickGo c ready l l') := by
  induction l generalizing l' with
  | nil => exact memOk_endPick h
  | cons a l ih => exact ite_keeps ih (memOk_endPick h)

theorem memOk_pick {c : Nat} (h : s.memOk) : PairOk (s.pick c) :=
  ite_keeps (memOk_upd h) (memOk_pickGo (memOk_retrack (memOk_setCore h)))

/-! ## The operations of Machine/Admin -/

theorem memOk_complete {fn status : Nat} (h : s.memOk) : (s.complete fn status).memOk :=
  ite_keeps (memOk_setFn h) (memOk_raise (memOk_wrs _ _ (memOk_setFn h)))

theorem memOk_unread {fn : Nat} (h : s.memOk) : (s.unread fn).memOk := memOk_setFn h

theorem memOk_finishAdm {fn : Nat} {x : Adm} (h : s.memOk) (hx : x.memOk) : (s.finishAdm fn x).memOk := by
  unfold State.finishAdm
  split
  · exact ite_keeps (memOk_unread h) (memOk_complete hx)
  · exact memOk_complete h
  · exact ite_keeps (memOk_unread h) (memOk_complete hx)
  · exact ite_keeps (memOk_unread h) (memOk_setFn hx)

theorem memOk_onCtx {fn : Nat} {p : Packet} {ok : CtxState → Bool} {body : Nat → State → Adm}
    (hbody : ∀ (x : Nat) (u : State), u.memOk → (body x u).memOk) (h : s.memOk) : OutOk (onCtx fn p ok body s) :=
  memOk_finishAdm h (ite_keeps trivial (ite_keeps trivial (ite_keeps trivial (hbody _ _ h))))

theorem memOk_onPf {fn : Nat} {body : State → Adm} (hbody : ∀ (u : State), u.memOk → (body u).memOk) (h : s.memOk) : OutOk (onPf fn body s) :=
  memOk_finishAdm h (ite_keeps trivial (hbody _ h))

/-! ## The operations of Machine/Page -/

theorem memOk_noteFail {n : Nat} {f : MemFail} {ctx : Nat} (h : s.memOk) : (s.noteFail n f ctx).memOk := memOk_post h

theorem memOk_retagSector {tag n : Nat} (h : s.memOk) : (s.retagSector tag n).memOk := by
  unfold State.retagSector
  split
  · exact memOk_upd h
  · split
    · exact memOk_upd (memOk_correct h)
    · exact memOk_upd (memOk_clear _ _ (memOk_noteFail h))

theorem memOk_retag {tag first n : Nat} (h : s.memOk) : (s.retag tag first n).memOk := by
  induction n generalizing s first with
  | zero => exact h
  | succ l ih => exact ih (memOk_retagSector h)

theorem memOk_execTagset {fn : Nat} {p : Packet} (h : s.memOk) : OutOk (execTagset fn p s) := by
  unfold execTagset
  extract_lets -underBinder
  refine memOk_onPf (fun u hu => ?_) h
  exact ite_keeps trivial (memOk_retag (memOk_meet hu))

theorem memOk_execScrub {pa : Nat} (h : s.memOk) : OutOk (execScrub pa s) := by
  refine ite_keeps h ?_
  split
  · exact h
  · split
    · exact memOk_correct h
    · exact memOk_noteFail h

theorem memOk_execPagehold {fn : Nat} {p : Packet} (h : s.memOk) : OutOk (execPagehold fn p s) := by
  unfold execPagehold
  extract_lets -underBinder
  refine memOk_onCtx (fun c u hu => ?_) h
  extract_lets -underBinder x held u1
  have h1 : u1.memOk := memOk_setCtx hu
  refine ite_keeps trivial (ite_keeps (ite_keeps (memOk_setCtx hu) trivial) (ite_keeps trivial ?_))
  exact ite_keeps h1 h1

theorem memOk_execPageholdDrained {fn : Nat} (h : s.memOk) : OutOk (execPageholdDrained fn s) := by
  unfold execPageholdDrained
  split
  · exact ite_keeps h (memOk_complete h)
  · exact h

theorem memOk_execNotifyring {fn : Nat} {p : Packet} (h : s.memOk) : OutOk (execNotifyring fn p s) := by
  unfold execNotifyring
  extract_lets -underBinder
  refine memOk_onPf (fun u hu => ?_) h
  extract_lets -underBinder u1
  have h1 : u1.memOk := memOk_upd (memOk_meet hu)
  exact ite_keeps trivial (memOk_ownWr h1)

theorem memOk_execHotcfg {fn : Nat} {p : Packet} (h : s.memOk) : OutOk (execHotcfg fn p s) := memOk_onPf (fun _ hu => memOk_upd hu) h

theorem memOk_execHotnessEpoch (h : s.memOk) : OutOk (execHotnessEpoch s) := ite_keeps h (memOk_upd h)

theorem memOk_spell {frame : Nat} (h : s.memOk) : (s.spell frame).memOk := memOk_upd h

theorem memOk_setMem_foldl {α : Type} {f : List Host.Cell → α → List Host.Cell} {l : List α} {m : List Host.Cell} (hm : Memory.wf m = true)
    (hf : ∀ m a, Memory.wf m = true → Memory.wf (f m a) = true) : (s.setMem (l.foldl f m)).memOk := 
  foldl_keeps (P := fun m => Memory.wf m = true) hm hf

theorem memOk_moveFrame {src dst ctx : Nat} (h : s.memOk) : (s.moveFrame src dst ctx).memOk := by
  unfold State.moveFrame
  extract_lets -underBinder s1 s2 s3 cells s4 s5
  have h1 : s1.memOk := ite_keeps h (memOk_spell (memOk_spell h))
  have h3 : s3.memOk := foldl_keeps (memOk_correct h1) fun _ _ hu => memOk_noteFail hu
  have h4 : s4.memOk := memOk_clear _ _ h3
  have h5 : s5.memOk := memOk_setMem_foldl h4 fun _ _ hm => memWr_sorted hm (Nat.zero_le _)
  exact memOk_upd h5

/-! ## The operations of Machine/Bin -/

theorem memOk_storeRecords {c n : Nat} {b : Bin} {rs : List (List Byte)} {p : Bin × Option (Nat × Bool × List (List Byte))} (h : s.memOk) :
    (s.storeRecords c n b rs p).memOk :=
  memOk_virtPut (memOk_setCtx h)

theorem memOk_nodeRecords {c : Nat} {n : NodeReady} (h : s.memOk) : PairOk (s.nodeRecords c n) := by
  unfold State.nodeRecords
  extract_lets -underBinder
  split
  · next e => exact (memOk_virtRd h).some e
  · exact memOk_virtNote h

theorem memOk_escapes {x : Option Nat} (h : s.memOk) : (s.escapes x).memOk := by
  unfold State.escapes
  split
  · exact memOk_modLaunch h
  · exact h

theorem memOk_drainBin {c n n' : Nat} (h : s.memOk) : (s.drainBin c n n').memOk := by
  induction n' generalizing s with
  | zero => exact h
  | succ l ih =>
    unfold State.drainBin
    split
    · exact h
    · split
      · exact h
      · split
        · exact h
        · exact ih (memOk_escapes (memOk_storeRecords h))

theorem memOk_settleBin {c n : Nat} (h : s.memOk) : (s.settleBin c n).memOk := by
  unfold State.settleBin
  split
  · exact h
  · exact memOk_drainBin h

theorem memOk_offerBin {c n : Nat} {rs : List (List Byte)} (h : s.memOk) : PairOk (s.offerBin c n rs) := by
  unfold State.offerBin
  split
  · exact h
  · refine ite_keeps h ?_
    split
    · exact h
    · exact memOk_storeRecords h

theorem memOk_offerFinal {c n : Nat} {l : Option Nat} {r : List Byte} (h : s.memOk) : (s.offerFinal c n l r).memOk := by
  unfold State.offerFinal
  split
  next s1 ok e =>
  have h1 : s1.memOk := (memOk_offerBin h).fst e
  exact ite_keeps (memOk_escapes h1) (memOk_setCtx h1)

theorem memOk_nodeEnded {c n : Nat} (h : s.memOk) : (s.nodeEnded c n).memOk := by
  unfold State.nodeEnded
  extract_lets -underBinder
  split
  · exact h
  · exact memOk_settleBin (memOk_setCtx h)

theorem memOk_fireBin {c n cause : Nat} (h : s.memOk) : (s.fireBin c n cause).memOk := by
  unfold State.fireBin
  extract_lets -underBinder
  split
  · exact h
  · exact ite_keeps (memOk_settleBin (memOk_setCtx h)) h

theorem memOk_execBinTimer {c n : Nat} (h : s.memOk) : OutOk (execBinTimer c n s) := by
  unfold execBinTimer
  split
  · exact h
  · exact ite_keeps (memOk_hubStep (fun _ hu => memOk_fireBin hu) h) h

/-! ## The operations of Machine/Handle -/

theorem memOk_setTensor {c k : Nat} {t : Tensor} (h : s.memOk) : (s.setTensor c k t).memOk := memOk_setCtx h

theorem memOk_killCell {c k : Nat} (h : s.memOk) : (s.killCell c k).memOk := memOk_refillCells (memOk_setCell h)

theorem memOk_spoil {c : Nat} {h : QWord} (hs : s.memOk) : (s.spoil c h).memOk :=
  ite_keeps hs (ite_keeps (ite_keeps (memOk_killCell hs) hs) (ite_keeps (memOk_setTensor hs) hs))

theorem memOk_report {c : Nat} {i : Option Issuer} {code d0 d1 : Nat} (h : s.memOk) : (s.report c i code d0 d1).memOk := by
  unfold State.report
  split
  · exact memOk_engineFault h
  · exact memOk_takeFault h

theorem memOk_weighCell {c : Nat} {h : QWord} {e : Cell} (hs : s.memOk) : (s.weighCell c h e).memOk :=
  ite_keeps (memOk_upd (memOk_refillCells (memOk_setCell hs))) (memOk_setCell hs)

theorem memOk_weighTensor {c : Nat} {i : Option Issuer} {h : QWord} {t : Tensor} (hs : s.memOk) : (s.weighTensor c i h t).memOk :=
  memOk_setTensor hs

theorem memOk_applyPost {c : Nat} {i : Option Issuer} {h : QWord} (hs : s.memOk) : OptOk State.memOk (s.applyPost c i h) := by
  unfold State.applyPost
  split
  · split
    · exact trivial
    · exact memOk_report (memOk_spoil hs)
    · exact ite_keeps (memOk_report hs) (memOk_modLaunch (memOk_weighCell hs))
    · exact ite_keeps (memOk_report hs) (memOk_modLaunch (memOk_weighTensor hs))
  · split
    · exact trivial
    · exact memOk_report (memOk_spoil hs)
    · exact ite_keeps (memOk_report hs) (memOk_weighCell hs)
    · exact ite_keeps (memOk_report hs) (memOk_weighTensor hs)

theorem memOk_dropHand {core : Nat} (h : s.memOk) : (s.dropHand core).memOk := memOk_queuesMoved (memOk_setCore h)

theorem memOk_execHandlePostApply {src : Nat} (h : s.memOk) : OutOk (execHandlePostApply src s) := by
  unfold execHandlePostApply
  show State.memOk _
  split
  · split
    · exact h
    · refine ite_keeps (P := State.memOk) h (OptOk.getD (memOk_applyPost ?_) h)
      exact memOk_upd h
  · split
    · exact h
    · split
      · exact ite_keeps h (OptOk.getD (memOk_applyPost (memOk_dropHand h)) h)
      · exact h

theorem memOk_execHbindAtHome {core : Nat} (h : s.memOk) : OutOk (execHbindAtHome core s) := by
  unfold execHbindAtHome
  split
  · exact h
  · split
    · refine ite_keeps h ?_
      split
      · exact h
      · exact memOk_report (memOk_spoil (memOk_dropHand h))
      · exact memOk_setTensor (memOk_dropHand h)
    · exact h

theorem memOk_retagVirt {l unit tag : Nat} {l' : List (Nat × Nat)} (h : s.memOk) : PairOk (s.retagVirt l unit tag l') := by
  induction l' generalizing s with
  | nil => exact h
  | cons a l ih =>
    refine ite_keeps h ?_
    split
    · next e => exact pairOk (PairOk.fst (memOk_engLeaf h) e)
    · next e =>
        refine ite_keeps (pairOk (PairOk.fst (memOk_engLeaf h) e)) ?_
        split
        · exact pairOk (PairOk.fst (memOk_engLeaf h) e)
        · exact ite_keeps (pairOk (PairOk.fst (memOk_engLeaf h) e)) (ih (memOk_retag (PairOk.fst (memOk_engLeaf h) e)))

theorem memOk_endHnew {cl : Nat} {q : HnewReq} {h : QWord} (hs : s.memOk) : (s.endHnew cl q h).memOk :=
  memOk_fulfil (memOk_setCluster hs)

theorem memOk_execHnewAtHome {cl : Nat} (h : s.memOk) : OutOk (execHnewAtHome cl s) := by
  unfold execHnewAtHome
  split
  · exact h
  · extract_lets -underBinder
    refine ite_keeps h ?_
    split
    · exact memOk_endHnew h
    · extract_lets -underBinder t res
      refine ite_keeps (memOk_engineFault (memOk_setTensor h)) (ite_keeps h (ite_keeps (foldl_keeps h fun _ _ hu => memOk_wantCopy hu) ?_))
      have hres : PairOk res := ite_keeps (pairOk h) (memOk_retagVirt h)
      clear_value res
      split
      · exact memOk_failEntry (memOk_endHnew hres)
      · exact memOk_endHnew (memOk_setTensor hres)

theorem memOk_retagDead {c : Nat} {l : List (Nat × Nat)} (h : s.memOk) : (s.retagDead c l).memOk := by
  induction l generalizing s with
  | nil => exact h
  | cons a l ih =>
    unfold State.retagDead
    split
    · next e => exact ih (memOk_noteFail ((memOk_walk h).error e))
    · next e => exact ih ((memOk_walk h).ok e)
    · next e => exact ite_keeps (ih (memOk_retag (memOk_meet ((memOk_walk h).ok e)))) (ih (memOk_noteFail ((memOk_walk h).ok e)))

theorem memOk_tensorDies {c cl idx : Nat} {t : Tensor} (h : s.memOk) : (s.tensorDies c cl idx t).memOk := by
  unfold State.tensorDies
  extract_lets -underBinder
  split
  · exact memOk_offerFinal (memOk_setTensor (ite_keeps h (memOk_retagDead h)))
  · exact memOk_setTensor (ite_keeps h (memOk_retagDead h))

theorem memOk_execTensorRetagComplete {c cl idx : Nat} (h : s.memOk) : OutOk (execTensorRetagComplete c cl idx s) :=
  ite_keeps h (ite_keeps (memOk_report (memOk_setTensor h)) (memOk_hubStep (fun _ hu => memOk_tensorDies hu) h))

theorem memOk_execCellCreate {cl : Nat} (h : s.memOk) : OutOk (execCellCreate cl s) := by
  unfold execCellCreate
  extract_lets -underBinder
  split
  · exact h
  · exact ite_keeps h (ite_keeps (memOk_setCell (memOk_setCluster h)) (memOk_setCluster h))

theorem memOk_voidOut {r : TRef} {id : Nat} (h : s.memOk) : (s.voidOut r id).memOk := memOk_modThread h

theorem memOk_execHrecAtTarget {core : Nat} (h : s.memOk) : OutOk (execHrecAtTarget core s) := by
  unfold execHrecAtTarget
  split
  · exact h
  · split
    · refine ite_keeps h ?_
      split
      · exact h
      · exact memOk_queuesMoved (memOk_report (memOk_voidOut (memOk_spoil (memOk_dropEntry h))))
      · exact ite_keeps (memOk_queuesMoved (memOk_report (memOk_voidOut (memOk_spoil (memOk_dropEntry h)))))
          (ite_keeps (memOk_queuesMoved (memOk_report (memOk_voidOut (memOk_spoil (memOk_dropEntry h)))))
          (ite_keeps (memOk_queuesMoved (memOk_report (memOk_voidOut (memOk_spoil (memOk_dropEntry h)))))
          (ite_keeps h (memOk_queuesMoved (memOk_fulfil (ite_keeps (memOk_homeWr (memOk_dropEntry h)) (memOk_dropEntry h)))))))
    · exact h

theorem memOk_execHnew {sw : Bool} {d a : BitVec 7} (h : s.memOk) : OutOk (execHnew sw d a s) := by
  refine memOk_runSheaf (fun u r hu => ite_keeps trivial (ite_keeps trivial (ite_keeps hu ?_))) h
  split
  · next e =>
      extract_lets -underBinder
      split
      · exact trivial
      · exact memOk_setCluster (memOk_tick (memOk_issueOut (memOk_modLaunch (memOk_setCtx (PairOk.fst (memOk_viewBytes hu) e)))))

theorem memOk_splitWeight {r : TRef} {c : Nat} {d a : BitVec 7} {mask : Nat} {h : QWord} (hs : s.memOk) : (s.splitWeight r c d a mask h).memOk :=
  memOk_setRegs (memOk_setRegs hs)

theorem memOk_splitCell {r : TRef} {c k : Nat} {d a : BitVec 7} {mask : Nat} {h : QWord} (hs : s.memOk) : (s.splitCell r c k d a mask h).memOk :=
  memOk_setRegs (memOk_setRegs (memOk_reserveCell (memOk_setCluster (memOk_setCell hs))))

theorem memOk_execHsplit {sw : Bool} {d a : BitVec 7} {m : BitVec 6} (h : s.memOk) : OutOk (execHsplit sw d a m s) := by
  refine memOk_runSheaf (fun u r hu => ite_keeps trivial
    (ite_keeps trivial (ite_keeps trivial
    (ite_keeps trivial (ite_keeps trivial (ite_keeps (memOk_pollDone (memOk_splitWeight hu)) (ite_keeps trivial ?_))))))) h
  split
  · exact ite_keeps (memOk_killCell hu) (memOk_pollDone (memOk_splitCell hu))
  · exact ite_keeps hu (memOk_backOff hu)

theorem memOk_execHdrop {sw : Bool} {a : BitVec 7} (h : s.memOk) : OutOk (execHdrop sw a s) :=
  memOk_runSheaf (fun _ _ hu => ite_keeps trivial (ite_keeps (memOk_setRegs hu) (memOk_setCore (memOk_tick (memOk_publish (memOk_setRegs hu)))))) h

theorem memOk_execHrec {sw : Bool} {d a t : BitVec 7} (h : s.memOk) : OutOk (execHrec sw d a t s) :=
  memOk_runSheaf (fun _ _ hu => ite_keeps trivial
    (ite_keeps trivial (ite_keeps trivial
    (ite_keeps trivial (ite_keeps trivial
    (ite_keeps trivial (ite_keeps trivial (ite_keeps hu (memOk_placeCopy (memOk_tick (memOk_issueOut hu))))))))))) h

theorem memOk_execHinfo {sw : Bool} {d a : BitVec 7} (h : s.memOk) : OutOk (execHinfo sw d a s) := by
  refine memOk_runSheaf (fun u r hu => ite_keeps hu ?_) h
  split
  · exact hu
  · exact memOk_issueVal hu

theorem memOk_execHbind {sw : Bool} {d a b : BitVec 7} (h : s.memOk) : OutOk (execHbind sw d a b s) := by
  refine memOk_runSheaf (fun u r hu => ?_) h
  extract_lets -underBinder
  split
  · exact trivial
  · exact ite_keeps trivial (ite_keeps trivial (ite_keeps trivial (memOk_setCore (memOk_tick hu))))

/-! ## The operations of Machine/Lease -/

theorem memOk_read0 {c va n : Nat} (h : s.memOk) : PairOk (s.read0 c va n) := by
  unfold State.read0
  split
  · next e => exact (memOk_virtRd h).some e
  · exact memOk_virtNote h

theorem memOk_regionChain {c n n' n'' : Nat} (h : s.memOk) : PairOk (s.regionChain c n n' n'') := by
  induction n generalizing s n' n'' with
  | zero => exact h
  | succ l ih =>
    refine ite_keeps h (ite_keeps h ?_)
    split
    · exact memOk_virtNote h
    · next e =>
        refine ite_keeps (pairOk ((memOk_virtRd h).some e)) ?_
        split
        · next e2 => exact pairOk (PairOk.fst (ih ((memOk_virtRd h).some e)) e2)
        · next e2 => exact pairOk (PairOk.fst (ih ((memOk_virtRd h).some e)) e2)

theorem memOk_readRegion {c a : Nat} (h : s.memOk) : PairOk (s.readRegion c a) := by
  unfold State.readRegion
  split
  · next e => exact pairOk (PairOk.fst (memOk_regionChain h) e)
  · next e => exact pairOk (PairOk.fst (memOk_regionChain h) e)

theorem memOk_readHeader {c desc : Nat} (h : s.memOk) : PairOk (s.readHeader c desc) := by
  unfold State.readHeader
  extract_lets -underBinder x len
  split
  next s0 bs e =>
  have h0 : s0.memOk := (memOk_read0 h).fst e
  extract_lets -underBinder hd table
  have htable (u : State) (off k n : Nat) (hu : u.memOk) : PairOk (table u off k n) := by
    refine ite_keeps (P := PairOk) hu ?_
    split
    next e => exact (memOk_read0 hu).fst e
  clear_value table
  split
  next s1 cs e =>
  have h1 : s1.memOk := (htable _ _ _ _ h0).fst e
  split
  next s2 fs e =>
  have h2 : s2.memOk := (htable _ _ _ _ h1).fst e
  split
  next s3 ls e =>
  have h3 : s3.memOk := (htable _ _ _ _ h2).fst e
  split
  next s4 ns e =>
  have h4 : s4.memOk := (htable _ _ _ _ h3).fst e
  split
  next s5 rs e =>
  have h5 : s5.memOk := (htable _ _ _ _ h4).fst e
  refine ite_keeps (P := PairOk) h5 ?_
  split
  · exact h5
  · exact h5

theorem memOk_descFrames_go {c : Nat} {l : List (Nat × Nat)} {l' : List Nat} (h : s.memOk) : PairOk (State.descFrames.go c l s l') := by
  induction l generalizing s l' with
  | nil => exact h
  | cons a l ih =>
    unfold State.descFrames.go
    split
    · next e => exact ih ((memOk_walk h).ok e)
    · next e => exact ih ((memOk_walk h).ok e)
    · next e => exact ih (memOk_noteFail ((memOk_walk h).error e))

theorem memOk_descFrames {c desc len : Nat} (h : s.memOk) : PairOk (s.descFrames c desc len) := memOk_descFrames_go h

theorem memOk_Scan_page {l : Nat} {write : Bool} {t : Scan} {page : Nat} (h : t.memOk) : (Scan.page l write t page).memOk := by
  refine ite_keeps h (ite_keeps h ?_)
  split
  · next e => exact memOk_noteFail ((memOk_walk h).error e)
  · next e => exact ite_keeps ((memOk_walk h).ok e) (memOk_modLaunch (memOk_post ((memOk_walk h).ok e)))
  · next e => exact ite_keeps ((memOk_walk h).ok e) (ite_keeps ((memOk_walk h).ok e) (ite_keeps ((memOk_walk h).ok e) ((memOk_walk h).ok e)))

theorem memOk_scanLeases {l : Nat} {es : List Lease} (h : s.memOk) : (scanLeases l s es).memOk :=
  foldl_keeps h fun _ _ ht => foldl_keeps ht fun _ _ ht => memOk_Scan_page ht

theorem memOk_mark {l : Nat} (h : s.memOk) : (s.mark l).memOk :=
  ite_keeps h (ite_keeps (memOk_modLaunch h) (ite_keeps (memOk_modLaunch h) (ite_keeps h (memOk_modLaunch (memOk_setCtx h)))))

theorem memOk_tryLease {l : Nat} (h : s.memOk) : (s.tryLease l).memOk := by
  refine ite_keeps h ?_
  split
  · exact memOk_failLaunch (memOk_scanLeases h)
  · exact ite_keeps (memOk_mark (memOk_modLaunch (memOk_scanLeases h))) (memOk_modLaunch (memOk_scanLeases h))

theorem memOk_startLease {l : Nat} {bad : Option (Nat × Nat × Nat)} (h : s.memOk) : (s.startLease l bad).memOk := by
  unfold State.startLease
  split
  · exact memOk_tryLease h
  · extract_lets -underBinder
    split <;> exact memOk_failLaunch (memOk_scanLeases h)

/-! ## The operations of Machine/Queue -/

theorem memOk_writeFields {c ctl : Nat} {l : List (Nat × Nat)} (h : s.memOk) : (s.writeFields c ctl l).memOk := by
  induction l generalizing s with
  | nil => exact h
  | cons a l ih => exact ih (memOk_virtPut h)

theorem memOk_updQueue {q : Nat} {f : Queue → Queue} (h : s.memOk) : (s.updQueue q f).memOk := memOk_writeFields (memOk_setQueue h)

theorem memOk_mapped {c va : Nat} (h : s.memOk) : PairOk (s.mapped c va) := by
  unfold State.mapped
  split
  · next e => exact pairOk ((memOk_walk h).ok e)
  · next e => exact memOk_noteFail ((memOk_walk h).error e)

theorem memOk_badSignal {c : Nat} {l : List Nat} (h : s.memOk) : PairOk (s.badSignal c l) := by
  induction l generalizing s with
  | nil => exact h
  | cons a l ih =>
    refine ite_keeps h ?_
    split
    · next e => exact ih (PairOk.fst (memOk_mapped h) e)
    · next e => exact pairOk (PairOk.fst (memOk_mapped h) e)

theorem memOk_packetFault {c : Nat} {p : BitVec 1024} (h : s.memOk) : PairOk (s.packetFault c p) := ite_keeps h (memOk_badSignal h)

theorem memOk_readSignal {c a : Nat} (h : s.memOk) : PairOk (s.readSignal c a) := by
  unfold State.readSignal
  split
  · next e => exact pairOk ((memOk_virtRd h).some e)
  · exact memOk_virtNote h

theorem memOk_readDeps {c : Nat} {p : BitVec 1024} {met l : List Nat} (h : s.memOk) : PairOk (s.readDeps c p met l) := by
  delta State.readDeps
  refine brecOn_list_keeps (P := fun _ f => ∀ s, s.memOk → PairOk (f s)) (F := State.readDeps._f c p met) (fun _ _ hs => hs) ?_ l s h
  intro j js below ih s hs
  unfold State.readDeps._f
  dsimp only
  split
  · exact ih _ hs
  · exact ih _ (memOk_readSignal hs)

theorem memOk_rereadHead {q : Nat} (h : s.memOk) : (s.rereadHead q).memOk := by
  unfold State.rereadHead
  extract_lets
  split
  · exact h
  · exact memOk_setQueue (memOk_readDeps h)

theorem memOk_rereadAll {qs : List Nat} (h : s.memOk) : (s.rereadAll qs).memOk := foldl_keeps h fun _ _ ht => memOk_rereadHead ht

theorem memOk_miss {q policy deadline : Nat} {launch : Option Nat} (h : s.memOk) : (s.miss q policy deadline launch).memOk :=
  ite_keeps (memOk_record (memOk_updQueue h)) (memOk_setCtx (memOk_updQueue h))

theorem memOk_packetRegion {c : Nat} {p : BitVec 1024} (h : s.memOk) : PairOk (s.packetRegion c p) := by
  unfold State.packetRegion
  split
  · next e => exact pairOk (PairOk.fst (memOk_readRegion h) e)
  · next e => exact pairOk (PairOk.fst (memOk_readRegion h) e)

theorem memOk_missHead {q : Nat} (h : s.memOk) : (s.missHead q).memOk := by
  unfold State.missHead
  extract_lets -underBinder
  split
  · exact h
  · refine ite_keeps h (memOk_miss (memOk_setQueue ?_))
    split
    · next e2 => exact pairOk (PairOk.fst (memOk_readRegion h) e2)
    · next e2 => exact pairOk (PairOk.fst (memOk_readRegion h) e2)

theorem memOk_missLaunch {l : Nat} (h : s.memOk) : (s.missLaunch l).memOk := ite_keeps h (memOk_miss (memOk_modLaunch h))

theorem memOk_execDeadlineMissed {q : Nat} (h : s.memOk) : OutOk (execDeadlineMissed q s) :=
  memOk_hubStep (fun _ hu => memOk_missHead (foldl_keeps hu fun _ _ ht => memOk_missLaunch ht)) h

theorem memOk_loadHead {q n : Nat} (h : s.memOk) : (s.loadHead q n).memOk := by
  delta State.loadHead
  refine brecOn_nat_keeps (P := fun _ f => ∀ s, s.memOk → (f s).memOk) (F := State.loadHead._f q) (fun _ _ hs => hs) ?_ n s h
  intro n below ih s hs
  unfold State.loadHead._f
  dsimp only
  refine ite_keeps hs ?_
  split
  · next e => exact ih _ (memOk_record (memOk_updQueue ((memOk_packetFault (memOk_read0 hs)).fst e)))
  · next e => exact memOk_missHead (memOk_rereadHead (memOk_setQueue ((memOk_packetFault (memOk_read0 hs)).fst e)))

theorem memOk_settleQueue {q : Nat} (h : s.memOk) : (s.settleQueue q).memOk := memOk_loadHead h

theorem memOk_settleQueues {qs : List Nat} (h : s.memOk) : (s.settleQueues qs).memOk :=
  foldl_keeps h fun _ _ ht => memOk_settleQueue ht

theorem memOk_execQopen {fn : Nat} {p : Packet} (h : s.memOk) : OutOk (execQopen fn p s) :=
  memOk_onCtx (fun _ _ hu => ite_keeps trivial (ite_keeps trivial (memOk_writeFields (memOk_tick (memOk_setQueue hu))))) h

theorem memOk_onQueue {fn : Nat} {p : Packet} {okCtx : CtxState → Bool} {okQ : QState → Bool} {body : Nat → State → Adm}
    (hbody : ∀ (x : Nat) (u : State), u.memOk → (body x u).memOk) (h : s.memOk) : OutOk (onQueue fn p okCtx okQ body s) :=
  memOk_onCtx (fun _ _ hu => ite_keeps trivial (ite_keeps trivial (ite_keeps trivial (hbody _ _ hu)))) h

theorem memOk_execQstop {fn : Nat} {p : Packet} (h : s.memOk) : OutOk (execQstop fn p s) :=
  memOk_onQueue (fun _ _ hu => memOk_setQueue hu) h

theorem memOk_execQstart {fn : Nat} {p : Packet} (h : s.memOk) : OutOk (execQstart fn p s) :=
  memOk_onQueue (fun _ _ hu => memOk_settleQueue (memOk_setQueue hu)) h

theorem memOk_execQclose {fn : Nat} {p : Packet} (h : s.memOk) : OutOk (execQclose fn p s) :=
  memOk_onQueue (fun _ _ hu => ite_keeps trivial (memOk_setQueue hu)) h

theorem memOk_ringDoor {fn q v : Nat} (h : s.memOk) : (s.ringDoor fn q v).memOk :=
  ite_keeps h (memOk_settleQueue (memOk_rereadAll (ite_keeps (memOk_updQueue h) (memOk_updQueue h))))

theorem memOk_execDoorbell {fn q v : Nat} (h : s.memOk) : OutOk (execDoorbell fn q v s) :=
  ite_keeps (memOk_orOwe h (fun _ hu => memOk_ringDoor hu)) h

theorem memOk_execDependenceReread {q : Nat} (h : s.memOk) : OutOk (execDependenceReread q s) :=
  ite_keeps h (memOk_hubStep (fun _ hu => memOk_rereadHead hu) h)

theorem memOk_headCands {l : List Nat} (h : s.memOk) : PairOk (s.headCands l) := by
  induction l generalizing s with
  | nil => exact h
  | cons a l ih =>
    unfold State.headCands
    extract_lets -underBinder
    split
    · exact ih h
    · refine ih ?_
      exact memOk_packetRegion h

theorem memOk_candidates (h : s.memOk) : PairOk s.candidates := ite_keeps h (memOk_headCands h)

theorem memOk_argBytes {c va n : Nat} (h : s.memOk) : PairOk (s.argBytes c va n) := by
  unfold State.argBytes
  split
  · next e => exact pairOk ((memOk_virtRd h).some e)
  · exact memOk_tick (memOk_virtNote h)

theorem memOk_launchRegion {la : Launch} {region : Option Nat} (h : s.memOk) : PairOk (s.launchRegion la region) := by
  unfold State.launchRegion
  split
  · exact memOk_readRegion h
  · exact h

theorem memOk_leaseTable {la : Launch} {d : Descriptor} {leasetab nlease : Nat} (h : s.memOk) : PairOk (s.leaseTable la d leasetab nlease) := by
  refine ite_keeps h ?_
  split
  · next e => exact pairOk (PairOk.fst (memOk_read0 h) e)

theorem memOk_startLaunch {l args leasetab nlease : Nat} {region : Option Nat} (h : s.memOk) :
    (s.startLaunch l args leasetab nlease region).memOk := by
  unfold State.startLaunch
  extract_lets -underBinder la
  split
  next s1 hd e =>
  have h1 : s1.memOk := (memOk_readHeader h).fst e
  split
  · exact memOk_failLaunch h1
  · split
    · next e => exact memOk_failLaunch ((memOk_launchRegion h1).fst e)
    · next s2 r e =>
      have h2 : s2.memOk := (memOk_launchRegion h1).fst e
      refine ite_keeps (memOk_failLaunch h2) ?_
      split
      · exact memOk_failLaunch h2
      · extract_lets -underBinder s3
        have h3 : s3.memOk := memOk_modLaunch h2
        split
        · exact memOk_failLaunch h3
        · extract_lets -underBinder s4
          have h4 : s4.memOk := memOk_setCtx h3
          split
          next s5 frames e =>
          have h5 : s5.memOk := (memOk_descFrames h4).fst e
          have hargs (a n : Nat) : PairOk (if la.node.isSome then (s5, la.const) else s5.argBytes la.ctx a n) :=
            ite_keeps (pairOk h5) (memOk_argBytes h5)
          split
          next s6 const e =>
          have h6 : s6.memOk := (hargs ..).fst e
          split
          next s7 es at_ e =>
          have h7 : s7.memOk := (memOk_leaseTable h6).fst e
          exact ite_keeps (memOk_failLaunch (memOk_modLaunch h7)) (memOk_startLease (memOk_modLaunch h7))

theorem memOk_pickCandidate {c : Candidate} (h : s.memOk) : (s.pickCandidate c).memOk := by
  unfold State.pickCandidate
  extract_lets -underBinder x l seq base
  split
  · split
    · exact h
    · extract_lets -underBinder b s1
      have h1 : s1.memOk := memOk_setCtx h
      split
      next s2 recs e =>
      have h2 : s2.memOk := (memOk_nodeRecords h1).fst e
      exact memOk_startLaunch (memOk_upd h2)
  · extract_lets -underBinder s1
    have h1 : s1.memOk := memOk_missHead h
    split
    · exact h1
    · extract_lets -underBinder missed _ s2 s3 la s4
      have h4 : s4.memOk := memOk_upd (memOk_updQueue (memOk_setCtx h1))
      exact memOk_settleQueue (memOk_missLaunch (memOk_startLaunch h4))

theorem memOk_execDispatchPick (h : s.memOk) : OutOk (execDispatchPick s) := by
  unfold execDispatchPick
  extract_lets -underBinder early
  refine ite_keeps h ?_
  split
  next t l e =>
  have ht : t.memOk := (memOk_candidates h).fst e
  split
  · exact h
  · refine memOk_hubStep (fun _ _ => memOk_pickCandidate ?_) h
    exact memOk_upd ht

theorem memOk_feedRead {r : TRef} {p : DWord} {align n : Nat} (h : s.memOk) : ExcOk AnyOk PairOk (s.feedRead r p align n) := by
  unfold State.feedRead
  split
  · exact trivial
  · exact memOk_loadSpan h

theorem memOk_escape {l : Nat} (h : s.memOk) : (s.escape l).memOk := memOk_modLaunch h

theorem memOk_execNrec {sw : Bool} {d a n : BitVec 7} (h : s.memOk) : OutOk (execNrec sw d a n s) := by
  refine memOk_runSheaf (fun u r hu => ?_) h
  extract_lets -underBinder idx p l c k
  have hread : ExcOk AnyOk PairOk ((u.publish r 7).feedRead r p 32 (32 * k)) := memOk_feedRead (memOk_publish hu)
  revert hread
  generalize u.binOf (u.launch l) idx = w, feedFault p 32 = x, u.feedRead r p 32 (32 * k) = y, (u.publish r 7).feedRead r p 32 (32 * k) = z
  intro hread
  cases w with
  | none => exact trivial
  | some w =>
  cases x with
  | some x => exact trivial
  | none =>
  refine ite_keeps trivial ?_
  cases y with
  | error y => exact trivial
  | ok y =>
    refine ite_keeps hu ?_
    split
    next u1 bs e =>
    have h1 : u1.memOk := by
      cases z with
      | error z => exact (pairOk (memOk_publish hu)).fst e
      | ok z => exact PairOk.fst hread e
    extract_lets -underBinder recs
    split
    next t ok e =>
    have ht : t.memOk := (memOk_offerBin h1).fst e
    exact ite_keeps hu (ite_keeps (P := State.memOk) (memOk_pollDone (memOk_escape ht)) (memOk_backOff ht))

theorem memOk_execBinflush {sw : Bool} {a : BitVec 7} (h : s.memOk) : OutOk (execBinflush sw a s) := by
  refine memOk_runSheaf (fun u r hu => ?_) h
  extract_lets -underBinder
  split
  · exact trivial
  · exact ite_keeps hu (memOk_fireBin hu)

theorem memOk_enq {l q : Nat} {bs : List Byte} (h : s.memOk) : PairOk (s.enq l q bs) := by
  unfold State.enq
  extract_lets -underBinder a c s1 s2
  have h2 : s2.memOk := memOk_updQueue (memOk_virtPut h)
  split
  · exact h
  · split
    · exact pairOk (memOk_rereadAll h)
    · split
      · exact pairOk (memOk_rereadAll h)
      · exact pairOk (memOk_settleQueue (memOk_rereadAll (memOk_escape h2)))

theorem memOk_execEnq {sw : Bool} {d a : BitVec 7} (h : s.memOk) : OutOk (execEnq sw d a s) := by
  refine memOk_runSheaf (fun u r hu => ?_) h
  extract_lets -underBinder q p
  have hread : ExcOk AnyOk PairOk ((u.publish r 7).feedRead r p 64 128) := memOk_feedRead (memOk_publish hu)
  revert hread
  generalize feedFault p 64 = x, u.feedRead r p 64 128 = y, (u.publish r 7).feedRead r p 64 128 = z
  intro hread
  cases x with
  | some x => exact trivial
  | none =>
  cases y with
  | error y => exact trivial
  | ok y =>
    refine ite_keeps hu ?_
    split
    next u1 bs e =>
    have h1 : u1.memOk := by
      cases z with
      | error z => exact (pairOk (memOk_publish hu)).fst e
      | ok z => exact PairOk.fst hread e
    split
    next t st e =>
    have ht : t.memOk := (memOk_enq h1).fst e
    exact ite_keeps hu (memOk_issueVal ht)

theorem memOk_pollObject {r : TRef} {ptr : DWord} {a : Nat} {par : Bool} (h : s.memOk) : (s.pollObject r ptr a par).memOk :=
  ite_keeps (memOk_leaveBarrier (memOk_pollDone h)) (memOk_backOff h)

theorem memOk_offerAgain {r : TRef} {b : Nat} {recs : List (List Byte)} {poll : Option Wait} (h : s.memOk) :
    (s.offerAgain r b recs poll).memOk := by
  unfold State.offerAgain
  split
  next s1 ok e =>
  have h1 : s1.memOk := (memOk_offerBin h).fst e
  exact ite_keeps (memOk_wake (memOk_pollDone (memOk_escape h1))) (memOk_backOff h1)

theorem memOk_execBackoffExpiry {g t : Nat} (h : s.memOk) : OutOk (execBackoffExpiry g t s) := by
  unfold execBackoffExpiry
  extract_lets -underBinder
  split
  · refine ite_keeps h ?_
    split
    · exact ite_keeps (memOk_pollObject h) h
    · exact memOk_hubStep (fun _ hu => memOk_offerAgain hu) h
    · exact memOk_modThread (memOk_tick h)
  · exact h

/-! ## The operations of Machine/Kernel -/

theorem memOk_execLeafReread {l : Nat} (h : s.memOk) : OutOk (execLeafReread l s) :=
  ite_keeps h (memOk_hubStep (fun _ hu => memOk_tryLease hu) h)

theorem memOk_repost {l : Nat} {l' : List (Nat × Nat)} (h : s.memOk) : (s.repost l l').memOk := by
  induction l' generalizing s with
  | nil => exact h
  | cons a l ih =>
    unfold State.repost
    extract_lets -underBinder la x again s1
    have hagain (u : State) (hu : u.memOk) : (again u).memOk := memOk_modLaunch (memOk_post hu)
    have h1 : s1.memOk := by
      refine ite_keeps h ?_
      split
      · next e => exact (memOk_mapped h).fst e
      · next e => exact hagain _ ((memOk_mapped h).fst e)
    exact ih h1

theorem memOk_execPageRequestRepost {l : Nat} (h : s.memOk) : OutOk (execPageRequestRepost l s) :=
  ite_keeps (memOk_hubStep (fun _ hu => memOk_repost hu) h) h

theorem memOk_execSnapshotPageCopy {l page : Nat} (h : s.memOk) : OutOk (execSnapshotPageCopy l page s) := by
  unfold execSnapshotPageCopy
  split
  · exact h
  · exact ite_keeps h (memOk_modLaunch (memOk_moveFrame h))

theorem memOk_cmdRd {c pa n : Nat} (h : s.memOk) : PairOk (s.cmdRd c pa n) := by
  unfold State.cmdRd
  split
  · next e => exact pairOk ((memOk_physRd (memOk_meet h)).ok e)
  · exact memOk_noteFail (memOk_meet h)

theorem memOk_execSnappool {fn : Nat} {p : Packet} (h : s.memOk) : OutOk (execSnappool fn p s) := by
  unfold execSnappool
  extract_lets -underBinder
  refine memOk_onCtx (fun c u hu => ?_) h
  extract_lets -underBinder
  refine ite_keeps trivial ?_
  have hread : PairOk (if pkt p 447 416 = 0 then (u, some []) else u.cmdRd c (pkt p 511 448) (8 * pkt p 447 416)) :=
    ite_keeps (pairOk hu) (memOk_cmdRd hu)
  split
  · next e => exact hread.fst e
  · next e =>
    have h1 := hread.fst e
    exact ite_keeps h1 (ite_keeps h1 (memOk_setCtx h1))

theorem memOk_queuesSettled (h : s.memOk) : s.queuesSettled.memOk := foldl_keeps h fun _ _ ht => memOk_queuesMoved ht

theorem memOk_freeMonitors {c : Nat} (h : s.memOk) : (s.freeMonitors c).memOk := memOk_upd h

theorem memOk_quiesced {c : Nat} (h : s.memOk) : (s.quiesced c).memOk := ite_keeps (memOk_freeMonitors (memOk_setCtx h)) h

theorem memOk_execLaunchDrained {l : Nat} (h : s.memOk) : OutOk (execLaunchDrained l s) :=
  ite_keeps (memOk_quiesced (memOk_modLaunch (memOk_queuesSettled h))) h

theorem memOk_freeScratch {l : Nat} (h : s.memOk) : (s.freeScratch l).memOk :=
  memOk_modLaunch (foldl_keeps h fun _ _ ht => memOk_setDie ht)

theorem memOk_forget {hit : Nat → Bool} (h : s.memOk) : (s.forget hit).memOk := memOk_upd h

theorem memOk_zeroFrames {d : Nat} {fs : List Nat} (h : s.memOk) : (s.zeroFrames d fs).memOk :=
  memOk_forget (foldl_keeps h fun _ _ ht => memOk_clear _ _ ht)

theorem memOk_zeroScratch {l : Nat} (h : s.memOk) : (s.zeroScratch l).memOk := foldl_keeps h fun _ _ ht => memOk_zeroFrames ht

theorem memOk_signal {c a : Nat} {ended : Bool} (h : s.memOk) : (s.signal c a ended).memOk := by
  unfold State.signal
  split
  · next e => exact PairOk.fst (memOk_readSignal h) e
  · next e => exact memOk_virtPut (PairOk.fst (memOk_readSignal h) e)

theorem memOk_giveBack {l : Nat} (h : s.memOk) : (s.giveBack l).memOk := by
  unfold State.giveBack
  extract_lets -underBinder
  split
  · exact memOk_nodeEnded (memOk_modLaunch (memOk_dropTlb (memOk_freeScratch (memOk_setCtx h))))
  · exact memOk_modLaunch (memOk_dropTlb (memOk_freeScratch (memOk_setCtx h)))

theorem memOk_finishLaunch {l : Nat} (h : s.memOk) : (s.finishLaunch l).memOk :=
  memOk_quiesced (ite_keeps (ite_keeps (memOk_raise (ite_keeps (memOk_giveBack h) (memOk_signal (memOk_giveBack h))))
    (ite_keeps (memOk_giveBack h) (memOk_signal (memOk_giveBack h))))
    (memOk_rereadAll (ite_keeps (memOk_raise (ite_keeps (memOk_giveBack h) (memOk_signal (memOk_giveBack h))))
    (ite_keeps (memOk_giveBack h) (memOk_signal (memOk_giveBack h))))))

theorem memOk_execLaunchFinish {l : Nat} (h : s.memOk) : OutOk (execLaunchFinish l s) :=
  ite_keeps h (memOk_hubStep (fun _ hu => memOk_finishLaunch hu) h)

theorem memOk_restorePages {ctx : Nat} {l : List ShadowPage} (h : s.memOk) : (s.restorePages ctx l).memOk := by
  induction l generalizing s with
  | nil => exact h
  | cons a l ih => exact ih (ite_keeps (memOk_moveFrame h) h)

theorem memOk_dropCells {l : Nat} (h : s.memOk) : (s.dropCells l).memOk :=
  foldl_keeps (memOk_setCtx (memOk_upd h)) fun _ _ ht => memOk_refillCells ht

theorem memOk_flushHeld {l action : Nat} (h : s.memOk) : (s.flushHeld l action).memOk := by
  unfold State.flushHeld
  extract_lets -underBinder
  split
  · exact h
  · exact memOk_modLaunch (memOk_record h)

theorem memOk_execRollbackComplete {l : Nat} (h : s.memOk) : OutOk (execRollbackComplete l s) :=
  ite_keeps h (ite_keeps (memOk_modLaunch (memOk_flushHeld (memOk_restorePages (memOk_queuesSettled h))))
    (memOk_mark (memOk_modLaunch (memOk_zeroScratch
    (memOk_dropCells (memOk_flushHeld (memOk_queuesSettled (memOk_dispose (memOk_restorePages (memOk_queuesSettled h))))))))))

/-! ## The operations of Machine/Group -/

theorem memOk_saveTake {l : Launch} {len : Nat} {skip : Option Nat} (h : s.memOk) : PairOk (s.saveTake l len skip) := by
  unfold State.saveTake
  split
  · exact memOk_virtNote h
  · next e =>
      extract_lets -underBinder
      split
      · exact pairOk ((memOk_virtRd h).some e)
      · exact memOk_virtPut ((memOk_virtRd h).some e)

theorem memOk_publishAll {scope : Nat} {l : List TRef} (h : s.memOk) : (s.publishAll scope l).memOk := by
  induction l generalizing s with
  | nil => exact h
  | cons a l ih => exact ih (memOk_publish h)

theorem memOk_spareReqs {g : Nat} (h : s.memOk) : (s.spareReqs g).memOk := memOk_upd h

theorem memOk_haltGroup {g a len : Nat} (h : s.memOk) : (s.haltGroup g a len).memOk :=
  memOk_modGroup (memOk_leaveWaits (memOk_spareReqs (memOk_publishAll (memOk_tick h))))

theorem memOk_preemptEach {l : List Nat} (h : s.memOk) : PairOk (s.preemptEach l) := by
  induction l generalizing s with
  | nil => exact h
  | cons a l ih =>
    refine ite_keeps (ih h) ?_
    extract_lets -underBinder
    split
    · next e => exact pairOk (PairOk.fst (memOk_saveTake h) e)
    · next e => exact ih (memOk_haltGroup (PairOk.fst (memOk_saveTake h) e))

theorem memOk_preempt {gs : List Nat} (h : s.memOk) : OptOk State.memOk (s.preempt gs) := by
  unfold State.preempt
  split
  · next e => exact PairOk.fst (memOk_preemptEach h) e
  · exact trivial

theorem memOk_preemptNote {gs : List Nat} (h : s.memOk) : (s.preemptNote gs).memOk :=
  foldl_keeps (memOk_upd h) fun _ _ ht => ite_keeps (memOk_virtNote ht) ht

theorem memOk_settlePending {fn : Nat} (h : s.memOk) : (s.settlePending fn).memOk := by
  unfold State.settlePending
  split
  · exact ite_keeps (memOk_complete h) h
  · exact ite_keeps (memOk_complete (memOk_setCore h)) h
  · exact h

theorem memOk_settleAdmin (h : s.memOk) : s.settleAdmin.memOk := foldl_keeps h fun _ _ ht => memOk_settlePending ht

theorem memOk_execPreempt {fn : Nat} {p : Packet} (h : s.memOk) : OutOk (execPreempt fn p s) := by
  unfold execPreempt
  extract_lets -underBinder
  refine memOk_onPf (fun u hu => ?_) h
  refine ite_keeps trivial ?_
  split
  · exact memOk_preemptNote hu
  · next e =>
    have h1 := (memOk_preempt hu).some e
    exact ite_keeps (memOk_setCore h1) (memOk_setCore h1)

theorem memOk_execPreemptHoldExpiry {core : Nat} (h : s.memOk) : OutOk (execPreemptHoldExpiry core s) := by
  unfold execPreemptHoldExpiry
  split
  · exact ite_keeps h (memOk_setCore h)
  · exact h

theorem memOk_evict {g : Nat} (h : s.memOk) : (s.evict g).memOk := memOk_raiseFaults (foldl_keeps h fun _ _ ht => memOk_modThread ht)

theorem memOk_putPart {g off : Nat} {bs : List Byte} (h : s.memOk) : (s.putPart g off bs).memOk := by
  unfold State.putPart
  extract_lets -underBinder
  split
  · exact h
  · exact ite_keeps h (memOk_virtPut h)

theorem memOk_getPart {g off n : Nat} (h : s.memOk) : OptOk PairOk (s.getPart g off n) := by
  unfold State.getPart
  extract_lets -underBinder
  split
  · exact trivial
  · exact ite_keeps trivial (memOk_virtRd h)

theorem memOk_putHeader {g : Nat} (h : s.memOk) : (s.putHeader g).memOk := memOk_putPart h

theorem memOk_putRecord {g : Nat} (h : s.memOk) : (s.putRecord g).memOk :=
  memOk_putPart (memOk_putPart (memOk_putPart (memOk_putHeader h)))

theorem memOk_freeResults {g : Nat} (h : s.memOk) : (s.freeResults g).memOk := memOk_modGroup (memOk_freeSlotLanes h)

theorem memOk_saveGroup {g : Nat} (h : s.memOk) : (s.saveGroup g).memOk :=
  ite_keeps (memOk_evict h) (memOk_gbarCheck
    (memOk_modGroup (ite_keeps (memOk_saveFree (memOk_clear _ _ (memOk_freeResults (memOk_putRecord (memOk_meet (memOk_evict h))))))
    (memOk_clear _ _ (memOk_freeResults (memOk_putRecord (memOk_meet (memOk_evict h))))))))

theorem memOk_execGroupSaveComplete {g : Nat} (h : s.memOk) : OutOk (execGroupSaveComplete g s) :=
  memOk_hubStep (fun _ hu => memOk_settleAdmin (ite_keeps (memOk_saveGroup hu) hu)) h

theorem memOk_displaceOne {g k : Nat} (h : s.memOk) : (s.displaceOne g k).memOk :=
  ite_keeps (memOk_modGroup (memOk_setSlot (ite_keeps (memOk_putPart h) h))) (memOk_modGroup (memOk_setAcc h))

theorem memOk_displaceAll {g : Nat} {ks : List Nat} (h : s.memOk) : (s.displaceAll g ks).memOk :=
  foldl_keeps h fun _ _ ht => memOk_displaceOne ht

theorem memOk_execSlotLazySave {g : Nat} (h : s.memOk) : OutOk (execSlotLazySave g s) :=
  ite_keeps (memOk_hubStep (fun _ hu => memOk_displaceAll hu) h) h

theorem memOk_noteClass {g : Nat} {was : Bool} (h : s.memOk) : (s.noteClass g was).memOk :=
  ite_keeps (ite_keeps h (memOk_setCluster h)) (ite_keeps h (memOk_setCluster h))

theorem memOk_restoreSlot {g c : Nat} {v : SavedSlot} {n : Nat} (h : s.memOk) : (s.restoreSlot g c v n).memOk := by
  unfold State.restoreSlot
  extract_lets -underBinder d back
  have hback (u : State) (hu : u.memOk) : (back u).memOk := memOk_setSlot (memOk_clear _ _ hu)
  have hpart (off k) : OptOk PairOk (if n < (s.launchOf g).hdr.slots then s.getPart g off k else none) := ite_keeps (memOk_getPart h) trivial
  split
  · next e => exact memOk_wrs _ _ (hback _ ((hpart ..).some e))
  · exact memOk_setMem_foldl (hback _ h) fun _ _ hm => memWr_sorted hm (Nat.zero_le _)

theorem memOk_restoreMat {g c : Nat} (h : s.memOk) : (s.restoreMat g c).memOk :=
  memOk_modGroup (foldl_keeps (foldl_keeps h fun _ _ ht => memOk_restoreSlot ht) fun _ _ ht => memOk_setAcc ht)

theorem memOk_putSpills {n : Nat} {l : List TRef} {l' : List Byte} (h : s.memOk) : (s.putSpills n l l').memOk := by
  induction l generalizing s l' with
  | nil => exact h
  | cons a l ih => exact ih (memOk_wrs _ _ h)

theorem memOk_getThreads {g : Nat} (h : s.memOk) : (s.getThreads g).memOk := by
  unfold State.getThreads
  extract_lets -underBinder hd n s1
  have h1 : s1.memOk := by
    unfold s1
    split
    · next e => exact memOk_modGroup ((memOk_getPart h).some e)
    · exact h
  split
  · next e => exact memOk_putSpills ((memOk_getPart h1).some e)
  · exact h1

theorem memOk_getGmem {g : Nat} (h : s.memOk) : PairOk (s.getGmem g) := by
  unfold State.getGmem
  split
  · next e => exact pairOk ((memOk_getPart h).some e)
  · exact h

theorem memOk_rewait {g n : Nat} {old new : Nat × Nat} {r : TRef} (h : s.memOk) : PairOk (s.rewait g n old new r) := by
  unfold State.rewait
  extract_lets -underBinder
  split
  · split
    · exact h
    · exact ite_keeps (memOk_leaveAt (memOk_modThread h)) (ite_keeps (memOk_backOff h) (memOk_modThread h))
  · split
    · exact h
    · exact memOk_modThread h
  · split
    · exact h
    · exact memOk_monwRead (memOk_modThread h)
  · exact ite_keeps (memOk_wakeAt h) h
  · exact ite_keeps (memOk_leaveAt h) h
  · exact h

theorem memOk_rewaits {g n : Nat} {old new : Nat × Nat} {l : List TRef} {l' : List LaneFault} (h : s.memOk) :
    PairOk (s.rewaits g n old new l l') := by
  induction l generalizing s l' with
  | nil => exact h
  | cons a l ih => exact ih (memOk_rewait h)

theorem memOk_resumeGroup {g c : Nat} {spill : Option Nat} (h : s.memOk) : (s.resumeGroup g c spill).memOk := by
  unfold State.resumeGroup
  extract_lets -underBinder gr la old s1 s2
  have h1 : s1.memOk := ite_keeps h (memOk_displaceAll h)
  have h2 : s2.memOk := memOk_getThreads (memOk_restoreMat h1)
  split
  next s3 cells e =>
  have h3 : s3.memOk := (memOk_getGmem h2).fst e
  extract_lets -underBinder s4 n s5 new s6 s7 s8
  have h4 : s4.memOk := ite_keeps (memOk_saveFree h3) h3
  have h6 : s6.memOk := memOk_meet (memOk_modGroup (memOk_tick h4))
  have h7 : s7.memOk := memOk_setMem_foldl h6 fun _ _ hm => memWr_sorted hm (Nat.zero_le _)
  have h8 : s8.memOk := memOk_noteClass (foldl_keeps h7 fun _ _ hu => memOk_refresh hu)
  split
  · split
    next s9 fs e =>
    have h9 : s9.memOk := (memOk_rewaits h8).fst e
    exact memOk_serveGroup (memOk_raiseFaults (foldl_keeps (memOk_modGroup h9) fun _ _ hu => memOk_modThread hu))
  · exact memOk_takeFault h8

/-! ## The operations of Machine/Place -/

theorem memOk_takeScratch {l d : Nat} (h : s.memOk) : (s.takeScratch l d).memOk := by
  unfold State.takeScratch
  extract_lets -underBinder la n di fs table
  refine ite_keeps h ?_
  split
  next s1 bs e =>
  have h1 : s1.memOk := by
    split at e
    · exact (pairOk h).fst e
    · split at e
      · next e' => exact ((memOk_physRd (memOk_meet h)).ok e').fst e
      · exact (pairOk (memOk_noteFail (memOk_meet h))).fst e
  extract_lets -underBinder _ s2 s3
  have h2 : s2.memOk := memOk_setDie h1
  exact memOk_modLaunch (memOk_zeroFrames (ite_keeps h2 (memOk_meet h2)))

theorem memOk_placeGroup {l c : Nat} {spill : Option Nat} (h : s.memOk) : (s.placeGroup l c spill).memOk :=
  memOk_modLaunch (ite_keeps (memOk_refreshView (memOk_upd (memOk_tick (memOk_takeScratch (memOk_missLaunch h)))))
    (memOk_upd (memOk_tick (memOk_takeScratch (memOk_missLaunch h)))))

theorem memOk_placePart {l c : Nat} {part : Option Nat} (h : s.memOk) : OptOk State.memOk (s.placePart l c part) := by
  suffices hf : ∀ f, f = State.placePart → OptOk State.memOk (f s l c part) from hf _ rfl
  intro f hf
  delta State.placePart at hf
  subst hf
  beta_reduce
  have htake (n) : PairOk (s.saveTake (s.launch l) n part) := memOk_saveTake h
  obtain ⟨take, he⟩ := exists_eq (a' := @State.saveTake)
  rw [← he] at htake ⊢
  extract_lets -underBinder la n got
  have hgot : OptOk PairOk got := by
    refine ite_keeps (P := OptOk PairOk) h ?_
    split
    · next e => exact (htake _).fst e
    · exact trivial
  clear_value got
  split
  · exact trivial
  · have h1 := hgot
    split
    · exact memOk_placeGroup h1
    · exact memOk_resumeGroup (memOk_takeScratch h1)

theorem memOk_placeParts {l c : Nat} {ps : List (Option Nat)} (h : s.memOk) : OptOk State.memOk (s.placeParts l c ps) := by
  induction ps generalizing s c with
  | nil => exact h
  | cons p ps ih =>
    unfold State.placeParts
    have hplace := memOk_placePart (l := l) (c := c) (part := p) h
    obtain ⟨place, he⟩ := exists_eq (a' := @State.placePart)
    rw [← he] at hplace ⊢
    split
    · exact trivial
    · next e => exact ih (hplace.some e)

theorem memOk_waitPlace {l : Nat} {fit : Bool} (h : s.memOk) : (s.waitPlace l fit).memOk :=
  memOk_modLaunch (ite_keeps (memOk_virtNote h) h)

theorem memOk_placeFirst {ls : List Nat} (h : s.memOk) : (s.placeFirst ls).memOk := by
  induction ls generalizing s with
  | nil => exact h
  | cons l ls ih =>
    unfold State.placeFirst
    split
    · exact ih h
    · split
      · next e =>
        obtain ⟨c, -, hc⟩ := Option.bind_eq_some_iff.1 e
        exact memOk_modLaunch ((memOk_placeParts h).some hc)
      · exact ih (memOk_waitPlace h)

theorem memOk_execGroupPlace (h : s.memOk) : OutOk (execGroupPlace s) := memOk_hubStep (fun _ hu => memOk_placeFirst hu) h

theorem memOk_execPlacementReserve {l : Nat} (h : s.memOk) : OutOk (execPlacementReserve l s) :=
  ite_keeps h (memOk_modLaunch (memOk_tick h))

theorem memOk_makeRoom {l : Nat} {i : Item} {halting cs : List Nat} (h : s.memOk) : (s.makeRoom l i halting cs).memOk := by
  induction cs with
  | nil => exact h
  | cons c cs ih =>
    unfold State.makeRoom
    split
    · exact ih
    · split
      · next e => exact (memOk_preempt h).some e
      · exact ih

theorem memOk_execPlacementPreempt {l : Nat} (h : s.memOk) : OutOk (execPlacementPreempt l s) := by
  unfold execPlacementPreempt
  split
  · exact h
  · refine ite_keeps (P := OutOk) h ?_
    extract_lets -underBinder halting cores
    clear_value cores
    split
    · exact h
    · exact memOk_hubStep (fun _ hu => memOk_makeRoom hu) h

/-! ## The operations of Machine/Power -/

theorem memOk_setRatio {core k : Nat} (h : s.memOk) : (s.setRatio core k).memOk := ite_keeps h (memOk_setCore h)

theorem memOk_slower {stack : Nat} (h : s.memOk) : (s.slower stack).memOk := memOk_setRatio h

theorem memOk_faster {stack : Nat} (h : s.memOk) : (s.faster stack).memOk :=
  ite_keeps h (ite_keeps (memOk_setRatio h) (memOk_setRatio h))

theorem memOk_tripGroup {stack g : Nat} (h : s.memOk) : (s.tripGroup stack g).memOk := memOk_stopGroup (memOk_takeFault h)

theorem memOk_trip {stack : Nat} (h : s.memOk) : (s.trip stack).memOk :=
  foldl_keeps (memOk_setRatio (memOk_setRatio (memOk_setStack h))) fun _ _ ht => memOk_tripGroup ht

theorem memOk_balance {stack : Nat} (h : s.memOk) : (s.balance stack).memOk :=
  ite_keeps h (ite_keeps (memOk_slower (memOk_setStack h)) (memOk_setStack h))

theorem memOk_recover {stack : Nat} (h : s.memOk) : (s.recover stack).memOk :=
  ite_keeps (memOk_setStack (memOk_setRatio (memOk_setRatio h))) h

theorem memOk_execYokeSample {stack lower upper : Nat} (h : s.memOk) : OutOk (execYokeSample stack lower upper s) :=
  ite_keeps h (memOk_wakes (ite_keeps (memOk_recover (memOk_setStack h))
    (ite_keeps (memOk_trip (memOk_setStack h)) (memOk_balance (memOk_setStack h)))))

theorem memOk_execYokeThrottleStep {stack : Nat} (h : s.memOk) : OutOk (execYokeThrottleStep stack s) :=
  ite_keeps h (ite_keeps (memOk_setStack (ite_keeps (memOk_slower (memOk_setStack h))
    (ite_keeps (memOk_faster (memOk_setStack h)) (memOk_setStack h))))
    (ite_keeps (memOk_slower (memOk_setStack h)) (ite_keeps (memOk_faster (memOk_setStack h)) (memOk_setStack h))))

theorem memOk_execBalidleTimeout {g t : Nat} (h : s.memOk) : OutOk (execBalidleTimeout g t s) := by
  unfold execBalidleTimeout
  extract_lets -underBinder
  split
  · exact ite_keeps h (memOk_wake h)
  · exact h

theorem memOk_foldPulses {d : Nat} (h : s.memOk) : (s.foldPulses d).memOk := memOk_setDie (memOk_upd h)

theorem memOk_holdFalls {d : Nat} (h : s.memOk) : (s.holdFalls d).memOk := memOk_upd h

theorem memOk_relockIf {d : Nat} (h : s.memOk) : (s.relockIf d).memOk :=
  ite_keeps h (memOk_setDie (memOk_holdFalls (memOk_foldPulses h)))

theorem memOk_settleFalls {d : Nat} (h : s.memOk) : (s.settleFalls d).memOk :=
  foldl_keeps h fun _ _ ht => ite_keeps (memOk_setCluster ht) (ite_keeps (memOk_setCluster ht) ht)

theorem memOk_latchClass {cl : Nat} (h : s.memOk) : (s.latchClass cl).memOk := ite_keeps h (memOk_setCluster h)

theorem memOk_chargeCluster {d : Nat} {charged : List Nat} {cl : Nat} (h : s.memOk) : (s.chargeCluster d charged cl).memOk :=
  ite_keeps h (memOk_setCluster h)

theorem memOk_execClockBoundary {d : Nat} (h : s.memOk) : OutOk (execClockBoundary d s) :=
  ite_keeps h (ite_keeps (memOk_relockIf (foldl_keeps (memOk_setDie (foldl_keeps (memOk_setDie h) fun _ _ ht => memOk_latchClass ht)) fun _ _
    ht => memOk_chargeCluster ht)) (memOk_settleFalls
    (memOk_relockIf (foldl_keeps (memOk_setDie (foldl_keeps (memOk_setDie h) fun _ _ ht => memOk_latchClass ht)) fun _ _ ht => memOk_chargeCluster
    ht))))

theorem memOk_doOwed {x : Owed} (h : s.memOk) : (s.doOwed x).memOk := by
  unfold State.doOwed
  split
  · exact memOk_toRing h
  · exact memOk_areaFree h
  · exact memOk_post h
  · exact memOk_ringDoor h

theorem memOk_payOwed {l : List Owed} (h : s.memOk) : (s.payOwed l).memOk := by
  induction l generalizing s with
  | nil => exact h
  | cons a l ih => exact ih (memOk_orOwe h (fun _ hu => memOk_doOwed hu))

theorem memOk_afterRelock {d : Nat} (h : s.memOk) : (s.afterRelock d).memOk :=
  memOk_serveAll (memOk_payOwed (memOk_upd (memOk_freeGrants (memOk_upd h))))

theorem memOk_execRelockEnd {d : Nat} (h : s.memOk) : OutOk (execRelockEnd d s) :=
  ite_keeps h (ite_keeps (memOk_afterRelock
    (memOk_relockIf (memOk_settleFalls (memOk_setDie (foldl_keeps h fun _ _ ht => ite_keeps ht (memOk_setCluster ht))))))
    (memOk_relockIf (memOk_settleFalls (memOk_setDie (foldl_keeps h fun _ _ ht => ite_keeps ht (memOk_setCluster ht))))))

theorem memOk_execBoostFallStep {d : Nat} (h : s.memOk) : OutOk (execBoostFallStep d s) :=
  ite_keeps h (ite_keeps (memOk_relockIf (foldl_keeps h fun _ _ ht => memOk_setCluster ht))
    (foldl_keeps (memOk_relockIf (foldl_keeps h fun _ _ ht => memOk_setCluster ht)) fun _ _ ht => memOk_setCluster ht))

theorem memOk_execPermitRefill {d : Nat} (h : s.memOk) : OutOk (execPermitRefill d s) := ite_keeps h (memOk_setDie h)

theorem memOk_execPowerPeriod {watts : Nat} (h : s.memOk) : OutOk (execPowerPeriod watts s) := ite_keeps h (memOk_upd h)

theorem memOk_execRackCapMessage {msg : BitVec 64} (h : s.memOk) : OutOk (execRackCapMessage msg s) := ite_keeps h (memOk_upd h)

theorem memOk_execCapExpiry (h : s.memOk) : OutOk (execCapExpiry s) := ite_keeps h (memOk_upd h)

theorem memOk_execCapFloorStep (h : s.memOk) : OutOk (execCapFloorStep s) := ite_keeps h (memOk_upd h)

theorem memOk_execPwrcfg {fn : Nat} {p : Packet} (h : s.memOk) : OutOk (execPwrcfg fn p s) := by
  unfold execPwrcfg
  extract_lets -underBinder
  refine memOk_onPf (fun u hu => ?_) h
  extract_lets -underBinder u1
  refine ite_keeps trivial ?_
  have h1 : u1.memOk := foldl_keeps hu fun _ _ ht => ite_keeps ht (memOk_setDie ht)
  exact ite_keeps (P := State.memOk) h1 (memOk_upd h1)

theorem memOk_execPcls {sw : Bool} {c : BitVec 2} (h : s.memOk) : OutOk (execPcls sw c s) :=
  memOk_runSheaf (fun _ _ hu => memOk_noteClass (memOk_modGroup hu)) h

theorem memOk_execBurn {sw : Bool} {l : BitVec 3} (h : s.memOk) : OutOk (execBurn sw l s) :=
  memOk_runSheaf (fun _ _ hu => memOk_modGroup hu) h

theorem memOk_execBalidle {sw : Bool} (h : s.memOk) : OutOk (execBalidle sw s) :=
  memOk_runSheaf (fun _ _ hu => ite_keeps (memOk_waitOn hu) hu) h

theorem memOk_execYkrd {sw : Bool} {d : BitVec 7} (h : s.memOk) : OutOk (execYkrd sw d s) :=
  memOk_runSheaf (fun _ _ hu => memOk_issueVal hu) h

theorem memOk_execPermits {sw : Bool} {d : BitVec 7} (h : s.memOk) : OutOk (execPermits sw d s) :=
  memOk_runSheaf (fun _ _ hu => memOk_issueVal hu) h

/-! ## The operations of Machine/System -/

theorem memOk_execSysrd {sw : Bool} {d b : BitVec 7} (h : s.memOk) : OutOk (execSysrd sw d b s) :=
  memOk_runSheaf (fun _ _ hu => memOk_issueVal hu) h

theorem memOk_execSyswr {sw : Bool} {a b : BitVec 7} (h : s.memOk) : OutOk (execSyswr sw a b s) :=
  memOk_runSheaf (fun _ _ hu => memOk_modThread hu) h

theorem memOk_trapRecord {r : TRef} {d0 d1 : Nat} (h : s.memOk) : (s.trapRecord r d0 d1).memOk := memOk_record h

theorem memOk_trapAct {g : Nat} (h : s.memOk) : (s.trapAct g).memOk := ite_keeps h (ite_keeps (memOk_stopGroup h) (memOk_endLaunch h))

theorem memOk_execTrap {sw : Bool} {a b : BitVec 7} (h : s.memOk) : OutOk (execTrap sw a b s) := by
  have hrun := memOk_runSheaf (f := { sw := false, reads := [f1 a] })
    (body := fun s r => .done (s.trapRecord r (s.reg r a).toNat b.toNat)) (fun _ _ hu => memOk_trapRecord hu) h
  unfold execTrap
  split
  · next e => exact foldl_keeps (P := State.memOk) (hrun.next e) fun _ _ hu => memOk_trapAct hu
  · exact hrun

theorem memOk_brkGroup {before : State} {code : Nat} {rs : List TRef} {g : Nat} (h : s.memOk) : (s.brkGroup before code rs g).memOk := by
  unfold State.brkGroup
  extract_lets -underBinder mine
  clear_value mine
  split
  · exact h
  · extract_lets -underBinder gr s1
    have h1 : s1.memOk := memOk_takeFault h
    refine ite_keeps h1 ?_
    split
    · next e => exact memOk_modGroup ((memOk_preempt h1).some e)
    · exact memOk_preemptNote h1

theorem memOk_execBrk {sw : Bool} {b : BitVec 7} (h : s.memOk) : OutOk (execBrk sw b s) := by
  have hrun := memOk_runSheaf (f := { sw := sw }) (body := fun s _ => .done s) (fun _ _ hu => hu) h
  unfold execBrk
  split
  · next t e =>
    extract_lets -underBinder rs t1 u
    have ht : t1.memOk := foldl_keeps (hrun.next e) fun _ _ hu => memOk_modThread hu
    have hu : u.memOk := foldl_keeps ht fun _ _ hu => memOk_brkGroup hu
    exact ite_keeps (P := State.memOk) h hu
  · exact hrun

theorem memOk_execErrrd {sw : Bool} {d b : BitVec 7} (h : s.memOk) : OutOk (execErrrd sw d b s) :=
  memOk_runSheaf (fun _ _ hu => memOk_issueOut hu) h

theorem memOk_execClkrd {sw : Bool} {d : BitVec 7} (h : s.memOk) : OutOk (execClkrd sw d s) :=
  memOk_runSheaf (fun _ _ hu => memOk_setRegs hu) h

theorem memOk_execClkrdNom {sw : Bool} {d : BitVec 7} (h : s.memOk) : OutOk (execClkrdNom sw d s) :=
  memOk_runSheaf (fun _ _ hu => memOk_setRegs hu) h

theorem memOk_execRefrd {sw : Bool} {d : BitVec 7} (h : s.memOk) : OutOk (execRefrd sw d s) :=
  memOk_runSheaf (fun _ _ hu => memOk_issueVal hu) h

theorem memOk_outclaimed {m : Monitor} (h : s.memOk) : (s.outclaimed m).memOk := foldl_keeps h fun _ _ ht => memOk_modThread ht

theorem memOk_moncfg {r : TRef} {d : BitVec 7} {u w : Nat} (h : s.memOk) : PairOk (s.moncfg r d u w) :=
  ite_keeps h (ite_keeps h (ite_keeps (ite_keeps h (memOk_setCluster h)) (memOk_setCluster (ite_keeps (memOk_outclaimed h) h))))

theorem memOk_execMoncfg {sw : Bool} {d a : BitVec 7} {u : BitVec 3} (h : s.memOk) : OutOk (execMoncfg sw d a u s) := by
  refine memOk_runSheaf (fun t r ht => ?_) h
  split
  next e => exact memOk_setReg ((memOk_moncfg ht).fst e)

theorem memOk_execMonrd {sw : Bool} {d a : BitVec 7} {u : BitVec 3} (h : s.memOk) : OutOk (execMonrd sw d a u s) :=
  memOk_runSheaf (fun _ _ hu => memOk_issueVal hu) h

theorem memOk_execMonitorSample {cl u : Nat} (h : s.memOk) : OutOk (execMonitorSample cl u s) := by
  unfold execMonitorSample
  extract_lets -underBinder
  split
  · exact h
  · exact ite_keeps h (memOk_setCluster h)

theorem memOk_countHeadland {ticks : Nat} (h : s.memOk) : (s.countHeadland ticks).memOk :=
  foldl_keeps h fun _ _ ht => ite_keeps (memOk_setCtx ht) ht

theorem memOk_hangAct {l : Nat} (h : s.memOk) : (s.hangAct l).memOk := by
  unfold State.hangAct
  split
  · exact h
  · exact memOk_stopGroups h
  · exact memOk_endLaunch h
  · exact memOk_rollback h

theorem memOk_execHang {c : Nat} (h : s.memOk) : OutOk (execHang c s) :=
  ite_keeps h (memOk_hubStep (fun _ hu => foldl_keeps (memOk_setCtx (memOk_tick (ite_keeps (memOk_record hu) (memOk_virtPut (memOk_record hu)))))
    fun _ _ ht => memOk_hangAct ht) h)

/-! ## The operations of Machine/Context -/

theorem memOk_readFormats {c a : Nat} (h : s.memOk) : PairOk (s.readFormats c a) := by
  refine ite_keeps h ?_
  split
  · next e => exact pairOk (PairOk.fst (memOk_cmdRd h) e)
  · next e => exact pairOk (PairOk.fst (memOk_cmdRd h) e)

theorem memOk_execCreate {fn : Nat} {p : Packet} (h : s.memOk) : OutOk (execCreate fn p s) := by
  unfold execCreate
  extract_lets -underBinder
  refine memOk_onCtx (fun c u hu => ?_) h
  split
  · next e _ =>
    have h1 := (memOk_readFormats hu).fst e
    exact ite_keeps h1 (memOk_setCtx (memOk_tick h1))
  · next e _ => exact (memOk_readFormats hu).fst e

theorem memOk_execLoadkernel {fn : Nat} {p : Packet} (h : s.memOk) : OutOk (execLoadkernel fn p s) := by
  unfold execLoadkernel
  extract_lets -underBinder
  refine memOk_onCtx (fun c u hu => ?_) h
  extract_lets -underBinder
  refine ite_keeps trivial ?_
  split
  · exact memOk_virtNote hu
  · next u1 _ e1 =>
    have h1 := (memOk_virtRd hu).some e1
    have hread (x a n k) : OptOk PairOk (if n = 0 then some (u1, []) else u1.virtRd x a k) := ite_keeps (pairOk h1) (memOk_virtRd h1)
    split
    · exact memOk_virtNote h1
    · next e2 =>
      have h2 := (hread ..).some e2
      exact ite_keeps h2 (ite_keeps h2 (memOk_setCtx h2))

theorem memOk_unbrk {c : Nat} (h : s.memOk) : (s.unbrk c).memOk := memOk_upd h

theorem memOk_execActivate {fn : Nat} {p : Packet} (h : s.memOk) : OutOk (execActivate fn p s) :=
  memOk_onCtx (fun _ _ hu => memOk_settleQueues (memOk_unbrk (memOk_setCtx hu))) h

theorem memOk_execQuiesce {fn : Nat} {p : Packet} (h : s.memOk) : OutOk (execQuiesce fn p s) :=
  memOk_onCtx (fun _ _ hu => memOk_quiesced (memOk_setCtx hu)) h

theorem memOk_suspend {c : Nat} (h : s.memOk) : OptOk State.memOk (s.suspend c) := by
  unfold State.suspend
  cases e : s.preempt (s.ctxLive c) with
  | none => exact trivial
  | some t => exact memOk_setCtx ((memOk_preempt h).some e)

theorem memOk_execSuspend {fn : Nat} {p : Packet} (h : s.memOk) : OutOk (execSuspend fn p s) := by
  refine memOk_onCtx (fun x u hu => ?_) h
  split
  · exact memOk_preemptNote hu
  · next e => exact ite_keeps ((memOk_suspend hu).some e) ((memOk_suspend hu).some e)

theorem memOk_execClearerr {fn : Nat} {p : Packet} (h : s.memOk) : OutOk (execClearerr fn p s) :=
  memOk_onCtx (fun _ _ hu => memOk_setCtx hu) h

theorem memOk_execSetheadland {fn : Nat} {p : Packet} (h : s.memOk) : OutOk (execSetheadland fn p s) := by
  refine memOk_onCtx (fun x u hu => ?_) h
  split
  · exact trivial
  · exact memOk_setCtx hu

theorem memOk_placeArea {base len key : Nat} (h : s.memOk) : (s.placeArea base len key).memOk := memOk_upd h

theorem memOk_execHandlearea {fn : Nat} {p : Packet} (h : s.memOk) : OutOk (execHandlearea fn p s) := by
  unfold execHandlearea
  extract_lets -underBinder
  refine memOk_onCtx (fun c u hu => ?_) h
  exact ite_keeps trivial (ite_keeps trivial (memOk_setCtx (memOk_placeArea (memOk_meet hu))))

theorem memOk_destroyLaunch {l : Nat} (h : s.memOk) : (s.destroyLaunch l).memOk :=
  ite_keeps (memOk_modLaunch h) (ite_keeps h (memOk_modLaunch (memOk_flushHeld (memOk_dispose (memOk_stopGroups h)))))

theorem memOk_destroyCtx {c : Nat} (h : s.memOk) : (s.destroyCtx c).memOk :=
  memOk_upd (memOk_setCtx (foldl_keeps (foldl_keeps (memOk_setCtx h) fun _ _ ht => memOk_destroyLaunch ht) fun _ _ ht => memOk_setQueue ht))

theorem memOk_execDestroy {fn : Nat} {p : Packet} (h : s.memOk) : OutOk (execDestroy fn p s) :=
  memOk_onCtx (fun _ _ hu => ite_keeps hu (memOk_destroyCtx hu)) h

theorem memOk_killTensors {c : Nat} {l : List (Nat × Tensor)} (h : s.memOk) : (s.killTensors c l).memOk := by
  induction l generalizing s with
  | nil => exact h
  | cons a l ih => exact ih (ite_keeps h (ite_keeps (memOk_record h) (memOk_record h)))

theorem memOk_unbind {c : Nat} (h : s.memOk) : (s.unbind c).memOk := foldl_keeps h fun _ _ ht => ite_keeps ht (memOk_setKey ht)

theorem memOk_execTeardownComplete {c : Nat} (h : s.memOk) : OutOk (execTeardownComplete c s) :=
  ite_keeps h (memOk_setCtx (memOk_upd (memOk_freeMonitors (memOk_unbind (memOk_killTensors h)))))

theorem memOk_execImportkey {fn : Nat} {p : Packet} (h : s.memOk) : OutOk (execImportkey fn p s) := by
  unfold execImportkey
  extract_lets -underBinder
  refine memOk_finishAdm h ?_
  refine ite_keeps trivial (ite_keeps trivial (ite_keeps trivial (ite_keeps trivial ?_)))
  split
  · next e => exact (memOk_cmdRd h).fst e
  · next s1 _ e =>
    have h1 : s1.memOk := (memOk_cmdRd h).fst e
    extract_lets -underBinder n
    refine ite_keeps h1 ?_
    split
    · next e => exact (memOk_cmdRd h1).fst e
    · next s2 _ e =>
      have h2 : s2.memOk := (memOk_cmdRd h1).fst e
      extract_lets -underBinder key
      clear_value key
      split
      · exact h2
      · exact ite_keeps h2 (memOk_setKey h2)

theorem memOk_execDropkey {fn : Nat} {p : Packet} (h : s.memOk) : OutOk (execDropkey fn p s) :=
  memOk_finishAdm h (ite_keeps trivial (ite_keeps trivial (ite_keeps trivial (memOk_setKey h))))

theorem memOk_execKeyZeroizeComplete {slot : Nat} (h : s.memOk) : OutOk (execKeyZeroizeComplete slot s) := ite_keeps h (memOk_setKey h)

/-! ## The operations of Machine/Link -/

theorem memOk_execFundamentalReset (h : s.memOk) : OutOk (execFundamentalReset s) := by
  show State.memOk _
  exact memOk_upd (memFilter_sorted _ h)

theorem memOk_report1 {x : Nat} (h : s.memOk) : (s.report1 x).memOk := memOk_upd h

theorem memOk_execStartUpComplete {ok : Bool} (h : s.memOk) : OutOk (execStartUpComplete ok s) :=
  ite_keeps h (ite_keeps (memOk_upd h) (memOk_report1 (memOk_upd h)))

theorem memOk_execConfigurationRequest {aer : Bool} (h : s.memOk) : OutOk (execConfigurationRequest aer s) :=
  ite_keeps h (memOk_upd h)

theorem memOk_destroyOnce {c : Nat} (h : s.memOk) : (s.destroyOnce c).memOk := ite_keeps h (memOk_destroyCtx h)

theorem memOk_execFunctionLevelReset {fn : Nat} (h : s.memOk) : OutOk (execFunctionLevelReset fn s) :=
  ite_keeps h (memOk_setFn (foldl_keeps h fun _ _ ht => memOk_destroyOnce ht))

theorem memOk_writeTail {fn v : Nat} (h : s.memOk) : (s.writeTail fn v).memOk := ite_keeps (memOk_setFn h) h

theorem memOk_execAdmtail {fn v : Nat} (h : s.memOk) : OutOk (execAdmtail fn v s) := ite_keeps (memOk_writeTail h) h

theorem memOk_execBar0RegisterWrite {fn off v : Nat} (h : s.memOk) : OutOk (execBar0RegisterWrite fn off v s) :=
  ite_keeps h (ite_keeps (memOk_writeTail h) (ite_keeps (memOk_orOwe h (fun _ hu => memOk_ringDoor hu)) (memOk_setFn h)))

theorem memOk_barRead {link fn off : Nat} (h : s.memOk) : (s.barRead link fn off).memOk := ite_keeps h (memOk_upd h)

theorem memOk_execSpdmRequest {fn : Nat} {r : SpdmReq} (h : s.memOk) : OutOk (execSpdmRequest fn r s) :=
  ite_keeps h (ite_keeps (memOk_setFn (memOk_upd h)) (memOk_upd h))

theorem memOk_loseStream {fn : Nat} (h : s.memOk) : (s.loseStream fn).memOk :=
  foldl_keeps h fun _ _ ht => ite_keeps (memOk_destroyOnce ht) (ite_keeps (OptOk.getD (memOk_suspend ht) (memOk_preemptNote ht)) ht)

theorem memOk_execTdiStateChange {fn : Nat} {tdi : TdiState} {keyed : Bool} (h : s.memOk) : OutOk (execTdiStateChange fn tdi keyed s) :=
  ite_keeps h (memOk_hubStep (fun _ hu => ite_keeps (memOk_loseStream (memOk_setFn hu)) (memOk_setFn hu)) h)

theorem memOk_execPcieLinkUp {n : Nat} {flit : Bool} (h : s.memOk) : OutOk (execPcieLinkUp n flit s) :=
  ite_keeps (memOk_report1 h) (ite_keeps h (memOk_upd h))

theorem memOk_cfgRead {n : Nat} {r : CfgReg} (h : s.memOk) : (s.cfgRead n r).memOk := ite_keeps h (memOk_upd h)

theorem memOk_ackElems {id : Nat} {elems : List Nat} (h : s.memOk) : (s.ackElems id elems).memOk := by
  unfold State.ackElems
  split
  · exact h
  · exact memOk_landed h

theorem memOk_gotElems {id : Nat} {l : List Nat} (h : s.memOk) : (s.gotElems id l).memOk := by
  induction l generalizing s with
  | nil => exact h
  | cons a l ih =>
    refine ih ?_
    split
    · exact h
    · exact memOk_putEntry (memOk_tick h)

theorem memOk_failElem {id n code : Nat} {read : Bool} (h : s.memOk) : (s.failElem id n code read).memOk := by
  unfold State.failElem
  split
  · exact h
  · exact memOk_failCopy h

theorem memOk_ackTx {t : Tx} {elems : List Nat} (h : s.memOk) : (s.ackTx t elems).memOk :=
  ite_keeps (memOk_gotElems h) (memOk_ackElems h)

theorem memOk_ackFlits {refused : Option (Nat × Nat)} {l : List Tx} (h : s.memOk) : (s.ackFlits refused l).memOk := by
  induction l generalizing s with
  | nil => exact h
  | cons a l ih =>
    refine ih ?_
    split
    · exact ite_keeps (memOk_failElem (memOk_ackTx h)) (memOk_ackTx h)
    · exact memOk_ackTx h

theorem memOk_linkLost {n : Nat} (h : s.memOk) : (s.linkLost n).memOk := foldl_keeps (memOk_setLink h) fun _ _ ht => memOk_failElem ht

theorem memOk_execPeerwin {fn : Nat} {p : Packet} (h : s.memOk) : OutOk (execPeerwin fn p s) := by
  unfold execPeerwin
  extract_lets -underBinder
  refine memOk_onPf (fun u hu => ?_) h
  exact ite_keeps (P := Adm.memOk) trivial (memOk_upd hu)

theorem memOk_execLinkcfg {fn : Nat} {p : Packet} (h : s.memOk) : OutOk (execLinkcfg fn p s) := by
  unfold execLinkcfg
  extract_lets -underBinder
  refine memOk_onPf (fun u hu => ?_) h
  exact ite_keeps trivial (ite_keeps (ite_keeps (memOk_setLink hu) trivial) (ite_keeps trivial (memOk_setLink (memOk_linkLost hu))))

theorem memOk_execLinkTrained {n lanes domain pkg : Nat} (h : s.memOk) : OutOk (execLinkTrained n lanes domain pkg s) := by
  refine ite_keeps h ?_
  split
  · exact ite_keeps (memOk_setLink h) h
  · exact memOk_setLink h
  · exact h

theorem memOk_execLinkTrainingRetry {n : Nat} (h : s.memOk) : OutOk (execLinkTrainingRetry n s) :=
  ite_keeps h (memOk_report1 (memOk_setLink h))

theorem memOk_retrain {n : Nat} (h : s.memOk) : (s.retrain n).memOk := memOk_setLink h

theorem memOk_execLaneLoss {n : Nat} (h : s.memOk) : OutOk (execLaneLoss n s) := ite_keeps (memOk_retrain h) h

theorem memOk_replayAsked {n seq : Nat} (h : s.memOk) : (s.replayAsked n seq).memOk := by
  unfold State.replayAsked
  extract_lets -underBinder
  split
  · exact h
  · exact ite_keeps (memOk_retrain h) (memOk_setLink h)

theorem memOk_execFlitReceive {n : Nat} {flit : Flit} (h : s.memOk) : OutOk (execFlitReceive n flit s) :=
  ite_keeps h (ite_keeps (memOk_setLink h)
    (ite_keeps h (ite_keeps (memOk_replayAsked (memOk_ackFlits (memOk_setLink h))) (memOk_ackFlits (memOk_setLink h)))))

theorem memOk_execLinkTimeout {n : Nat} (h : s.memOk) : OutOk (execLinkTimeout n s) := ite_keeps h (memOk_linkLost (memOk_setLink h))

theorem memOk_peerPlace {c : Nat} {a : PeerAccess} {va : Nat} (h : s.memOk) : ExcOk PairOk PairOk (s.peerPlace c a va) := by
  unfold State.peerPlace
  extract_lets -underBinder
  split
  · next e => exact pairOk ((memOk_walk h).error e)
  · next e => exact pairOk ((memOk_walk h).ok e)
  · next e => exact ite_keeps (pairOk ((memOk_walk h).ok e)) (pairOk ((memOk_walk h).ok e))

theorem memOk_peerRun {c : Nat} {a : PeerAccess} {va : Nat} {bs : List Byte} {n : Nat} (h : s.memOk) :
    ExcOk PairOk PairOk (s.peerRun c a va bs n) := by
  unfold State.peerRun
  split
  · next e => exact (memOk_peerPlace h).error e
  · next e =>
      refine ite_keeps ?_ ?_
      · split
        · exact pairOk ((memOk_peerPlace h).ok e)
        · next e2 => exact memOk_monwReads (memOk_touches ((memOk_mainWr ((memOk_peerPlace h).ok e)).ok e2))
      · split
        · exact pairOk ((memOk_peerPlace h).ok e)
        · next e2 => exact memOk_touches ((memOk_mainRd ((memOk_peerPlace h).ok e)).ok e2)

theorem memOk_peerRuns {c : Nat} {a : PeerAccess} {l : List (Nat × Nat)} {l' : List Byte} (h : s.memOk) :
    ExcOk PairOk PairOk (s.peerRuns c a l l') := by
  induction l generalizing s l' with
  | nil => exact h
  | cons a l ih =>
    unfold State.peerRuns
    split
    · next e => exact (memOk_peerRun h).error e
    · next e =>
        split
        · next e2 => exact (ih ((memOk_peerRun h).ok e)).error e2
        · next e2 => exact pairOk ((ih ((memOk_peerRun h).ok e)).ok e2)

theorem memOk_peerTests {c : Nat} {a : PeerAccess} {l : List (Nat × Nat)} (h : s.memOk) : ExcOk PairOk State.memOk (s.peerTests c a l) := by
  induction l generalizing s with
  | nil => exact h
  | cons a l ih =>
    unfold State.peerTests
    split
    · next e => exact (memOk_peerPlace h).error e
    · next e =>
        split
        · exact pairOk ((memOk_peerPlace h).ok e)
        · next e2 => exact ih ((memOk_mainRd ((memOk_peerPlace h).ok e)).ok e2)

theorem memOk_peerSpan {c : Nat} {a : PeerAccess} {runs : List (Nat × Nat)} (h : s.memOk) : ExcOk PairOk PairOk (s.peerSpan c a runs) := by
  have htests : ExcOk PairOk State.memOk (if a.write then s.peerTests c a runs else .ok s) := ite_keeps (memOk_peerTests h) h
  unfold State.peerSpan
  split
  · next e => exact htests.error e
  · exact memOk_peerRuns h

theorem memOk_answerPeer {ok : Bool} {bs : List Byte} (h : s.memOk) : (s.answerPeer ok bs).memOk := memOk_upd h

theorem memOk_execPeerAccess {a : PeerAccess} (h : s.memOk) : OutOk (execPeerAccess a s) := by
  refine ite_keeps h (ite_keeps (memOk_answerPeer h) ?_)
  split
  · next e => exact memOk_answerPeer ((memOk_peerSpan h).ok e)
  · next e => exact memOk_answerPeer ((memOk_peerSpan h).error e)
  · next e => exact memOk_answerPeer (memOk_noteFail ((memOk_peerSpan h).error e))

/-! ## The operations of Machine/Schedule -/

theorem memOk_readAdmin {fn : Nat} (h : s.memOk) : (s.readAdmin fn).memOk := by
  unfold State.readAdmin
  extract_lets -underBinder f p s1
  have h1 : s1.memOk := memOk_setFn h
  refine ite_keeps h ?_
  split
  · exact h1
  · exact memOk_complete h1

theorem memOk_pass {ticks : Nat} (h : s.memOk) : (s.pass ticks).memOk :=
  memOk_settleAdmin (memOk_countHeadland (foldl_keeps (memOk_upd h) fun _ _ ht => memOk_setDie ht))

/-- A step of an agent keeps the memory canonical, from whatever state it is taken. -/
def Keeps (f : State → Out) : Prop := ∀ s : State, s.memOk → OutOk (f s)

theorem forall_mem_ite {α : Type} {P : α → Prop} {c : Prop} [Decidable c] {l m : List α} (hl : ∀ x ∈ l, P x) (hm : ∀ x ∈ m, P x) :
    ∀ x ∈ (if c then l else m), P x := ite_keeps (P := fun l => ∀ x ∈ l, P x) hl hm

theorem dieDue_keeps (s : State) (d : Nat) : ∀ p ∈ s.dieDue d, Keeps p.2 := by
  unfold State.dieDue
  simp only [List.forall_mem_append]
  refine ⟨⟨⟨?_, ?_⟩, ?_⟩, forall_mem_ite ?_ ?_⟩
  · exact List.forall_mem_map.2 fun _ _ _ h => memOk_execRelockEnd h
  · exact List.forall_mem_map.2 fun _ _ _ h => memOk_execBoostFallStep h
  · exact List.forall_mem_singleton.2 fun _ h => memOk_execClockBoundary h
  · exact List.forall_mem_nil _
  · exact List.forall_mem_singleton.2 fun _ h => memOk_execPermitRefill h

theorem dues_keep (s : State) : ∀ p ∈ s.dues, Keeps p.2 := by
  unfold State.dues
  simp only [List.forall_mem_append]
  refine ⟨⟨?_, forall_mem_ite ?_ ?_⟩, forall_mem_ite ?_ (forall_mem_ite ?_ ?_)⟩
  · exact List.forall_mem_flatMap.2 fun d _ => dieDue_keeps s d
  · exact List.forall_mem_nil _
  · exact List.forall_mem_singleton.2 fun _ h => memOk_execHotnessEpoch h
  · exact List.forall_mem_singleton.2 fun _ h => memOk_execCapExpiry h
  · exact List.forall_mem_singleton.2 fun _ h => memOk_execCapFloorStep h
  · exact List.forall_mem_nil _

theorem earliest_mem {l : List (Nat × (State → Out))} {p : Nat × (State → Out)} (h : earliest l = some p) : p ∈ l := by
  induction l generalizing p with
  | nil => exact absurd h (by simp [earliest])
  | cons e l ih =>
    unfold earliest at h
    split at h
    · exact List.mem_cons.2 (.inl (Option.some.inj h).symm)
    · next f hf =>
      split at h
      · exact List.mem_cons.2 (.inl (Option.some.inj h).symm)
      · exact List.mem_cons.2 (.inr (Option.some.inj h ▸ ih hf))

theorem memOk_elapse {ticks : Nat} (h : s.memOk) : OutOk (s.elapse ticks) := by
  unfold State.elapse
  split
  · exact memOk_pass h
  · next f e =>
    exact ite_keeps (dues_keep s _ (earliest_mem e) _ (memOk_upd h)) (memOk_pass h)

theorem memOk_hostMain {pa n : Nat} {r : Except (MemFail × Nat) State} (h : s.memOk) (hr : ExcOk AnyOk State.memOk r) :
    (s.hostMain pa n r).memOk := by
  refine ite_keeps h ?_
  split
  · exact memOk_noteFail h
  · exact memOk_touches hr

theorem memOk_flipBits {pa n : Nat} (h : s.memOk) : (s.flipBits pa n).memOk := by
  unfold State.flipBits
  split
  · exact h
  · exact memOk_upd h

theorem memOk_misplaceSector {pa other : Nat} (h : s.memOk) : (s.misplaceSector pa other).memOk := by
  unfold State.misplaceSector
  split
  · exact h
  · exact memOk_upd h

theorem memOk_alterThread {r : TRef} {st : Altered} {f : Thread → Thread} (h : s.memOk) : (s.alterThread r st f).memOk :=
  ite_keeps h (memOk_modThread h)

theorem memOk_alterGroup {g : Nat} {bars : List NBar} {chans : List Chan} {rdvs : List Rdv} (h : s.memOk) :
    (s.alterGroup g bars chans rdvs).memOk :=
  ite_keeps h (memOk_modGroup h)

theorem memOk_issueTurn {c : Nat} (h : s.memOk) : PairOk (s.issueTurn c) := by
  unfold State.issueTurn
  extract_lets -underBinder
  split
  · next e => exact pairOk (PairOk.fst (memOk_pick (foldl_keeps h fun _ _ ht => memOk_reserveCell ht)) e)

theorem Act.memOk_opt {i : Option Instr} (h : s.memOk) : (Act.opt s i).memOk := by
  cases i with
  | none => exact h
  | some i => exact h

theorem memOk_mismatchTurn {c lanes : Nat} (h : s.memOk) : (s.mismatchTurn c lanes).memOk := by
  unfold State.mismatchTurn
  split
  next s1 i e =>
  have h1 : s1.memOk := (memOk_issueTurn h).fst e
  extract_lets -underBinder checked
  clear_value checked
  exact ite_keeps (Act.memOk_opt (memOk_upd h1)) (Act.memOk_opt h1)

theorem ExcOk.map {ε α β : Type} {P : ε → Prop} {Q : α → Prop} {R : β → Prop} {x : Except ε α} {f : α → β} (h : ExcOk P Q x)
    (hf : ∀ a, Q a → R (f a)) : ExcOk P R (x.map f) := by
  cases x with
  | error _ => exact h
  | ok a => exact hf a h

theorem memOk_turn {t : Turn} (h : s.memOk) : (s.turn t).memOk := by
  cases t with
  | issue c => exact Act.memOk_opt (memOk_issueTurn h)
  | event i => exact ite_keeps (P := Act.memOk) h h
  | admin fn =>
    unfold State.turn
    exact memOk_readAdmin h
  | drain n => exact memOk_drain h
  | arrive n => exact memOk_arrive h
  | elapse n => exact memOk_elapse h
  | hostWrite a bs => exact memOk_homeWr h
  | mainRead pa n key tag => exact memOk_hostMain h ((memOk_mainRd h).map fun _ hp => hp)
  | mainWrite pa bs key tag => exact memOk_hostMain h ((memOk_mainWr h).map fun _ hu => memOk_monwReads hu)
  | bitError pa n => exact memOk_flipBits h
  | misplace pa o => exact memOk_misplaceSector h
  | alterThread g t pc base level sp tag st outs => exact memOk_alterThread h
  | alterGroup g bars chans rdvs => exact memOk_alterGroup h
  | barRead link fn off => exact memOk_barRead h
  | cfgRead link r => exact memOk_cfgRead h
  | mismatch c lanes => exact memOk_mismatchTurn h

theorem threadChores_keep (s : State) (r : TRef) : ∀ f ∈ s.threadChores r, Keeps f := by
  unfold State.threadChores
  refine List.forall_mem_append.2 ⟨List.forall_mem_map.2 fun _ _ _ h => memOk_execResultWriteback h, ?_⟩
  split
  · exact List.forall_mem_singleton.2 fun _ h => memOk_execBackoffExpiry h
  · exact List.forall_mem_singleton.2 fun _ h => memOk_execMonwTimeout h
  · exact List.forall_mem_singleton.2 fun _ h => memOk_execBalidleTimeout h
  · exact List.forall_mem_nil _

theorem groupChores_keep (s : State) (g : Nat) : ∀ f ∈ s.groupChores g, Keeps f := by
  unfold State.groupChores
  have hthreads : ∀ f ∈ (s.refs g).flatMap s.threadChores, Keeps f := List.forall_mem_flatMap.2 fun r _ => threadChores_keep s r
  split
  · exact List.forall_mem_cons.2 ⟨fun _ h => memOk_execGroupSaveComplete h, hthreads⟩
  · refine List.forall_mem_cons.2 ⟨fun _ h => memOk_execGroupPlace h, forall_mem_ite (List.forall_mem_nil _) ?_⟩
    exact List.forall_mem_singleton.2 fun _ h => memOk_execSlotLazySave h
  · exact hthreads
  · exact List.forall_mem_nil _

theorem coreChores_keep (s : State) (c : Nat) : ∀ f ∈ s.coreChores c, Keeps f := by
  unfold State.coreChores
  simp only [List.forall_mem_append]
  refine ⟨⟨⟨List.forall_mem_flatMap.2 fun q _ => List.forall_mem_append.2
    ⟨forall_mem_ite (List.forall_mem_nil _) ?_, forall_mem_ite (List.forall_mem_nil _) ?_⟩,
    forall_mem_ite (List.forall_mem_nil _) ?_⟩, forall_mem_ite (List.forall_mem_nil _) ?_⟩, forall_mem_ite ?_ (List.forall_mem_nil _)⟩
  · exact List.forall_mem_singleton.2 fun _ h => memOk_execDrillFetch h
  · simp only [List.forall_mem_cons]
    exact ⟨fun _ h => memOk_execCopyElement h, fun _ h => memOk_execTransposerBlock h, fun _ h => memOk_execReductionElement h,
      fun _ h => memOk_execCopyComplete h, List.forall_mem_nil _⟩
  · simp only [List.forall_mem_cons]
    exact ⟨fun _ h => memOk_execHarrowMld h, fun _ h => memOk_execHrecAtTarget h, List.forall_mem_nil _⟩
  · simp only [List.forall_mem_cons]
    exact ⟨fun _ h => memOk_execHbindAtHome h, fun _ h => memOk_execHandlePostApply h, List.forall_mem_nil _⟩
  · exact List.forall_mem_singleton.2 fun _ h => memOk_execPreemptHoldExpiry h

theorem clusterChores_keep (x : Cluster) (cl : Nat) : ∀ f ∈ x.chores cl, Keeps f := by
  unfold Cluster.chores
  simp only [List.forall_mem_append]
  refine ⟨⟨⟨forall_mem_ite (List.forall_mem_nil _) ?_, forall_mem_ite (List.forall_mem_nil _) ?_⟩,
    forall_mem_ite (List.forall_mem_nil _) ?_⟩, forall_mem_ite (List.forall_mem_nil _) ?_⟩
  · exact List.forall_mem_singleton.2 fun _ h => memOk_execServiceMessageAccept h
  · exact List.forall_mem_singleton.2 fun _ h => memOk_execServiceFurrowPerform h
  · exact List.forall_mem_singleton.2 fun _ h => memOk_execHnewAtHome h
  · exact List.forall_mem_singleton.2 fun _ h => memOk_execCellCreate h

theorem launchChores_keep (s : State) (l : Nat) : ∀ f ∈ s.launchChores l, Keeps f := by
  unfold State.launchChores
  refine List.forall_mem_append.2 ⟨?_, List.forall_mem_map.2 fun _ _ _ h => memOk_execSnapshotPageCopy h⟩
  split
  · simp only [List.forall_mem_cons]
    exact ⟨fun _ h => memOk_execLeafReread h, fun _ h => memOk_execPageRequestRepost h, List.forall_mem_nil _⟩
  · exact List.forall_mem_singleton.2 fun _ h => memOk_mark h
  · simp only [List.forall_mem_cons]
    exact ⟨fun _ h => memOk_execGroupPlace h, fun _ h => memOk_execPlacementPreempt h, fun _ h => memOk_execPlacementReserve h,
      List.forall_mem_nil _⟩
  · exact List.forall_mem_singleton.2 fun _ h => memOk_execLaunchDrained h
  · exact List.forall_mem_singleton.2 fun _ h => memOk_execRollbackComplete h
  · exact List.forall_mem_singleton.2 fun _ h => memOk_execLaunchFinish h
  · exact List.forall_mem_nil _

theorem ctxChores_keep (s : State) (c : Nat) : ∀ f ∈ s.ctxChores c, Keeps f := by
  unfold State.ctxChores
  simp only [List.forall_mem_append]
  refine ⟨⟨List.forall_mem_map.2 fun _ _ _ h => memOk_execBinTimer h,
    List.forall_mem_map.2 fun _ _ _ h => memOk_execTensorRetagComplete h⟩, forall_mem_ite ?_ (List.forall_mem_nil _)⟩
  exact List.forall_mem_singleton.2 fun _ h => memOk_execTeardownComplete h

/-- A chore that is a step of an agent is one that keeps the memory canonical; one that is a turn is judged by the turn. -/
def Chore.Keeps : Chore → Prop
  | .turn _ => True
  | .step f => Machine.Keeps f

theorem chores_keep (s : State) : ∀ c ∈ s.chores, c.Keeps := by
  unfold State.chores
  simp only [List.forall_mem_append]
  refine ⟨⟨⟨⟨⟨List.forall_mem_map.2 fun _ _ => trivial, List.forall_mem_map.2 fun _ _ => trivial⟩, List.forall_mem_map.2 fun _ _ => trivial⟩,
    List.forall_mem_map.2 fun _ _ => trivial⟩, List.forall_mem_map.2 ?_⟩, List.forall_mem_singleton.2 trivial⟩
  simp only [List.forall_mem_append]
  refine ⟨⟨⟨⟨⟨⟨⟨⟨⟨⟨?_, ?_⟩, ?_⟩, ?_⟩, ?_⟩, ?_⟩, forall_mem_ite (List.forall_mem_nil _) ?_⟩,
    forall_mem_ite (List.forall_mem_nil _) ?_⟩, ?_⟩, forall_mem_ite (List.forall_mem_nil _) ?_⟩, ?_⟩
  · exact List.forall_mem_flatMap.2 fun g _ => groupChores_keep s g
  · exact List.forall_mem_flatMap.2 fun c _ => coreChores_keep s c
  · exact List.forall_mem_flatMap.2 fun p _ => clusterChores_keep p.2 p.1
  · exact List.forall_mem_map.2 fun _ _ _ h => memOk_execMEntryPerform h
  · exact List.forall_mem_flatMap.2 fun l _ => launchChores_keep s l
  · exact List.forall_mem_flatMap.2 fun c _ => ctxChores_keep s c
  · exact List.forall_mem_singleton.2 fun _ h => memOk_execDispatchPick h
  · exact List.forall_mem_singleton.2 fun _ h => memOk_execSlewGrant h
  · exact List.forall_mem_map.2 fun _ _ _ h => memOk_execFmtsetInstall h
  · exact List.forall_mem_singleton.2 fun _ h => memOk_execHandlePostApply h
  · exact List.forall_mem_map.2 fun _ _ _ h => memOk_execKeyZeroizeComplete h

/-- One of the chores in rotation, or the turn that stands in for none. -/
theorem chore_keeps (s : State) (n : Nat) (t : Turn) : (s.chores.getD n (.turn t)).Keeps := by
  rw [List.getD_eq_getElem?_getD]
  cases e : s.chores[n]? with
  | none => exact trivial
  | some c => exact chores_keep s c (List.mem_of_getElem? e)

theorem memOk_act (h : s.memOk) : s.act.memOk := by
  unfold State.act
  split
  · exact memOk_turn (memOk_upd h)
  · extract_lets -underBinder r
    have hr : r.memOk := memOk_upd h
    have hc := chore_keeps s (s.turnNo % s.chores.length) (.elapse 1)
    split
    · exact memOk_turn hr
    · next e => rw [e] at hc; exact hc r hr

/-! ## The operations of Machine/Step -/

/-- Every row of the instruction table keeps the memory canonical. -/
theorem memOk_exec {i : Instr} (h : s.memOk) : OutOk (exec i s) := by
  cases i with
  | add | sub | mul | mulh | mulhu | and | or | xor | min | max | minu | maxu | bfe | addH2 | subH2 | maxH2 | minH2 | maxuH2 | minuH2 | packH2
  | fmin | fmax | fcmp =>
    exact memOk_fixed2 h
  | andn sw d a b => exact (memOk_fixed2 h : OutOk (execAndn sw d a b s))
  | shl sw d a b => exact (memOk_fixed2 h : OutOk (execShl sw d a b s))
  | shr sw d a b => exact (memOk_fixed2 h : OutOk (execShr sw d a b s))
  | sra sw d a b => exact (memOk_fixed2 h : OutOk (execSra sw d a b s))
  | rot sw d a b => exact (memOk_fixed2 h : OutOk (execRot sw d a b s))
  | seq sw d a b => exact (memOk_fixed2 h : OutOk (execSeq sw d a b s))
  | sne sw d a b => exact (memOk_fixed2 h : OutOk (execSne sw d a b s))
  | slt sw d a b => exact (memOk_fixed2 h : OutOk (execSlt sw d a b s))
  | sltu sw d a b => exact (memOk_fixed2 h : OutOk (execSltu sw d a b s))
  | bfi | fsel => exact memOk_fixed3 h
  | mad sw d a b => exact (memOk_fixed3 h : OutOk (execMad sw d a b s))
  | sel sw d a b => exact (memOk_fixed3 h : OutOk (execSel sw d a b s))
  | clz | popc | brev => exact memOk_fixed1 h
  | shli sw d a n => exact (memOk_fixed1 h : OutOk (execShli sw d a n s))
  | shri sw d a n => exact (memOk_fixed1 h : OutOk (execShri sw d a n s))
  | srai sw d a n => exact (memOk_fixed1 h : OutOk (execSrai sw d a n s))
  | roti sw d a n => exact (memOk_fixed1 h : OutOk (execRoti sw d a n s))
  | addi sw d a im => exact (memOk_fixed1 h : OutOk (execAddi sw d a im s))
  | andi sw d a im => exact (memOk_fixed1 h : OutOk (execAndi sw d a im s))
  | ori sw d a im => exact (memOk_fixed1 h : OutOk (execOri sw d a im s))
  | xori sw d a im => exact (memOk_fixed1 h : OutOk (execXori sw d a im s))
  | slti sw d a im => exact (memOk_fixed1 h : OutOk (execSlti sw d a im s))
  | sltiu sw d a im => exact (memOk_fixed1 h : OutOk (execSltiu sw d a im s))
  | fabs sw d a => exact (memOk_fixed1 h : OutOk (execFabs sw d a s))
  | fneg sw d a => exact (memOk_fixed1 h : OutOk (execFneg sw d a s))
  | divu | remu => exact memOk_var2 h
  | add64 | mul64 => exact memOk_fixedPair h
  | sub64 sw d a b => exact (memOk_fixedPair h : OutOk (execSub64 sw d a b s))
  | shl64 sw d a b => exact (memOk_fixedShift h : OutOk (execShl64 sw d a b s))
  | shr64 sw d a b => exact (memOk_fixedShift h : OutOk (execShr64 sw d a b s))
  | ptr => exact memOk_execPtr h
  | ptrsp | ptrrk | ptrof => exact memOk_ptrField h
  | acsH2 => exact memOk_execAcsH2 h
  | movhi => exact memOk_execMovhi h
  | bcc => exact memOk_execBcc h
  | jmp => exact memOk_execJmp h
  | call => exact memOk_execCall h
  | jmpr => exact memOk_execJmpr h
  | callr => exact memOk_execCallr h
  | ret => exact memOk_execRet h
  | exit => exact memOk_execExit h
  | yield => exact memOk_execYield h
  | nop => exact memOk_execNop h
  | winb => exact memOk_execWinb h
  | elect => exact memOk_execElect h
  | fsync => exact memOk_execFsync h
  | fshfl => exact memOk_execFshfl h
  | fballot => exact memOk_execFballot h
  | poll => exact memOk_execPoll h
  | ld => exact memOk_execLd h
  | st => exact memOk_execSt h
  | ldf => exact memOk_execLdf h
  | stf => exact memOk_execStf h
  | lds => exact memOk_execLds h
  | sts => exact memOk_execSts h
  | fadd | fsub | fmul | hadd2B | hmul2B | hadd2F | hmul2F => exact memOk_flt2 h
  | ffma | hfma2B | hfma2F => exact memOk_flt3 h
  | frcp | frsq | fsqrt | fexp2 | flog2 | fsin | fcos => exact memOk_fltVar1 h
  | fdiv => exact memOk_execFdiv h
  | cvti => exact memOk_cvtInt h
  | cvtu sw d a v r => exact (memOk_cvtInt h : OutOk (execCvtu sw d a v r s))
  | cvta => exact memOk_execCvta h
  | cvtf => exact memOk_execCvtf h
  | cvtn => exact memOk_execCvtn h
  | fmtset sw a b => exact memOk_execFmtset (sw := sw) h
  | fmtget => exact memOk_execFmtget h
  | fmtgetSt => exact memOk_execFmtgetSt h
  | fmtchk => exact memOk_execFmtchk h
  | aadd | aand | aor | axor | amin | amax | aminu | amaxu | axchg | acas | acas64 | acas128 | afadd | afaddB2 | ald | ast => exact memOk_atom h
  | phase => exact memOk_execPhase h
  | fence => exact memOk_execFence h
  | qfence => exact memOk_execQfence h
  | monw => exact memOk_execMonw h
  | barinit => exact memOk_execBarinit h
  | barinitM => exact memOk_execBarinitM h
  | bararr => exact memOk_execBararr h
  | bararrM => exact memOk_execBararrM h
  | barwait => exact memOk_execBarwait h
  | barwaitM => exact memOk_execBarwaitM h
  | barsync => exact memOk_execBarsync h
  | barsyncM => exact memOk_execBarsyncM h
  | barexpM => exact memOk_execBarexpM h
  | gbar => exact memOk_execGbar h
  | chinit => exact memOk_execChinit h
  | chpush => exact memOk_execChpush h
  | chpop => exact memOk_execChpop h
  | chres => exact memOk_execChres h
  | chpub => exact memOk_execChpub h
  | chpoll => exact memOk_execChpoll h
  | ckick => exact memOk_execCkick h
  | ctagwAny => exact memOk_execCtagwAny h
  | ctagwAll => exact memOk_execCtagwAll h
  | ctagff => exact memOk_execCtagff h
  | ctagclr => exact memOk_execCtagclr h
  | cstat => exact memOk_execCstat h
  | mzero => exact memOk_execMzero h
  | mmaP => exact memOk_execMmaP h
  | mmaC => exact memOk_execMmaC h
  | mrd => exact memOk_execMrd h
  | mwr => exact memOk_execMwr h
  | mstore => exact memOk_execMstore h
  | mstoreS => exact memOk_execMstoreS h
  | mqnt => exact memOk_execMqnt h
  | had => exact memOk_execHad h
  | mchk => exact memOk_execMchk h
  | mwait => exact memOk_execMwait h
  | sclaim => exact memOk_execSclaim h
  | srel => exact memOk_execSrel h
  | mld => exact memOk_execMld h
  | sinfo => exact memOk_execSinfo h
  | hnew => exact memOk_execHnew h
  | hsplit => exact memOk_execHsplit h
  | hdrop => exact memOk_execHdrop h
  | hrec => exact memOk_execHrec h
  | hinfo => exact memOk_execHinfo h
  | hbind => exact memOk_execHbind h
  | pcls => exact memOk_execPcls h
  | burn => exact memOk_execBurn h
  | balidle => exact memOk_execBalidle h
  | ykrd => exact memOk_execYkrd h
  | permits => exact memOk_execPermits h
  | sysrd => exact memOk_execSysrd h
  | syswr => exact memOk_execSyswr h
  | trap sw a b => exact memOk_execTrap (sw := sw) h
  | errrd => exact memOk_execErrrd h
  | clkrd => exact memOk_execClkrd h
  | clkrdNom => exact memOk_execClkrdNom h
  | refrd => exact memOk_execRefrd h
  | moncfg => exact memOk_execMoncfg h
  | monrd => exact memOk_execMonrd h
  | brk => exact memOk_execBrk h
  | nrec => exact memOk_execNrec h
  | binflush => exact memOk_execBinflush h
  | enq => exact memOk_execEnq h
  | create => exact memOk_execCreate h
  | loadkernel => exact memOk_execLoadkernel h
  | activate => exact memOk_execActivate h
  | quiesce => exact memOk_execQuiesce h
  | suspend => exact memOk_execSuspend h
  | snappool => exact memOk_execSnappool h
  | destroy => exact memOk_execDestroy h
  | clearerr => exact memOk_execClearerr h
  | importkey => exact memOk_execImportkey h
  | setheadland => exact memOk_execSetheadland h
  | dropkey => exact memOk_execDropkey h
  | qopen => exact memOk_execQopen h
  | qclose => exact memOk_execQclose h
  | qstop => exact memOk_execQstop h
  | qstart => exact memOk_execQstart h
  | preempt => exact memOk_execPreempt h
  | pagehold => exact memOk_execPagehold h
  | tagset => exact memOk_execTagset h
  | notifyring => exact memOk_execNotifyring h
  | hotcfg => exact memOk_execHotcfg h
  | handlearea => exact memOk_execHandlearea h
  | pwrcfg => exact memOk_execPwrcfg h
  | peerwin => exact memOk_execPeerwin h
  | linkcfg => exact memOk_execLinkcfg h
  | startUpComplete => exact memOk_execStartUpComplete h
  | configurationRequest => exact memOk_execConfigurationRequest h
  | functionLevelReset => exact memOk_execFunctionLevelReset h
  | admtail => exact memOk_execAdmtail h
  | bar0RegisterWrite => exact memOk_execBar0RegisterWrite h
  | doorbell => exact memOk_execDoorbell h
  | spdmRequest => exact memOk_execSpdmRequest h
  | tdiStateChange => exact memOk_execTdiStateChange h
  | pcieLinkDown => exact memOk_upd h
  | rackCapMessage => exact memOk_execRackCapMessage h
  | dependenceReread => exact memOk_execDependenceReread h
  | deadlineMissed => exact memOk_execDeadlineMissed h
  | hang => exact memOk_execHang h
  | yokeSample => exact memOk_execYokeSample h
  | yokeThrottleStep => exact memOk_execYokeThrottleStep h
  | powerPeriod => exact memOk_execPowerPeriod h
  | monitorSample => exact memOk_execMonitorSample h
  | pageholdDrained => exact memOk_execPageholdDrained h
  | linkTrained => exact memOk_execLinkTrained h
  | linkTrainingRetry => exact memOk_execLinkTrainingRetry h
  | flitReceive => exact memOk_execFlitReceive h
  | laneLoss => exact memOk_execLaneLoss h
  | linkTimeout => exact memOk_execLinkTimeout h
  | peerAccess => exact memOk_execPeerAccess h
  | pcieLinkUp => exact memOk_execPcieLinkUp h
  | scrub => exact memOk_execScrub h
  | relockEnd => exact memOk_execRelockEnd h
  | boostFallStep => exact memOk_execBoostFallStep h
  | clockBoundary => exact memOk_execClockBoundary h
  | permitRefill => exact memOk_execPermitRefill h
  | leafReread => exact memOk_execLeafReread h
  | pageRequestRepost => exact memOk_execPageRequestRepost h
  | markingResume => exact memOk_mark h
  | placementPreempt => exact memOk_execPlacementPreempt h
  | placementReserve => exact memOk_execPlacementReserve h
  | groupSaveComplete => exact memOk_execGroupSaveComplete h
  | slotLazySave => exact memOk_execSlotLazySave h
  | preemptHoldExpiry => exact memOk_execPreemptHoldExpiry h
  | launchDrained => exact memOk_execLaunchDrained h
  | launchFinish => exact memOk_execLaunchFinish h
  | rollbackComplete => exact memOk_execRollbackComplete h
  | snapshotPageCopy => exact memOk_execSnapshotPageCopy h
  | binTimer => exact memOk_execBinTimer h
  | resultWriteback => exact memOk_execResultWriteback h
  | backoffExpiry => exact memOk_execBackoffExpiry h
  | monwTimeout => exact memOk_execMonwTimeout h
  | serviceMessageAccept => exact memOk_execServiceMessageAccept h
  | serviceFurrowPerform => exact memOk_execServiceFurrowPerform h
  | drillFetch => exact memOk_execDrillFetch h
  | copyElement => exact memOk_execCopyElement h
  | transposerBlock => exact memOk_execTransposerBlock h
  | reductionElement => exact memOk_execReductionElement h
  | copyComplete => exact memOk_execCopyComplete h
  | mEntryPerform => exact memOk_execMEntryPerform h
  | harrowMld => exact memOk_execHarrowMld h
  | hnewAtHome => exact memOk_execHnewAtHome h
  | hrecAtTarget => exact memOk_execHrecAtTarget h
  | hbindAtHome => exact memOk_execHbindAtHome h
  | handlePostApply => exact memOk_execHandlePostApply h
  | cellCreate => exact memOk_execCellCreate h
  | tensorRetagComplete => exact memOk_execTensorRetagComplete h
  | fmtsetInstall => exact memOk_execFmtsetInstall h
  | balidleTimeout => exact memOk_execBalidleTimeout h
  | keyZeroizeComplete => exact memOk_execKeyZeroizeComplete h
  | teardownComplete => exact memOk_execTeardownComplete h
  | fundamentalReset => exact memOk_execFundamentalReset h
  | capExpiry => exact memOk_execCapExpiry h
  | capFloorStep => exact memOk_execCapFloorStep h
  | dispatchPick => exact memOk_execDispatchPick h
  | groupPlace => exact memOk_execGroupPlace h
  | slewGrant => exact memOk_execSlewGrant h
  | hotnessEpoch => exact memOk_execHotnessEpoch h
  | illegalInstruction => exact memOk_raiseFaults h

theorem memOk_step (h : s.memOk) : OutOk (step s) := by
  have hact := memOk_act h
  unfold step
  split
  · next e => rw [e] at hact; exact memOk_exec hact
  · next e => rw [e] at hact; exact hact

end Sys2Proof.Machine
end

section
open Sys2Proof Sys2Proof.Machine

/-- Settles O59, by the lemma of each operation that a turn or the row of an instruction is made of. -/
theorem everyStepKeepsMemoryCanonical : Obligations.EveryStepKeepsMemoryCanonical :=
  fun _ _ hs ht => (memOk_step hs).next ht

end

section
/-! What an access of the hub leaves unchanged (R72, R310, R318, R323, R349): walks, reads, writes, notifications and records change memory and its
sectors, the counts of the notification ring, the vectors, what the hub owes, and of a context its sticky register and the marks on its handle
entries. One lemma for an operation, `hubOnly_` and its name, says so. -/

namespace Sys2Proof.Machine

/-- A context without what faults, waits and writes over its handle area change in it. -/
def Ctx.base (x : Ctx) : Ctx := { x with sticky := 0, headland := 0, tensors := [], cells := [] }

/-- The module without what an access of the hub may change. -/
def State.apart (s : State) : State :=
  { s with mem := [], sectors := [], dies := [], ctxs := [], owed := [], hubWaits := false, notifyProduced := 0, notifyLost := 0, vectors := [] }

/-- The second state differs from the first in what accesses of the hub change. -/
structure HubOnly (u s : State) : Prop where
  rest : s.apart = u.apart
  ctx : ∀ c, (s.ctx c).base = (u.ctx c).base

/-- The same, for a state answered with something beside it. -/
def HubPair (u : State) {β : Type} (p : State × β) : Prop := HubOnly u p.1

variable {u s : State}

theorem HubOnly.refl (s : State) : HubOnly s s := ⟨rfl, fun _ => rfl⟩

theorem HubOnly.trans {t : State} (h : HubOnly u s) (g : HubOnly s t) : HubOnly u t :=
  ⟨g.rest.trans h.rest, fun c => (g.ctx c).trans (h.ctx c)⟩

theorem HubOnly.queues (h : HubOnly u s) : s.queues = u.queues := (congrArg State.queues h.rest :)
theorem HubOnly.queue (h : HubOnly u s) (q : Nat) : s.queue q = u.queue q := by rw [State.queue, h.queues, State.queue]

/-- An update of nothing but parts that an access of the hub may change; of contexts, of none. -/
theorem HubOnly.upd {t : State} (h : HubOnly u s) (hr : t.apart = s.apart) (hc : t.ctxs = s.ctxs) : HubOnly u t :=
  h.trans ⟨hr, fun c => by rw [State.ctx, hc, State.ctx]⟩

theorem HubPair.fst {β : Type} {p : State × β} {t : State} {b : β} (h : HubPair u p) (e : p = (t, b)) : HubOnly u t := by
  subst e
  exact h

/-! ## Contexts -/

theorem tget_map_snd {α : Type} {d : α} {f : α → α} (hd : f d = d) (l : List (Nat × α)) (k : Nat) :
    tget d (l.map fun p => (p.1, f p.2)) k = f (tget d l k) := by
  induction l with
  | nil => exact hd.symm
  | cons p l ih =>
    simp only [List.map_cons, tget]
    split
    · rfl
    · exact ih

@[simp] theorem Ctx.base_sticky (x : Ctx) (v : BitVec 128) : Ctx.base { x with sticky := v } = x.base := rfl
@[simp] theorem Ctx.base_headland (x : Ctx) (v : Nat) : Ctx.base { x with headland := v } = x.base := rfl

theorem Ctx.base_overwrite (x : Ctx) (pa n : Nat) : (x.overwrite pa n).base = x.base := by
  unfold Ctx.overwrite
  split
  · rfl
  · refine ite_keeps (P := fun y : Ctx => y.base = x.base) rfl (foldl_keeps (P := fun y : Ctx => y.base = x.base) rfl fun y i hy => ?_)
    exact ite_keeps (P := fun y : Ctx => y.base = x.base) hy (ite_keeps (P := fun y : Ctx => y.base = x.base) hy hy)

theorem ctx_overwrite (s : State) (pa n c : Nat) : (s.overwrite pa n).ctx c = (s.ctx c).overwrite pa n :=
  tget_map_snd (d := ({} : Ctx)) (f := fun x => x.overwrite pa n) rfl s.ctxs c

theorem hubOnly_overwrite {pa n : Nat} (h : HubOnly u s) : HubOnly u (s.overwrite pa n) :=
  h.trans ⟨rfl, fun c => by rw [ctx_overwrite, Ctx.base_overwrite]⟩

theorem base_setCtx {c : Nat} {x : Ctx} (hx : x.base = (s.ctx c).base) (d : Nat) : ((s.setCtx c x).ctx d).base = (s.ctx d).base := by
  by_cases hd : d = c
  · rw [hd, ctx_setCtx, hx]
  · rw [ctx_setCtx_ne _ _ hd]

theorem hubOnly_setCtx {c : Nat} {x : Ctx} (hx : x.base = (s.ctx c).base) (h : HubOnly u s) : HubOnly u (s.setCtx c x) :=
  h.trans ⟨rfl, base_setCtx hx⟩

/-! ## Memory and notifications -/

theorem hubOnly_wrs {a : Nat} {bs : List Byte} (h : HubOnly u s) : HubOnly u (s.wrs a bs) := h.upd rfl rfl

theorem hubOnly_setDie {d : Nat} {x : Die} (h : HubOnly u s) : HubOnly u (s.setDie d x) := h.upd rfl rfl

theorem hubOnly_meet {a : Nat} (h : HubOnly u s) : HubOnly u (s.meet a) := ite_keeps h (h.upd rfl rfl)

theorem hubOnly_raise {fn v : Nat} (h : HubOnly u s) : HubOnly u (s.raise fn v) := ite_keeps (h.upd rfl rfl) h

theorem hubOnly_underPair {key n : Nat} (h : HubOnly u s) : HubOnly u (s.underPair key n) := by
  unfold State.underPair
  split
  · exact h
  · exact ite_keeps h (h.upd rfl rfl)

theorem hubOnly_encodeSectors {key : Nat} {l : List Nat} (h : HubOnly u s) : HubOnly u (s.encodeSectors key l) := by
  induction l generalizing s with
  | nil => exact h
  | cons n l ih =>
    unfold State.encodeSectors
    split
    · exact ite_keeps (ih (h.upd rfl rfl)) (ih (hubOnly_underPair h))
    · exact ih (h.upd rfl rfl)

theorem hubOnly_ownSectors {l : List Nat} (h : HubOnly u s) : HubOnly u (s.ownSectors l) := by
  induction l generalizing s with
  | nil => exact h
  | cons n l ih =>
    unfold State.ownSectors
    split
    · exact ih h
    · exact ih (h.upd rfl rfl)

theorem hubOnly_ownWr {pa : Nat} {bs : List Byte} (h : HubOnly u s) : HubOnly u (s.ownWr pa bs) := hubOnly_wrs (hubOnly_ownSectors h)

theorem hubOnly_post {kind addr info ctx : Nat} (h : HubOnly u s) : HubOnly u (s.post kind addr info ctx) := by
  unfold State.post
  split
  · exact h.upd rfl rfl
  · next cb lg _ =>
    have hentry (bs) (n) : HubOnly u (({ s.ownWr (cb + 64 + 32 * (s.notifyProduced % 2 ^ lg)) bs with notifyProduced := n } : State).ownWr cb (bytesOf 8 n)) :=
      hubOnly_ownWr ((hubOnly_ownWr h).upd rfl rfl)
    exact ite_keeps (h.upd rfl rfl) (ite_keeps (hubOnly_ownWr (h.upd rfl rfl)) (ite_keeps (hubOnly_raise (hentry ..)) (hentry ..)))

theorem hubOnly_correct {l : List Nat} (h : HubOnly u s) : HubOnly u (s.correct l) := by
  induction l generalizing s with
  | nil => exact h
  | cons n l ih =>
    unfold State.correct
    split
    · next x _ =>
      have hcount (d) (y) : HubOnly u (({ s with sectors := tset s.sectors n { x with errors := 0 } } : State).setDie d y) :=
        hubOnly_setDie (h.upd rfl rfl)
      exact ite_keeps (ih (ite_keeps (hubOnly_post (hcount ..)) (hcount ..))) (ih h)
    · exact ih h

theorem hubOnly_mainRd {pa n key tag : Nat} (h : HubOnly u s) : ExcOk AnyOk (HubPair u) (s.mainRd pa n key tag) := by
  refine ite_keeps trivial ?_
  split
  · exact trivial
  · exact hubOnly_correct h

theorem hubOnly_mainWr {pa : Nat} {bs : List Byte} {key tag : Nat} (h : HubOnly u s) : ExcOk AnyOk (HubOnly u) (s.mainWr pa bs key tag) := by
  refine ite_keeps trivial ?_
  split
  · exact trivial
  · exact hubOnly_overwrite (hubOnly_wrs (hubOnly_encodeSectors (hubOnly_correct h)))

/-! ## Accesses at a context's virtual addresses -/

/-- One read of a walk, answered with its entry or its failure (R310). -/
def WalkHubOnly (f : State → Nat → Nat → Except (State × MemFail × Nat) (State × Nat)) : Prop :=
  ∀ u s node lvl, HubOnly u s → ExcOk (HubPair u) (HubPair u) (f s node lvl)

theorem hubOnly_walk {x : Ctx} {va : Nat} (h : HubOnly u s) : ExcOk (HubPair u) (HubPair u) (s.walk x va) := by
  unfold State.walk
  extract_lets -underBinder step
  have hstep : WalkHubOnly step := by
    intro u s node lvl hs
    unfold step
    split
    · next e => exact (hubOnly_mainRd (hubOnly_meet hs)).ok e
    · exact hubOnly_meet hs
  refine ExcOk.bind (hstep u _ _ _ h) fun ⟨s3, e3⟩ h3 => ?_
  refine ite_keeps h3 (ExcOk.bind (hstep u _ _ _ h3) fun ⟨s2, e2⟩ h2 => ?_)
  refine ite_keeps h2 (ExcOk.bind (hstep u _ _ _ h2) fun ⟨s1, e1⟩ h1 => ?_)
  refine ite_keeps h1 (ExcOk.bind (hstep u _ _ _ h1) fun ⟨s0, e0⟩ h0 => ?_)
  exact ite_keeps h0 h0

theorem hubOnly_virtRd_go {x : Ctx} {l : List (Nat × Nat)} {bs : List Byte} (h : HubOnly u s) : OptOk (HubPair u) (State.virtRd.go x l s bs) := by
  induction l generalizing s bs with
  | nil => exact h
  | cons p l ih =>
    unfold State.virtRd.go
    have hwalk := hubOnly_walk (x := x) (va := p.1) h
    obtain ⟨walk, he⟩ := exists_eq (a' := @State.walk)
    rw [← he] at hwalk ⊢
    split
    · next e =>
      split
      · next e2 => exact ih ((hubOnly_mainRd (hubOnly_meet (hwalk.ok e))).ok e2)
      · exact trivial
    · exact trivial

theorem hubOnly_virtRd {x : Ctx} {va n : Nat} (h : HubOnly u s) : OptOk (HubPair u) (s.virtRd x va n) := hubOnly_virtRd_go h

theorem hubOnly_virtWr_go {x : Ctx} {l : List (Nat × Nat)} {bs : List Byte} (h : HubOnly u s) : OptOk (HubOnly u) (State.virtWr.go x l s bs) := by
  induction l generalizing s bs with
  | nil => exact h
  | cons p l ih =>
    unfold State.virtWr.go
    have hwalk := hubOnly_walk (x := x) (va := p.1) h
    obtain ⟨walk, he⟩ := exists_eq (a' := @State.walk)
    rw [← he] at hwalk ⊢
    split
    · next e =>
      split
      · next e2 => exact ih ((hubOnly_mainWr (hubOnly_meet (hwalk.ok e))).ok e2)
      · exact trivial
    · exact trivial

theorem hubOnly_virtWr {x : Ctx} {va : Nat} {bs : List Byte} (h : HubOnly u s) : OptOk (HubOnly u) (s.virtWr x va bs) := hubOnly_virtWr_go h

theorem hubOnly_virtNote_go {c : Nat} {x : Ctx} {l : List (Nat × Nat)} (h : HubOnly u s) : HubOnly u (State.virtNote.go c x l s) := by
  induction l generalizing s with
  | nil => exact h
  | cons p l ih =>
    unfold State.virtNote.go
    have hwalk := hubOnly_walk (x := x) (va := p.1) h
    obtain ⟨walk, he⟩ := exists_eq (a' := @State.walk)
    rw [← he] at hwalk ⊢
    split
    · next e => exact hubOnly_post (hwalk.error e)
    · next e => exact hwalk.ok e
    · next e =>
      split
      · exact hubOnly_post (hwalk.ok e)
      · next e2 => exact ih ((hubOnly_mainRd (hubOnly_meet (hwalk.ok e))).ok e2)

theorem hubOnly_virtNote {c va n : Nat} (h : HubOnly u s) : HubOnly u (s.virtNote c va n) := hubOnly_virtNote_go h

theorem hubOnly_virtPut {c va : Nat} {bs : List Byte} (h : HubOnly u s) : HubOnly u (s.virtPut c va bs) :=
  OptOk.getD (hubOnly_virtWr h) (hubOnly_virtNote h)

theorem hubOnly_read0 {c va n : Nat} (h : HubOnly u s) : HubPair u (s.read0 c va n) := by
  unfold State.read0
  split
  · next e => exact (hubOnly_virtRd h).some e
  · exact hubOnly_virtNote h

theorem hubOnly_orOwe {o : Owed} {f : State → State} (h : HubOnly u s) (hf : ∀ t, HubOnly u t → HubOnly u (f t)) : HubOnly u (s.orOwe o f) :=
  ite_keeps (h.upd rfl rfl) (ite_keeps (h.upd rfl rfl) ((hf { s with hubWaits := false } (h.upd rfl rfl)).upd rfl rfl))

/-! ## Records (R71 to R73) -/

theorem hubOnly_rootRing {x : Ctx} (h : HubOnly u s) : OptOk (HubPair u) (s.rootRing x) := by
  unfold State.rootRing
  split
  · next e => exact ((hubOnly_virtRd h).some e :)
  · exact trivial

theorem hubOnly_ringWrite {ring lg : Nat} {f : FaultInfo} {la : Launch} {ctx action lin : Nat} (h : HubOnly u s) :
    HubPair u (s.ringWrite ring lg f la ctx action lin) := by
  unfold State.ringWrite
  extract_lets -underBinder
  split
  · exact hubOnly_virtNote h
  · next e =>
    have hrd := HubPair.fst ((hubOnly_virtRd h).some e) rfl
    refine ite_keeps (hubOnly_virtPut hrd) ?_
    extract_lets -underBinder
    split
    · exact hubOnly_virtNote hrd
    · next e2 =>
      have hrec := (hubOnly_virtWr hrd).some e2
      split
      · exact hubOnly_virtNote hrec
      · next e3 => exact ite_keeps (hubOnly_raise ((hubOnly_virtWr hrec).some e3)) ((hubOnly_virtWr hrec).some e3)

theorem hubOnly_toRing {ctx : Nat} {f : FaultInfo} {la : Launch} {action lin : Nat} {ring : Option (Nat × Nat)} (h : HubOnly u s) :
    HubOnly u (s.toRing ctx f la action lin ring) := by
  unfold State.toRing
  split
  next t lost e =>
  have ht : HubOnly u t := by
    refine HubPair.fst ?_ e
    split
    · exact hubOnly_ringWrite h
    · split
      · next e2 => exact hubOnly_ringWrite (HubPair.fst ((hubOnly_rootRing h).some e2) rfl)
      · exact hubOnly_virtNote h
  exact ite_keeps (hubOnly_setCtx (Ctx.base_sticky ..) ht) ht

theorem hubOnly_record {ctx : Nat} {f : FaultInfo} {action : Nat} {ring : Option (Nat × Nat)} (h : HubOnly u s) :
    HubOnly u (s.record ctx f action ring) := by
  unfold State.record
  extract_lets la lin f x t
  exact hubOnly_orOwe (hubOnly_setCtx (Ctx.base_sticky ..) h) fun _ ht => hubOnly_toRing ht

/-! ## Save areas, regions and the signals of a packet (R64, R89, R90, R132) -/

theorem hubOnly_areaFree {ctx save n : Nat} (h : HubOnly u s) : HubOnly u (s.areaFree ctx save n) := by
  unfold State.areaFree
  split
  · next e => exact hubOnly_virtPut (HubPair.fst ((hubOnly_virtRd h).some e) rfl)
  · exact hubOnly_virtNote h

theorem hubOnly_saveFree {l : Launch} {n : Nat} (h : HubOnly u s) : HubOnly u (s.saveFree l n) := hubOnly_orOwe h fun _ ht => hubOnly_areaFree ht

theorem hubOnly_saveTake {l : Launch} {len : Nat} {skip : Option Nat} (h : HubOnly u s) : HubPair u (s.saveTake l len skip) := by
  unfold State.saveTake
  split
  · exact hubOnly_virtNote h
  · next e =>
    have hrd := HubPair.fst ((hubOnly_virtRd h).some e) rfl
    extract_lets -underBinder
    split
    · exact hrd
    · exact hubOnly_virtPut hrd

theorem hubOnly_regionChain {c n a prev : Nat} (h : HubOnly u s) : HubPair u (s.regionChain c n a prev) := by
  induction n generalizing s a prev with
  | zero => exact h
  | succ n ih =>
    unfold State.regionChain
    refine ite_keeps h (ite_keeps h ?_)
    split
    · exact hubOnly_virtNote h
    · next e =>
      have hrd := HubPair.fst ((hubOnly_virtRd h).some e) rfl
      refine ite_keeps hrd ?_
      split
      · next e2 => exact ((ih hrd).fst e2 :)
      · next e2 => exact ((ih hrd).fst e2 :)

theorem hubOnly_readRegion {c a : Nat} (h : HubOnly u s) : HubPair u (s.readRegion c a) := by
  unfold State.readRegion
  split
  · next e => exact ((hubOnly_regionChain h).fst e :)
  · next e => exact ((hubOnly_regionChain h).fst e :)

theorem hubOnly_packetRegion {c : Nat} {p : BitVec 1024} (h : HubOnly u s) : HubPair u (s.packetRegion c p) := by
  unfold State.packetRegion
  split
  · next e => exact ((hubOnly_readRegion h).fst e :)
  · next e => exact ((hubOnly_readRegion h).fst e :)

theorem hubOnly_mapped {c va : Nat} (h : HubOnly u s) : HubPair u (s.mapped c va) := by
  unfold State.mapped
  have hwalk := hubOnly_walk (x := s.ctx c) (va := va) h
  obtain ⟨walk, he⟩ := exists_eq (a' := @State.walk)
  rw [← he] at hwalk ⊢
  split
  · next e => exact (hwalk.ok e :)
  · next e => exact hubOnly_post (hwalk.error e)

theorem hubOnly_badSignal {c : Nat} {l : List Nat} (h : HubOnly u s) : HubPair u (s.badSignal c l) := by
  induction l generalizing s with
  | nil => exact h
  | cons a l ih =>
    unfold State.badSignal
    refine ite_keeps h ?_
    split
    · next e => exact ih ((hubOnly_mapped h).fst e)
    · next e => exact ((hubOnly_mapped h).fst e :)

theorem hubOnly_packetFault {c : Nat} {p : BitVec 1024} (h : HubOnly u s) : HubPair u (s.packetFault c p) :=
  ite_keeps (P := HubPair u) h (hubOnly_badSignal h)

theorem hubOnly_readSignal {c a : Nat} (h : HubOnly u s) : HubPair u (s.readSignal c a) := by
  unfold State.readSignal
  split
  · next e => exact ((hubOnly_virtRd h).some e :)
  · exact hubOnly_virtNote h

theorem hubOnly_readDeps {c : Nat} {p : BitVec 1024} {met l : List Nat} (h : HubOnly u s) : HubPair u (s.readDeps c p met l) := by
  induction l generalizing s with
  | nil => exact h
  | cons j l ih => exact ih (ite_keeps (P := HubPair u) h (hubOnly_readSignal h))

end Sys2Proof.Machine
end

section
/-! What halting, stopping and disposing of groups leaves unchanged (R69, R114, R118, R130): beside what the hub's accesses change, these change groups
and launches, cores, stacks and clusters, and spend fresh names. One lemma for an operation, `groupsOnly_` and its name, says so. -/

namespace Sys2Proof.Machine

/-- The module without what stops and halts of groups may change. -/
def State.ungrouped (s : State) : State := { s.apart with groups := [], launches := [], cores := [], stackTbl := [], clusters := [], fresh := 0 }

/-- The second state differs from the first in what stops and halts of groups change. -/
structure GroupsOnly (u s : State) : Prop where
  rest : s.ungrouped = u.ungrouped
  ctx : ∀ c, (s.ctx c).base = (u.ctx c).base

/-- The same, for a state answered with something beside it. -/
def GroupsPair (u : State) {β : Type} (p : State × β) : Prop := GroupsOnly u p.1

variable {u s : State}

theorem GroupsOnly.refl (s : State) : GroupsOnly s s := ⟨rfl, fun _ => rfl⟩

theorem GroupsOnly.trans {t : State} (h : GroupsOnly u s) (g : GroupsOnly s t) : GroupsOnly u t :=
  ⟨g.rest.trans h.rest, fun c => (g.ctx c).trans (h.ctx c)⟩

theorem GroupsOnly.fns (h : GroupsOnly u s) : s.fns = u.fns := (congrArg State.fns h.rest :)
theorem GroupsOnly.state (h : GroupsOnly u s) (c : Nat) : (s.ctx c).state = (u.ctx c).state := (congrArg Ctx.state (h.ctx c) :)
theorem GroupsOnly.prot (h : GroupsOnly u s) (c : Nat) : (s.ctx c).prot = (u.ctx c).prot := (congrArg Ctx.prot (h.ctx c) :)

theorem GroupsOnly.upd {t : State} (h : GroupsOnly u s) (hr : t.ungrouped = s.ungrouped) (hc : t.ctxs = s.ctxs) : GroupsOnly u t :=
  h.trans ⟨hr, fun c => by rw [State.ctx, hc, State.ctx]⟩

theorem GroupsOnly.hub {t : State} (h : GroupsOnly u s) (ht : HubOnly s t) : GroupsOnly u t :=
  h.trans ⟨congrArg (fun x : State => { x with groups := [], launches := [], cores := [], stackTbl := [], clusters := [], fresh := 0 }) ht.rest, ht.ctx⟩

theorem GroupsPair.fst {β : Type} {p : State × β} {t : State} {b : β} (h : GroupsPair u p) (e : p = (t, b)) : GroupsOnly u t := by
  subst e
  exact h

/-! ## Units, launches and threads -/

theorem groupsOnly_setCore {c : Nat} {x : Core} (h : GroupsOnly u s) : GroupsOnly u (s.setCore c x) := h.upd rfl rfl
theorem groupsOnly_setStack {k : Nat} {x : Stack} (h : GroupsOnly u s) : GroupsOnly u (s.setStack k x) := h.upd rfl rfl
theorem groupsOnly_setDie {d : Nat} {x : Die} (h : GroupsOnly u s) : GroupsOnly u (s.setDie d x) := h.upd rfl rfl
theorem groupsOnly_modLaunch {l : Nat} {f : Launch → Launch} (h : GroupsOnly u s) : GroupsOnly u (s.modLaunch l f) := h.upd rfl rfl
theorem groupsOnly_modGroup {g : Nat} {f : Group → Group} (h : GroupsOnly u s) : GroupsOnly u (s.modGroup g f) := h.upd rfl rfl
theorem groupsOnly_modThread {r : TRef} {f : Thread → Thread} (h : GroupsOnly u s) : GroupsOnly u (s.modThread r f) := h.upd rfl rfl
theorem groupsOnly_tick (h : GroupsOnly u s) : GroupsOnly u s.tick := h.upd rfl rfl

theorem groupsOnly_setCtx {c : Nat} {x : Ctx} (hx : x.base = (s.ctx c).base) (h : GroupsOnly u s) : GroupsOnly u (s.setCtx c x) :=
  h.trans ⟨rfl, base_setCtx hx⟩

/-! ## Queues of engines, markers, slots and accumulators (R228, R283, R297) -/

theorem groupsOnly_settleMat {c : Nat} (h : GroupsOnly u s) : GroupsOnly u (s.settleMat c) :=
  groupsOnly_setStack (groupsOnly_setCore (groupsOnly_setCore h))

theorem groupsOnly_setEngineQueue {c q : Nat} {l : List Entry} (h : GroupsOnly u s) : GroupsOnly u (s.setEngineQueue c q l) :=
  ite_keeps (groupsOnly_setStack h) (ite_keeps (groupsOnly_setCore h) (groupsOnly_setCore h))

theorem groupsOnly_popMarker {c q : Nat} (h : GroupsOnly u s) : OptOk (GroupsOnly u) (s.popMarker c q) := by
  unfold State.popMarker
  split
  · exact trivial
  · exact ite_keeps (foldl_keeps h fun _ _ ht => groupsOnly_setEngineQueue ht) trivial

theorem groupsOnly_popMarkers {c : Nat} {l : List Nat} (h : GroupsOnly u s) : OptOk (GroupsOnly u) (s.popMarkers c l) := by
  induction l with
  | nil => exact trivial
  | cons q l ih =>
    unfold State.popMarkers
    split
    · next e => exact (groupsOnly_popMarker h).some e
    · exact ih

theorem groupsOnly_popWait {c : Nat} (h : GroupsOnly u s) : OptOk (GroupsOnly u) (s.popWait c) := by
  unfold State.popWait
  split
  · split
    · exact groupsOnly_modThread (groupsOnly_modThread (groupsOnly_setEngineQueue h))
    · exact trivial
  · exact trivial

theorem groupsOnly_settleMarkers {c n : Nat} (h : GroupsOnly u s) : GroupsOnly u (s.settleMarkers c n) := by
  induction n generalizing s with
  | zero => exact h
  | succ n ih =>
    unfold State.settleMarkers
    split
    · next e => exact ih ((groupsOnly_popWait h).some e)
    · split
      · next e => exact ih ((groupsOnly_popMarkers h).some e)
      · exact h

theorem groupsOnly_queuesMoved {c : Nat} (h : GroupsOnly u s) : GroupsOnly u (s.queuesMoved c) :=
  groupsOnly_settleMat (groupsOnly_settleMarkers (groupsOnly_settleMarkers h))

theorem groupsOnly_allMoved {l : List Nat} (h : GroupsOnly u s) : GroupsOnly u (s.allMoved l) := by
  induction l generalizing s with
  | nil => exact h
  | cons c l ih =>
    rw [State.allMoved]
    exact ih (groupsOnly_queuesMoved h)

theorem groupsOnly_releaseMat {g : Nat} (h : GroupsOnly u s) : GroupsOnly u (s.releaseMat g) :=
  groupsOnly_settleMat (groupsOnly_setStack (groupsOnly_setCore (groupsOnly_setCore h)))

/-! ## A group that stops (R118) -/

theorem groupsOnly_saveFree {l : Launch} {n : Nat} (h : GroupsOnly u s) : GroupsOnly u (s.saveFree l n) := h.hub (hubOnly_saveFree (.refl s))

theorem groupsOnly_freeGroup {g : Nat} (h : GroupsOnly u s) : GroupsOnly u (s.freeGroup g) := by
  have hmat : GroupsOnly u (s.releaseMat g) := groupsOnly_releaseMat h
  unfold State.freeGroup
  extract_lets gr l s1 s2 s3
  have hspill : GroupsOnly u s2 := ite_keeps (groupsOnly_saveFree hmat) hmat
  exact groupsOnly_modGroup (ite_keeps (groupsOnly_saveFree hspill) hspill)

theorem groupsOnly_drainCheck {l : Nat} (h : GroupsOnly u s) : GroupsOnly u (s.drainCheck l) := ite_keeps (groupsOnly_modLaunch h) h

theorem groupsOnly_freeSlotLanes {c : Nat} {l : List Outst} (h : GroupsOnly u s) : GroupsOnly u (s.freeSlotLanes c l) := by
  induction l generalizing s with
  | nil => exact h
  | cons o l ih =>
    unfold State.freeSlotLanes
    split
    · exact ih h
    · exact ih (groupsOnly_setCore h)

theorem groupsOnly_leaveWaits {g : Nat} {left : Thread → Bool} (h : GroupsOnly u s) : GroupsOnly u (s.leaveWaits g left) :=
  ite_keeps (groupsOnly_setCtx (Ctx.base_headland ..) h) h

theorem groupsOnly_stopGroup {g : Nat} (h : GroupsOnly u s) : GroupsOnly u (s.stopGroup g) := by
  have hfree (l : List Outst) : GroupsOnly u (((s.leaveWaits g Thread.waits).freeSlotLanes (s.group g).core l).freeGroup g) :=
    groupsOnly_freeGroup (groupsOnly_freeSlotLanes (groupsOnly_leaveWaits h))
  exact ite_keeps h (groupsOnly_drainCheck (groupsOnly_queuesMoved (groupsOnly_setCore (groupsOnly_modGroup (hfree _)))))

theorem groupsOnly_stopGroups {l : List Nat} (h : GroupsOnly u s) : GroupsOnly u (s.stopGroups l) := by
  induction l generalizing s with
  | nil => exact h
  | cons g l ih => exact ih (groupsOnly_stopGroup h)

theorem groupsOnly_dispose {l : Nat} {replay : Bool} (h : GroupsOnly u s) : GroupsOnly u (s.dispose l replay) := by
  unfold State.dispose
  extract_lets -underBinder t
  exact groupsOnly_allMoved (s := t) (h.upd rfl rfl)

theorem groupsOnly_flushHeld {l action : Nat} (h : GroupsOnly u s) : GroupsOnly u (s.flushHeld l action) := by
  unfold State.flushHeld
  extract_lets la
  split
  · exact h
  · exact groupsOnly_modLaunch (h.hub (hubOnly_record (.refl s)))

theorem groupsOnly_destroyLaunch {l : Nat} (h : GroupsOnly u s) : GroupsOnly u (s.destroyLaunch l) :=
  ite_keeps (groupsOnly_modLaunch h)
    (ite_keeps h (groupsOnly_modLaunch (groupsOnly_flushHeld (groupsOnly_dispose (groupsOnly_stopGroups h)))))

/-! ## A group that is pre-empted (R130, R131) -/

theorem groupsOnly_dropCopies {d : Nat} {p : Nat → Bool} (h : GroupsOnly u s) : GroupsOnly u (s.dropCopies d p) := ite_keeps h (groupsOnly_setDie h)

theorem groupsOnly_shareSeen {r : TRef} (h : GroupsOnly u s) : GroupsOnly u (s.shareSeen r) :=
  ite_keeps (groupsOnly_modThread (groupsOnly_dropCopies h)) h

theorem groupsOnly_publish {r : TRef} {scope : Nat} (h : GroupsOnly u s) : GroupsOnly u (s.publish r scope) :=
  groupsOnly_modThread (ite_keeps h (groupsOnly_shareSeen h))

theorem groupsOnly_publishAll {scope : Nat} {l : List TRef} (h : GroupsOnly u s) : GroupsOnly u (s.publishAll scope l) := by
  induction l generalizing s with
  | nil => exact h
  | cons r l ih => exact ih (groupsOnly_publish h)

theorem groupsOnly_spareReqs {g : Nat} (h : GroupsOnly u s) : GroupsOnly u (s.spareReqs g) := h.upd rfl rfl

theorem groupsOnly_haltGroup {g a len : Nat} (h : GroupsOnly u s) : GroupsOnly u (s.haltGroup g a len) :=
  groupsOnly_modGroup (groupsOnly_leaveWaits (groupsOnly_spareReqs (groupsOnly_publishAll (groupsOnly_tick h))))

theorem groupsOnly_preemptEach {l : List Nat} (h : GroupsOnly u s) : GroupsPair u (s.preemptEach l) := by
  induction l generalizing s with
  | nil => exact h
  | cons g l ih =>
    unfold State.preemptEach
    refine ite_keeps (ih h) ?_
    extract_lets la len
    have htake := hubOnly_saveTake (l := la) (len := len) (skip := none) (.refl s)
    split
    · next e => exact (h.hub (htake.fst e) :)
    · next e => exact ih (groupsOnly_haltGroup (h.hub (htake.fst e)))

theorem groupsOnly_preempt {l : List Nat} (h : GroupsOnly u s) : OptOk (GroupsOnly u) (s.preempt l) := by
  unfold State.preempt
  split
  · next e => exact ((groupsOnly_preemptEach h).fst e :)
  · exact trivial

theorem groupsOnly_preemptNote {l : List Nat} (h : GroupsOnly u s) : GroupsOnly u (s.preemptNote l) :=
  foldl_keeps (h.upd rfl rfl) fun t _ ht => ite_keeps (ht.hub (hubOnly_virtNote (.refl t))) ht

end Sys2Proof.Machine
end

section
/-! Contexts that are destroyed and suspended (R59, R60, R362, R365): what happens to the contexts of a function that is reset or that loses its
stream, and that other contexts and the functions' registers stay. -/

namespace Sys2Proof.Machine

variable (s : State) (c : Nat)

/-! ## Destroying a context (R60) -/

/-- The launches of a context end and its queues close, the first part of `State.destroyCtx`. -/
def State.endContext (s : State) (c : Nat) : State :=
  let s := s.setCtx c { s.ctx c with state := .closing }
  let s := ((List.range s.launches.length).filter fun l => (s.launch l).ctx = c).foldl (fun s l => s.destroyLaunch l) s
  (s.ctxQueues c).foldl (fun s q => s.setQueue q {}) s

theorem destroyCtx_eq : s.destroyCtx c =
    { (s.endContext c).setCtx c { (s.endContext c).ctx c with bins := [], nodeReady := [] } with
      fmtReqs := (s.endContext c).fmtReqs.filter fun q => q.ctx ≠ c } := rfl

theorem foldl_setQueue_ctxs_fns (l : List Nat) (x : Queue) :
    (l.foldl (fun s q => s.setQueue q x) s).ctxs = s.ctxs ∧ (l.foldl (fun s q => s.setQueue q x) s).fns = s.fns :=
  foldl_keeps (P := fun t : State => t.ctxs = s.ctxs ∧ t.fns = s.fns) ⟨rfl, rfl⟩ fun _ _ ht => ht

/-- Up to the close of the context's queues its end is that of its launches. -/
theorem endContext_groupsOnly : ∃ t, GroupsOnly (s.setCtx c { s.ctx c with state := .closing }) t ∧
    (s.endContext c).ctxs = t.ctxs ∧ (s.endContext c).fns = t.fns :=
  ⟨_, foldl_keeps (.refl _) fun _ _ ht => groupsOnly_destroyLaunch ht, foldl_setQueue_ctxs_fns _ _ _⟩

theorem endContext_base (d : Nat) :
    ((s.endContext c).ctx d).base = if d = c then { (s.ctx c).base with state := .closing } else (s.ctx d).base := by
  obtain ⟨t, ht, hctxs, -⟩ := endContext_groupsOnly s c
  rw [State.ctx, hctxs]
  refine (ht.ctx d).trans ?_
  split
  · next hd => rw [hd, ctx_setCtx]; rfl
  · next hd => rw [ctx_setCtx_ne _ _ hd]

/-- The context is Closing, with nothing in its bins and no node ready; the others are as before. -/
theorem destroyCtx_base (d : Nat) :
    ((s.destroyCtx c).ctx d).base = if d = c then { (s.ctx c).base with state := .closing, bins := [], nodeReady := [] } else (s.ctx d).base := by
  have hend := endContext_base s c d
  have hctx : (s.destroyCtx c).ctx d = ((s.endContext c).setCtx c { (s.endContext c).ctx c with bins := [], nodeReady := [] }).ctx d := by
    rw [destroyCtx_eq]; rfl
  rw [hctx]
  split
  · next hd =>
    rw [hd, if_pos rfl] at hend
    rw [hd, ctx_setCtx]
    exact (congrArg (fun x : Ctx => { x with bins := [], nodeReady := [] }) hend :)
  · next hd =>
    rw [if_neg hd] at hend
    rw [ctx_setCtx_ne _ _ hd, hend]

@[simp] theorem destroyCtx_fns : (s.destroyCtx c).fns = s.fns := by
  obtain ⟨t, ht, -, hfns⟩ := endContext_groupsOnly s c
  exact hfns.trans ht.fns

/-! ## What a function's reset and the loss of its stream do to one context -/

theorem destroyOnce_state (d : Nat) : ((s.destroyOnce c).ctx d).state = if d = c then .closing else (s.ctx d).state := by
  unfold State.destroyOnce
  split
  · next h =>
    split
    · next hd => rw [hd, h]
    · rfl
  · refine (congrArg Ctx.state (destroyCtx_base s c d) :).trans ?_
    split <;> rfl

theorem destroyOnce_prot (d : Nat) : ((s.destroyOnce c).ctx d).prot = (s.ctx d).prot := by
  unfold State.destroyOnce
  split
  · rfl
  · refine (congrArg Ctx.prot (destroyCtx_base s c d) :).trans ?_
    split
    · next hd => rw [hd]; rfl
    · rfl

@[simp] theorem destroyOnce_fns : (s.destroyOnce c).fns = s.fns := ite_keeps (P := fun t : State => t.fns = s.fns) rfl (destroyCtx_fns s c)

theorem foldl_destroyOnce_fns (l : List Nat) : (l.foldl (fun s c => s.destroyOnce c) s).fns = s.fns :=
  foldl_keeps (P := fun t : State => t.fns = s.fns) rfl fun t c ht => (destroyOnce_fns t c).trans ht

theorem foldl_destroyOnce_state (l : List Nat) (d : Nat) :
    ((l.foldl (fun s c => s.destroyOnce c) s).ctx d).state = if d ∈ l then .closing else (s.ctx d).state := by
  induction l generalizing s with
  | nil => simp
  | cons c l ih =>
    rw [List.foldl_cons, ih, destroyOnce_state]
    by_cases hd : d = c <;> simp [hd]

theorem tget_of_not_mem {α : Type} {d : α} {l : List (Nat × α)} {k : Nat} (h : k ∉ l.map (·.1)) : tget d l k = d := by
  induction l with
  | nil => rfl
  | cons p l ih =>
    rw [List.map_cons, List.mem_cons, not_or] at h
    rw [tget, if_neg (Ne.symm h.1), ih h.2]

/-- A context is listed once it is in use. -/
theorem mem_ownedBy (fn : Nat) : c ∈ s.ownedBy fn ↔ (s.ctx c).state ≠ .free ∧ (s.ctx c).fn = fn := by
  simp only [State.ownedBy, List.mem_filter, Bool.and_eq_true, decide_eq_true_eq, and_iff_right_iff_imp]
  intro h
  by_contra hc
  exact h.1 (congrArg Ctx.state (tget_of_not_mem hc))

/-! ## Losing a stream (R365) -/

/-- What the loss of its function's stream does to one context. -/
def State.loseCtx (s : State) (c : Nat) : State :=
  let x := s.ctx c
  if x.prot then s.destroyOnce c
  else if x.state = .active ∨ x.state = .quiescing then (s.suspend c).getD (s.preemptNote (s.ctxLive c))
  else s

theorem loseStream_eq (fn : Nat) : s.loseStream fn = (s.ownedBy fn).foldl State.loseCtx s := rfl

/-- The states of an unprotected context before and after a loss of streams: it stays, or is suspended. -/
def StaysOrSuspends (x y : CtxState) : Prop := y = x ∨ (x = .active ∨ x = .quiescing) ∧ y = .suspended

theorem StaysOrSuspends.trans {x y z : CtxState} (h : StaysOrSuspends x y) (g : StaysOrSuspends y z) : StaysOrSuspends x z := by
  rcases h with rfl | ⟨hx, rfl⟩
  · exact g
  · rcases g with rfl | ⟨hy, rfl⟩
    · exact .inr ⟨hx, rfl⟩
    · exact .inr ⟨hx, rfl⟩

/-- Every group of a context is pre-empted and the context suspended, or nothing but notifications happens. -/
theorem suspend_cases : (∃ t, GroupsOnly s t ∧ (s.suspend c).getD (s.preemptNote (s.ctxLive c)) = t.setCtx c { t.ctx c with state := .suspended }) ∨
    GroupsOnly s ((s.suspend c).getD (s.preemptNote (s.ctxLive c))) := by
  have hpre := groupsOnly_preempt (l := s.ctxLive c) (.refl s)
  unfold State.suspend
  cases e : s.preempt (s.ctxLive c) with
  | none => exact .inr (groupsOnly_preemptNote (.refl s))
  | some t => exact .inl ⟨t, hpre.some e, rfl⟩

/-- What the loss of a stream may do to a context: a protected one may close, another may be suspended. -/
structure Loses (x y : Ctx) : Prop where
  prot : y.prot = x.prot
  closes : x.prot = true → y.state = x.state ∨ y.state = .closing
  stays : x.prot = false → StaysOrSuspends x.state y.state

theorem Loses.of_eq {x y : Ctx} (hp : y.prot = x.prot) (hs : y.state = x.state) : Loses x y := ⟨hp, fun _ => .inl hs, fun _ => .inl hs⟩

theorem Loses.trans {x y z : Ctx} (h : Loses x y) (g : Loses y z) : Loses x z where
  prot := g.prot.trans h.prot
  closes hx := by
    rcases g.closes (h.prot.trans hx) with hz | hz
    · rw [hz]; exact h.closes hx
    · exact .inr hz
  stays hx := (h.stays hx).trans (g.stays (h.prot.trans hx))

theorem loses_destroyOnce (hp : (s.ctx c).prot = true) (d : Nat) : Loses (s.ctx d) ((s.destroyOnce c).ctx d) := by
  have hprot := destroyOnce_prot s c d
  by_cases hd : d = c
  · subst hd
    exact ⟨hprot, fun _ => .inr (by rw [destroyOnce_state, if_pos rfl]), fun h => by simp [hp] at h⟩
  · exact .of_eq hprot (by rw [destroyOnce_state, if_neg hd])

theorem loses_suspend (hp : (s.ctx c).prot = false) (ha : (s.ctx c).state = .active ∨ (s.ctx c).state = .quiescing) (d : Nat) :
    Loses (s.ctx d) (((s.suspend c).getD (s.preemptNote (s.ctxLive c))).ctx d) := by
  rcases suspend_cases s c with ⟨t, ht, e⟩ | ht
  · rw [e]
    by_cases hd : d = c
    · subst hd
      rw [ctx_setCtx]
      exact ⟨ht.prot d, fun h => by simp [hp] at h, fun _ => .inr ⟨ha, rfl⟩⟩
    · rw [ctx_setCtx_ne _ _ hd]
      exact .of_eq (ht.prot d) (ht.state d)
  · exact .of_eq (ht.prot d) (ht.state d)

theorem loses_loseCtx (d : Nat) : Loses (s.ctx d) ((s.loseCtx c).ctx d) := by
  unfold State.loseCtx
  extract_lets x
  split
  · next hp => exact loses_destroyOnce s c hp d
  · next hp =>
    split
    · next ha => exact loses_suspend s c (by simpa using hp) ha d
    · exact .of_eq rfl rfl

theorem loseCtx_closes (hp : (s.ctx c).prot = true) : ((s.loseCtx c).ctx c).state = .closing := by
  unfold State.loseCtx
  extract_lets x
  rw [if_pos hp, destroyOnce_state, if_pos rfl]

@[simp] theorem loseCtx_fns : (s.loseCtx c).fns = s.fns := by
  unfold State.loseCtx
  extract_lets x
  refine ite_keeps (P := fun t : State => t.fns = s.fns) (destroyOnce_fns s c) (ite_keeps (P := fun t : State => t.fns = s.fns) ?_ rfl)
  rcases suspend_cases s c with ⟨t, ht, e⟩ | ht
  · rw [e]; exact ht.fns
  · exact ht.fns

theorem loses_foldl_loseCtx (l : List Nat) (d : Nat) : Loses (s.ctx d) ((l.foldl State.loseCtx s).ctx d) :=
  foldl_keeps (P := fun t : State => Loses (s.ctx d) (t.ctx d)) (.of_eq rfl rfl) fun t c ht => ht.trans (loses_loseCtx t c d)

theorem foldl_loseCtx_closes {l : List Nat} {d : Nat} (hd : d ∈ l) (hp : (s.ctx d).prot = true) :
    ((l.foldl State.loseCtx s).ctx d).state = .closing := by
  induction l generalizing s with
  | nil => cases hd
  | cons c l ih =>
    rw [List.foldl_cons]
    have hp' : ((s.loseCtx c).ctx d).prot = true := (loses_loseCtx s c d).prot.trans hp
    rcases List.mem_cons.mp hd with rfl | hl
    · have hclosed := loseCtx_closes s d hp
      rcases (loses_foldl_loseCtx (s.loseCtx d) l d).closes hp' with h | h
      · rw [h, hclosed]
      · exact h
    · exact ih _ hl hp'

/-- Protected contexts of the function close; its others stay or are suspended (R365). -/
theorem loseStream_ctx {fn : Nat} (hf : (s.ctx c).state ≠ .free) (hfn : (s.ctx c).fn = fn) :
    ((s.ctx c).prot = true → ((s.loseStream fn).ctx c).state = .closing) ∧
    ((s.ctx c).prot = false → StaysOrSuspends (s.ctx c).state ((s.loseStream fn).ctx c).state) := by
  rw [loseStream_eq]
  exact ⟨foldl_loseCtx_closes s ((mem_ownedBy s c fn).mpr ⟨hf, hfn⟩), (loses_foldl_loseCtx s _ c).stays⟩

@[simp] theorem loseStream_fns (fn : Nat) : (s.loseStream fn).fns = s.fns :=
  foldl_keeps (P := fun t : State => t.fns = s.fns) rfl fun t c ht => (loseCtx_fns t c).trans ht

end Sys2Proof.Machine
end

section
/-! Doorbells (R87, R90): reading a queue's packets and signals, its deadlines and its records leave its state, its write index and its count of bad
doorbells; one lemma for an operation, `doorOnly_` and its name, says so. -/

namespace Sys2Proof.Machine

/-- What a doorbell decides of a queue. -/
def Queue.door (a : Queue) : QState × Nat × Nat := (a.state, a.write, a.baddoor)

/-- Every queue is open, written and belled as before. -/
def DoorOnly (u s : State) : Prop := ∀ q, (s.queue q).door = (u.queue q).door

variable {u s : State}

theorem DoorOnly.hub {t : State} (h : DoorOnly u s) (ht : HubOnly s t) : DoorOnly u t := fun q => by rw [ht.queue, h q]

theorem queue_setQueue_ne (s : State) {q k : Nat} (x : Queue) (h : k ≠ q) : (s.setQueue q x).queue k = s.queue k := tget_tset_ne _ _ _ h

theorem doorOnly_setQueue {q : Nat} {x : Queue} (hx : x.door = (s.queue q).door) (h : DoorOnly u s) : DoorOnly u (s.setQueue q x) := by
  intro k
  by_cases hk : k = q
  · rw [hk, queue_setQueue, hx, h]
  · rw [queue_setQueue_ne _ _ hk, h]

theorem hubOnly_writeFields {c ctl : Nat} {l : List (Nat × Nat)} {u s : State} (h : HubOnly u s) : HubOnly u (s.writeFields c ctl l) := by
  induction l generalizing s with
  | nil => exact h
  | cons p l ih => exact ih (hubOnly_virtPut h)

theorem queue_updQueue (s : State) (q : Nat) (f : Queue → Queue) (k : Nat) :
    (s.updQueue q f).queue k = if k = q then f (s.queue q) else s.queue k := by
  unfold State.updQueue
  extract_lets a b changed
  rw [(hubOnly_writeFields (.refl _)).queue]
  split
  · next hk => rw [hk, queue_setQueue]
  · next hk => exact queue_setQueue_ne _ _ hk

theorem doorOnly_updQueue {q : Nat} {f : Queue → Queue} (hf : (f (s.queue q)).door = (s.queue q).door) (h : DoorOnly u s) :
    DoorOnly u (s.updQueue q f) := by
  intro k
  rw [queue_updQueue]
  split
  · next hk => rw [hf, hk, h]
  · exact h k

theorem doorOnly_rereadHead {q : Nat} (h : DoorOnly u s) : DoorOnly u (s.rereadHead q) := by
  unfold State.rereadHead
  extract_lets a
  split
  · exact h
  · next p _ =>
    split
    next t met e =>
    have ht : HubOnly s t := (hubOnly_readDeps (.refl s)).fst e
    exact doorOnly_setQueue (by rw [ht.queue]; rfl) (h.hub ht)

theorem doorOnly_rereadAll {l : List Nat} (h : DoorOnly u s) : DoorOnly u (s.rereadAll l) := foldl_keeps h fun _ _ ht => doorOnly_rereadHead ht

theorem doorOnly_miss {q policy deadline : Nat} {launch : Option Nat} (h : DoorOnly u s) : DoorOnly u (s.miss q policy deadline launch) := by
  have hcount : DoorOnly u (s.updQueue q fun a => { a with missed := a.missed + 1 }) := doorOnly_updQueue rfl h
  unfold State.miss
  extract_lets t c x seq
  exact ite_keeps (hcount.hub (hubOnly_record (.refl t))) (hcount.hub (hubOnly_setCtx (Ctx.base_sticky ..) (.refl t)))

theorem doorOnly_missHead {q : Nat} (h : DoorOnly u s) : DoorOnly u (s.missHead q) := by
  unfold State.missHead
  extract_lets a
  split
  · exact h
  · next p _ =>
    refine ite_keeps h ?_
    split
    next t r e =>
    have ht : HubOnly s t := (hubOnly_packetRegion (.refl s)).fst e
    exact doorOnly_miss (doorOnly_setQueue (by rw [ht.queue]; rfl) (h.hub ht))

/-- Lean takes too long to unfold a step of `State.loadHead`: its recursion is taken apart by `brecOn_nat_keeps`. -/
theorem doorOnly_loadHead {q n : Nat} (h : DoorOnly u s) : DoorOnly u (s.loadHead q n) := by
  delta State.loadHead
  refine brecOn_nat_keeps (P := fun _ f => ∀ s, DoorOnly u s → DoorOnly u (f s)) (F := State.loadHead._f q) (fun _ _ hs => hs) ?_ n s h
  intro n below ih s hs
  unfold State.loadHead._f
  dsimp only
  refine ite_keeps hs ?_
  have hread {t : State} {f : Option (Nat × Nat)} {c : Nat} {p : BitVec 1024} {va : Nat}
      (e : (s.read0 (s.queue q).ctx va 128).1.packetFault c p = (t, f)) : HubOnly s t :=
    (hubOnly_packetFault (hubOnly_read0 (.refl s))).fst e
  split
  · next e => exact ih _ ((doorOnly_updQueue rfl (hs.hub (hread e))).hub (hubOnly_record (.refl _)))
  · next e => exact doorOnly_missHead (doorOnly_rereadHead (doorOnly_setQueue (by rw [(hread e).queue]; rfl) (hs.hub (hread e))))

theorem doorOnly_settleQueue {q : Nat} (h : DoorOnly u s) : DoorOnly u (s.settleQueue q) := doorOnly_loadHead h

/-- A doorbell that the queue's state and its function refuse does nothing. -/
theorem ringDoor_ignored {fn q : Nat} (v : Nat)
    (h : 1024 ≤ q ∨ (s.queue q).state = .closed ∨ (s.queue q).devmode = true ∨ (s.ctx (s.queue q).ctx).fn ≠ fn) : s.ringDoor fn q v = s := if_pos h

/-- A doorbell that they take advances the write index, or counts as bad (R87). -/
theorem ringDoor_door {fn q : Nat} (v : Nat)
    (h : ¬(1024 ≤ q ∨ (s.queue q).state = .closed ∨ (s.queue q).devmode = true ∨ (s.ctx (s.queue q).ctx).fn ≠ fn)) :
    let a := s.queue q
    ((s.ringDoor fn q v).queue q).door =
      if a.write < v ∧ v ≤ a.read + 2 ^ a.qlog then (a.state, v, a.baddoor) else (a.state, a.write, a.baddoor + 1) := by
  intro a
  unfold State.ringDoor
  rw [if_neg h]
  refine (doorOnly_settleQueue (doorOnly_rereadAll fun _ => rfl) q).trans ?_
  simp only [Nat.sub_le_iff_le_add']
  split
  · rw [queue_updQueue, if_pos rfl]; rfl
  · rw [queue_updQueue, if_pos rfl]; rfl

end Sys2Proof.Machine
end

section
/-! What reaches the module from outside (R19, R68, R362, R364, R365): reset, start-up, registers, doorbells and SPDM, case by case. -/

namespace Sys2Proof.Machine

variable (s : State)

/-! ## Reset and start-up (R19) -/

theorem memRd_filter (p : Nat → Bool) (m : List Host.Cell) (a : Nat) : memRd (m.filter fun c => p c.1) a = if p a then memRd m a else 0 := by
  induction m with
  | nil => simp [memRd]
  | cons c m ih =>
    rw [List.filter_cons]
    by_cases hc : c.1 = a
    · subst hc
      split
      · rw [memRd, memRd, if_pos rfl, if_pos rfl]
      · next h => rw [ih, if_neg h]
    · have hskip : memRd (c :: m) a = memRd m a := if_neg hc
      rw [hskip, ← ih]
      split
      · exact if_neg hc
      · rfl

/-- Host memory outlasts a reset, and nothing else of the memory does. -/
theorem memRd_hostCells (m : List Host.Cell) (a : Nat) : memRd (hostCells m) a = if 2 ^ 60 ≤ a ∧ a < 2 ^ 62 then memRd m a else 0 := by
  unfold hostCells
  rw [memRd_filter fun b => decide (hostBase ≤ b) && decide (b < scratchBase)]
  simp only [Bool.and_eq_true, decide_eq_true_eq]
  rfl

theorem exec_startUpComplete_over (ok : Bool) (h : s.phase ≠ .starting) : exec (.startUpComplete ok) s = .next s := congrArg _ (if_pos h)

theorem exec_startUpComplete_up (h : s.phase = .starting) : exec (.startUpComplete true) s = .next { s with phase := .up, measured := true } :=
  congrArg _ (if_neg (not_not.mpr h))

theorem exec_startUpComplete_failed (h : s.phase = .starting) :
    exec (.startUpComplete false) s = .next { s with phase := .failed, mgmt := s.mgmt ++ [mgmtStart] } :=
  congrArg _ (if_neg (not_not.mpr h))

theorem exec_configurationRequest_silent (aer : Bool) (h : s.refTimer < 100000000 ∨ 0 ∉ s.pcieUp) : exec (.configurationRequest aer) s = .next s :=
  congrArg _ (if_pos (h.imp_right fun h0 => by simpa using h0))

theorem exec_configurationRequest_answers (aer : Bool) (ht : 100000000 ≤ s.refTimer) (h0 : 0 ∈ s.pcieUp) :
    exec (.configurationRequest aer) s = .next { s with cfgAnswers := s.cfgAnswers ++
      [decide (s.phase = .starting ∨ (s.phase = .failed ∧ aer = false))] } := by
  have hanswers : ¬(s.refTimer < answersFrom ∨ (!s.pcieUp.contains 0) = true) := by simp [answersFrom, ht, h0]
  refine (congrArg Host.Outcome.next (if_neg hanswers) :).trans ?_
  cases s.phase <;> cases aer <;> rfl

/-! ## Registers (R362) -/

theorem barUp_iff : s.barUp = true ↔ s.phase = .up ∧ 0 ∈ s.pcieUp := by simp [State.barUp]

theorem barUp_eq_false (h : s.phase ≠ .up ∨ 0 ∉ s.pcieUp) : s.barUp = false := by
  rw [← Bool.not_eq_true, barUp_iff]
  tauto

theorem fn_setFn_ne {f k : Nat} (x : Fn) (h : k ≠ f) : (s.setFn f x).fn k = s.fn k := tget_tset_ne _ _ _ h

theorem exec_functionLevelReset_away (fn : Nat) (h : s.barUp = false) : exec (.functionLevelReset fn) s = .next s :=
  if_pos (by rw [h]; rfl)

/-- The function's registers and pending command are cleared and its contexts destroyed (R60, R362). -/
theorem exec_functionLevelReset_up (fn : Nat) (h : s.barUp = true) : ∃ t, exec (.functionLevelReset fn) s = .next t ∧
    t.fn fn = { keyed := (s.fn fn).keyed, tdi := (s.fn fn).tdi, sessions := (s.fn fn).sessions } ∧ (∀ k, k ≠ fn → t.fn k = s.fn k) ∧
    ∀ c, (t.ctx c).state = if (s.ctx c).state ≠ .free ∧ (s.ctx c).fn = fn then .closing else (s.ctx c).state := by
  have hfn (k : Nat) : ((s.ownedBy fn).foldl (fun s c => s.destroyOnce c) s).fn k = s.fn k :=
    congrArg (tget ({} : Fn) · k) (foldl_destroyOnce_fns s _)
  refine ⟨_, if_neg (by rw [h]; decide), ?_, fun k hk => (fn_setFn_ne _ _ hk).trans (hfn k), fun c => ?_⟩
  · rw [fn_setFn, hfn]
  · refine (foldl_destroyOnce_state s _ c).trans ?_
    simp only [mem_ownedBy]

theorem ringOn_iff (f : Fn) : f.ringOn = true ↔ f.admlog ≠ 0 ∧ f.admring ≠ 0 ∧ f.admcpl ≠ 0 := by simp [Fn.ringOn, and_assoc]

theorem tailOk_iff (f : Fn) (v : Nat) :
    f.tailOk v = true ↔ (f.admlog ≠ 0 ∧ f.admring ≠ 0 ∧ f.admcpl ≠ 0) ∧ f.admtail < v ∧ v ≤ f.admhead + 2 ^ f.admlog := by
  simp only [Fn.tailOk, Bool.and_eq_true, decide_eq_true_eq, ringOn_iff, Nat.sub_le_iff_le_add', and_assoc]

variable (fn v : Nat)

theorem exec_admtail : exec (.admtail fn v) s = .next (if s.barUp then s.writeTail fn v else s) := rfl

theorem exec_bar0RegisterWrite_away (off : Nat) (h : s.barUp = false) : exec (.bar0RegisterWrite fn off v) s = .next s :=
  congrArg _ (if_pos (by rw [h]; rfl))

theorem isDoor_iff (off : Nat) : isDoor off = true ↔ 0x2000 ≤ off ∧ off < 0x4000 ∧ off % 8 = 0 := by simp [isDoor, and_assoc]

variable {s}

theorem exec_admtail_accepted (h : s.barUp = true) (hon : (s.fn fn).admlog ≠ 0 ∧ (s.fn fn).admring ≠ 0 ∧ (s.fn fn).admcpl ≠ 0)
    (hlo : (s.fn fn).admtail < v) (hhi : v ≤ (s.fn fn).admhead + 2 ^ (s.fn fn).admlog) :
    exec (.admtail fn v) s = .next (s.setFn fn { s.fn fn with admtail := v }) := by
  rw [exec_admtail, if_pos h, State.writeTail, if_pos ((tailOk_iff ..).mpr ⟨hon, hlo, hhi⟩)]

theorem exec_admtail_ignored (h : s.barUp = true) (hno : ¬((s.fn fn).admlog ≠ 0 ∧ (s.fn fn).admring ≠ 0 ∧ (s.fn fn).admcpl ≠ 0) ∨
    v ≤ (s.fn fn).admtail ∨ (s.fn fn).admhead + 2 ^ (s.fn fn).admlog < v) : exec (.admtail fn v) s = .next s := by
  have hbad : (s.fn fn).tailOk v ≠ true := by
    rw [Ne, tailOk_iff]
    rintro ⟨hon, hlo, hhi⟩
    exact hno.elim (· hon) fun h => h.elim (Nat.not_le.mpr hlo) (Nat.not_lt.mpr hhi)
  rw [exec_admtail, if_pos h, State.writeTail, if_neg hbad]

/-- A write at an offset that is neither ADMTAIL nor a doorbell. -/
theorem exec_bar0RegisterWrite_reg (h : s.barUp = true) {off : Nat} (ht : off ≠ 0x18) (hd : ¬(0x2000 ≤ off ∧ off < 0x4000 ∧ off % 8 = 0)) :
    exec (.bar0RegisterWrite fn off v) s = .next (s.setFn fn ((s.fn fn).write off v)) := by
  refine congrArg Host.Outcome.next ?_
  rw [if_neg (by rw [h]; decide), if_neg ht, if_neg (mt (isDoor_iff off).mp hd)]

theorem exec_bar0RegisterWrite_tail (h : s.barUp = true) : exec (.bar0RegisterWrite fn 0x18 v) s = exec (.admtail fn v) s := by
  rw [exec_admtail, if_pos h]
  refine congrArg Host.Outcome.next ?_
  rw [if_neg (by rw [h]; decide), if_pos rfl]

theorem exec_bar0RegisterWrite_door (h : s.barUp = true) {q : Nat} (hq : q < 1024) :
    exec (.bar0RegisterWrite fn (0x2000 + 8 * q) v) s = exec (.doorbell fn q v) s := by
  have hdoor : isDoor (0x2000 + 8 * q) = true := (isDoor_iff _).mpr (by omega)
  have hnum : (0x2000 + 8 * q - 0x2000) / 8 = q := by omega
  have h0 : s.pcieUp.contains 0 = true := by simpa using ((barUp_iff s).mp h).2
  refine congrArg Host.Outcome.next ?_
  rw [if_neg (by rw [h]; decide), if_neg (by omega), if_pos hdoor, if_pos h0, hnum]

variable {fn v} {f : Fn}

theorem write_reserved {off : Nat} (h0 : off ≠ 0) (h8 : off ≠ 8) (h10 : off ≠ 0x10) (h28 : off ≠ 0x28) : f.write off v = f := by
  simp [Fn.write, h0, h8, h10, h28]

/-- The ring's registers hold while commands are offered. -/
theorem write_busy (h : f.admhead ≠ f.admtail) {off : Nat} (h28 : off ≠ 0x28) : f.write off v = f := by
  simp [Fn.write, h, h28]

theorem enabled_of_on {g : Fn} (h : f.ringOn = true) : f.enabled g = g := by simp [Fn.enabled, h]

theorem enabled_of_turnsOn {g : Fn} (hoff : f.ringOn = false) (hon : g.ringOn = true) : f.enabled g = { g with admhead := 0, admtail := 0 } :=
  if_pos (by rw [hoff, hon]; rfl)

theorem write_log_eq (hi : f.admhead = f.admtail) : f.write 8 v = f.enabled { f with admlog := v % 16 } := by
  unfold Fn.write
  rw [if_neg (by decide), if_neg (by simp [hi]), if_neg (by decide), if_pos rfl]

theorem write_ring (hi : f.admhead = f.admtail) (hon : f.ringOn = true) : f.write 0 v = { f with admring := .ofNat 64 v } := by
  simp [Fn.write, hi, enabled_of_on hon]

theorem write_cpl (hi : f.admhead = f.admtail) (hon : f.ringOn = true) : f.write 0x10 v = { f with admcpl := .ofNat 64 v } := by
  simp [Fn.write, hi, enabled_of_on hon]

theorem write_log (hi : f.admhead = f.admtail) (hon : f.ringOn = true) (hv : v < 16) : f.write 8 v = { f with admlog := v } := by
  rw [write_log_eq hi, Nat.mod_eq_of_lt hv, enabled_of_on hon]

/-- ADMLOG enables a ring whose addresses stand: its indices count from 0. -/
theorem write_log_enables (hi : f.admhead = f.admtail) (hl : f.admlog = 0) (hr : f.admring ≠ 0) (hc : f.admcpl ≠ 0) (h0 : 0 < v) (hv : v < 16) :
    f.write 8 v = { f with admlog := v, admhead := 0, admtail := 0 } := by
  have hoff : f.ringOn = false := by simp [Fn.ringOn, hl]
  have hon : ({ f with admlog := v } : Fn).ringOn = true := (ringOn_iff _).mpr ⟨Nat.ne_of_gt h0, hr, hc⟩
  rw [write_log_eq hi, Nat.mod_eq_of_lt hv, enabled_of_turnsOn hoff hon]

theorem barRead_up (h : s.barUp = true) (hfn : fn < 64) {off : Nat} (ho : off < 0x4000) :
    s.barRead 0 fn off = { s with barAnswers := s.barAnswers ++ [(s.fn fn).read fn off] } :=
  if_neg (by simp [Config.numFns, h]; omega)

theorem read_info {off : Nat} (hlo : 0x100 ≤ off) (hhi : off < 0x140) (h8 : off % 8 = 0) : f.read 0 off = infoAt off := by
  unfold Fn.read
  rw [if_neg (by omega), if_neg (by omega), if_neg (by omega), if_neg (by omega), if_neg (by omega), if_neg (by omega), if_pos ⟨hlo, hhi, h8, rfl⟩]

/-- INFO at a die: its near frames and its Granary frames (R309, R385). -/
theorem barRead_info (h : s.barUp = true) {d : Nat} (hd : d < 4) :
    s.barRead 0 0 (0x100 + 16 * d) = { s with barAnswers := s.barAnswers ++ [785472] } ∧
    s.barRead 0 0 (0x108 + 16 * d) = { s with barAnswers := s.barAnswers ++ [3145728] } := by
  constructor
  · rw [barRead_up h (by decide) (by omega), read_info (by omega) (by omega) (by omega), infoAt, if_pos (by omega)]; rfl
  · rw [barRead_up h (by decide) (by omega), read_info (by omega) (by omega) (by omega), infoAt, if_neg (by omega)]; rfl

/-! ## Doorbells (R87) -/

variable (fn v) {q : Nat}

theorem exec_doorbell_up (h0 : 0 ∈ s.pcieUp) :
    exec (.doorbell fn q v) s = .next (s.orOwe (.door fn q v) fun s => s.ringDoor fn q v) :=
  congrArg _ (if_pos (by simpa using h0))

theorem exec_doorbell_away (h0 : 0 ∉ s.pcieUp) : exec (.doorbell fn q v) s = .next s :=
  congrArg _ (if_neg (by simpa using h0))

theorem orOwe_behind (o : Owed) (f : State → State) (h : s.owed ≠ []) : s.orOwe o f = { s with owed := s.owed ++ [o] } :=
  if_pos (by simpa using h)

theorem orOwe_held (o : Owed) (f : State → State) (h : s.owed = []) (hw : (f { s with hubWaits := false }).hubWaits = true) :
    s.orOwe o f = { s with owed := [o] } := by
  unfold State.orOwe
  rw [if_neg (by rw [h]; decide)]
  exact if_pos hw

theorem orOwe_done (o : Owed) (f : State → State) (h : s.owed = []) (hw : (f { s with hubWaits := false }).hubWaits = false) :
    s.orOwe o f = { f { s with hubWaits := false } with hubWaits := s.hubWaits } := by
  unfold State.orOwe
  rw [if_neg (by rw [h]; decide)]
  exact if_neg (by rw [hw]; decide)

theorem exec_doorbell_ignored (hs : s.owed = [])
    (h : 1024 ≤ q ∨ (s.queue q).state = .closed ∨ (s.queue q).devmode = true ∨ (s.ctx (s.queue q).ctx).fn ≠ fn) :
    exec (.doorbell fn q v) s = .next s := by
  by_cases h0 : 0 ∈ s.pcieUp
  · have hring : ({ s with hubWaits := false } : State).ringDoor fn q v = { s with hubWaits := false } := ringDoor_ignored v h
    rw [exec_doorbell_up fn v h0, orOwe_done _ _ hs (by rw [hring]), hring]
  · exact exec_doorbell_away fn v h0

/-! ## SPDM (R68) -/

theorem exec_spdmRequest_away (r : SpdmReq) (h : s.barUp = false) : exec (.spdmRequest fn r) s = .next s := congrArg _ (if_pos (by rw [h]; rfl))

theorem exec_spdmRequest_answers {r : SpdmReq} (h : s.barUp = true) (hr : r ≠ .keyExchange) :
    exec (.spdmRequest fn r) s = .next { s with spdmAnswers := s.spdmAnswers ++ [s.spdm fn r] } := by
  refine congrArg Host.Outcome.next ?_
  rw [if_neg (by rw [h]; decide)]
  exact if_neg hr

theorem exec_spdmRequest_keyExchange (h : s.barUp = true) : exec (.spdmRequest fn .keyExchange) s = .next
    ({ s with spdmAnswers := s.spdmAnswers ++ [s.spdm fn .keyExchange] }.setFn fn { s.fn fn with sessions := (s.fn fn).sessions + 1 }) := by
  refine congrArg Host.Outcome.next ?_
  rw [if_neg (by rw [h]; decide)]
  exact if_pos rfl

theorem spdm_firmware {i : Nat} (h1 : 1 ≤ i) (h3 : i ≤ 3) : s.spdm fn (.measurement i) = (i, Config.firmware i) := if_pos ⟨h1, h3⟩

theorem spdm_context {i : Nat} (h16 : 16 ≤ i) (h79 : i ≤ 79) : s.spdm fn (.measurement i) = (i + (if (s.ctx (i - 16)).prot then 256 else 0),
    Config.tableDigest ((s.ctx (i - 16)).kernels.map fun k => (k.desc, k.len, k.digest)) (s.ctx (i - 16)).prot) :=
  (if_neg (by omega)).trans (if_pos ⟨h16, h79⟩)

end Sys2Proof.Machine
end

section
/-! TDI states (R365), and the statements on resets, registers and the state after reset. -/

namespace Sys2Proof.Machine

variable {s : State} {fn : Nat} {tdi : TdiState} {keyed : Bool}

/-- The TDI leaves RUN, or its stream loses its keys (R365). -/
def Fn.losesStream (f : Fn) (tdi : TdiState) (keyed : Bool) : Prop :=
  (f.tdi = .run ∧ (tdi = .error ∨ tdi = .configUnlocked)) ∨ (f.keyed = true ∧ keyed = false)

theorem losesStream_iff (f : Fn) (tdi : TdiState) (keyed : Bool) :
    ((f.tdi = .run && (tdi = .error || tdi = .configUnlocked)) || (f.keyed && !keyed)) = true ↔ f.losesStream tdi keyed := by
  simp [Fn.losesStream]

theorem exec_tdiStateChange_pending (h : (s.fn fn).pending.isSome = true) : exec (.tdiStateChange fn tdi keyed) s = .next s :=
  congrArg _ (if_pos h)

theorem exec_tdiStateChange (h : (s.fn fn).pending = none) : exec (.tdiStateChange fn tdi keyed) s = .next (hubStep (fun u =>
    if (s.fn fn).tdi = .run && (tdi = .error || tdi = .configUnlocked) || ((s.fn fn).keyed && !keyed)
    then (u.setFn fn { s.fn fn with tdi := tdi, keyed := keyed }).loseStream fn else u.setFn fn { s.fn fn with tdi := tdi, keyed := keyed }) s) :=
  congrArg _ (if_neg (by simp [h]))

theorem hubStep_of_hubWaits_eq {g : State → State} (h : (g s).hubWaits = s.hubWaits) : hubStep g s = g s :=
  hubStep_taken (by rw [h]; exact (Bool.eq_false_or_eq_true s.hubWaits).symm)

theorem exec_tdiStateChange_keeps (h : (s.fn fn).pending = none) (hl : ¬(s.fn fn).losesStream tdi keyed) :
    exec (.tdiStateChange fn tdi keyed) s = .next (s.setFn fn { s.fn fn with tdi := tdi, keyed := keyed }) := by
  rw [exec_tdiStateChange h]
  simp only [if_neg (mt (losesStream_iff ..).mp hl)]
  rw [hubStep_of_hubWaits_eq rfl]

theorem exec_tdiStateChange_loses (h : (s.fn fn).pending = none) (hl : (s.fn fn).losesStream tdi keyed) :
    exec (.tdiStateChange fn tdi keyed) s = .next (hubStep (fun u => (u.setFn fn { s.fn fn with tdi := tdi, keyed := keyed }).loseStream fn) s) := by
  rw [exec_tdiStateChange h]
  simp only [if_pos ((losesStream_iff ..).mpr hl)]

end Sys2Proof.Machine

open Sys2Proof Sys2Proof.Machine

/-- Settles O60: the tables of the state after reset are empty, so that each unit has its default. -/
theorem resetState : Obligations.ResetState :=
  ⟨rfl, rfl, rfl, rfl, rfl, rfl, rfl, rfl, fun _ => rfl, fun _ => ⟨rfl, rfl, rfl⟩,
    fun c => ⟨rfl, (by decide : ∀ q < 4, ({} : Core).copyQ.getD q [] = [])⟩, fun _ => ⟨rfl, rfl, rfl⟩, fun _ => ⟨rfl, rfl⟩, fun _ => rfl, fun _ => rfl,
    fun _ => rfl, fun _ => rfl, fun _ => ⟨rfl, rfl, rfl, rfl, rfl, rfl⟩⟩

/-- Settles O51. Destroying or suspending a context leaves the other contexts and the functions' registers as they are (`destroyCtx_base`,
`loses_loseCtx`), and a doorbell does to its queue what R87 says (`ringDoor_door`); the rest are the cases of each event. -/
theorem resetsAndRegisters : Obligations.ResetsAndRegisters := by
  refine ⟨fun s => ⟨hostCells s.mem, rfl, memRd_hostCells s.mem⟩, fun s ok => ?startUp, fun s aer => ?config, fun s fn => ?functionReset,
    fun s fn v => ?registers, fun s fn q v => ?doorbell, fun s fn => ?spdm, fun s fn tdi keyed => ?tdi⟩
  case startUp => exact ⟨exec_startUpComplete_over s ok, fun h => ⟨exec_startUpComplete_up s h, _, exec_startUpComplete_failed s h⟩⟩
  case config => exact ⟨exec_configurationRequest_silent s aer, exec_configurationRequest_answers s aer⟩
  case functionReset =>
    exact ⟨fun h => exec_functionLevelReset_away s fn (barUp_eq_false s h),
      fun hp h0 => exec_functionLevelReset_up s fn ((barUp_iff s).mpr ⟨hp, h0⟩)⟩
  case registers =>
    intro f on idle regs door reached
    refine ⟨fun h => ?_, fun h => ?_⟩
    · have hb : s.barUp = false := by rwa [← Bool.not_eq_true, barUp_iff]
      exact ⟨by rw [exec_admtail, hb]; rfl, fun off => exec_bar0RegisterWrite_away s fn v off hb⟩
    · have hb : s.barUp = true := (barUp_iff s).mpr h
      have hreg {off : Nat} (ht : off ≠ 0x18) (hd : ¬door off) : exec (.bar0RegisterWrite fn off v) s = .next (s.setFn fn (f.write off v)) :=
        exec_bar0RegisterWrite_reg fn v hb ht hd
      have hlow {off : Nat} (ht : off ≠ 0x18) (ho : off < 0x2000) : exec (.bar0RegisterWrite fn off v) s = .next (s.setFn fn (f.write off v)) :=
        hreg ht fun hd => absurd hd.1 (by omega)
      refine ⟨fun d hd => barRead_info hb hd, fun hfn => ⟨barRead_up hb hfn (by decide), barRead_up hb hfn (by decide)⟩,
        exec_bar0RegisterWrite_tail fn v hb, fun q hq => exec_bar0RegisterWrite_door fn v hb hq, exec_admtail_accepted fn v hb, exec_admtail_ignored fn v hb,
        hlow (by decide) (by decide), fun off h0 h8 h10 h18 h28 hd => ?_, fun hbusy off h18 h28 hd => ?_, fun hidle hon => ⟨fun _ => ⟨?_, ?_⟩, fun hv => ?_⟩,
        fun hidle hl hr hc h0 hv => ?_⟩
      · exact (hreg h18 hd).trans (by rw [write_reserved h0 h8 h10 h28])
      · exact (hreg h18 hd).trans (by rw [write_busy hbusy h28])
      · exact (hlow (by decide) (by decide)).trans (by rw [write_ring hidle ((ringOn_iff f).mpr hon)])
      · exact (hlow (by decide) (by decide)).trans (by rw [write_cpl hidle ((ringOn_iff f).mpr hon)])
      · exact (hlow (by decide) (by decide)).trans (by rw [write_log hidle ((ringOn_iff f).mpr hon) hv])
      · exact (hlow (by decide) (by decide)).trans (by rw [write_log_enables hidle hl hr hc h0 hv])
  case doorbell =>
    intro a
    refine ⟨exec_doorbell_away fn v, fun h0 ho => (exec_doorbell_up fn v h0).trans (congrArg _ (orOwe_behind _ _ ho)),
      exec_doorbell_ignored fn v, fun h0 ho hq hc hd hf => ?_⟩
    intro t
    have hdoor : (t.queue q).door = _ := ringDoor_door (s := { s with hubWaits := false }) v
      (not_or.mpr ⟨Nat.not_le.mpr hq, not_or.mpr ⟨hc, not_or.mpr ⟨ne_true_of_eq_false hd, not_not.mpr hf⟩⟩⟩)
    refine ⟨fun hw => (exec_doorbell_up fn v h0).trans (congrArg _ (orOwe_held _ _ ho hw)),
      fun hw => (exec_doorbell_up fn v h0).trans (congrArg _ (orOwe_done _ _ ho hw)), ?_, fun hlo hhi => ?_, fun hbad => ?_⟩
    · split at hdoor <;> exact (congrArg Prod.fst hdoor :)
    · rw [if_pos ⟨hlo, hhi⟩] at hdoor
      exact Prod.mk.inj (congrArg Prod.snd hdoor)
    · rw [if_neg fun ⟨hlo, hhi⟩ => hbad.elim (Nat.not_le.mpr hlo) (Nat.not_lt.mpr hhi)] at hdoor
      exact Prod.mk.inj (congrArg Prod.snd hdoor)
  case spdm =>
    refine ⟨fun r h => exec_spdmRequest_away fn r (barUp_eq_false s h), fun hp h0 i => ?_⟩
    have hb : s.barUp = true := (barUp_iff s).mpr ⟨hp, h0⟩
    refine ⟨fun r hr => ⟨_, exec_spdmRequest_answers fn hb ?_⟩, fun h1 h3 => ?_, fun h16 h79 => ?_, _, exec_spdmRequest_keyExchange fn hb⟩
    · rintro rfl
      simp at hr
    · rw [exec_spdmRequest_answers fn hb (by simp), spdm_firmware fn h1 h3]
    · exact ⟨_, (exec_spdmRequest_answers fn hb (by simp)).trans (by rw [spdm_context fn h16 h79])⟩
  case tdi =>
    intro f lost
    refine ⟨exec_tdiStateChange_pending, exec_tdiStateChange_keeps, fun hp hl => ?_⟩
    intro t
    have hexec := exec_tdiStateChange_loses hp hl
    refine ⟨fun ⟨ht, hs⟩ => hexec.trans (congrArg _ (hubStep_held ht hs)), fun hno => hexec.trans (congrArg _ (hubStep_taken ?_)), ?_,
      loseStream_ctx (s.setFn fn { f with tdi := tdi, keyed := keyed }) (fn := fn)⟩
    · by_contra h
      rw [not_or, Bool.not_eq_false, Bool.not_eq_true] at h
      exact hno h
    · rw [State.fn, loseStream_fns]
      exact fn_setFn ..

end

section
/-! The encoding (R20 to R32). A word and the fields of its layout determine each other. Each decoder's equation then says which word its
instructions have, and from an instruction's word its decoder reads the instruction back. -/

namespace Sys2Proof

/-! ## The layouts -/

@[simp] theorem F3.ofWord_toWord (f : F3) : F3.ofWord f.toWord = f := by
  obtain ⟨s, m, n, d, a, b⟩ := f
  have hs : s.toNat ≤ 1 := s.toNat_le
  simp only [F3.ofWord, F3.toWord, F3.mk.injEq, BitVec.toNat_ofNat, ← BitVec.toNat_inj]
  refine ⟨?_, by omega, by omega, by omega, by omega, by omega⟩
  cases s <;> simp <;> omega

@[simp] theorem FI.ofWord_toWord (f : FI) : FI.ofWord f.toWord = f := by
  obtain ⟨s, m, d, a, i⟩ := f
  have hs : s.toNat ≤ 1 := s.toNat_le
  simp only [FI.ofWord, FI.toWord, FI.mk.injEq, BitVec.toNat_ofNat, ← BitVec.toNat_inj]
  refine ⟨?_, by omega, by omega, by omega, by omega⟩
  cases s <;> simp <;> omega

@[simp] theorem FL.ofWord_toWord (f : FL) : FL.ofWord f.toWord = f := by
  obtain ⟨s, m, d, i⟩ := f
  have hs : s.toNat ≤ 1 := s.toNat_le
  simp only [FL.ofWord, FL.toWord, FL.mk.injEq, BitVec.toNat_ofNat, ← BitVec.toNat_inj]
  refine ⟨?_, by omega, by omega, by omega⟩
  cases s <;> simp <;> omega

/-- The top bit of a word, and the rest of it. -/
theorem word_top (w : Word) : w.toNat = (decide (w.toNat / 2147483648 = 1)).toNat * 2147483648 + w.toNat % 2147483648 := by
  by_cases h : w.toNat / 2147483648 = 1 <;> simp [h] <;> omega

@[simp] theorem F3.toWord_ofWord (w : Word) : (F3.ofWord w).toWord = w := by
  apply BitVec.eq_of_toNat_eq
  have htop := word_top w
  simp only [F3.ofWord, F3.toWord, BitVec.toNat_ofNat]
  omega

@[simp] theorem FI.toWord_ofWord (w : Word) : (FI.ofWord w).toWord = w := by
  apply BitVec.eq_of_toNat_eq
  have htop := word_top w
  simp only [FI.ofWord, FI.toWord, BitVec.toNat_ofNat]
  omega

@[simp] theorem FL.toWord_ofWord (w : Word) : (FL.ofWord w).toWord = w := by
  apply BitVec.eq_of_toNat_eq
  have htop := word_top w
  simp only [FL.ofWord, FL.toWord, BitVec.toNat_ofNat]
  omega

@[simp] theorem F3.majorOf_toWord (f : F3) : majorOf f.toWord = f.major := congrArg F3.major f.ofWord_toWord
@[simp] theorem FI.majorOf_toWord (f : FI) : majorOf f.toWord = f.major := congrArg FI.major f.ofWord_toWord
@[simp] theorem FL.majorOf_toWord (f : FL) : majorOf f.toWord = f.major := congrArg FL.major f.ofWord_toWord

@[simp] theorem F3.toWord_inj {f g : F3} : f.toWord = g.toWord ↔ f.s = g.s ∧ f.major.toNat = g.major.toNat ∧ f.minor.toNat = g.minor.toNat ∧
    f.d.toNat = g.d.toNat ∧ f.a.toNat = g.a.toNat ∧ f.b.toNat = g.b.toNat := by
  rw [(Function.LeftInverse.injective F3.ofWord_toWord).eq_iff]
  cases f; cases g; simp [BitVec.toNat_inj]

@[simp] theorem FI.toWord_inj {f g : FI} : f.toWord = g.toWord ↔ f.s = g.s ∧ f.major.toNat = g.major.toNat ∧ f.d.toNat = g.d.toNat ∧
    f.a.toNat = g.a.toNat ∧ f.imm.toNat = g.imm.toNat := by
  rw [(Function.LeftInverse.injective FI.ofWord_toWord).eq_iff]
  cases f; cases g; simp [BitVec.toNat_inj]

@[simp] theorem FL.toWord_inj {f g : FL} : f.toWord = g.toWord ↔ f.s = g.s ∧ f.major.toNat = g.major.toNat ∧ f.d.toNat = g.d.toNat ∧
    f.imm.toNat = g.imm.toNat := by
  rw [(Function.LeftInverse.injective FL.ofWord_toWord).eq_iff]
  cases f; cases g; simp [BitVec.toNat_inj]

/-! ## A word that decodes is the word of its instruction -/

/-- What is decoded, if anything, has this word. -/
def Written (o : Option Instr) (w : Word) : Prop := ∀ i, o = some i → encode i = some w

@[simp] theorem written_none (w : Word) : Written none w := fun _ h => (Option.some_ne_none _ h.symm).elim

@[simp] theorem written_some {i : Instr} {w : Word} : Written (some i) w ↔ encode i = some w := by simp [Written]

@[simp] theorem written_ite {c : Prop} [Decidable c] {i : Instr} {o : Option Instr} {w : Word} :
    Written (if c then some i else o) w ↔ (c → encode i = some w) ∧ (¬c → Written o w) := by
  by_cases h : c <;> simp [Written, h]

section
/-! Minor by minor, the instruction's fields are those of the layout: subfields that a condition or a quotient names make up their field. -/
variable {f : F3}

theorem written_decodeInt (hm : f.major.toNat = 1) : Written (decodeInt f) f.toWord := by
  unfold decodeInt
  split <;> simp [encode, *] <;> omega

theorem written_decodeIntX (hm : f.major.toNat = 2) : Written (decodeIntX f) f.toWord := by
  unfold decodeIntX
  split <;> simp [encode, *] <;> omega

theorem written_decodeCtl (hm : f.major.toNat = 12) : Written (decodeCtl f) f.toWord := by
  unfold decodeCtl
  split <;> simp [encode, *] <;> omega

theorem written_decodeLdx (hm : f.major.toNat = 15) : Written (decodeLdx f) f.toWord := by
  unfold decodeLdx
  split <;> simp [encode, *]

theorem written_decodeFp (hm : f.major.toNat = 16) : Written (decodeFp f) f.toWord := by
  unfold decodeFp
  split <;> simp [encode, *] <;> omega

theorem written_decodeFmt (hm : f.major.toNat = 18) : Written (decodeFmt f) f.toWord := by
  unfold decodeFmt
  split <;> simp [encode, *] <;> omega

theorem written_decodeChan (hm : f.major.toNat = 22) : Written (decodeChan f) f.toWord := by
  unfold decodeChan
  split <;> simp [encode, *] <;> omega

theorem written_decodeCopy (hm : f.major.toNat = 23) : Written (decodeCopy f) f.toWord := by
  unfold decodeCopy
  split <;> simp [encode, *] <;> omega

theorem written_decodeMat (hm : f.major.toNat = 24) : Written (decodeMat f) f.toWord := by
  unfold decodeMat
  split <;> simp [encode, *] <;> omega

theorem written_decodeSlot (hm : f.major.toNat = 25) : Written (decodeSlot f) f.toWord := by
  unfold decodeSlot
  split <;> simp [encode, *] <;> omega

theorem written_decodeHnd (hm : f.major.toNat = 26) : Written (decodeHnd f) f.toWord := by
  unfold decodeHnd
  split <;> simp [encode, *] <;> omega

theorem written_decodePwr (hm : f.major.toNat = 27) : Written (decodePwr f) f.toWord := by
  unfold decodePwr
  split <;> simp [encode, *] <;> omega

theorem written_decodeSys (hm : f.major.toNat = 28) : Written (decodeSys f) f.toWord := by
  unfold decodeSys
  split <;> simp [encode, *] <;> omega

end

/-- The size of ALD and AST has its high bit and its low bit at the two ends of the immediate (R31). -/
theorem sizeField_div (i : BitVec 12) : (i.toNat / 2048 * 2 + i.toNat % 2) % 4 / 2 = i.toNat / 2048 := by omega

theorem written_decodeFI (f : FI) : Written (decodeFI f) f.toWord := by
  unfold decodeFI
  split <;> simp [encode, sizeField_div, *] <;> omega

theorem written_decodeFL (f : FL) : Written (decodeFL f) f.toWord := by
  unfold decodeFL
  split <;> simp [encode, *]
  omega

theorem written_F3 {w : Word} {dec : F3 → Option Instr} (h : Written (dec (F3.ofWord w)) (F3.ofWord w).toWord) : Written (dec (F3.ofWord w)) w := by
  rwa [F3.toWord_ofWord] at h

theorem written_FI (w : Word) : Written (decodeFI (FI.ofWord w)) w := by
  simpa using written_decodeFI (FI.ofWord w)

theorem written_FL (w : Word) : Written (decodeFL (FL.ofWord w)) w := by
  simpa using written_decodeFL (FL.ofWord w)

theorem written_decodeRaw (w : Word) : Written (decodeRaw w) w := by
  unfold decodeRaw
  split
  case h_1 hm => exact written_F3 (written_decodeInt hm)
  case h_2 hm => exact written_F3 (written_decodeIntX hm)
  case h_3 | h_4 | h_5 | h_6 | h_7 | h_8 | h_10 | h_13 | h_14 | h_17 | h_19 | h_20 | h_21 => exact written_FI w
  case h_9 | h_11 => exact written_FL w
  case h_12 hm => exact written_F3 (written_decodeCtl hm)
  case h_15 hm => exact written_F3 (written_decodeLdx hm)
  case h_16 hm => exact written_F3 (written_decodeFp hm)
  case h_18 hm => exact written_F3 (written_decodeFmt hm)
  case h_22 hm => exact written_F3 (written_decodeChan hm)
  case h_23 hm => exact written_F3 (written_decodeCopy hm)
  case h_24 hm => exact written_F3 (written_decodeMat hm)
  case h_25 hm => exact written_F3 (written_decodeSlot hm)
  case h_26 hm => exact written_F3 (written_decodeHnd hm)
  case h_27 hm => exact written_F3 (written_decodePwr hm)
  case h_28 hm => exact written_F3 (written_decodeSys hm)
  case h_29 => exact written_none w

/-! ## An instruction's word decodes to it -/

/-- The word of the instruction, if it has one, has its fields. -/
def Reads (i : Instr) : Prop := ∀ w, encode i = some w → decodeRaw w = some i

theorem reads_of {i : Instr} {v : Word} (he : encode i = some v) (hd : decodeRaw v = some i) : Reads i := by
  rintro w h
  rwa [← Option.some.inj (he.symm.trans h)]

section
/-! The decoder of each major reads what its layout wrote. -/
variable {i : Instr} {f : F3} (he : encode i = some f.toWord)
include he

theorem reads_int (hm : f.major = 1) (hd : decodeInt f = some i) : Reads i := reads_of he (by simpa [decodeRaw, hm] using hd)

theorem reads_intX (hm : f.major = 2) (hd : decodeIntX f = some i) : Reads i := reads_of he (by simpa [decodeRaw, hm] using hd)

theorem reads_ctl (hm : f.major = 12) (hd : decodeCtl f = some i) : Reads i := reads_of he (by simpa [decodeRaw, hm] using hd)

theorem reads_ldx (hm : f.major = 15) (hd : decodeLdx f = some i) : Reads i := reads_of he (by simpa [decodeRaw, hm] using hd)

theorem reads_fp (hm : f.major = 16) (hd : decodeFp f = some i) : Reads i := reads_of he (by simpa [decodeRaw, hm] using hd)

theorem reads_fmt (hm : f.major = 18) (hd : decodeFmt f = some i) : Reads i := reads_of he (by simpa [decodeRaw, hm] using hd)

theorem reads_chan (hm : f.major = 22) (hd : decodeChan f = some i) : Reads i := reads_of he (by simpa [decodeRaw, hm] using hd)

theorem reads_copy (hm : f.major = 23) (hd : decodeCopy f = some i) : Reads i := reads_of he (by simpa [decodeRaw, hm] using hd)

theorem reads_mat (hm : f.major = 24) (hd : decodeMat f = some i) : Reads i := reads_of he (by simpa [decodeRaw, hm] using hd)

theorem reads_slot (hm : f.major = 25) (hd : decodeSlot f = some i) : Reads i := reads_of he (by simpa [decodeRaw, hm] using hd)

theorem reads_hnd (hm : f.major = 26) (hd : decodeHnd f = some i) : Reads i := reads_of he (by simpa [decodeRaw, hm] using hd)

theorem reads_pwr (hm : f.major = 27) (hd : decodePwr f = some i) : Reads i := reads_of he (by simpa [decodeRaw, hm] using hd)

theorem reads_sys (hm : f.major = 28) (hd : decodeSys f = some i) : Reads i := reads_of he (by simpa [decodeRaw, hm] using hd)

end

theorem reads_FI {i : Instr} {f : FI} (he : encode i = some f.toWord) (hm : f.major ∈ [3, 4, 5, 6, 7, 8, 10, 13, 14, 17, 19, 20, 21])
    (hd : decodeFI f = some i) : Reads i := by
  refine reads_of he ?_
  simp only [List.mem_cons, List.not_mem_nil, or_false] at hm
  rcases hm with h | h | h | h | h | h | h | h | h | h | h | h | h <;> simpa [decodeRaw, h] using hd

theorem reads_FL {i : Instr} {f : FL} (he : encode i = some f.toWord) (hm : f.major ∈ [9, 11]) (hd : decodeFL f = some i) : Reads i := by
  refine reads_of he ?_
  simp only [List.mem_cons, List.not_mem_nil, or_false] at hm
  rcases hm with h | h <;> simpa [decodeRaw, h] using hd

/-- The atomics that read and write, in the order of their codes (R31, R237). -/
def atomics (s : Bool) (d a : BitVec 7) (n : BitVec 1) (r : BitVec 2) (c : BitVec 4) : List Instr :=
  [.aadd s d a n r c, .aand s d a n r c, .aor s d a n r c, .axor s d a n r c, .amin s d a n r c, .amax s d a n r c, .aminu s d a n r c,
    .amaxu s d a n r c, .axchg s d a n r c, .acas s d a n r c, .acas64 s d a n r c, .acas128 s d a n r c, .afadd s d a n r c, .afaddB2 s d a n r c]

theorem decodeFI_atomic {f : FI} {k : Nat} (hm : f.major.toNat = 19) (heven : f.imm.toNat % 2 = 0) (hk : f.imm.toNat / 128 % 16 = k) (hlt : k < 14) :
    decodeFI f = (atomics f.s f.d f.a (.ofNat 1 (f.imm.toNat / 2048)) (.ofNat 2 (f.imm.toNat / 32)) (.ofNat 4 (f.imm.toNat / 2)))[k]? := by
  interval_cases k <;> simp [decodeFI, atomics, *]

section
variable {s : Bool} {d a : BitVec 7} {n : BitVec 1} {r : BitVec 2} {c : BitVec 4}

theorem encode_atomic {k : Nat} {i : Instr} (h : (atomics s d a n r c)[k]? = some i) :
    encode i = some (FI.toWord ⟨s, 19, d, a, .ofNat 12 (n.toNat * 2048 + r.toNat * 32 + c.toNat * 2 + k * 128)⟩) := by
  have hlt : k < 14 := (List.getElem?_eq_some_iff.mp h).1
  interval_cases k <;> obtain rfl := Option.some.inj h <;> simp [encode]

theorem reads_atomic {i : Instr} (h : i ∈ atomics s d a n r c) : Reads i := by
  obtain ⟨k, hk⟩ := List.mem_iff_getElem?.mp h
  have hlt : k < 14 := (List.getElem?_eq_some_iff.mp hk).1
  refine reads_FI (encode_atomic hk) (by simp) ?_
  rw [decodeFI_atomic (k := k) rfl (by simp; omega) (by simp; omega) hlt, ← hk]
  congr 2 <;> simp [← BitVec.toNat_inj] <;> omega

/-- The immediate of ALD or AST and its fields: the two bits of the size stand at its ends (R31). -/
theorem sized_imm {hi lo r c op k : Nat} (hhi : hi < 2) (hlo : lo < 2) (hr : r < 4) (hc : c < 16) (hop : op = k * 128) (hk : k < 16) :
    let m := (hi * 2048 + r * 32 + c * 2 + lo + op) % 4096
    m / 128 % 16 = k ∧ m / 2048 = hi ∧ m % 2 = lo ∧ m / 32 % 4 = r ∧ m / 2 % 16 = c := by
  omega

theorem reads_ald {z : BitVec 2} : Reads (.ald s d a z r c) := by
  obtain ⟨hop, hhi, hlo, hr, hc⟩ := sized_imm (op := 1792) (k := 14) (Nat.div_lt_of_lt_mul z.isLt) (Nat.mod_lt z.toNat two_pos) r.isLt c.isLt rfl (by decide)
  refine reads_FI rfl (by simp) ?_
  simp [decodeFI, ← BitVec.toNat_inj, *]
  omega

theorem reads_ast {z : BitVec 2} : Reads (.ast s d a z r c) := by
  obtain ⟨hop, hhi, hlo, hr, hc⟩ := sized_imm (op := 1920) (k := 15) (Nat.div_lt_of_lt_mul z.isLt) (Nat.mod_lt z.toNat two_pos) r.isLt c.isLt rfl (by decide)
  refine reads_FI rfl (by simp) ?_
  simp [decodeFI, ← BitVec.toNat_inj, *]
  omega

end

theorem reads (i : Instr) (hwf : i.wf = true) : Reads i := by
  cases i with
  | add | sub | mul | mulh | mulhu | mad | and | or | xor | andn | shl | shr | sra | rot | min | max | minu | maxu | seq | sne | slt | sltu | sel
  | clz | popc | brev | divu | remu => exact reads_int rfl rfl rfl
  | bfe | bfi | add64 | sub64 | shl64 | shr64 | mul64 | ptr | ptrsp | ptrrk | ptrof | addH2 | subH2 | maxH2 | minH2 | maxuH2 | minuH2 | packH2
  | acsH2 => exact reads_intX rfl rfl rfl
  | addi | andi | ori | xori | slti | sltiu => exact reads_FI rfl (by simp) rfl
  | movhi | jmp | call => exact reads_FL rfl (by simp) rfl
  | jmpr | callr | ret | exit | yield | nop | elect | fsync | fshfl | fballot | poll => exact reads_ctl rfl rfl rfl
  | ldf | stf | lds | sts => exact reads_ldx rfl rfl rfl
  | fadd | fsub | fmul | ffma | fmin | fmax | fabs | fneg | fcmp | fsel | frcp | frsq | fsqrt | fexp2 | flog2 | fsin | fcos | fdiv | hadd2B
  | hmul2B | hfma2B | hadd2F | hmul2F | hfma2F => exact reads_fp rfl rfl rfl
  | fmtset | fmtget => exact reads_fmt rfl rfl rfl
  | mwait => exact reads_mat rfl rfl rfl
  | hnew | hdrop | hrec | hinfo | hbind => exact reads_hnd rfl rfl rfl
  | balidle | ykrd | permits => exact reads_pwr rfl rfl rfl
  | sysrd | syswr | trap | errrd | clkrd | clkrdNom | refrd | brk | nrec | binflush | enq => exact reads_sys rfl rfl rfl
  | shli | shri | srai | roti =>
    refine reads_intX rfl rfl ?_
    simp [decodeIntX, ← BitVec.toNat_inj]
    omega
  | bcc | ld | st =>
    refine reads_FI rfl (by simp) ?_
    simp [decodeFI, ← BitVec.toNat_inj]
    omega
  | cvtf s d a e p =>
    have hr : (e.toNat * 64 + p.toNat + 56) % 4096 / 8 % 8 = 7 := by omega
    refine reads_FI rfl (by simp) ?_
    simp [decodeFI, hr, ← BitVec.toNat_inj]
    omega
  | cvtn s d a e r p =>
    have hr7 : r.toNat ≠ 7 := of_decide_eq_true hwf
    have hr : (e.toNat * 64 + r.toNat * 8 + p.toNat) % 4096 / 8 % 8 = r.toNat := by omega
    refine reads_FI rfl (by simp) ?_
    simp [decodeFI, hr, hr7, ← BitVec.toNat_inj]
    omega
  | aadd s d a n r c | aand s d a n r c | aor s d a n r c | axor s d a n r c | amin s d a n r c | amax s d a n r c | aminu s d a n r c | amaxu s d a n r c
  | axchg s d a n r c | acas s d a n r c | acas64 s d a n r c | acas128 s d a n r c | afadd s d a n r c | afaddB2 s d a n r c =>
    exact reads_atomic (s := s) (d := d) (a := a) (n := n) (r := r) (c := c) (by simp [atomics])
  | ald => exact reads_ald
  | ast => exact reads_ast
  | phase | fence | qfence | monw | barinit | bararr | barwait | barsync =>
    refine reads_FI rfl (by simp) ?_
    simp (disch := omega) [decodeFI, if_pos, if_neg, ← BitVec.toNat_inj]
    omega
  | barinitM | bararrM | barwaitM | barsyncM | barexpM | gbar => exact reads_FI rfl (by simp) (by simp [decodeFI])
  | winb =>
    refine reads_ctl rfl rfl ?_
    simp [decodeCtl, ← BitVec.toNat_inj]
    omega
  | cvti | cvtu | cvta =>
    refine reads_fp rfl rfl ?_
    simp [decodeFp, ← BitVec.toNat_inj]
    omega
  | fmtgetSt | fmtchk =>
    refine reads_fmt rfl rfl ?_
    simp (disch := omega) [decodeFmt, if_pos, if_neg, ← BitVec.toNat_inj]
    omega
  | chinit | chpush | chpop | chres | chpub | chpoll =>
    refine reads_chan rfl rfl ?_
    simp [decodeChan, ← BitVec.toNat_inj]
    omega
  | ckick | ctagwAny | ctagwAll | ctagff | ctagclr | cstat =>
    refine reads_copy rfl rfl ?_
    simp [decodeCopy, ← BitVec.toNat_inj]
    omega
  | mzero | mmaP | mmaC | mrd | mwr | mstore | mstoreS | mqnt | had | mchk =>
    refine reads_mat rfl rfl ?_
    simp (disch := omega) [decodeMat, if_pos, if_neg, ← BitVec.toNat_inj]
    omega
  | sclaim | srel | mld | sinfo =>
    refine reads_slot rfl rfl ?_
    simp [decodeSlot, ← BitVec.toNat_inj]
    omega
  | hsplit =>
    refine reads_hnd rfl rfl ?_
    simp [decodeHnd, ← BitVec.toNat_inj]
    omega
  | pcls | burn =>
    refine reads_pwr rfl rfl ?_
    simp [decodePwr, ← BitVec.toNat_inj]
    omega
  | moncfg | monrd =>
    refine reads_sys rfl rfl ?_
    simp [decodeSys, ← BitVec.toNat_inj]
    omega
  | _ => exact nofun

end Sys2Proof

open Sys2Proof

/-- Settles O57: an instruction's word decodes to it (`reads`), and what a word decodes to has that word (`written_decodeRaw`). -/
theorem encodeAndDecodeAgree : Obligations.EncodeAndDecodeAgree := by
  refine ⟨fun i w hwf h => ?_, fun w i h => ?_⟩
  · simp [decode, reads i hwf w h, hwf]
  · unfold decode at h
    split at h
    next j hj =>
      obtain ⟨hwf, ⟨⟩⟩ := Option.ite_none_right_eq_some.mp h
      exact ⟨hwf, written_decodeRaw w _ hj⟩
    next => cases h

end

section
/-! Registers (R24, R25, R35), and results that land (R36). -/

namespace Sys2Proof.Machine

/-! ## Fixed-latency writes -/

variable {th : Thread}

@[simp] theorem put_regs (th : Thread) (i : Nat) (w : Word) : (th.put i w).regs = th.regs.set i w := rfl
@[simp] theorem write_zero (th : Thread) (ws : List Word) : th.write 0 ws = th := rfl

theorem write_of_ne {d : BitVec 7} (hd : d ≠ 0) (ws : List Word) : th.write d ws = th.puts (th.base + d.toNat) ws := if_neg hd

/-- A register in the range of the words written holds its word, and any other what it held. -/
theorem puts_getD {j : Nat} {ws : List Word} (hlen : j + ws.length ≤ th.regs.length) (i : Nat) :
    (th.puts j ws).regs.getD i 0 = if j ≤ i ∧ i < j + ws.length then ws.getD (i - j) 0 else th.regs.getD i 0 := by
  induction ws generalizing th j with
  | nil => exact (if_neg fun h => absurd h.2 (by simpa using h.1)).symm
  | cons w ws ih =>
    rw [List.length_cons] at hlen
    have hput : (th.put j w).regs.getD i 0 = if i = j then w else th.regs.getD i 0 := by
      split
      · next h => simp [List.getD_eq_getElem?_getD, h, show j < th.regs.length by omega]
      · next h => simp [List.getD_eq_getElem?_getD, List.getElem?_set_ne (Ne.symm h)]
    rw [Thread.puts, ih (by simpa using by omega), hput]
    obtain hlt | rfl | hgt := Nat.lt_trichotomy i j
    · rw [if_neg (by omega), if_neg (by omega), if_neg (by omega)]
    · simp
    · obtain ⟨k, rfl⟩ := Nat.exists_eq_add_of_lt hgt
      rw [if_neg (by omega : ¬j + k + 1 = j), List.length_cons, show j + k + 1 - j = k + 1 by omega, List.getD_cons_succ,
        show j + k + 1 - (j + 1) = k by omega]
      exact if_congr (by omega) rfl rfl

/-- With no result outstanding to any register, a read returns what the register holds. -/
theorem reg_of_cands_nil {s : State} {r : TRef} {v : BitVec 7} (k : Nat) (hc : (s.thread r).cands = []) (hv : v ≠ 0) :
    s.reg r v k = (s.thread r).regs.getD ((s.thread r).base + v.toNat + k) 0 := by
  rw [State.reg, if_neg hv]
  simp [Thread.rawReg, hc]

end Sys2Proof.Machine

open Sys2Proof Sys2Proof.Machine

/-- Settles O4. A group's words are put one register after the other (`puts_getD`); a read answers a value that R35 allows (`reg_reads`). -/
theorem registerWriteAndRead : Obligations.RegisterWriteAndRead := by
  refine ⟨fun th d ws i hd hlen => ?_, write_zero, fun th k w => Iff.rfl, fun s r v k => reg_of_cands_nil k, reg_reads⟩
  rw [write_of_ne hd]
  exact puts_getD hlen i

/-- Refutes O23: the result of a Saved group's thread stays outstanding until the group's resume (R36), and the statement does not leave
that state out. The thread below has a result of no register, whose words are known. -/
theorem not_resultsLand : ¬ Obligations.ResultsLand := by
  intro h
  let o : Outst := { id := 0, regs := [], val := .have [], seq := 0 }
  let s : State := { groups := [{ state := .saved, threads := [{ outs := [o] }] }] }
  obtain ⟨t, hexec, -, -, -, -, -, houts, -⟩ := (h s 0 0 0 o rfl).2 [] (.inl rfl) List.nodup_nil (Nat.le_refl 0)
  have hst : s = t := Host.Outcome.next.inj hexec
  have hleft : [o] = [o].filter (fun x => x.id ≠ 0) := by
    rw [← hst] at houts
    exact houts
  simp [o] at hleft

end

section
/-! TRAP, BRK and an illegal word (R33, R34, R69, R71, R78, R79). A record leaves groups and launches as they are, and no fault and no pre-emption
changes how many groups the module lists. -/

namespace Sys2Proof.Machine

variable {s u : State}

/-! ## What a record leaves unchanged -/

theorem HubOnly.groups (h : HubOnly u s) : s.groups = u.groups := (congrArg State.groups h.rest :)
theorem HubOnly.launches (h : HubOnly u s) : s.launches = u.launches := (congrArg State.launches h.rest :)
theorem HubOnly.group (h : HubOnly u s) (g : Nat) : s.group g = u.group g := by rw [State.group, h.groups, State.group]

/-! ## How many groups the module lists -/

/-- The module lists n groups. -/
def State.hasGroups (n : Nat) (s : State) : Prop := s.groups.length = n

theorem HubOnly.hasGroups {n : Nat} (ht : HubOnly u s) (h : u.hasGroups n) : s.hasGroups n := by rwa [State.hasGroups, ht.groups]

variable {n : Nat}

theorem hasGroups_modGroup {g : Nat} {f : Group → Group} (h : s.hasGroups n) : (s.modGroup g f).hasGroups n := by
  rwa [State.hasGroups, State.modGroup_groups, List.length_modify]

theorem hasGroups_modThread {r : TRef} {f : Thread → Thread} (h : s.hasGroups n) : (s.modThread r f).hasGroups n := hasGroups_modGroup h

theorem hasGroups_setEngineQueue {c q : Nat} {l : List Entry} (h : s.hasGroups n) : (s.setEngineQueue c q l).hasGroups n := ite_keeps h (ite_keeps h h)

theorem hasGroups_popMarker {c q : Nat} (h : s.hasGroups n) : OptOk (State.hasGroups n) (s.popMarker c q) := by
  unfold State.popMarker
  split
  · exact trivial
  · exact ite_keeps (foldl_keeps h fun _ _ ht => hasGroups_setEngineQueue ht) trivial

theorem hasGroups_popMarkers {c : Nat} {l : List Nat} (h : s.hasGroups n) : OptOk (State.hasGroups n) (s.popMarkers c l) := by
  induction l with
  | nil => exact trivial
  | cons q l ih =>
    unfold State.popMarkers
    split
    · next e => exact (hasGroups_popMarker h).some e
    · exact ih

theorem hasGroups_popWait {c : Nat} (h : s.hasGroups n) : OptOk (State.hasGroups n) (s.popWait c) := by
  unfold State.popWait
  split
  · split
    · exact hasGroups_modThread (hasGroups_modThread (hasGroups_setEngineQueue h))
    · exact trivial
  · exact trivial

theorem hasGroups_settleMarkers {c k : Nat} (h : s.hasGroups n) : (s.settleMarkers c k).hasGroups n := by
  induction k generalizing s with
  | zero => exact h
  | succ k ih =>
    unfold State.settleMarkers
    split
    · next e => exact ih ((hasGroups_popWait h).some e)
    · split
      · next e => exact ih ((hasGroups_popMarkers h).some e)
      · exact h

theorem hasGroups_settleMat {c : Nat} (h : s.hasGroups n) : (s.settleMat c).hasGroups n := h

theorem hasGroups_queuesMoved {c : Nat} (h : s.hasGroups n) : (s.queuesMoved c).hasGroups n :=
  hasGroups_settleMat (hasGroups_settleMarkers (hasGroups_settleMarkers h))

theorem hasGroups_allMoved {l : List Nat} (h : s.hasGroups n) : (s.allMoved l).hasGroups n := by
  induction l generalizing s with
  | nil => exact h
  | cons c l ih =>
    rw [State.allMoved]
    exact ih (hasGroups_queuesMoved h)

theorem hasGroups_releaseMat {g : Nat} (h : s.hasGroups n) : (s.releaseMat g).hasGroups n := hasGroups_settleMat h

theorem hasGroups_saveFree {l : Launch} {k : Nat} (h : s.hasGroups n) : (s.saveFree l k).hasGroups n := (hubOnly_saveFree (.refl s)).hasGroups h

theorem hasGroups_freeGroup {g : Nat} (h : s.hasGroups n) : (s.freeGroup g).hasGroups n := by
  have hmat : (s.releaseMat g).hasGroups n := hasGroups_releaseMat h
  unfold State.freeGroup
  extract_lets gr l s1 s2 s3
  have hspill : s2.hasGroups n := ite_keeps (hasGroups_saveFree hmat) hmat
  exact hasGroups_modGroup (ite_keeps (hasGroups_saveFree hspill) hspill)

theorem hasGroups_freeSlotLanes {c : Nat} {l : List Outst} (h : s.hasGroups n) : (s.freeSlotLanes c l).hasGroups n := by
  induction l generalizing s with
  | nil => exact h
  | cons o l ih =>
    unfold State.freeSlotLanes
    split
    · exact ih h
    · exact ih h

theorem hasGroups_leaveWaits {g : Nat} {left : Thread → Bool} (h : s.hasGroups n) : (s.leaveWaits g left).hasGroups n := ite_keeps h h

theorem hasGroups_drainCheck {l : Nat} (h : s.hasGroups n) : (s.drainCheck l).hasGroups n := ite_keeps h h

theorem hasGroups_stopGroup {g : Nat} (h : s.hasGroups n) : (s.stopGroup g).hasGroups n := by
  have hfree (l : List Outst) : (((s.leaveWaits g Thread.waits).freeSlotLanes (s.group g).core l).freeGroup g).hasGroups n :=
    hasGroups_freeGroup (hasGroups_freeSlotLanes (hasGroups_leaveWaits h))
  exact ite_keeps h (hasGroups_drainCheck (hasGroups_queuesMoved (hasGroups_modGroup (hfree _))))

theorem hasGroups_stopGroups {l : List Nat} (h : s.hasGroups n) : (s.stopGroups l).hasGroups n := by
  induction l generalizing s with
  | nil => exact h
  | cons g l ih => exact ih (hasGroups_stopGroup h)

theorem hasGroups_dispose {l : Nat} {replay : Bool} (h : s.hasGroups n) : (s.dispose l replay).hasGroups n := by
  unfold State.dispose
  extract_lets -underBinder t
  exact hasGroups_allMoved (s := t) h

theorem hasGroups_endLaunch {l : Nat} (h : s.hasGroups n) : (s.endLaunch l).hasGroups n := ite_keeps h (hasGroups_dispose (hasGroups_stopGroups h))

theorem hasGroups_rollback {l : Nat} {sector : Option Nat} (h : s.hasGroups n) : (s.rollback l sector).hasGroups n := hasGroups_dispose (hasGroups_stopGroups h)

theorem hasGroups_takeFault {c : Nat} {f : FaultInfo} (h : s.hasGroups n) : (s.takeFault c f).hasGroups n := by
  have hrec {f : FaultInfo} {act : Nat} {ring : Option (Nat × Nat)} : (s.record c f act ring).hasGroups n := (hubOnly_record (.refl s)).hasGroups h
  unfold State.takeFault
  split
  · exact hrec
  · extract_lets la act f late
    refine ite_keeps (hasGroups_rollback h) (ite_keeps hrec (ite_keeps ?_ (ite_keeps hrec (ite_keeps (hasGroups_endLaunch hrec) (hasGroups_rollback hrec)))))
    split
    · exact hasGroups_stopGroup hrec
    · exact hrec

theorem hasGroups_publish {r : TRef} {scope : Nat} (h : s.hasGroups n) : (s.publish r scope).hasGroups n :=
  hasGroups_modThread (ite_keeps h (ite_keeps (hasGroups_modThread (ite_keeps h h)) h))

theorem hasGroups_publishAll {scope : Nat} {l : List TRef} (h : s.hasGroups n) : (s.publishAll scope l).hasGroups n := by
  induction l generalizing s with
  | nil => exact h
  | cons r l ih => exact ih (hasGroups_publish h)

theorem hasGroups_haltGroup {g a len : Nat} (h : s.hasGroups n) : (s.haltGroup g a len).hasGroups n :=
  hasGroups_modGroup (hasGroups_leaveWaits (hasGroups_publishAll (n := n) (s := s.tick) h))

theorem haltGroup_state {g a len : Nat} (hg : g < s.groups.length) : ((s.haltGroup g a len).group g).state = .halting := by
  have hlen : (((s.tick.publishAll 7 (s.refs g)).spareReqs g).leaveWaits g Thread.inBalidle).hasGroups s.groups.length :=
    hasGroups_leaveWaits (hasGroups_publishAll (s := s.tick) rfl)
  rw [State.haltGroup, group_modGroup_same _ _ (hlen ▸ hg)]

/-- A group that is pre-empted alone is Halting from then on (R130). -/
theorem halting_of_preempt {g : Nat} (hg : g < s.groups.length) (hres : (s.group g).state = .resident) (h : s.preempt [g] = some u) :
    (u.group g).state = .halting ∧ u.hasGroups s.groups.length := by
  have htake := hubOnly_saveTake (l := s.launchOf g) (len := recordBytes (s.launchOf g).hdr) (skip := none) (.refl s)
  rw [State.preempt, State.preemptEach, if_neg (not_not.mpr hres)] at h
  dsimp only at h
  split at h
  · next t e =>
    obtain rfl := Option.some.inj h
    split at e
    · cases e
    · next v a e2 =>
      have hlen : v.hasGroups s.groups.length := (htake.fst e2).hasGroups rfl
      obtain rfl : v.haltGroup g a (recordBytes (s.launchOf g).hdr) = t := congrArg Prod.fst e
      exact ⟨haltGroup_state (hlen ▸ hg), hasGroups_haltGroup hlen⟩
  · cases h

/-! ## What TRAP and BRK do to their thread -/

/-- The fault that TRAP and BRK record for a thread (R71, R78, R79). -/
def State.userTrap (s : State) (r : TRef) (d0 d1 : Nat) : FaultInfo := {
  code := 0x1C, d0 := d0, d1 := d1, pc := (s.thread r).pc, lanes := 2 ^ (r.t % 32), furrow := r.t / 32
  core := (s.group r.g).core, usertag := (s.thread r).usertag.toNat, launch := some (s.group r.g).launch, group := some r.g }

variable {r : TRef} {f : Form}

theorem oneOk_sheaf (h : s.oneOk f r = true) : s.sheaf = [r] := of_decide_eq_true (Bool.and_eq_true_iff.mp h).1

theorem oneOk_canIssue (h : s.oneOk f r = true) : s.canIssue r = true := by
  have hs := oneOk_sheaf h
  simp only [State.oneOk, State.sheafOk, State.laneOk, hs, Bool.and_eq_true, List.all_cons] at h
  tauto

theorem canIssue_ready (h : s.canIssue r = true) : (s.thread r).status = .ready := by
  simp only [State.canIssue, Bool.and_eq_true, decide_eq_true_eq] at h
  exact h.1.1

/-- A thread without the marker's park is as one that issued without the marker (R34). -/
theorem unpark_issued {th : Thread} (h : th.status = .ready) (sw : Bool) (pc : Int) : (th.issued sw pc).unpark = th.issued false pc := by
  simp only [Thread.issued, h, Thread.unpark]
  split <;> simp

/-- The one lane of the sheaf executed its instruction. -/
theorem executed_one {t : State} (hs : s.sheaf = [r]) (ht : (t.thread r).pc = (s.thread r).pc + 4) : executed s t = [r] := by
  simp [executed, hs, ht]

@[simp] theorem issued_pc (th : Thread) (sw : Bool) (pc : Int) : (th.issued sw pc).pc = pc := by
  unfold Thread.issued
  extract_lets th'
  split
  · split <;> rfl
  · rfl

/-! ## TRAP (R78) -/

theorem hubOnly_trapRecord (s : State) (r : TRef) (d0 d1 : Nat) : HubOnly s (s.trapRecord r d0 d1) := hubOnly_record (.refl s)

/-- A change of one thread that can issue, in a state that has its groups. -/
theorem thread_changed {t : State} (ht : t.groups = s.groups) (hc : s.canIssue r = true) (f : Thread → Thread) :
    (t.tick.modThread r f).thread r = f (s.thread r) := by
  have htick : t.tick.thread r = s.thread r := by rw [State.thread, State.group, State.tick_groups, ht, State.thread, State.group]
  have hhas : t.tick.hasThread r := hasThread_of_status _ (by rw [htick, canIssue_ready hc]; exact Status.noConfusion)
  rw [thread_modThread_same _ _ hhas, htick]

theorem sameBut_changed {t : State} (h : SameShape s t) (ht : t.groups = s.groups) (f : Thread → Thread) : SameBut [r] s (t.tick.modThread r f) := by
  refine .of ((h.fresh _).modThread r f) fun q hq => ?_
  rw [thread_modThread_ne _ _ (by simpa using hq), State.thread, State.group, State.tick_groups, ht, State.thread, State.group]

theorem sameShape_inSheaf (s : State) : SameShape s s.inSheaf := ((SameShape.refl s).fresh _).sheafId _

theorem exec_trap_one {sw : Bool} {a b : BitVec 7} (h : s.oneOk { sw := sw, reads := [{ v := a }] } r = true) :
    exec (.trap sw a b) s = .next (((s.inSheaf.trapRecord r (s.inSheaf.reg r a).toNat b.toNat).tick.modThread r
      (·.issued false ((s.thread r).pc + 4))).trapAct r.g) := by
  have hrun := runSheaf_one (f := { sw := false, reads := [f1 a] }) (body := fun s r => .done (s.trapRecord r (s.reg r a).toNat b.toNat)) (s := s) (r := r) h
  have hthread := thread_changed (hubOnly_trapRecord s.inSheaf r (s.inSheaf.reg r a).toNat b.toNat).groups (oneOk_canIssue h)
    (·.issued false ((s.thread r).pc + 4))
  have hex := executed_one (oneOk_sheaf h) (hthread ▸ issued_pc ..)
  change execTrap sw a b s = _
  unfold execTrap
  rw [hrun]
  dsimp only
  rw [hex]
  rfl

theorem trapAct_eq {t : State} (hg : (t.group r.g).launch = (s.group r.g).launch) (hl : t.launches = s.launches) :
    t.trapAct r.g = if actionOf (s.launchOf r.g) 0x1C = 0 then t else if actionOf (s.launchOf r.g) 0x1C = 1 then t.stopGroup r.g
      else t.endLaunch (s.group r.g).launch := by
  have hla : t.launchOf r.g = s.launchOf r.g := by rw [State.launchOf, State.launch, hg, hl, State.launchOf, State.launch]
  rw [State.trapAct, hla, hg]

/-! ## BRK (R79) -/

theorem exec_brk_one {sw : Bool} {b : BitVec 7} (h : s.oneOk { sw := sw } r = true) :
    let u := s.inSheaf.tick.modThread r (·.issued sw ((s.thread r).pc + 4))
    ((s.ctx (s.ctxOf r.g)).debug = false → exec (.brk sw b) s = .next u) ∧
    ((s.ctx (s.ctxOf r.g)).debug = true →
      let v := (s.inSheaf.tick.modThread r fun th => (th.issued sw ((s.thread r).pc + 4)).unpark).brkGroup s b.toNat [r] r.g
      exec (.brk sw b) s = .next (if v.hubWaits && !s.hubWaits then s else v)) := by
  intro u
  have hrun := runSheaf_one (body := fun s _ => .done s) h
  have hthread := thread_changed (t := s.inSheaf) rfl (oneOk_canIssue h) (·.issued sw ((s.thread r).pc + 4))
  have hex : executed s u = [r] := executed_one (oneOk_sheaf h) (hthread ▸ issued_pc ..)
  have hdebug : [r].filter (fun q => (s.ctx (s.ctxOf q.g)).debug) = if (s.ctx (s.ctxOf r.g)).debug then [r] else [] := by
    rw [List.filter_cons, List.filter_nil]
  refine ⟨fun hd => ?_, fun hd => ?_⟩
  all_goals
    change execBrk sw b s = _
    unfold execBrk
    rw [hrun]
    dsimp only
    rw [hex, hdebug, hd]
  · have hw : ¬(s.hubWaits && !s.hubWaits) = true := by simp
    exact congrArg Host.Outcome.next (if_neg hw)
  · have hu : u.modThread r Thread.unpark = s.inSheaf.tick.modThread r fun th => (th.issued sw ((s.thread r).pc + 4)).unpark := modThread_modThread ..
    rw [if_pos rfl, List.foldl_cons, List.foldl_nil, hu]
    rfl

/-- The fault that BRK takes for the group of one thread, whose counter has moved on since it stood at `pc`. -/
def State.brkFault (s : State) (r : TRef) (pc : Int) (code : Nat) : State :=
  s.takeFault (s.ctxOf r.g) { s.userTrap r 0 (2 ^ 63 + code) with pc := pc }

theorem issued_usertag (th : Thread) (sw : Bool) (pc : Int) : (th.issued sw pc).usertag = th.usertag := by
  unfold Thread.issued
  extract_lets th'
  split
  · exact ite_keeps (P := fun x : Thread => x.usertag = th.usertag) rfl rfl
  · rfl

/-- The fault of BRK is that of the state before its thread issued. -/
theorem brkFault_eq {t : State} {code : Nat} (h : SameShape s t) (htag : (t.thread r).usertag = (s.thread r).usertag) :
    t.brkFault r (s.thread r).pc code = t.takeFault (s.ctxOf r.g) (s.userTrap r 0 (2 ^ 63 + code)) := by
  rw [State.brkFault, h.ctxOf, State.userTrap, h.coreIdx, h.launchIdx, htag, State.userTrap]

theorem laneMask_one (r : TRef) : laneMask r.g (r.t / 32) [r] = 2 ^ (r.t % 32) := by simp [laneMask]

theorem brkGroup_one (s t : State) (r : TRef) (code : Nat) :
    let v := t.brkFault r (s.thread r).pc code
    ((v.group r.g).state ≠ .resident → t.brkGroup s code [r] r.g = v) ∧
    ((v.group r.g).state = .resident → v.preempt [r.g] = none → t.brkGroup s code [r] r.g = v.preemptNote [r.g]) ∧
    ∀ w, (v.group r.g).state = .resident → v.preempt [r.g] = some w → t.brkGroup s code [r] r.g = w.modGroup r.g fun gr => { gr with brk := true } := by
  intro v
  have hmine : [r].filter (fun q => q.g = r.g) = [r] := by simp
  have hg : t.brkGroup s code [r] r.g = if (v.group r.g).state ≠ .resident then v
      else match v.preempt [r.g] with
        | some w => w.modGroup r.g fun gr => { gr with brk := true }
        | none => v.preemptNote [r.g] := by
    unfold State.brkGroup
    rw [hmine]
    dsimp only
    rw [laneMask_one]
    rfl
  rw [hg]
  refine ⟨fun h => if_pos h, fun h hp => ?_, fun w h hp => ?_⟩
  · rw [if_neg (not_not.mpr h), hp]
  · rw [if_neg (not_not.mpr h), hp]

end Sys2Proof.Machine

open Sys2Proof Sys2Proof.Machine

/-- Settles O43. A record leaves groups and launches as they are, so that TRAP acts on its thread's group (`exec_trap_one`); a pre-empted group is
Halting (`halting_of_preempt`), and BRK is held exactly where its pre-emption is. -/
theorem trapsAndBreaks : Obligations.TrapsAndBreaks := by
  intro s sw a b r th g la info
  refine ⟨fun h => ?trap, fun h => ⟨fun hd => ?silent, fun hd => ?debug⟩, fun hs hc => ?illegal⟩
  case trap =>
    intro act s1
    have hrec : s.inSheaf.trapRecord r (s.inSheaf.reg r a).toNat b.toNat = s1 := rfl
    have hhub : HubOnly s.inSheaf s1 := hubOnly_trapRecord ..
    clear_value s1
    refine ⟨s1.tick.modThread r (·.issued false (th.pc + 4)), sameBut_changed (.refl s1) rfl _, thread_changed hhub.groups (oneOk_canIssue h) _, ?_⟩
    have hlaunch : ((s1.tick.modThread r (·.issued false (th.pc + 4))).group r.g).launch = (s.group r.g).launch := by
      rw [group_modThread]
      exact (congrArg Group.launch (hhub.group r.g) :)
    rw [exec_trap_one h, hrec, trapAct_eq hlaunch hhub.launches]
  case silent => exact ⟨_, (exec_brk_one h).1 hd, sameBut_changed (sameShape_inSheaf s) rfl _, thread_changed rfl (oneOk_canIssue h) _⟩
  case debug =>
    have hshape : SameShape s s.inSheaf.tick := (sameShape_inSheaf s).fresh _
    have hthread := (thread_changed (t := s.inSheaf) rfl (oneOk_canIssue h) fun x => (x.issued sw (th.pc + 4)).unpark).trans
      (unpark_issued (canIssue_ready (oneOk_canIssue h)) ..)
    have hexec := (exec_brk_one (b := b) h).2 hd
    refine ⟨s.inSheaf.tick.modThread r fun x => (x.issued sw (th.pc + 4)).unpark,
      sameBut_changed (sameShape_inSheaf s) rfl _, hthread, ?_⟩
    intro v held
    have hv : State.brkFault _ r th.pc b.toNat = v :=
      brkFault_eq (hshape.modThread r _) ((congrArg Thread.usertag hthread).trans (issued_usertag ..))
    have hmany : v.groups.length = (s.inSheaf.tick.modThread r fun x => (x.issued sw (th.pc + 4)).unpark).groups.length :=
      hasGroups_takeFault rfl
    obtain ⟨hstopped, hfull, hhalts⟩ := hv ▸ brkGroup_one s _ r b.toNat
    clear_value v
    have hheld (x : State) : (if x.hubWaits && !s.hubWaits then s else x) = held x := by simp [held]
    refine ⟨fun hres => ?_, fun hres hno => ?_, fun w hres hw hkept => ?_⟩
    · rw [hexec, hheld, hstopped hres]
    · rw [hexec, hheld, hfull hres hno]
    · have hg : r.g < v.groups.length := by
        rw [hmany, (hshape.modThread r _).2.1]
        exact (hasThread_of_canIssue s (oneOk_canIssue h)).1
      obtain ⟨hhalting, hlen⟩ := halting_of_preempt hg hres hw
      have hsame : (w.modGroup g fun gr => { gr with brk := true }).group g = { w.group g with brk := true } :=
        group_modGroup_same _ _ (hlen ▸ hg)
      refine ⟨w.modGroup g fun gr => { gr with brk := true }, ?_, rfl, fun x hx => group_modGroup_ne _ _ hx, hsame, by rw [hsame]; exact hhalting⟩
      have hgo : ¬(w.hubWaits = true ∧ s.hubWaits = false) := fun hwait => by
        obtain rfl : s = w := (if_pos hwait).symm.trans hkept
        rw [hwait.1] at hwait
        exact Bool.noConfusion hwait.2
      rw [hexec, hheld, hhalts w hres hw]
      exact congrArg Host.Outcome.next (if_neg hgo)
  case illegal =>
    change execIllegalInstruction s = _
    simp [execIllegalInstruction, hs, hc, State.faultOf]
end

section
/-! Words written out (R20, R22, R28, R29, R32), and the turns of a step: a core's pick (R21, R124 to R127), an event, and an admin command
(R58, R362). -/

namespace Sys2Proof.Machine

variable {s u v : State} {c : Nat}

/-! ## Order and oldest -/

theorem mem_insertBy {α : Type} {le : α → α → Bool} {x y : α} {l : List α} : y ∈ insertBy le x l ↔ y = x ∨ y ∈ l := by
  induction l with
  | nil => simp [insertBy]
  | cons z l ih =>
    unfold insertBy
    split
    · exact List.mem_cons
    · rw [List.mem_cons, ih, List.mem_cons]
      exact or_left_comm

theorem length_insertBy {α : Type} (le : α → α → Bool) (x : α) (l : List α) : (insertBy le x l).length = l.length + 1 := by
  induction l with
  | nil => rfl
  | cons z l ih =>
    unfold insertBy
    split
    · rfl
    · rw [List.length_cons, ih, List.length_cons]

theorem mem_sortBy {α : Type} {le : α → α → Bool} {y : α} {l : List α} : y ∈ sortBy le l ↔ y ∈ l := by
  induction l with
  | nil => exact Iff.rfl
  | cons x l ih => rw [sortBy, mem_insertBy, ih, List.mem_cons]

theorem length_sortBy {α : Type} (le : α → α → Bool) (l : List α) : (sortBy le l).length = l.length := by
  induction l with
  | nil => rfl
  | cons x l ih => rw [sortBy, length_insertBy, ih, List.length_cons]

theorem oldest_cons (s : State) (r : TRef) (rs : List TRef) : ∃ o ∈ r :: rs, s.oldest (r :: rs) = some o := by
  induction rs generalizing r with
  | nil => exact ⟨r, List.mem_cons_self, rfl⟩
  | cons q rs ih =>
    obtain ⟨o, ho, e⟩ := ih q
    rw [State.oldest, e]
    by_cases hle : (s.thread r).readyAt ≤ (s.thread o).readyAt
    · exact ⟨r, List.mem_cons_self, if_pos hle⟩
    · exact ⟨o, List.mem_cons_of_mem _ ho, if_neg hle⟩

/-- A sheaf is formed of the threads given, at least one and at most 32 of them (R125). -/
theorem formSheaf_cons (s : State) (r : TRef) (rs : List TRef) :
    s.formSheaf (r :: rs) ≠ [] ∧ (s.formSheaf (r :: rs)).length ≤ 32 ∧ ∀ q ∈ s.formSheaf (r :: rs), q ∈ r :: rs := by
  obtain ⟨o, ho, e⟩ := oldest_cons s r rs
  rw [State.formSheaf, e]
  refine ⟨fun hnil => ?_, ?_, fun q hq => ?_⟩
  · simpa [length_sortBy] using congrArg List.length hnil
  · simp only [length_sortBy, List.length_cons, List.length_take]
    omega
  · obtain rfl | hq := List.mem_cons.mp (mem_sortBy.mp hq)
    · exact ho
    · exact mem_sortBy.mp (List.mem_filter.mp (List.mem_of_mem_take hq)).1

theorem formSheaf_single (s : State) (r : TRef) : s.formSheaf [r] = [r] := by simp [State.formSheaf, State.oldest, sortBy, insertBy]

/-! ## What a pick changes -/

/-- The states differ in sheaf, cores and contexts only. -/
def PickOnly (s u : State) : Prop := { u with sheaf := s.sheaf, cores := s.cores, ctxs := s.ctxs } = s

theorem PickOnly.refl (s : State) : PickOnly s s := rfl
theorem PickOnly.trans (h : PickOnly s u) (hv : PickOnly u v) : PickOnly s v :=
  (congrArg (fun x : State => { x with sheaf := s.sheaf, cores := s.cores, ctxs := s.ctxs }) hv :).trans h

theorem PickOnly.setCore (h : PickOnly s u) (x : Core) : PickOnly s (u.setCore c x) := h
theorem PickOnly.withSheaf (h : PickOnly s u) (l : List TRef) : PickOnly s { u with sheaf := l } := h

theorem PickOnly.eq (h : PickOnly s u) : u = { s with sheaf := u.sheaf, cores := u.cores, ctxs := u.ctxs } :=
  congrArg (fun x : State => { x with sheaf := u.sheaf, cores := u.cores, ctxs := u.ctxs }) h

theorem PickOnly.group (h : PickOnly s u) (g : Nat) : u.group g = s.group g := (congrArg (State.group · g) h :)
theorem PickOnly.thread (h : PickOnly s u) (r : TRef) : u.thread r = s.thread r := (congrArg (State.thread · r) h :)
theorem PickOnly.readyOn (h : PickOnly s u) (c : Nat) : u.readyOn c = s.readyOn c := (congrArg (State.readyOn · c) h :)
theorem PickOnly.runs (h : PickOnly s u) (d : Nat) : u.runs d = s.runs d := (congrArg (State.runs · d) h :)
theorem PickOnly.instrAt (h : PickOnly s u) (l : Nat) (pc : Int) : u.instrAt l pc = s.instrAt l pc := (congrArg (State.instrAt · l pc) h :)
theorem PickOnly.readyAtPc (h : PickOnly s u) (ready : List TRef) (l : Nat) (pc : Int) : u.readyAtPc ready l pc = s.readyAtPc ready l pc :=
  (congrArg (State.readyAtPc · ready l pc) h :)

theorem PickOnly.reserveCell (h : PickOnly s u) (x k : Nat) : PickOnly s (u.reserveCell x k) := by
  unfold State.reserveCell
  split
  · exact h
  · exact h

theorem PickOnly.retrack (h : PickOnly s u) (ready : List TRef) : PickOnly s (u.retrack c ready) := by
  unfold State.retrack
  extract_lets -underBinder
  split
  · exact h
  · exact ite_keeps h h

/-- A cell reserved is no part of a core's record. -/
theorem reserveCell_cores (s : State) (x k : Nat) : (s.reserveCell x k).cores = s.cores := by
  unfold State.reserveCell
  split
  · rfl
  · rfl

/-! ## Tracked counters (R126) -/

theorem mem_readyAtPc {ready : List TRef} {l : Nat} {pc : Int} {r : TRef} :
    r ∈ s.readyAtPc ready l pc ↔ r ∈ ready ∧ (s.group r.g).launch = l ∧ (s.thread r).pc = pc := by
  simp [State.readyAtPc]

theorem mem_readyOn {r : TRef} (h : r ∈ s.readyOn c) : s.canIssue r = true ∧ (s.group r.g).core = c := by
  simp only [State.readyOn, State.groupsOn, State.refs, List.mem_flatMap, List.mem_filter, List.mem_map, Bool.and_eq_true, decide_eq_true_eq] at h
  obtain ⟨g, ⟨-, hcore, -⟩, ⟨i, -, rfl⟩, hcan⟩ := h
  exact ⟨hcan, hcore⟩

theorem mem_counters {ready rs : List TRef} {k : Nat × Int} : k ∈ s.counters ready rs ↔ ∃ r ∈ rs, ((s.group r.g).launch, (s.thread r).pc) = k := by
  rw [State.counters, mem_sortBy, List.mem_eraseDups, List.mem_map]

/-- The entries whose counter still has a Ready thread. -/
def State.tracksKept (s : State) (c : Nat) (ready : List TRef) : List Track :=
  (s.core c).tracks.filter fun t => !(s.readyAtPc ready t.launch t.pc).isEmpty

/-- The counters that wait for an entry, those that waited before first. -/
def State.waitList (s : State) (c : Nat) (ready : List TRef) : List (Nat × Int) :=
  let untracked (k : Nat × Int) : Bool := !((s.tracksKept c ready).any fun t => decide (t.launch = k.1) && decide (t.pc = k.2))
  let old := (s.core c).want.filter fun k => untracked k && !(s.readyAtPc ready k.1 k.2).isEmpty
  old ++ (s.counters ready (ready.filter fun r => untracked ((s.group r.g).launch, (s.thread r).pc))).filter fun k => !old.contains k

/-- The entry that a counter takes. -/
def State.newTrack (s : State) (c : Nat) (k : Nat × Int) : Track :=
  { launch := k.1, pc := k.2, lastPick := (s.core c).pickNo, allocAt := (s.core c).pickNo }

theorem retrack_tracks (s : State) (c : Nat) (ready : List TRef) : ((s.retrack c ready).core c).tracks = s.tracksKept c ready ++
    if (s.tracksKept c ready).length < Config.maxTracks then ((s.waitList c ready).head?.map (s.newTrack c)).toList else [] := by
  have h : s.retrack c ready = match s.waitList c ready with
    | [] => s.setCore c { s.core c with tracks := s.tracksKept c ready, want := [] }
    | k :: ks =>
      if (s.tracksKept c ready).length < Config.maxTracks then
        s.setCore c { s.core c with tracks := s.tracksKept c ready ++ [s.newTrack c k], want := ks }
      else s.setCore c { s.core c with tracks := s.tracksKept c ready, want := k :: ks } := rfl
  rw [h]
  cases s.waitList c ready with
  | nil => simp
  | cons k ks => by_cases hroom : (s.tracksKept c ready).length < Config.maxTracks <;> simp [hroom]

/-- A counter waits only with a thread that is Ready there. -/
theorem ready_of_waits {ready : List TRef} {k : Nat × Int} (h : k ∈ s.waitList c ready) : s.readyAtPc ready k.1 k.2 ≠ [] := by
  obtain hold | hnew := List.mem_append.mp h
  · have hready := (List.mem_filter.mp hold).2
    simp only [Bool.and_eq_true, Bool.not_eq_true', List.isEmpty_eq_false_iff] at hready
    exact hready.2
  · obtain ⟨r, hr, rfl⟩ := mem_counters.mp (List.mem_filter.mp hnew).1
    exact List.ne_nil_of_mem (mem_readyAtPc.mpr ⟨(List.mem_filter.mp hr).1, rfl, rfl⟩)

/-- Every entry stands for a counter with a Ready thread. -/
theorem ready_of_tracked {ready : List TRef} {t : Track} (h : t ∈ ((s.retrack c ready).core c).tracks) : s.readyAtPc ready t.launch t.pc ≠ [] := by
  rw [retrack_tracks] at h
  obtain hkept | hnew := List.mem_append.mp h
  · simpa using (List.mem_filter.mp hkept).2
  · split at hnew
    · simp only [Option.mem_toList, Option.map_eq_some_iff] at hnew
      obtain ⟨k, hk, rfl⟩ := hnew
      exact ready_of_waits (List.mem_of_head? hk)
    · cases hnew

/-- A core that tracks nothing takes its one Ready thread's counter. -/
theorem retrack_lone {r : TRef} (h : (s.core c).tracks = []) :
    ((s.retrack c [r]).core c).tracks = [s.newTrack c ((s.group r.g).launch, (s.thread r).pc)] := by
  have hkept : s.tracksKept c [r] = [] := by simp [State.tracksKept, h]
  have hwait : ((s.group r.g).launch, (s.thread r).pc) ∈ s.waitList c [r] := by
    unfold State.waitList
    extract_lets untracked old
    by_cases hold : ((s.group r.g).launch, (s.thread r).pc) ∈ old
    · exact List.mem_append_left _ hold
    · have hnew : r ∈ [r].filter fun q => untracked ((s.group q.g).launch, (s.thread q).pc) :=
        List.mem_filter.mpr ⟨List.mem_singleton_self r, by simp [untracked, hkept]⟩
      exact List.mem_append_right _ (List.mem_filter.mpr ⟨mem_counters.mpr ⟨r, hnew, rfl⟩, by simpa using hold⟩)
  have hall : ∀ k ∈ s.waitList c [r], k = ((s.group r.g).launch, (s.thread r).pc) := fun k hk => by
    obtain ⟨q, hq⟩ := List.exists_mem_of_ne_nil _ (ready_of_waits hk)
    obtain ⟨hq, hl, hpc⟩ := mem_readyAtPc.mp hq
    rw [List.mem_singleton.mp hq] at hl hpc
    rw [hl, hpc]
  rw [retrack_tracks, hkept]
  obtain ⟨k, ks, e⟩ := List.exists_cons_of_ne_nil (List.ne_nil_of_mem hwait)
  rw [e, hall k (e ▸ List.mem_cons_self)]
  rfl

/-! ## The pick (R124, R125, R127) -/

/-- A pick issues the sheaf of one entry, or every entry stalls. -/
theorem pickGo_cases (s : State) (c : Nat) (ready : List TRef) (l stalled : List Track) :
    (∃ st, s.pickGo c ready l stalled = (s.endPick c none st [], none)) ∨
    ∃ t ∈ l, ∃ st, s.pickGo c ready l stalled =
      (s.endPick c (some t) st (s.formSheaf (s.readyAtPc ready t.launch t.pc)), some (s.instrAt t.launch t.pc)) := by
  induction l generalizing stalled with
  | nil => exact .inl ⟨stalled, rfl⟩
  | cons t l ih =>
    unfold State.pickGo
    dsimp only
    split
    · exact (ih _).imp_right fun ⟨t, ht, e⟩ => ⟨t, List.mem_cons_of_mem _ ht, e⟩
    · exact .inr ⟨t, List.mem_cons_self, stalled, rfl⟩

theorem PickOnly.endPick (h : PickOnly s u) (picked : Option Track) (st : List Track) (l : List TRef) : PickOnly s (u.endPick c picked st l) := h

/-- A sheaf of a core: at most 32 of its threads that can issue, all of one launch at one counter (R125). -/
def State.isSheaf (s : State) (c : Nat) (rs : List TRef) (l : Nat) (pc : Int) : Prop :=
  rs ≠ [] ∧ rs.length ≤ 32 ∧ ∀ q ∈ rs, (s.group q.g).launch = l ∧ (s.thread q).pc = pc ∧ s.canIssue q = true ∧ (s.group q.g).core = c

theorem isSheaf_formSheaf {l : Nat} {pc : Int} (h : s.readyAtPc (s.readyOn c) l pc ≠ []) :
    s.isSheaf c (s.formSheaf (s.readyAtPc (s.readyOn c) l pc)) l pc := by
  obtain ⟨r, rs, e⟩ := List.exists_cons_of_ne_nil h
  obtain ⟨hne, hlen, hmem⟩ := formSheaf_cons s r rs
  rw [e]
  refine ⟨hne, hlen, fun q hq => ?_⟩
  obtain ⟨hready, hl, hpc⟩ := mem_readyAtPc.mp (e ▸ hmem q hq)
  exact ⟨hl, hpc, mem_readyOn hready⟩

theorem PickOnly.isSheaf (h : PickOnly s u) {rs : List TRef} {l : Nat} {pc : Int} (hu : u.isSheaf c rs l pc) : s.isSheaf c rs l pc :=
  (congrArg (State.isSheaf · c rs l pc) h).mp hu

/-- What a core's pick leaves and issues. -/
def Picks (s : State) (c : Nat) (p : State × Option (Option Instr)) : Prop :=
  PickOnly s p.1 ∧ ((p.1.sheaf = [] ∧ p.2 = none) ∨ ∃ l pc, s.isSheaf c p.1.sheaf l pc ∧ p.2 = some (s.instrAt l pc))

theorem PickOnly.picks {p : State × Option (Option Instr)} (h : PickOnly s u) (hu : Picks u c p) : Picks s c p := by
  obtain ⟨hp, hcases⟩ := hu
  exact ⟨h.trans hp, hcases.imp_right fun ⟨l, pc, hsheaf, hi⟩ => ⟨l, pc, h.isSheaf hsheaf, hi.trans (congrArg some (h.instrAt l pc))⟩⟩

/-- The state whose entries a pick brings up to date. -/
def State.counted (s : State) (c : Nat) : State := s.setCore c { s.core c with pickNo := (s.core c).pickNo + 1 }

theorem pickOnly_counted (s : State) (c : Nat) : PickOnly s (s.counted c) := (PickOnly.refl s).setCore _

/-- The state in which a core's pick chooses an entry. -/
def State.tracked (s : State) (c : Nat) : State := (s.counted c).retrack c ((s.counted c).readyOn c)

theorem pick_of_runs (h : s.runs (dieOfCore c) = true) : s.pick c = (s.tracked c).pickGo c (s.readyOn c)
    (sortBy ((s.tracked c).pickLe (s.readyOn c) ((s.tracked c).core c).pickNo) ((s.tracked c).core c).tracks) [] := by
  unfold State.pick
  rw [h]
  rfl

theorem pickOnly_tracked (s : State) (c : Nat) : PickOnly s (s.tracked c) := (pickOnly_counted s c).retrack _

theorem tracked_eq (s : State) (c : Nat) : s.tracked c = (s.counted c).retrack c (s.readyOn c) :=
  congrArg ((s.counted c).retrack c) ((pickOnly_counted s c).readyOn c)

theorem ready_of_mem_tracked {t : Track} (h : t ∈ ((s.tracked c).core c).tracks) : s.readyAtPc (s.readyOn c) t.launch t.pc ≠ [] := by
  rw [tracked_eq] at h
  rw [← (pickOnly_counted s c).readyAtPc]
  exact ready_of_tracked h

theorem picks_pick (s : State) (c : Nat) : Picks s c (s.pick c) := by
  by_cases hruns : s.runs (dieOfCore c) = true
  · have hready : (s.tracked c).readyOn c = s.readyOn c := (pickOnly_tracked s c).readyOn c
    rw [pick_of_runs hruns, ← hready]
    refine (pickOnly_tracked s c).picks ?_
    obtain ⟨st, e⟩ | ⟨t, ht, st, e⟩ := pickGo_cases (s.tracked c) c ((s.tracked c).readyOn c)
      (sortBy ((s.tracked c).pickLe ((s.tracked c).readyOn c) ((s.tracked c).core c).pickNo) ((s.tracked c).core c).tracks) []
    · exact e ▸ ⟨(PickOnly.refl _).endPick .., .inl ⟨rfl, rfl⟩⟩
    · have hnonempty : (s.tracked c).readyAtPc ((s.tracked c).readyOn c) t.launch t.pc ≠ [] := by
        rw [hready, (pickOnly_tracked s c).readyAtPc]
        exact ready_of_mem_tracked (mem_sortBy.mp ht)
      have hsheaf := isSheaf_formSheaf hnonempty
      rw [e]
      generalize (s.tracked c).formSheaf _ = rs at hsheaf ⊢
      exact ⟨(PickOnly.refl _).endPick .., .inr ⟨t.launch, t.pc, hsheaf, rfl⟩⟩
  · have hp : s.pick c = ({ s with sheaf := [] }, none) := by simp [State.pick, hruns]
    rw [hp]
    exact ⟨(PickOnly.refl s).withSheaf [], .inl ⟨rfl, rfl⟩⟩

/-! ## A lone Ready thread -/

/-- A core's record after a pick differs in its tracked entries only. -/
theorem core_endPick (s : State) (c k : Nat) (picked : Option Track) (st : List Track) (l : List TRef) :
    (s.endPick c picked st l).core k = { s.core k with tracks := ((s.endPick c picked st l).core k).tracks } := by
  by_cases h : k = c
  · subst h
    exact congrArg (fun x : Core => { x with tracks := ((s.endPick k picked st l).core k).tracks }) (core_setCore s k _)
  · exact congrArg (fun x : Core => { x with tracks := ((s.endPick c picked st l).core k).tracks }) (core_setCore_ne s _ h)

/-- What stalls an instruction is not in the tracked entries. -/
theorem stalls_endPick (s : State) (c : Nat) (picked : Option Track) (st : List Track) (l : List TRef) (rs : List TRef) (i : Instr) :
    (s.endPick c picked st l).stalls c rs i = s.stalls c rs i := by
  have hcore (k : Nat) := core_endPick s c k picked st l
  have hkicks (k : Nat) := congrArg Core.kicks (hcore k)
  have hslots (k : Nat) := congrArg Core.slots (hcore k)
  have hret (k : Nat) := congrArg Core.retSlots (hcore k)
  have hroom : (s.endPick c picked st l).roomC3 c = s.roomC3 c := by
    unfold State.roomC3
    rw [hcore]
    rfl
  have hpend (k j : Nat) : (s.endPick c picked st l).metaPending k j = s.metaPending k j := by rw [State.metaPending, hslots, State.metaPending]
  unfold State.stalls
  rw [hroom]
  simp only [hpend, hkicks, hret]
  rfl

/-- One thread is its own sheaf, unless its instruction stalls. -/
theorem pick_lone {r : TRef} (hruns : s.runs (dieOfCore c) = true) (htracks : (s.core c).tracks = []) (hready : s.readyOn c = [r])
    (hgo : ∀ i, s.instrAt (s.group r.g).launch (s.thread r).pc = some i → (s.pick c).1.stalls c [r] i = false) : (s.pick c).1.sheaf = [r] := by
  have hx : PickOnly s (s.tracked c) := pickOnly_tracked s c
  have hnew : ∃ t : Track, ((s.tracked c).core c).tracks = [t] ∧ t.launch = (s.group r.g).launch ∧ t.pc = (s.thread r).pc := by
    have hcounted : ((s.counted c).core c).tracks = [] := (congrArg Core.tracks (core_setCore s c _)).trans htracks
    have hlone := retrack_lone (r := r) hcounted
    rw [(pickOnly_counted s c).group, (pickOnly_counted s c).thread] at hlone
    exact ⟨_, by rw [tracked_eq, hready, hlone], rfl, rfl⟩
  obtain ⟨t, ht, hl, hpc⟩ := hnew
  have hat : (s.tracked c).readyAtPc [r] t.launch t.pc = [r] := by
    rw [hx.readyAtPc, hl, hpc]
    simp [State.readyAtPc]
  have hpick : s.pick c = if (((s.tracked c).instrAt t.launch t.pc).map ((s.tracked c).stalls c [r])).getD false
      then ((s.tracked c).endPick c none [t] [], none)
      else ((s.tracked c).endPick c (some t) [] [r], some ((s.tracked c).instrAt t.launch t.pc)) := by
    rw [pick_of_runs hruns, ht, hready]
    simp only [sortBy, insertBy, State.pickGo, hat, formSheaf_single]
  rw [hpick]
  split
  · next hstall =>
    rw [hpick, if_pos hstall] at hgo
    rw [hx.instrAt, hl, hpc] at hstall
    cases e : s.instrAt (s.group r.g).launch (s.thread r).pc with
    | none => simp [e] at hstall
    | some i =>
      have hno : (s.tracked c).stalls c [r] i = false := (stalls_endPick ..).symm.trans (hgo i e)
      simp [e, hno] at hstall
  · rfl

/-! ## The turn of a core -/

/-- The state in which a core picks: it has a cell reserved in each context that it runs (R332). -/
def State.cellsReserved (s : State) (c : Nat) : State := (s.ctxsOn c).foldl (fun s x => s.reserveCell x c) s

theorem pickOnly_cellsReserved (s : State) (c : Nat) : PickOnly s (s.cellsReserved c) :=
  foldl_keeps (.refl s) fun _ _ ht => ht.reserveCell _ _

theorem cellsReserved_core (s : State) (c k : Nat) : (s.cellsReserved c).core k = s.core k := by
  have h : (s.cellsReserved c).cores = s.cores :=
    foldl_keeps (P := fun t : State => t.cores = s.cores) rfl fun _ _ ht => (reserveCell_cores ..).trans ht
  rw [State.core, h, State.core]

/-! ## One turn -/

/-- The state in which a turn is taken, those after it waiting. -/
def State.onTurn (s : State) (ts : List Turn) : State := { s with turns := ts, hubWaits := false }

theorem act_turn {t : Turn} {ts : List Turn} (h : s.turns = t :: ts) : s.act = (s.onTurn ts).turn t := by
  rw [State.act, h]
  rfl

theorem step_of_run {i : Instr} (h : s.act = .run i u) : step s = exec i u := by rw [step, h]
theorem step_of_did {o : Out} (h : s.act = .did o) : step s = o := by rw [step, h]

/-- The turn of a core is the instruction at the counter of its sheaf, or nothing. -/
theorem step_issue {ts : List Turn} (h : s.turns = .issue c :: ts) : let p := ((s.onTurn ts).cellsReserved c).pick c
    (p.2 = none → step s = .next p.1) ∧ ∀ i, p.2 = some i → step s = exec (i.getD .illegalInstruction) p.1 := by
  intro p
  have hact : s.act = .opt p.1 (p.2.map fun i => i.getD .illegalInstruction) := act_turn h
  exact ⟨fun hp => step_of_did (by rw [hact, hp]; rfl), fun i hp => step_of_run (by rw [hact, hp]; rfl)⟩

/-- The word at a counter, of the four bytes there (R20, R21). -/
theorem fetchWord_eq (s : State) (l : Nat) (pc : Int) : let la := s.launch l
    let at0 := la.codeBase + la.hdr.codeoff + pc.toNat
    let byte (k : Nat) : Byte := s.rd (la.codeFrames.getD ((at0 + k) / 65536) 0 + (at0 + k) % 65536)
    s.fetchWord l pc = if 0 ≤ pc ∧ pc + 4 ≤ (la.hdr.codebytes : Int) then byte 3 ++ byte 2 ++ byte 1 ++ byte 0 else 0 := by
  intro la at0 byte
  have hbyte (k : Nat) : s.codeByte la (pc.toNat + k) = byte k := by rw [State.codeByte, ← Nat.add_assoc]
  have hword (a b c d : Byte) : wordOfBytes [a, b, c, d] = d ++ c ++ b ++ a := by
    refine BitVec.eq_of_toNat_eq ?_
    simp only [wordOfBytes, ofBytes, BitVec.toNat_append, BitVec.toNat_ofNat]
    rw [← Nat.shiftLeft_add_eq_or_of_lt c.isLt, ← Nat.shiftLeft_add_eq_or_of_lt b.isLt, ← Nat.shiftLeft_add_eq_or_of_lt a.isLt]
    simp only [Nat.shiftLeft_eq]
    omega
  have hout : pc < 0 ∨ (la.hdr.codebytes : Int) < pc + 4 ↔ ¬(0 ≤ pc ∧ pc + 4 ≤ (la.hdr.codebytes : Int)) := by omega
  by_cases hin : 0 ≤ pc ∧ pc + 4 ≤ (la.hdr.codebytes : Int)
  · rw [if_pos hin]
    exact (if_neg (hout.not.mpr (not_not.mpr hin))).trans ((congrArg wordOfBytes (List.map_congr_left fun k _ => hbyte k)).trans (hword ..))
  · rw [if_neg hin]
    exact if_pos (hout.mpr hin)

/-! ## Events and commands -/

theorem commandCodes_getElem (n : Fin 24) (fn : Nat) (p : Packet) : ∃ q ∈ commandCodes, ∃ fn' p', commandCodes[n].2 fn p = q.2 fn' p' :=
  ⟨_, List.getElem_mem _, fn, p, rfl⟩

/-- A command of an admin ring is one of the table (R56, R58). -/
theorem mem_commandCodes_of_isAdmin {i : Instr} (h : isAdmin i = true) : ∃ q ∈ commandCodes, ∃ fn p, i = q.2 fn p := by
  have command := commandCodes_getElem
  unfold isAdmin at h
  split at h
  case h_25 => exact Bool.noConfusion h
  exacts [command 0 .., command 1 .., command 2 .., command 3 .., command 4 .., command 5 .., command 6 .., command 7 .., command 8 .., command 9 ..,
    command 10 .., command 11 .., command 12 .., command 13 .., command 14 .., command 15 .., command 16 .., command 17 .., command 18 ..,
    command 19 .., command 20 .., command 21 .., command 22 .., command 23 ..]

theorem isEvent_of_no_word {i : Instr} (hword : encode i = none) (hill : i ≠ .illegalInstruction) (hcmd : ∀ q ∈ commandCodes, ∀ fn p, i ≠ q.2 fn p) :
    isEvent i = true := by
  have hadmin : isAdmin i = false := Bool.eq_false_iff.mpr fun h => by
    obtain ⟨q, hq, fn, p, e⟩ := mem_commandCodes_of_isAdmin h
    exact hcmd q hq fn p e
  simp [isEvent, hword, hill, hadmin]

theorem adminCmd_of_mem (fn : Nat) (p : Packet) : ∀ q ∈ commandCodes, adminCmd q.1 fn p = some (q.2 fn p) := by
  simp only [commandCodes, List.forall_mem_cons]
  exact ⟨rfl, rfl, rfl, rfl, rfl, rfl, rfl, rfl, rfl, rfl, rfl, rfl, rfl, rfl, rfl, rfl, rfl, rfl, rfl, rfl, rfl, rfl, rfl, rfl, nofun⟩

/-- A code outside the table names no command. -/
theorem adminCmd_none {n fn : Nat} {p : Packet} (h : ∀ q ∈ commandCodes, n ≠ q.1) : adminCmd n fn p = none := by
  have hcode : n = 0 ∨ 25 ≤ n := by
    simp only [commandCodes, List.forall_mem_cons] at h
    omega
  obtain rfl | hbig := hcode
  · rfl
  · obtain ⟨k, rfl⟩ := Nat.exists_eq_add_of_le' hbig
    rfl

theorem pkt_low_byte (p : Packet) : pkt p 7 0 = fieldOf p 0 8 := by
  rw [fieldOf, BitVec.extractLsb'_toNat]
  rfl

/-- The turn of an event is its step. -/
theorem step_event {i : Instr} {ts : List Turn} (h : s.turns = .event i :: ts) (hi : isEvent i = true) : step s = exec i (s.onTurn ts) :=
  step_of_run ((act_turn h).trans (if_pos hi))

/-- A ring's next packet is read, and its command named or none (R362). -/
theorem readAdmin_eq {fn : Nat} (h : s.adminReady fn = true) : let p : Packet := .ofNat 512 (ofBytes (s.rds (s.fn fn).packetAt 64))
    let t := s.setFn fn { s.fn fn with admhead := (s.fn fn).admhead + 1 }
    (∀ i, adminCmd (fieldOf p 0 8) fn p = some i → s.readAdmin fn = .run i t) ∧
    (adminCmd (fieldOf p 0 8) fn p = none → s.readAdmin fn = .did (.next (t.complete fn 3))) := by
  intro p t
  refine ⟨fun i hc => ?_, fun hc => ?_⟩
  all_goals
    rw [← pkt_low_byte] at hc
    rw [State.readAdmin, h]
    dsimp only [p, t] at hc ⊢
    rw [hc]
    rfl

end Sys2Proof.Machine

open Sys2Proof Sys2Proof.Machine

/-- Settles O56: the words are closed, and the decoder runs on each. -/
theorem decodedWords : Obligations.DecodedWords := by
  unfold Obligations.DecodedWords
  decide

/-- Settles O58. A core's pick takes the sheaf of an entry that has a Ready thread (`picks_pick`), its one Ready thread where it tracks nothing
(`pick_lone`), and the turns of an event and of a ring run theirs (`step_event`, `readAdmin_eq`). -/
theorem stepRunsDecoded : Obligations.StepRunsDecoded := by
  refine ⟨fun s c ts h => ?issue, fun s i ts h hword hill hcmd => step_event h (isEvent_of_no_word hword hill hcmd), fun s fn ts => ?admin⟩
  case issue =>
    have hres : PickOnly (s.onTurn ts) ((s.onTurn ts).cellsReserved c) := pickOnly_cellsReserved _ c
    obtain ⟨honly, hcases⟩ : Picks (s.onTurn ts) c (((s.onTurn ts).cellsReserved c).pick c) := hres.picks (picks_pick _ c)
    refine ⟨(((s.onTurn ts).cellsReserved c).pick c).1, honly.eq, ?_, fun r hruns htracks hready hgo => ?lone⟩
    case lone =>
      refine pick_lone ((hres.runs _).trans hruns) ((congrArg Core.tracks (cellsReserved_core _ c c)).trans htracks) ((hres.readyOn c).trans hready) ?_
      intro i hi
      rw [hres.group, hres.thread, hres.instrAt] at hi
      exact hgo i hi
    obtain ⟨hnil, hnone⟩ | ⟨l, pc, ⟨hne, hlen, hall⟩, hsome⟩ := hcases
    · exact .inl ⟨hnil, (step_issue h).1 hnone⟩
    · obtain ⟨r, hr⟩ := List.exists_mem_of_ne_nil _ hne
      obtain ⟨rfl, rfl, -, -⟩ := hall r hr
      refine .inr ⟨r, hr, ?_⟩
      intro la pc at0 byte w
      have hi : (((s.onTurn ts).cellsReserved c).pick c).2 = some (decode w) :=
        hsome.trans (congrArg (fun x => some (decode x)) (fetchWord_eq ..))
      refine ⟨hlen, hall, ((step_issue h).2 _ hi).trans ?_⟩
      cases decode w with
      | none => rfl
      | some i => rfl
  case admin =>
    intro f p h hready t
    obtain ⟨hsome, hnone⟩ := readAdmin_eq (s := s.onTurn ts) hready
    refine ⟨fun q hq hcode => ?_, fun hcode => ?_⟩
    · have hcmd : adminCmd (fieldOf p 0 8) fn p = some (q.2 fn p) := hcode ▸ adminCmd_of_mem fn p q hq
      exact step_of_run ((act_turn h).trans (hsome _ hcmd))
    · exact step_of_did ((act_turn h).trans (hnone (adminCmd_none hcode)))

end

section
/-! Launches that end (R132, R323): where the driver's notification ring lies in the block of a group that is saved, what is posted after the block is
discarded stands in it. -/

namespace Sys2Proof.Machine

/-- Group 0 is Halting with spill backing, the notification ring lies at its block, and the root of its context's page tables is in no frame. -/
def ringInBlock : State :=
  let s := State.reset.withRunner.modGroup 0 fun g => { g with state := .halting, spillAt := some 0 }
  { s.setCtx 0 { s.ctx 0 with ptroot := 2 ^ 60 } with notify := some (2 ^ 63, 6) }

theorem ringInBlock_saves : (ringInBlock.group 0).state = .halting ∧ ringInBlock.saveReady 0 = true ∧ 0 < (ringInBlock.launchOf 0).hdr.gmem ∧
    gmemAddr (ringInBlock.group 0).core (ringInBlock.group 0).gbase = 2 ^ 63 := by
  decide +kernel

/-- The group's spill backing is freed after its block reads zero: the walk for that write fails, and its notification counts one entry produced. -/
theorem ringInBlock_posts : ((ringInBlock.saveGroup 0).settleAdmin).rd (2 ^ 63) = 1 := by decide +kernel

theorem ringInBlock_alone (r : TRef) (h : r.g ≠ 0) : watched (ringInBlock.thread r).status = none := by
  have hgroups : ringInBlock.groups.length = 1 := rfl
  have hdefault : ringInBlock.group r.g = {} := group_of_length_le _ (by omega)
  simp [State.thread, hdefault, watched]

end Sys2Proof.Machine

open Sys2Proof Sys2Proof.Machine

/-- Refutes O54: the statement does not ask where the notification ring lies, and GROUP_SAVE_COMPLETE frees the spill backing after it has discarded
the block: the first byte of the block of `ringInBlock` counts the notification that this posts (R318, R323). -/
theorem not_launchesEnd : ¬ Obligations.LaunchesEnd := by
  intro ⟨hsave, _⟩
  obtain ⟨hhalting, hready, hgmem, hblock⟩ := ringInBlock_saves
  obtain ⟨-, -, -, -, -, hcleared⟩ := hsave ringInBlock 0 hhalting hready ringInBlock_alone
  have hzero : ((ringInBlock.saveGroup 0).settleAdmin).rd (2 ^ 63) = 0 := hblock ▸ (hcleared 0 hgmem).2
  rw [ringInBlock_posts] at hzero
  exact absurd hzero (by decide)
end

section
/-! Admin commands (R56, R58, R61, R362, R363): who may give them, in which states, and their completions. -/

namespace Sys2Proof.Machine

/-! ## The fields of a packet -/

theorem pkt_eq_fieldOf (p : Packet) (hi lo : Nat) : pkt p hi lo = fieldOf p lo (hi - lo + 1) := by
  rw [fieldOf, BitVec.extractLsb'_toNat]
  rfl

theorem pktCtx_eq (p : Packet) : pktCtx p = fieldOf p 8 8 := pkt_eq_fieldOf p 15 8

/-! ## States that differ in nothing of their groups -/

theorem SameBut.refl (rs : List TRef) (s : State) : SameBut rs s s := ⟨rfl, rfl, fun _ => rfl, fun _ _ => rfl⟩

/-- A state that is another but for parts that are not its groups. -/
theorem SameBut.of_eq {rs : List TRef} {s t : State} (h : t = s) : SameBut rs s t := h ▸ .refl rs s

/-! ## Commands on a context (R56, R58, R61) -/

variable {s : State} {fn : Nat} {p : Packet}

/-- A command is one on a context of the giving function, in one of these states. -/
def OnCtx (i : Nat → Packet → Instr) (states : List CtxState) : Prop :=
  ∃ (ok : CtxState → Bool) (body : Nat → Packet → Nat → State → Adm),
    (∀ fn p s, exec (i fn p) s = onCtx fn p ok (body fn p) s) ∧ ∀ st, ok st = true ↔ st ∈ states

theorem contextCommands_onCtx : ∀ q ∈ contextCommands, OnCtx q.1 q.2 := by
  have states {ok : CtxState → Bool} {l : List CtxState} (h : ∀ st ∈ [.free, .opened, .active, .quiescing, .suspended, .closing],
      ok st = true ↔ st ∈ l) (st : CtxState) : ok st = true ↔ st ∈ l := h st (by cases st <;> decide)
  simp only [contextCommands, List.forall_mem_cons]
  exact ⟨⟨_, _, fun fn p s => by change execCreate fn p s = _; delta execCreate; exact rfl, states (by decide)⟩,
    ⟨_, _, fun fn p s => by change execLoadkernel fn p s = _; delta execLoadkernel; exact rfl, states (by decide)⟩,
    ⟨_, _, fun fn p s => by change execActivate fn p s = _; delta execActivate; exact rfl, states (by decide)⟩,
    ⟨_, _, fun fn p s => by change execQuiesce fn p s = _; delta execQuiesce; exact rfl, states (by decide)⟩,
    ⟨_, _, fun fn p s => by change execSuspend fn p s = _; delta execSuspend; exact rfl, states (by decide)⟩,
    ⟨_, _, fun fn p s => by change execSnappool fn p s = _; delta execSnappool; exact rfl, states (by decide)⟩,
    ⟨_, _, fun fn p s => by change execDestroy fn p s = _; delta execDestroy; exact rfl, states (by decide)⟩,
    ⟨_, _, fun fn p s => by change execClearerr fn p s = _; delta execClearerr; exact rfl, states (by decide)⟩,
    ⟨_, _, fun fn p s => by change execSetheadland fn p s = _; delta execSetheadland; exact rfl, states (by decide)⟩,
    ⟨_, _, fun fn p s => by change execHandlearea fn p s = _; delta execHandlearea; exact rfl, states (by decide)⟩,
    ⟨_, _, fun fn p s => by change execQopen fn p s = _; delta execQopen; exact rfl, states (by decide)⟩,
    ⟨_, _, fun fn p s => by change execQstop fn p s = _; delta execQstop onQueue; exact rfl, states (by decide)⟩,
    ⟨_, _, fun fn p s => by change execQstart fn p s = _; delta execQstart onQueue; exact rfl, states (by decide)⟩,
    ⟨_, _, fun fn p s => by change execQclose fn p s = _; delta execQclose onQueue; exact rfl, states (by decide)⟩,
    ⟨_, _, fun fn p s => by change execPagehold fn p s = _; delta execPagehold; exact rfl, states (by decide)⟩, nofun⟩

variable {ok : CtxState → Bool} {body : Nat → State → Adm}

theorem onCtx_number (h : 64 ≤ fieldOf p 8 8) : onCtx fn p ok body s = .next (s.complete fn 3) := by
  rw [onCtx, pktCtx_eq, if_pos h]
  rfl

theorem onCtx_owner (hc : fieldOf p 8 8 < 64) (hfree : (s.ctx (fieldOf p 8 8)).state ≠ .free) (hfn : (s.ctx (fieldOf p 8 8)).fn ≠ fn) :
    onCtx fn p ok body s = .next (s.complete fn 2) := by
  rw [onCtx, pktCtx_eq, if_neg (Nat.not_le.mpr hc), if_pos ⟨hfree, hfn⟩]
  rfl

/-- A command on a context of the giving function: the state's own check, then the command's effect. -/
theorem onCtx_own (hc : fieldOf p 8 8 < 64) (hown : (s.ctx (fieldOf p 8 8)).state = .free ∨ (s.ctx (fieldOf p 8 8)).fn = fn) :
    onCtx fn p ok body s = if ok (s.ctx (fieldOf p 8 8)).state = true then .next (s.finishAdm fn (body (fieldOf p 8 8) s))
      else .next (s.complete fn 1) := by
  have hown' : ¬((s.ctx (fieldOf p 8 8)).state ≠ .free ∧ (s.ctx (fieldOf p 8 8)).fn ≠ fn) := by tauto
  rw [onCtx, pktCtx_eq, if_neg (Nat.not_le.mpr hc), if_neg hown']
  cases ok (s.ctx (fieldOf p 8 8)).state <;> rfl

/-- The physical function alone gives a module command (R363). -/
theorem moduleCommands_onPf : ∀ q ∈ moduleCommands, ∀ (s : State) (fn : Nat) (p : Packet), fn ≠ 0 → exec (q fn p) s = .next (s.complete fn 2) := by
  simp only [moduleCommands, List.forall_mem_cons]
  refine ⟨?_, ?_, ?_, ?_, ?_, ?_, ?_, nofun⟩
  all_goals
    intro s fn p h
    exact congrArg (fun a => Host.Outcome.next (s.finishAdm fn a)) (if_pos h)

/-! ## Completions (R362) -/

variable {status : Nat}

theorem complete_off (h : ¬((s.fn fn).admlog ≠ 0 ∧ (s.fn fn).admring ≠ 0 ∧ (s.fn fn).admcpl ≠ 0)) :
    s.complete fn status = s.setFn fn { s.fn fn with pending := none } := by
  have hoff : (s.fn fn).ringOn = false := Bool.eq_false_iff.mpr (mt (ringOn_iff _).mp h)
  simp [State.complete, hoff]

theorem complete_on (h : (s.fn fn).admlog ≠ 0 ∧ (s.fn fn).admring ≠ 0 ∧ (s.fn fn).admcpl ≠ 0) :
    let i := ((s.fn fn).admhead + 2 ^ 64 - 1) % 2 ^ 64
    s.complete fn status = ((s.setFn fn { s.fn fn with pending := none }).wrs
      (2 ^ 60 + ((s.fn fn).admcpl.toNat + 16 * (i % 2 ^ (s.fn fn).admlog)) % 2 ^ 60)
      (bytesOf 16 (i * 2 ^ 64 + i / 2 ^ (s.fn fn).admlog % 2 * 256 + status % 256))).raise fn (s.fn fn).admvec := by
  intro i
  have hon : (s.fn fn).ringOn = true := (ringOn_iff _).mpr h
  rw [State.complete, hon]
  rfl

theorem raise_eq (s : State) (fn v : Nat) :
    s.raise fn v = { s with vectors := s.vectors ++ if v < (if fn = 0 then 2048 else 32) then [(fn, v)] else [] } := by
  change _ = { s with vectors := s.vectors ++ if v < vectorLimit fn then [(fn, v)] else [] }
  by_cases h : v < vectorLimit fn <;> simp [State.raise, h]

@[simp] theorem raise_fns (s : State) (fn v : Nat) : (s.raise fn v).fns = s.fns := by rw [raise_eq]

/-- What a completion on an enabled ring changes: its function, the bytes it writes and the vectors. -/
theorem completed_sameBut (s : State) (fn v a : Nat) (f : Fn) (bs : List Byte) :
    let t := ((s.setFn fn f).wrs a bs).raise fn v
    t.vectors = s.vectors ++ (if v < (if fn = 0 then 2048 else 32) then [(fn, v)] else []) ∧
      SameBut [] { s with fns := t.fns, mem := t.mem, vectors := t.vectors } t ∧ t.mem = (s.wrs a bs).mem := by
  intro t
  have ht : t = _ := raise_eq ..
  rw [ht]
  exact ⟨rfl, .of_eq rfl, rfl⟩

/-- A completion ends the wait of its function's command, and leaves the other functions alone. -/
theorem complete_fns (s : State) (fn status : Nat) : (s.complete fn status).fns = (s.setFn fn { s.fn fn with pending := none }).fns := by
  by_cases h : (s.fn fn).admlog ≠ 0 ∧ (s.fn fn).admring ≠ 0 ∧ (s.fn fn).admcpl ≠ 0
  · rw [complete_on h, raise_fns]
    rfl
  · rw [complete_off h]

theorem complete_fn_same (s : State) (fn status : Nat) : (s.complete fn status).fn fn = { s.fn fn with pending := none } := by
  rw [State.fn, complete_fns]
  exact fn_setFn ..

theorem complete_fn_ne (s : State) {fn k : Nat} (status : Nat) (h : k ≠ fn) : (s.complete fn status).fn k = s.fn k := by
  rw [State.fn, complete_fns]
  exact fn_setFn_ne _ _ h

end Sys2Proof.Machine

open Sys2Proof Sys2Proof.Machine

/-- Settles O48: every command on a context runs under `onCtx` with its states, and every module command under `onPf`; a completion changes its
function's wait, its ring's place and the vectors. -/
theorem adminCommandsComplete : Obligations.AdminCommandsComplete := by
  refine ⟨fun q hq s fn p => ?context, moduleCommands_onPf, fun s fn status => ?completion⟩
  case context =>
    intro x
    obtain ⟨ok, body, hexec, hok⟩ := contextCommands_onCtx q hq
    rw [hexec]
    refine ⟨onCtx_number, onCtx_owner, fun hc hown hst => ?_⟩
    rw [onCtx_own hc hown, if_neg (mt (hok _).mp hst)]
  case completion =>
    intro f i on
    refine ⟨by rw [complete_fn_same], fun k hk => complete_fn_ne s status hk, fun h => ?_, fun h => ?_⟩
    · rw [complete_off h]
      exact .of_eq rfl
    · rw [complete_on h]
      exact completed_sameBut ..
end

section
/-! Accesses of the hub, two runs side by side (R310, R318, R323, R349). An access reads nothing of the contexts but where its tree stands and under
which key slot, so that two states that differ in other parts of their contexts answer it alike. `AccessKeeps R` says that R is such a likeness and that
what an access changes keeps it; each access then has one lemma, `AccessKeeps` and its name. A property of one state is the case of a state that is
like itself (`Self`). -/

namespace Sys2Proof.Machine

/-! ## Likeness of two states -/

/-- A state with other contexts and another mark of the hub's waits. -/
def State.asIn (s : State) (cs : List (Nat × Ctx)) (b : Bool) : State := { s with ctxs := cs, hubWaits := b }

/-- Two contexts translate alike (R310). -/
def Ctx.sameTree (x y : Ctx) : Prop := y.ptroot = x.ptroot ∧ y.keyslot = x.keyslot

/-- The second state is the first but for its contexts, which translate alike, and for the mark of the hub's waits. -/
def Alike (s t : State) : Prop := (∃ cs b, t = s.asIn cs b) ∧ ∀ c, (s.ctx c).sameTree (t.ctx c)

/-- A state without what an access writes in it outside contexts and dies. -/
def State.bare (s : State) : State :=
  { s with mem := [], sectors := [], owed := [], notifyProduced := 0, notifyLost := 0, vectors := [] }

/-- A likeness that accesses of the hub keep. -/
structure AccessKeeps (R : State → State → Prop) : Prop where
  alike : ∀ {s t}, R s t → Alike s t
  upd : ∀ {s t s' t'}, R s t → s'.bare = s.bare → t'.bare = t.bare → Alike s' t' → R s' t'
  meet : ∀ {s t a}, R s t → R (s.meet a) (t.meet a)
  corrected : ∀ {s t d n}, R s t → R (s.setDie d { s.die d with corrected := n }) (t.setDie d { t.die d with corrected := n })
  overwrite : ∀ {s t pa n}, R s t → R (s.overwrite pa n) (t.overwrite pa n)

/-- Two answers of a state with something beside it: states that are alike, and the same beside them. -/
def PairLike (R : State → State → Prop) {β : Type} (p q : State × β) : Prop := R p.1 q.1 ∧ q.2 = p.2

/-- Two answers that may be missing. -/
def OptLike {α : Type} (R : α → α → Prop) : Option α → Option α → Prop
  | some a, some b => R a b
  | none, none => True
  | _, _ => False

/-- Two answers, or failures in their place. -/
def ExcLike {ε α : Type} (P : ε → ε → Prop) (R : α → α → Prop) : Except ε α → Except ε α → Prop
  | .ok a, .ok b => R a b
  | .error e, .error f => P e f
  | _, _ => False

theorem OptLike.some {α : Type} {R : α → α → Prop} {o : Option α} {a b : α} (h : OptLike R (some a) o) (e : o = some b) : R a b := by
  subst e
  exact h

theorem ExcLike.bind {ε α β : Type} {P : ε → ε → Prop} {R : α → α → Prop} {Q : β → β → Prop} {x y : Except ε α} {f g : α → Except ε β}
    (h : ExcLike P R x y) (hf : ∀ a b, R a b → ExcLike P Q (f a) (g b)) : ExcLike P Q (x >>= f) (y >>= g) := by
  match x, y, h with
  | .error _, .error _, h => exact h
  | .ok a, .ok b, h => exact hf a b h

variable {R : State → State → Prop} {s t : State}

theorem firstFail_asIn (s : State) (cs : List (Nat × Ctx)) (b : Bool) (key tag : Nat) (l : List Nat) :
    (s.asIn cs b).firstFail key tag l = s.firstFail key tag l := by
  induction l with
  | nil => rfl
  | cons n l ih =>
    have hcheck : (s.asIn cs b).sectorCheck n key tag = s.sectorCheck n key tag := rfl
    rw [State.firstFail, hcheck, ih, State.firstFail]

/-- Two branches of the same condition. -/
theorem iteLike {α : Type} {R : α → α → Prop} {c : Prop} [Decidable c] {a b a' b' : α} (ha : R a a') (hb : R b b') :
    R (if c then a else b) (if c then a' else b') := by
  split <;> assumption

theorem ExcLike.cases {ε α : Type} {P : ε → ε → Prop} {R : α → α → Prop} {x y : Except ε α} (h : ExcLike P R x y) :
    (∃ e f, x = .error e ∧ y = .error f ∧ P e f) ∨ ∃ a b, x = .ok a ∧ y = .ok b ∧ R a b := by
  match x, y, h with
  | .error e, .error f, h => exact .inl ⟨e, f, rfl, rfl, h⟩
  | .ok a, .ok b, h => exact .inr ⟨a, b, rfl, rfl, h⟩

/-! ## The levels of a walk (R310) -/

/-- How a walk reads the entry of a node at a level: the state that the read leaves and the entry, or its failure. -/
abbrev WalkStep := State → Nat → Nat → Except (State × MemFail × Nat) (State × Nat)

/-- A walk whose levels are read by a step. -/
def walkBy (step : WalkStep) (s : State) (root : Nat) : Except (State × MemFail × Nat) (State × Option (BitVec 64)) := do
  let (s, e3) ← step s root 3
  if bits e3 63 63 = 0 then return (s, none)
  let (s, e2) ← step s (bits e3 51 15 * 32768) 2
  if bits e2 63 63 = 0 then return (s, none)
  let (s, e1) ← step s (bits e2 51 15 * 32768) 1
  if bits e1 63 63 = 0 then return (s, none)
  let (s, e0) ← step s (bits e1 51 15 * 32768) 0
  if bits e0 63 63 = 0 then return (s, none)
  return (s, some (.ofNat 64 e0))

/-- A step reads the entries of a context's tree. -/
def ReadsEntry (x : Ctx) (va : Nat) (step : WalkStep) : Prop := ∀ s node lvl,
  (∀ t bs, (s.meet node).mainRd (node + 8 * bits va (27 + 12 * lvl) (16 + 12 * lvl)) 8 x.keyslot 0 = .ok (t, bs) →
    step s node lvl = .ok (t, ofBytes bs)) ∧
  ∀ f, (s.meet node).mainRd (node + 8 * bits va (27 + 12 * lvl) (16 + 12 * lvl)) 8 x.keyslot 0 = .error f → step s node lvl = .error (s.meet node, f)

theorem walk_by (s : State) (x : Ctx) (va : Nat) : ∃ step : WalkStep, s.walk x va = walkBy step s x.ptroot ∧ ReadsEntry x va step := by
  unfold State.walk
  extract_lets step
  refine ⟨step, rfl, fun s node lvl => ⟨fun t bs h => ?_, fun f h => ?_⟩⟩
  · unfold step
    rw [h]
  · unfold step
    rw [h]

theorem walkBy_like {step step' : WalkStep} {root : Nat}
    (hstep : ∀ s t node lvl, R s t → ExcLike (PairLike R) (PairLike R) (step s node lvl) (step' t node lvl)) (h : R s t) :
    ExcLike (PairLike R) (PairLike R) (walkBy step s root) (walkBy step' t root) := by
  refine ExcLike.bind (hstep _ _ _ _ h) fun ⟨s3, e3⟩ ⟨t3, _⟩ ⟨h3, he⟩ => ?_
  obtain rfl : _ = e3 := he
  refine iteLike ⟨h3, rfl⟩ (ExcLike.bind (hstep _ _ _ _ h3) fun ⟨s2, e2⟩ ⟨t2, _⟩ ⟨h2, he⟩ => ?_)
  obtain rfl : _ = e2 := he
  refine iteLike ⟨h2, rfl⟩ (ExcLike.bind (hstep _ _ _ _ h2) fun ⟨s1, e1⟩ ⟨t1, _⟩ ⟨h1, he⟩ => ?_)
  obtain rfl : _ = e1 := he
  refine iteLike ⟨h1, rfl⟩ (ExcLike.bind (hstep _ _ _ _ h1) fun ⟨s0, e0⟩ ⟨t0, _⟩ ⟨h0, he⟩ => ?_)
  obtain rfl : _ = e0 := he
  exact iteLike ⟨h0, rfl⟩ ⟨h0, rfl⟩

/-! ## Runs of bytes, one after another

What an access does at a run of bytes and the next is said of functions that are given: for those of the model Lean unfolds a step only with effort. -/

/-- A walk of a context's tree, a read and a write of main memory. -/
abbrev WalkFn := State → Ctx → Nat → Except (State × MemFail × Nat) (State × Option (BitVec 64))
abbrev ReadFn := State → Nat → Nat → Nat → Nat → Except (MemFail × Nat) (State × List Byte)
abbrev WriteFn := State → Nat → List Byte → Nat → Nat → Except (MemFail × Nat) State

/-- A read of runs of bytes. -/
def ReadsOn (walk : WalkFn) (rd : ReadFn) (go : Ctx → List (Nat × Nat) → State → List Byte → Option (State × List Byte)) : Prop :=
  ∀ x s bs, go x [] s bs = some (s, bs) ∧ ∀ {p l}, go x (p :: l) s bs =
    match walk s x p.1 with
    | .ok (s, some leaf) =>
      match rd (s.meet (leafFrame leaf * 65536)) (leafFrame leaf * 65536 + p.1 % 65536) p.2 (leafKey leaf) 0 with
      | .ok (s, b) => go x l s (bs ++ b)
      | .error _ => none
    | _ => none

/-- A write of runs of bytes. -/
def WritesOn (walk : WalkFn) (wr : WriteFn) (go : Ctx → List (Nat × Nat) → State → List Byte → Option State) : Prop :=
  ∀ x s bs, go x [] s bs = some s ∧ ∀ {p l}, go x (p :: l) s bs =
    match walk s x p.1 with
    | .ok (s, some leaf) =>
      match wr (s.meet (leafFrame leaf * 65536)) (leafFrame leaf * 65536 + p.1 % 65536) (bs.take p.2) (leafKey leaf) 0 with
      | .ok s => go x l s (bs.drop p.2)
      | .error _ => none
    | _ => none

/-- The notification that an access of runs of bytes posts. -/
def NotesOn (walk : WalkFn) (rd : ReadFn) (go : Nat → Ctx → List (Nat × Nat) → State → State) : Prop :=
  ∀ c x s, go c x [] s = s ∧ ∀ {p l}, go c x (p :: l) s =
    match walk s x p.1 with
    | .error (t, f) => t.post 4 f.2 f.1.cls c
    | .ok (t, none) => t
    | .ok (t, some leaf) =>
      match rd (t.meet (leafFrame leaf * 65536)) (leafFrame leaf * 65536 + p.1 % 65536) p.2 (leafKey leaf) 0 with
      | .error f => t.post 4 f.2 f.1.cls c
      | .ok (t, _) => go c x l t

theorem virtRd_goesOn : ReadsOn State.walk State.mainRd State.virtRd.go := by
  suffices h : ∀ walk, walk = State.walk → ∀ rd, rd = State.mainRd → ∀ go, go = State.virtRd.go → ReadsOn walk rd go from h _ rfl _ rfl _ rfl
  intro walk hwalk rd hrd go hgo
  delta State.virtRd.go at hgo
  generalize hf : @State.virtRd.go._f = f at hgo
  delta State.virtRd.go._f at hf
  rw [← hwalk, ← hrd] at hf
  clear hwalk hrd
  subst hf hgo
  exact fun _ _ _ => ⟨rfl, rfl⟩

theorem virtWr_goesOn : WritesOn State.walk State.mainWr State.virtWr.go := by
  suffices h : ∀ walk, walk = State.walk → ∀ wr, wr = State.mainWr → ∀ go, go = State.virtWr.go → WritesOn walk wr go from h _ rfl _ rfl _ rfl
  intro walk hwalk wr hwr go hgo
  delta State.virtWr.go at hgo
  generalize hf : @State.virtWr.go._f = f at hgo
  delta State.virtWr.go._f at hf
  rw [← hwalk, ← hwr] at hf
  clear hwalk hwr
  subst hf hgo
  exact fun _ _ _ => ⟨rfl, rfl⟩

theorem virtNote_goesOn : NotesOn State.walk State.mainRd State.virtNote.go := by
  suffices h : ∀ walk, walk = State.walk → ∀ rd, rd = State.mainRd → ∀ go, go = State.virtNote.go → NotesOn walk rd go from h _ rfl _ rfl _ rfl
  intro walk hwalk rd hrd go hgo
  delta State.virtNote.go at hgo
  generalize hf : @State.virtNote.go._f = f at hgo
  delta State.virtNote.go._f at hf
  rw [← hwalk, ← hrd] at hf
  clear hwalk hrd
  subst hf hgo
  exact fun _ _ _ => ⟨rfl, rfl⟩

namespace AccessKeeps

variable (hR : AccessKeeps R)

include hR

/-! ## Memory and notifications -/

theorem underPair {key n : Nat} (h : R s t) : R (s.underPair key n) (t.underPair key n) := by
  obtain ⟨⟨cs, b, rfl⟩, htree⟩ := hR.alike h
  have hsector : (s.asIn cs b).sector n = s.sector n := rfl
  have hkey : (s.asIn cs b).key key = s.key key := rfl
  unfold State.underPair
  rw [hsector, hkey]
  split
  · exact h
  · split
    · exact h
    · exact hR.upd h rfl rfl ⟨⟨cs, b, rfl⟩, htree⟩

theorem underPairs {key : Nat} {l : List Nat} (h : R s t) : R (s.underPairs key l) (t.underPairs key l) := by
  induction l generalizing s t with
  | nil => exact h
  | cons n l ih => exact ih (hR.underPair h)

theorem encodeSectors {key : Nat} {l : List Nat} (h : R s t) : R (s.encodeSectors key l) (t.encodeSectors key l) := by
  induction l generalizing s t with
  | nil => exact h
  | cons n l ih =>
    have hpair := hR.underPair (key := key) (n := n) h
    obtain ⟨⟨cs, b, rfl⟩, htree⟩ := hR.alike h
    have hsector : (s.asIn cs b).sector n = s.sector n := rfl
    unfold State.encodeSectors
    rw [hsector]
    split
    · split
      · exact ih (hR.upd h rfl rfl ⟨⟨cs, b, rfl⟩, htree⟩)
      · exact ih hpair
    · exact ih (hR.upd h rfl rfl ⟨⟨cs, b, rfl⟩, htree⟩)

theorem ownSectors {l : List Nat} (h : R s t) : R (s.ownSectors l) (t.ownSectors l) := by
  induction l generalizing s t with
  | nil => exact h
  | cons n l ih =>
    obtain ⟨⟨cs, b, rfl⟩, htree⟩ := hR.alike h
    have hsector : (s.asIn cs b).sector n = s.sector n := rfl
    unfold State.ownSectors
    rw [hsector]
    split
    · exact ih h
    · exact ih (hR.upd h rfl rfl ⟨⟨cs, b, rfl⟩, htree⟩)

theorem wrs {a : Nat} {bs : List Byte} (h : R s t) : R (s.wrs a bs) (t.wrs a bs) := by
  obtain ⟨⟨cs, b, rfl⟩, htree⟩ := hR.alike h
  exact hR.upd h rfl rfl ⟨⟨cs, b, rfl⟩, htree⟩

theorem ownWr {pa : Nat} {bs : List Byte} (h : R s t) : R (s.ownWr pa bs) (t.ownWr pa bs) := hR.wrs (hR.ownSectors h)

theorem raise {fn v : Nat} (h : R s t) : R (s.raise fn v) (t.raise fn v) := by
  obtain ⟨⟨cs, b, rfl⟩, htree⟩ := hR.alike h
  rw [raise_eq, raise_eq]
  exact hR.upd h rfl rfl ⟨⟨cs, b, rfl⟩, htree⟩

theorem notifyProduced {n : Nat} (h : R s t) : R { s with notifyProduced := n } { t with notifyProduced := n } := by
  obtain ⟨⟨cs, b, rfl⟩, htree⟩ := hR.alike h
  exact hR.upd h rfl rfl ⟨⟨cs, b, rfl⟩, htree⟩

/-- The vector of the notification ring. -/
theorem raiseAt {a : Nat} (h : R s t) : R (s.raise 0 (s.rdNat a 2)) (t.raise 0 (t.rdNat a 2)) := by
  have hraise := hR.raise (fn := 0) (v := s.rdNat a 2) h
  obtain ⟨⟨cs, b, rfl⟩, -⟩ := hR.alike h
  exact hraise

theorem post {kind addr info ctx : Nat} (h : R s t) : R (s.post kind addr info ctx) (t.post kind addr info ctx) := by
  obtain ⟨⟨cs, b, rfl⟩, htree⟩ := hR.alike h
  have hlost : R { s with notifyLost := s.notifyLost + 1 } { s.asIn cs b with notifyLost := s.notifyLost + 1 } :=
    hR.upd h rfl rfl ⟨⟨cs, b, rfl⟩, htree⟩
  have hnotify : (s.asIn cs b).notify = s.notify := rfl
  unfold State.post
  rw [hnotify]
  split
  · exact hlost
  · refine iteLike (hR.upd h rfl rfl ⟨⟨cs, b, rfl⟩, htree⟩) (iteLike (hR.ownWr hlost) (iteLike (hR.raiseAt ?_) ?_))
    all_goals exact hR.ownWr (hR.notifyProduced (hR.ownWr h))

theorem correct {l : List Nat} (h : R s t) : R (s.correct l) (t.correct l) := by
  induction l generalizing s t with
  | nil => exact h
  | cons n l ih =>
    obtain ⟨⟨cs, b, rfl⟩, htree⟩ := hR.alike h
    have hsector : (s.asIn cs b).sector n = s.sector n := rfl
    unfold State.correct
    rw [hsector]
    split
    · next x _ =>
      have hcount (d k) : R (({ s with sectors := tset s.sectors n { x with errors := 0 } } : State).setDie d { s.die d with corrected := k })
          (({ s.asIn cs b with sectors := tset s.sectors n { x with errors := 0 } } : State).setDie d { s.die d with corrected := k }) :=
        hR.corrected (hR.upd h rfl rfl ⟨⟨cs, b, rfl⟩, htree⟩)
      exact iteLike (ih (iteLike (hR.post (hcount ..)) (hcount ..))) (ih h)
    · exact ih h

theorem mainRd {pa n key tag : Nat} (h : R s t) : ExcLike (· = ·) (PairLike R) (s.mainRd pa n key tag) (t.mainRd pa n key tag) := by
  have hcorrect := hR.correct (l := sectorsOf pa n) h
  obtain ⟨⟨_, _, hpairs⟩, -⟩ := hR.alike (hR.underPairs (key := key) (l := sectorsOf pa n) h)
  have hbytes : (t.underPairs key (sectorsOf pa n)).rds pa n = (s.underPairs key (sectorsOf pa n)).rds pa n := by rw [hpairs]; rfl
  have hfail : t.firstFail key tag (sectorsOf pa n) = s.firstFail key tag (sectorsOf pa n) := by
    obtain ⟨⟨cs, b, rfl⟩, -⟩ := hR.alike h
    exact firstFail_asIn ..
  unfold State.mainRd
  rw [hfail, hbytes]
  refine iteLike rfl ?_
  split
  · exact rfl
  · exact ⟨hcorrect, rfl⟩

theorem mainWr {pa : Nat} {bs : List Byte} {key tag : Nat} (h : R s t) : ExcLike (· = ·) R (s.mainWr pa bs key tag) (t.mainWr pa bs key tag) := by
  have hfail : t.firstFail key tag (sectorsOf pa bs.length) = s.firstFail key tag (sectorsOf pa bs.length) := by
    obtain ⟨⟨cs, b, rfl⟩, -⟩ := hR.alike h
    exact firstFail_asIn ..
  unfold State.mainWr
  rw [hfail]
  refine iteLike rfl ?_
  split
  · exact rfl
  · exact hR.overwrite (hR.wrs (hR.encodeSectors (hR.correct h)))

/-! ## Accesses at a context's virtual addresses -/

theorem walk {x y : Ctx} {va : Nat} (hxy : x.sameTree y) (h : R s t) : ExcLike (PairLike R) (PairLike R) (s.walk x va) (t.walk y va) := by
  obtain ⟨step, hwalk, hstep⟩ := walk_by s x va
  obtain ⟨step', hwalk', hstep'⟩ := walk_by t y va
  rw [hwalk, hwalk', hxy.1]
  refine walkBy_like (fun s t node lvl h => ?_) h
  have hrd := hR.mainRd (pa := node + 8 * bits va (27 + 12 * lvl) (16 + 12 * lvl)) (n := 8) (key := x.keyslot) (tag := 0) (hR.meet (a := node) h)
  obtain ⟨hok, herror⟩ := hstep s node lvl
  obtain ⟨hok', herror'⟩ := hstep' t node lvl
  rw [hxy.2] at hok' herror'
  revert hrd hok herror hok' herror'
  generalize (s.meet node).mainRd _ _ _ _ = a
  generalize (t.meet node).mainRd _ _ _ _ = b
  intro hrd hok herror hok' herror'
  rcases a with e | ⟨s', bs⟩ <;> rcases b with f | ⟨t', bs'⟩
  · rw [herror e rfl, herror' f rfl]
    exact ⟨hR.meet h, hrd.symm⟩
  · exact hrd.elim
  · exact hrd.elim
  · rw [hok s' bs rfl, hok' t' bs' rfl]
    exact ⟨hrd.1, congrArg ofBytes hrd.2⟩

theorem readsOn {walk : WalkFn} {rd : ReadFn} {go : Ctx → List (Nat × Nat) → State → List Byte → Option (State × List Byte)} {x y : Ctx}
    {l : List (Nat × Nat)} {bs : List Byte} (hgo : ReadsOn walk rd go)
    (hwalk : ∀ {s t va}, R s t → ExcLike (PairLike R) (PairLike R) (walk s x va) (walk t y va))
    (hrd : ∀ {s t pa n key tag}, R s t → ExcLike (· = ·) (PairLike R) (rd s pa n key tag) (rd t pa n key tag)) (h : R s t) :
    OptLike (PairLike R) (go x l s bs) (go y l t bs) := by
  induction l generalizing s t bs with
  | nil =>
    rw [(hgo x s bs).1, (hgo y t bs).1]
    exact ⟨h, rfl⟩
  | cons p l ih =>
    rw [(hgo x s bs).2, (hgo y t bs).2]
    rcases (hwalk (va := p.1) h).cases with ⟨e, f, hs, ht, -⟩ | ⟨⟨s', o⟩, ⟨t', o'⟩, hs, ht, hw, ho⟩
    · rw [hs, ht]
      exact trivial
    · rw [hs, ht]
      obtain rfl : o' = o := ho
      cases o' with
      | none => exact trivial
      | some leaf =>
        rcases (hrd (pa := leafFrame leaf * 65536 + p.1 % 65536) (n := p.2) (key := leafKey leaf) (tag := 0)
          (hR.meet (a := leafFrame leaf * 65536) hw)).cases with ⟨e, f, hs, ht, -⟩ | ⟨⟨s2, bs'⟩, ⟨t2, _⟩, hs, ht, hr, hb⟩
        · simp only [hs, ht]
          exact trivial
        · obtain rfl : _ = bs' := hb
          simp only [hs, ht]
          exact ih hr

theorem virtRd {x y : Ctx} {va n : Nat} (hxy : x.sameTree y) (h : R s t) : OptLike (PairLike R) (s.virtRd x va n) (t.virtRd y va n) :=
  hR.readsOn virtRd_goesOn (hR.walk hxy) hR.mainRd h

theorem writesOn {walk : WalkFn} {wr : WriteFn} {go : Ctx → List (Nat × Nat) → State → List Byte → Option State} {x y : Ctx} {l : List (Nat × Nat)}
    {bs : List Byte} (hgo : WritesOn walk wr go) (hwalk : ∀ {s t va}, R s t → ExcLike (PairLike R) (PairLike R) (walk s x va) (walk t y va))
    (hwr : ∀ {s t pa bs key tag}, R s t → ExcLike (· = ·) R (wr s pa bs key tag) (wr t pa bs key tag)) (h : R s t) :
    OptLike R (go x l s bs) (go y l t bs) := by
  induction l generalizing s t bs with
  | nil =>
    rw [(hgo x s bs).1, (hgo y t bs).1]
    exact h
  | cons p l ih =>
    rw [(hgo x s bs).2, (hgo y t bs).2]
    rcases (hwalk (va := p.1) h).cases with ⟨e, f, hs, ht, -⟩ | ⟨⟨s', o⟩, ⟨t', o'⟩, hs, ht, hw, ho⟩
    · rw [hs, ht]
      exact trivial
    · rw [hs, ht]
      obtain rfl : o' = o := ho
      cases o' with
      | none => exact trivial
      | some leaf =>
        rcases (hwr (pa := leafFrame leaf * 65536 + p.1 % 65536) (bs := bs.take p.2) (key := leafKey leaf) (tag := 0)
          (hR.meet (a := leafFrame leaf * 65536) hw)).cases with ⟨e, f, hs, ht, -⟩ | ⟨s2, t2, hs, ht, hr⟩
        · simp only [hs, ht]
          exact trivial
        · simp only [hs, ht]
          exact ih hr

theorem virtWr {x y : Ctx} {va : Nat} {bs : List Byte} (hxy : x.sameTree y) (h : R s t) : OptLike R (s.virtWr x va bs) (t.virtWr y va bs) :=
  hR.writesOn virtWr_goesOn (hR.walk hxy) hR.mainWr h

theorem notesOn {walk : WalkFn} {rd : ReadFn} {go : Nat → Ctx → List (Nat × Nat) → State → State} {c : Nat} {x y : Ctx} {l : List (Nat × Nat)}
    (hgo : NotesOn walk rd go) (hwalk : ∀ {s t va}, R s t → ExcLike (PairLike R) (PairLike R) (walk s x va) (walk t y va))
    (hrd : ∀ {s t pa n key tag}, R s t → ExcLike (· = ·) (PairLike R) (rd s pa n key tag) (rd t pa n key tag)) (h : R s t) :
    R (go c x l s) (go c y l t) := by
  induction l generalizing s t with
  | nil =>
    rw [(hgo c x s).1, (hgo c y t).1]
    exact h
  | cons p l ih =>
    rw [(hgo c x s).2, (hgo c y t).2]
    rcases (hwalk (va := p.1) h).cases with ⟨⟨s', e⟩, ⟨t', _⟩, hs, ht, hw, hf⟩ | ⟨⟨s', o⟩, ⟨t', o'⟩, hs, ht, hw, ho⟩
    · obtain rfl : _ = e := hf
      rw [hs, ht]
      exact hR.post hw
    · rw [hs, ht]
      obtain rfl : o' = o := ho
      cases o' with
      | none => exact hw
      | some leaf =>
        rcases (hrd (pa := leafFrame leaf * 65536 + p.1 % 65536) (n := p.2) (key := leafKey leaf) (tag := 0)
          (hR.meet (a := leafFrame leaf * 65536) hw)).cases with ⟨e, f, hs, ht, rfl⟩ | ⟨⟨s2, _⟩, ⟨t2, _⟩, hs, ht, hr, -⟩
        · simp only [hs, ht]
          exact hR.post hw
        · simp only [hs, ht]
          exact ih hr

theorem virtNote {c va n : Nat} (h : R s t) : R (s.virtNote c va n) (t.virtNote c va n) := 
  hR.notesOn virtNote_goesOn (hR.walk ((hR.alike h).2 c)) hR.mainRd h

theorem virtPut {c va : Nat} {bs : List Byte} (h : R s t) : R (s.virtPut c va bs) (t.virtPut c va bs) := by
  have hwr := hR.virtWr (va := va) (bs := bs) ((hR.alike h).2 c) h
  have hnote := hR.virtNote (c := c) (va := va) (n := bs.length) h
  unfold State.virtPut
  revert hwr
  generalize s.virtWr _ va bs = a
  generalize t.virtWr _ va bs = b
  intro hwr
  match a, b, hwr with
  | none, none, _ => exact hnote
  | some _, some _, hw => exact hw

end AccessKeeps
end Sys2Proof.Machine
end

section
/-! What accesses of the hub and records keep of one state (R71 to R73, R349): a property that `AccessKeeps (Self Q)` names holds after an access where it
held before, and one that `RecordKeeps` names after a record. -/

namespace Sys2Proof.Machine

variable {s t : State} {Q : State → Prop}

/-! ## Properties that accesses keep -/

/-- A state beside itself, with a property. -/
def Self (Q : State → Prop) (s t : State) : Prop := t = s ∧ Q s

theorem alike_refl (s : State) : Alike s s := ⟨⟨s.ctxs, s.hubWaits, rfl⟩, fun _ => ⟨rfl, rfl⟩⟩

theorem accessKeeps_self (upd : ∀ {s s'}, Q s → s'.bare = s.bare → Q s') (meet : ∀ {s a}, Q s → Q (s.meet a))
    (corrected : ∀ {s d n}, Q s → Q (s.setDie d { s.die d with corrected := n })) (overwrite : ∀ {s pa n}, Q s → Q (s.overwrite pa n)) :
    AccessKeeps (Self Q) where
  alike := by
    rintro _ _ ⟨rfl, -⟩
    exact alike_refl _
  upd := by
    rintro s _ s' t' ⟨rfl, h⟩ hs ht ⟨⟨cs, b, rfl⟩, -⟩
    obtain rfl : cs = s'.ctxs := (congrArg State.ctxs (ht.trans hs.symm) :)
    obtain rfl : b = s'.hubWaits := (congrArg State.hubWaits (ht.trans hs.symm) :)
    exact ⟨rfl, upd h hs⟩
  meet := by
    rintro s _ a ⟨rfl, h⟩
    exact ⟨rfl, meet h⟩
  corrected := by
    rintro s _ d n ⟨rfl, h⟩
    exact ⟨rfl, corrected h⟩
  overwrite := by
    rintro s _ pa n ⟨rfl, h⟩
    exact ⟨rfl, overwrite h⟩

/-- The same of a state answered with something beside it. -/
def PairKeeps (Q : State → Prop) {β : Type} (p : State × β) : Prop := Q p.1

theorem PairKeeps.fst {β : Type} {p : State × β} {b : β} (h : PairKeeps Q p) (e : p = (t, b)) : Q t := by
  subst e
  exact h

namespace AccessKeeps

variable (hQ : AccessKeeps (Self Q))

include hQ

theorem virtPut_self {c va : Nat} {bs : List Byte} (h : Q s) : Q (s.virtPut c va bs) := (hQ.virtPut ⟨rfl, h⟩).2
theorem virtNote_self {c va n : Nat} (h : Q s) : Q (s.virtNote c va n) := (hQ.virtNote ⟨rfl, h⟩).2
theorem post_self {kind addr info ctx : Nat} (h : Q s) : Q (s.post kind addr info ctx) := (hQ.post ⟨rfl, h⟩).2
theorem raise_self {fn v : Nat} (h : Q s) : Q (s.raise fn v) := (hQ.raise ⟨rfl, h⟩).2

theorem virtRd_self {x : Ctx} {va n : Nat} (h : Q s) : OptOk (PairKeeps Q) (s.virtRd x va n) := by
  have hrd := hQ.virtRd (x := x) (y := x) (va := va) (n := n) ⟨rfl, rfl⟩ ⟨rfl, h⟩
  cases e : s.virtRd x va n with
  | none => exact trivial
  | some p => rw [e] at hrd; exact hrd.1.2

theorem virtWr_self {x : Ctx} {va : Nat} {bs : List Byte} (h : Q s) : OptOk Q (s.virtWr x va bs) := by
  have hwr := hQ.virtWr (x := x) (y := x) (va := va) (bs := bs) ⟨rfl, rfl⟩ ⟨rfl, h⟩
  cases e : s.virtWr x va bs with
  | none => exact trivial
  | some p => rw [e] at hwr; exact hwr.2

theorem walk_self {x : Ctx} {va : Nat} (h : Q s) : ExcOk (PairKeeps Q) (PairKeeps Q) (s.walk x va) := by
  have hwalk := hQ.walk (x := x) (y := x) (va := va) ⟨rfl, rfl⟩ ⟨rfl, h⟩
  cases e : s.walk x va with
  | error p => rw [e] at hwalk; exact hwalk.1.2
  | ok p => rw [e] at hwalk; exact hwalk.1.2

theorem rootRing_self {x : Ctx} (h : Q s) : OptOk (PairKeeps Q) (s.rootRing x) := by
  unfold State.rootRing
  split
  · next e => exact ((hQ.virtRd_self h).some e :)
  · exact trivial

theorem ringWrite_self {ring lg : Nat} {f : FaultInfo} {la : Launch} {ctx action lin : Nat} (h : Q s) :
    PairKeeps Q (s.ringWrite ring lg f la ctx action lin) := by
  unfold State.ringWrite
  extract_lets -underBinder
  split
  · exact hQ.virtNote_self h
  · next e =>
    have hrd := PairKeeps.fst ((hQ.virtRd_self h).some e) rfl
    refine ite_keeps (hQ.virtPut_self hrd) ?_
    extract_lets -underBinder
    split
    · exact hQ.virtNote_self hrd
    · next e2 =>
      have hrec := (hQ.virtWr_self hrd).some e2
      split
      · exact hQ.virtNote_self hrec
      · next e3 => exact ite_keeps (hQ.raise_self ((hQ.virtWr_self hrec).some e3)) ((hQ.virtWr_self hrec).some e3)

theorem areaFree_self {ctx save n : Nat} (h : Q s) : Q (s.areaFree ctx save n) := by
  unfold State.areaFree
  split
  · next e => exact hQ.virtPut_self ((hQ.virtRd_self h).some e)
  · exact hQ.virtNote_self h

theorem owed_self {o : List Owed} (h : Q s) : Q { s with owed := o } :=
  (hQ.upd (s' := { s with owed := o }) (t' := { s with owed := o }) ⟨rfl, h⟩ rfl rfl (alike_refl _)).2

end AccessKeeps

/-! ## Properties that records keep -/

theorem orOwe_keeps (hQ : AccessKeeps (Self Q)) (hwaits : ∀ {s b}, Q s → Q { s with hubWaits := b }) {o : Owed} {f : State → State} (h : Q s)
    (hf : ∀ t, Q t → Q (f t)) : Q (s.orOwe o f) := by
  obtain e | ⟨-, -, e⟩ := orOwe_cases s o f
  · rw [e]
    exact hQ.owed_self h
  · rw [e]
    exact hwaits (hf _ (hwaits h))

theorem toRing_keeps (hQ : AccessKeeps (Self Q)) {ctx : Nat} (hsticky : ∀ {s v}, Q s → Q (s.setCtx ctx { s.ctx ctx with sticky := v })) {f : FaultInfo}
    {la : Launch} {action lin : Nat} {ring : Option (Nat × Nat)} (h : Q s) : Q (s.toRing ctx f la action lin ring) := by
  unfold State.toRing
  split
  next t lost e =>
  have ht : Q t := by
    refine PairKeeps.fst ?_ e
    split
    · exact hQ.ringWrite_self h
    · split
      · next e2 => exact hQ.ringWrite_self (PairKeeps.fst ((hQ.rootRing_self h).some e2) rfl)
      · exact hQ.virtNote_self h
  exact ite_keeps (hsticky ht) ht

/-- A property that accesses of the hub keep, and that says nothing of the hub's waits and of sticky registers. -/
structure RecordKeeps (Q : State → Prop) : Prop where
  access : AccessKeeps (Self Q)
  waits : ∀ {s b}, Q s → Q { s with hubWaits := b }
  sticky : ∀ {s c v}, Q s → Q (s.setCtx c { s.ctx c with sticky := v })

theorem RecordKeeps.record (hQ : RecordKeeps Q) {ctx : Nat} {f : FaultInfo} {action : Nat} {ring : Option (Nat × Nat)} (h : Q s) :
    Q (s.record ctx f action ring) := by
  unfold State.record
  extract_lets la lin f x t
  exact orOwe_keeps hQ.access hQ.waits (hQ.sticky h) fun _ ht => toRing_keeps hQ.access hQ.sticky ht

theorem saveFree_keeps (hQ : AccessKeeps (Self Q)) (hwaits : ∀ {s b}, Q s → Q { s with hubWaits := b }) {l : Launch} {n : Nat} (h : Q s) :
    Q (s.saveFree l n) := orOwe_keeps hQ hwaits h fun _ ht => hQ.areaFree_self ht

/-! ## What a context keeps -/

/-- A context without the marks on its handle entries. -/
def Ctx.outer (x : Ctx) : Ctx := { x with tensors := [], cells := [] }

theorem Ctx.outer_overwrite (x : Ctx) (pa n : Nat) : (x.overwrite pa n).outer = x.outer := by
  unfold Ctx.overwrite
  split
  · rfl
  · refine ite_keeps (P := fun y : Ctx => y.outer = x.outer) rfl (foldl_keeps (P := fun y : Ctx => y.outer = x.outer) rfl fun y i hy => ?_)
    exact ite_keeps (P := fun y : Ctx => y.outer = x.outer) hy (ite_keeps (P := fun y : Ctx => y.outer = x.outer) hy hy)

theorem ctx_eq_of_bare {s s' : State} (h : s'.bare = s.bare) (c : Nat) : s'.ctx c = s.ctx c :=
  (congrArg (fun x : State => x.ctx c) h :)

@[simp] theorem meet_ctx (s : State) (a c : Nat) : (s.meet a).ctx c = s.ctx c := by unfold State.meet; split <;> rfl

/-- An access of the hub changes of a context only the marks on its handle entries. -/
theorem accessKeeps_outer (c : Nat) (x : Ctx) : AccessKeeps (Self fun s => (s.ctx c).outer = x) :=
  accessKeeps_self (fun h e => by rw [ctx_eq_of_bare e, h]) (fun h => by rw [meet_ctx, h]) (fun h => h)
    (fun h => by rw [ctx_overwrite, Ctx.outer_overwrite, h])

/-- Two states that are the same but for their contexts' handle entries and the hub's waits. -/
theorem accessKeeps_alike : AccessKeeps Alike where
  alike := id
  upd := fun _ _ _ h => h
  meet := by
    rintro s _ a ⟨⟨cs, b, rfl⟩, htree⟩
    have hcond : (homeDie a).all (s.asIn cs b).runs = (homeDie a).all s.runs := rfl
    unfold State.meet
    rw [hcond]
    exact iteLike ⟨⟨cs, b, rfl⟩, htree⟩ ⟨⟨cs, true, rfl⟩, htree⟩
  corrected := by
    rintro s _ d n ⟨⟨cs, b, rfl⟩, htree⟩
    exact ⟨⟨cs, b, rfl⟩, htree⟩
  overwrite := by
    rintro s _ pa n ⟨⟨cs, b, rfl⟩, htree⟩
    refine ⟨⟨((s.asIn cs b).overwrite pa n).ctxs, b, rfl⟩, fun c => ?_⟩
    have houter (u : State) : ((u.overwrite pa n).ctx c).outer = (u.ctx c).outer := by rw [ctx_overwrite, Ctx.outer_overwrite]
    exact ⟨(congrArg Ctx.ptroot (houter (s.asIn cs b))).trans ((htree c).1.trans (congrArg Ctx.ptroot (houter s)).symm),
      (congrArg Ctx.keyslot (houter (s.asIn cs b))).trans ((htree c).2.trans (congrArg Ctx.keyslot (houter s)).symm)⟩

theorem runs_setCorrected (s : State) (d e n : Nat) : (s.setDie d { s.die d with corrected := n }).runs e = s.runs e := by
  by_cases h : e = d
  · rw [State.runs, h, die_setDie]; rfl
  · rw [State.runs, die_setDie_ne _ _ h]; rfl

/-- While every generator runs no access of the hub waits (R349). -/
theorem accessKeeps_runs : AccessKeeps (Self fun s => s.hubWaits = false ∧ ∀ d, s.runs d = true) :=
  accessKeeps_self (fun h e => ⟨(congrArg State.hubWaits e).trans h.1, fun d => (congrArg (fun x : State => x.runs d) e).trans (h.2 d)⟩)
    (fun {s a} h => by
      have hmeet : s.meet a = s := meet_of_runs (by cases homeDie a <;> simp [h.2])
      rwa [hmeet])
    (fun h => ⟨h.1, fun e => by rw [runs_setCorrected, h.2]⟩) (fun h => h)

end Sys2Proof.Machine
end

section
/-! The sticky error register and the records of faults (R71 to R73). -/

namespace Sys2Proof.Machine

/-! ## Fields side by side -/

/-- The number whose fields, from bit 0 up, have these values and widths. -/
def fieldsNat : List (Nat × Nat) → Nat
  | [] => 0
  | (v, w) :: fs => v + 2 ^ w * fieldsNat fs

/-- The number of bits that the fields take. -/
def fieldsWidth : List (Nat × Nat) → Nat
  | [] => 0
  | (_, w) :: fs => w + fieldsWidth fs

/-- Each field's value has the field's width. -/
def FieldsFit (fs : List (Nat × Nat)) : Prop := ∀ f ∈ fs, f.1 < 2 ^ f.2

theorem fieldsFit_cons {v w : Nat} {fs : List (Nat × Nat)} : FieldsFit ((v, w) :: fs) ↔ v < 2 ^ w ∧ FieldsFit fs := List.forall_mem_cons

theorem fieldsFit_nil : FieldsFit [] := List.forall_mem_nil _

/-- What reads a field by its lowest bit and its width reads these fields' values, one after the other. -/
def FieldsRead (fld : Nat → Nat → Nat) : Nat → List (Nat × Nat) → Prop
  | _, [] => True
  | lo, (v, w) :: fs => fld lo w = v ∧ FieldsRead fld (lo + w) fs

theorem fieldsNat_lt {fs : List (Nat × Nat)} (h : FieldsFit fs) : fieldsNat fs < 2 ^ fieldsWidth fs := by
  induction fs with
  | nil => exact Nat.one_pos
  | cons f fs ih =>
    obtain ⟨hv, hfs⟩ := fieldsFit_cons.mp h
    calc f.1 + 2 ^ f.2 * fieldsNat fs < 2 ^ f.2 * (fieldsNat fs + 1) := by rw [Nat.mul_add_one, Nat.add_comm]; exact Nat.add_lt_add_left hv _
      _ ≤ 2 ^ f.2 * 2 ^ fieldsWidth fs := Nat.mul_le_mul_left _ (ih hfs)
      _ = 2 ^ fieldsWidth (f :: fs) := (Nat.pow_add ..).symm

theorem toNat_ofNat_fieldsNat {m : Nat} {fs : List (Nat × Nat)} (hfit : FieldsFit fs) (hm : fieldsWidth fs = m) :
    (BitVec.ofNat m (fieldsNat fs)).toNat = fieldsNat fs := by
  rw [BitVec.toNat_ofNat, Nat.mod_eq_of_lt (hm ▸ fieldsNat_lt hfit)]

/-- A field above the first is a field of the rest. -/
theorem fieldsNat_cons_div {v w lo : Nat} {fs : List (Nat × Nat)} (hv : v < 2 ^ w) : fieldsNat ((v, w) :: fs) / 2 ^ (w + lo) = fieldsNat fs / 2 ^ lo := by
  rw [fieldsNat, Nat.pow_add, ← Nat.div_div_eq_div_mul, Nat.add_mul_div_left _ _ (Nat.two_pow_pos w), Nat.div_eq_of_lt hv, Nat.zero_add]

theorem fieldsRead_of_fieldsNat {fld : Nat → Nat → Nat} {fs : List (Nat × Nat)} {lo : Nat} (hfit : FieldsFit fs)
    (h : ∀ k w, fld (lo + k) w = fieldsNat fs / 2 ^ k % 2 ^ w) : FieldsRead fld lo fs := by
  induction fs generalizing lo with
  | nil => trivial
  | cons f fs ih =>
    obtain ⟨hv, hfs⟩ := fieldsFit_cons.mp hfit
    refine ⟨(h 0 f.2).trans ?_, ih hfs fun k w => ?_⟩
    · rw [Nat.pow_zero, Nat.div_one, fieldsNat, Nat.add_mul_mod_self_left, Nat.mod_eq_of_lt hv]
    · rw [Nat.add_assoc, h, fieldsNat_cons_div hv]

/-- The fields of a vector that is a number of fields. -/
theorem fieldsRead_extract {m : Nat} {fs : List (Nat × Nat)} {v : BitVec m} (hfit : FieldsFit fs) (hv : v.toNat = fieldsNat fs) :
    FieldsRead (fun lo w => (v.extractLsb' lo w).toNat) 0 fs :=
  fieldsRead_of_fieldsNat hfit fun k w => by rw [Nat.zero_add, BitVec.extractLsb'_toNat, hv, Nat.shiftRight_eq_div_pow]

/-! ## The sticky register (R73) -/

/-- A register as the sum of its parts: the first launch, the count, the first code, the first counter and the flags. -/
theorem sticky_parts {a d b c f : Nat} {v : BitVec 128} (hv : v = .ofNat 128 (a * 2 ^ 96 + b * 2 ^ 64 + c * 2 ^ 32 + d * 2 ^ 80 + f))
    (ha : a < 2 ^ 32) (hd : d < 2 ^ 16) (hb : b < 2 ^ 8) (hc : c < 2 ^ 32) (hf : f < 2 ^ 32) :
    (v.extractLsb' 80 16).toNat = d ∧ (v.extractLsb' 96 32).toNat = a ∧ (v.extractLsb' 64 8).toNat = b ∧ (v.extractLsb' 32 32).toNat = c ∧
      ∀ k < 32, v.getLsbD k = f.testBit k := by
  let fs := [(f, 32), (c, 32), (b, 8), (0, 8), (d, 16), (a, 32)]
  have hfit : FieldsFit fs := by
    simp only [fs, fieldsFit_cons]
    exact ⟨hf, hc, hb, by decide, hd, ha, fieldsFit_nil⟩
  have hsum : a * 2 ^ 96 + b * 2 ^ 64 + c * 2 ^ 32 + d * 2 ^ 80 + f = fieldsNat fs := by
    simp only [fs, fieldsNat]
    omega
  have hnat : v.toNat = fieldsNat fs := by rw [hv, hsum, toNat_ofNat_fieldsNat (m := 128) hfit rfl]
  obtain ⟨-, hc, hb, -, hd, ha, -⟩ := fieldsRead_extract hfit hnat
  refine ⟨hd, ha, hb, hc, fun k hk => ?_⟩
  rw [BitVec.getLsbD, hnat, fieldsNat, Nat.add_comm, Nat.testBit_two_pow_mul_add _ hf, if_pos hk]

theorem bits_extract (r : BitVec 128) (hi lo : Nat) : bits r.toNat hi lo = (r.extractLsb' lo (hi - lo + 1)).toNat := by
  rw [BitVec.extractLsb'_toNat]
  rfl

theorem flags_testBit (n code k : Nat) (hk : k < 32) : (bits n 31 0 ||| 2 ^ code).testBit k = (n.testBit k || decide (code = k)) := by
  have hlow : bits n 31 0 = n % 2 ^ 32 := rfl
  rw [hlow, Nat.testBit_or, Nat.testBit_mod_two_pow, Nat.testBit_two_pow, decide_eq_true hk, Bool.true_and]

/-- The sticky register after a fault, part by part (R73). -/
theorem sticky_fields (r : BitVec 128) (code seq : Nat) (pc : Int) (hcode : code < 32) :
    let v := sticky r code pc seq
    let fld (b : BitVec 128) (lo w : Nat) : Nat := (b.extractLsb' lo w).toNat
    fld v 80 16 = min (fld r 80 16 + 1) 0xFFFF ∧
      fld v 96 32 = (if fld r 80 16 = 0 then seq % 2 ^ 32 else fld r 96 32) ∧ fld v 64 8 = (if fld r 80 16 = 0 then code else fld r 64 8) ∧
      fld v 32 32 = (if fld r 80 16 = 0 then (wrapInt 32 pc).toNat else fld r 32 32) ∧
      ∀ k < 32, v.getLsbD k = (r.getLsbD k || decide (code = k)) := by
  intro v fld
  have hcount : min (bits r.toNat 95 80 + 1) 0xFFFF < 2 ^ 16 := Nat.lt_of_le_of_lt (Nat.min_le_right ..) (by decide)
  have hflags : bits r.toNat 31 0 ||| 2 ^ code < 2 ^ 32 := Nat.or_lt_two_pow (Nat.mod_lt _ (by decide)) (Nat.pow_lt_pow_right (by decide) hcode)
  have hfirst : bits r.toNat 95 80 = fld r 80 16 := bits_extract ..
  have hbit (k : Nat) (hk : k < 32) : (bits r.toNat 31 0 ||| 2 ^ code).testBit k = (r.getLsbD k || decide (code = k)) := flags_testBit _ _ _ hk
  rw [← hfirst]
  by_cases h : bits r.toNat 95 80 = 0
  · have hv : v = .ofNat 128 (seq % 2 ^ 32 * 2 ^ 96 + code * 2 ^ 64 + (wrapInt 32 pc).toNat * 2 ^ 32 + min (bits r.toNat 95 80 + 1) 0xFFFF * 2 ^ 80
        + (bits r.toNat 31 0 ||| 2 ^ code)) := by
      simp only [v, sticky, if_pos h]
    obtain ⟨h1, h2, h3, h4, h5⟩ := sticky_parts hv (Nat.mod_lt _ (by decide)) hcount (Nat.lt_trans hcode (by decide)) (BitVec.isLt _) hflags
    rw [if_pos h, if_pos h, if_pos h]
    exact ⟨h1, h2, h3, h4, fun k hk => (h5 k hk).trans (hbit k hk)⟩
  · have hv : v = .ofNat 128 (bits r.toNat 127 96 * 2 ^ 96 + bits r.toNat 71 64 * 2 ^ 64 + bits r.toNat 63 32 * 2 ^ 32
        + min (bits r.toNat 95 80 + 1) 0xFFFF * 2 ^ 80 + (bits r.toNat 31 0 ||| 2 ^ code)) := by
      simp only [v, sticky, if_neg h]
    obtain ⟨h1, h2, h3, h4, h5⟩ := sticky_parts hv (Nat.mod_lt _ (by decide)) hcount (Nat.mod_lt _ (by decide)) (Nat.mod_lt _ (by decide)) hflags
    rw [if_neg h, if_neg h, if_neg h]
    exact ⟨h1, h2.trans (bits_extract r 127 96), h3.trans (bits_extract r 71 64), h4.trans (bits_extract r 63 32),
      fun k hk => (h5 k hk).trans (hbit k hk)⟩

theorem testBit_add_mul (q f k : Nat) (h : k < 32) : (2 ^ 32 * q + f).testBit k = f.testBit k := by
  have hmod : (2 ^ 32 * q + f) % 2 ^ 32 = f % 2 ^ 32 := Nat.mul_add_mod ..
  have hbit (n : Nat) : (n % 2 ^ 32).testBit k = n.testBit k := by rw [Nat.testBit_mod_two_pow, decide_eq_true h, Bool.true_and]
  rw [← hbit, hmod, hbit]

/-- Bit 31 of the register marks lost records alone. -/
theorem sticky_lost (r : BitVec 128) (code seq : Nat) (pc : Int) (h : r.getLsbD 31 = false) (hcode : code ≠ 31) :
    (sticky r code pc seq).getLsbD 31 = false := by
  have hflags : (bits r.toNat 31 0 ||| 2 ^ code).testBit 31 = false := by
    rw [flags_testBit _ _ _ (by decide), decide_eq_false hcode, Bool.or_false]
    exact h
  have hlow (a b c d : Nat) : (BitVec.ofNat 128 (a * 2 ^ 96 + b * 2 ^ 64 + c * 2 ^ 32 + d * 2 ^ 80 + (bits r.toNat 31 0 ||| 2 ^ code))).getLsbD 31 = false := by
    rw [BitVec.getLsbD, BitVec.toNat_ofNat, Nat.testBit_mod_two_pow, decide_eq_true (by decide), Bool.true_and,
      show a * 2 ^ 96 + b * 2 ^ 64 + c * 2 ^ 32 + d * 2 ^ 80 + (bits r.toNat 31 0 ||| 2 ^ code) =
        2 ^ 32 * (a * 2 ^ 64 + b * 2 ^ 32 + c + d * 2 ^ 48) + (bits r.toNat 31 0 ||| 2 ^ code) by omega, testBit_add_mul _ _ _ (by decide), hflags]
  unfold sticky
  dsimp only
  split
  · exact hlow ..
  · exact hlow ..

/-! ## What a record does to the register -/

variable {s t : State}

/-- A record marks the register as lost, or leaves it. -/
theorem toRing_sticky (s : State) (c : Nat) (f : FaultInfo) (la : Launch) (action lin : Nat) (ring : Option (Nat × Nat)) :
    ((s.toRing c f la action lin ring).ctx c).sticky = (s.ctx c).sticky ∨
      ((s.toRing c f la action lin ring).ctx c).sticky = (s.ctx c).sticky ||| BitVec.ofNat 128 (2 ^ 31) := by
  have hQ := accessKeeps_outer c (s.ctx c).outer
  unfold State.toRing
  split
  next t lost e =>
  have ht : (t.ctx c).outer = (s.ctx c).outer := by
    refine PairKeeps.fst (Q := fun s' => (s'.ctx c).outer = (s.ctx c).outer) ?_ e
    split
    · exact hQ.ringWrite_self rfl
    · split
      · next e2 => exact hQ.ringWrite_self (PairKeeps.fst ((hQ.rootRing_self rfl).some e2) rfl)
      · exact hQ.virtNote_self rfl
  have hsticky : (t.ctx c).sticky = (s.ctx c).sticky := (congrArg Ctx.sticky ht :)
  cases lost with
  | false => exact .inl hsticky
  | true =>
    right
    rw [if_pos rfl, ctx_setCtx, hsticky]

/-- After a record the register is as `sticky` has it, marked as lost or not. -/
theorem record_sticky (s : State) (c action : Nat) (f : FaultInfo) (ring : Option (Nat × Nat)) :
    let v := sticky (s.ctx c).sticky f.code f.pc ((f.launch.map fun l => (s.launch l).seq).getD 0)
    ((s.record c f action ring).ctx c).sticky = v ∨ ((s.record c f action ring).ctx c).sticky = v ||| BitVec.ofNat 128 (2 ^ 31) := by
  intro v
  unfold State.record
  extract_lets la lin f' x t
  have ht : (t.ctx c).sticky = v := by
    have hla : la.seq = (f.launch.map fun l => (s.launch l).seq).getD 0 := by
      cases h : f.launch <;> simp [la, h]
    simp only [t, ctx_setCtx, x, v, ← hla]
    rfl
  obtain e | ⟨-, -, e⟩ := orOwe_cases t (.record c f' la action lin ring) fun s => s.toRing c f' la action lin ring
  · rw [e]
    exact .inl ht
  · rw [e, ← ht]
    exact toRing_sticky ({ t with hubWaits := false }) c f' la action lin ring

end Sys2Proof.Machine
end

section
/-! What stopping groups and disposing of a launch's engine operations keep (R69, R114, R118): a property that holds whatever cores and stacks hold and
whatever values the results of engines take (`EngineKeeps`) holds after engine entries end, and one that `StopKeeps` names after a group stops. -/

namespace Sys2Proof.Machine

variable {s : State} {Q : State → Prop} {g : Nat}

/-! ## Engine queues -/

/-- A thread without the values that its outstanding results have got, and without what engines let it observe. -/
def Thread.eng (th : Thread) : Thread := { th with outs := th.outs.map fun o => { o with val := .awaited }, obsEng := false }

/-- A property that says nothing of cores and stacks, of the values of outstanding results and of what engines let threads observe. -/
structure EngineKeeps (Q : State → Prop) : Prop where
  units : ∀ {s cs ks}, Q s → Q { s with cores := cs, stackTbl := ks }
  thread : ∀ {s r f}, Q s → (∀ th, (f th).eng = th.eng) → Q (s.modThread r f)

namespace EngineKeeps

variable (hQ : EngineKeeps Q)

include hQ

theorem setCore {c : Nat} {x : Core} (h : Q s) : Q (s.setCore c x) := hQ.units h
theorem setStack {k : Nat} {x : Stack} (h : Q s) : Q (s.setStack k x) := hQ.units h

theorem settleMat {c : Nat} (h : Q s) : Q (s.settleMat c) := hQ.setStack (hQ.setCore (hQ.setCore h))

theorem setEngineQueue {c q : Nat} {l : List Entry} (h : Q s) : Q (s.setEngineQueue c q l) :=
  ite_keeps (hQ.setStack h) (ite_keeps (hQ.setCore h) (hQ.setCore h))

theorem popMarker {c q : Nat} (h : Q s) : OptOk Q (s.popMarker c q) := by
  unfold State.popMarker
  split
  · exact trivial
  · exact ite_keeps (foldl_keeps h fun _ _ ht => hQ.setEngineQueue ht) trivial

theorem popMarkers {c : Nat} {l : List Nat} (h : Q s) : OptOk Q (s.popMarkers c l) := by
  induction l with
  | nil => exact trivial
  | cons q l ih =>
    unfold State.popMarkers
    split
    · next e => exact (hQ.popMarker h).some e
    · exact ih

theorem fulfil {r : TRef} {id : Nat} {ws : List Word} (h : Q s) : Q (s.fulfil r id ws) := by
  refine hQ.thread h fun th => ?_
  have houts : (th.outs.map fun o => if o.id = id then { o with val := .have ws } else o).map (fun o : Outst => { o with val := .awaited }) =
      th.outs.map fun o => { o with val := .awaited } := by
    rw [List.map_map]
    exact List.map_congr_left fun o _ => by dsimp only [Function.comp]; split <;> rfl
  rw [Thread.eng, houts, Thread.eng]

theorem popWait {c : Nat} (h : Q s) : OptOk Q (s.popWait c) := by
  unfold State.popWait
  split
  · split
    · exact hQ.thread (hQ.fulfil (hQ.setEngineQueue h)) fun _ => rfl
    · exact trivial
  · exact trivial

theorem settleMarkers {c n : Nat} (h : Q s) : Q (s.settleMarkers c n) := by
  induction n generalizing s with
  | zero => exact h
  | succ n ih =>
    unfold State.settleMarkers
    split
    · next e => exact ih ((hQ.popWait h).some e)
    · split
      · next e => exact ih ((hQ.popMarkers h).some e)
      · exact h

theorem queuesMoved {c : Nat} (h : Q s) : Q (s.queuesMoved c) := hQ.settleMat (hQ.settleMarkers (hQ.settleMarkers h))

theorem allMoved {l : List Nat} (h : Q s) : Q (s.allMoved l) := by
  induction l generalizing s with
  | nil => exact h
  | cons c l ih =>
    rw [State.allMoved]
    exact ih (hQ.queuesMoved h)

theorem releaseMat {g : Nat} (h : Q s) : Q (s.releaseMat g) := hQ.settleMat (hQ.setStack (hQ.setCore (hQ.setCore h)))

theorem freeSlotLanes {c : Nat} {l : List Outst} (h : Q s) : Q (s.freeSlotLanes c l) := by
  induction l generalizing s with
  | nil => exact h
  | cons o l ih =>
    unfold State.freeSlotLanes
    split
    · exact ih h
    · exact ih (hQ.setCore h)

theorem dispose {l : Nat} {replay : Bool} (h : Q s) : Q (s.dispose l replay) := by
  unfold State.dispose
  extract_lets -underBinder t
  exact hQ.allMoved (s := t) (hQ.units h)

end EngineKeeps

/-! ## Groups that stop -/

/-- A property that the stop of a group keeps. -/
structure StopKeeps (g : Nat) (Q : State → Prop) : Prop extends EngineKeeps Q where
  headland : ∀ {s c}, Q s → Q (s.setCtx c { s.ctx c with headland := 0 })
  free : ∀ {s l n}, Q s → Q (s.saveFree l n)
  own : ∀ {s f}, Q s → Q (s.modGroup g f)
  drain : ∀ {s l}, Q s → Q (s.drainCheck l)

theorem StopKeeps.leaveWaits (hQ : StopKeeps g Q) {h : Nat} {left : Thread → Bool} (hs : Q s) : Q (s.leaveWaits h left) :=
  ite_keeps (hQ.headland hs) hs

theorem StopKeeps.freeGroup (hQ : StopKeeps g Q) (h : Q s) : Q (s.freeGroup g) := by
  have hmat : Q (s.releaseMat g) := hQ.releaseMat h
  unfold State.freeGroup
  extract_lets gr l s1 s2 s3
  have hspill : Q s2 := ite_keeps (hQ.free hmat) hmat
  exact hQ.own (ite_keeps (hQ.free hspill) hspill)

/-- The group g once its threads have ended: the state in which its queues move on. -/
def State.haltedAt (s : State) (g : Nat) : State :=
  (((s.leaveWaits g Thread.waits).freeSlotLanes (s.group g).core ((s.group g).threads.flatMap (·.outs))).freeGroup g).modGroup g fun gr =>
    { gr with state := .stopped, brk := false, threads := gr.threads.map fun th => { th with status := .exited, halted := false, outs := [] } }

theorem stopGroup_eq (hstate : (s.group g).state ≠ .retired) (hstopped : (s.group g).state ≠ .stopped) : ∃ x : Core,
    s.stopGroup g = (((s.haltedAt g).setCore (s.group g).core x).queuesMoved (s.group g).core).drainCheck (s.group g).launch :=
  ⟨_, if_neg fun h => h.elim hstate hstopped⟩

theorem StopKeeps.stopGroup (hQ : StopKeeps g Q) (h : Q s) : Q (s.stopGroup g) :=
  ite_keeps h (hQ.drain (hQ.queuesMoved (hQ.setCore (hQ.own (hQ.freeGroup (hQ.freeSlotLanes (hQ.leaveWaits h)))))))

theorem stopGroups_keeps {l : List Nat} (hQ : ∀ g ∈ l, StopKeeps g Q) (h : Q s) : Q (s.stopGroups l) := by
  induction l generalizing s with
  | nil => exact h
  | cons g l ih => exact ih (fun k hk => hQ k (List.mem_cons_of_mem _ hk)) ((hQ g (List.mem_cons_self ..)).stopGroup h)

/-! ## A context's sticky register, and a launch, while groups stop -/

theorem engineKeeps_sticky (c : Nat) (v : BitVec 128) : EngineKeeps fun s => (s.ctx c).sticky = v := ⟨fun h => h, fun h _ => h⟩

theorem stopKeeps_sticky (c g : Nat) (v : BitVec 128) : StopKeeps g fun s => (s.ctx c).sticky = v where
  toEngineKeeps := engineKeeps_sticky c v
  headland := by
    intro s k h
    by_cases hk : c = k
    · subst hk; simpa using h
    · simpa [ctx_setCtx_ne _ _ hk] using h
  free := by
    intro s l n h
    have houter := saveFree_keeps (accessKeeps_outer c (s.ctx c).outer) (fun h => h) (l := l) (n := n) (s := s) rfl
    exact (congrArg Ctx.sticky houter).trans h
  own := fun h => h
  drain := fun h => ite_keeps (P := fun t => (State.ctx t c).sticky = v) h h

@[simp] theorem launch_modLaunch_same (s : State) {l : Nat} (f : Launch → Launch) (hl : l < s.launches.length) :
    (s.modLaunch l f).launch l = f (s.launch l) := by
  simp [State.launch, List.getD_eq_getElem?_getD, hl]

theorem launch_modLaunch_ne (s : State) {l k : Nat} (f : Launch → Launch) (h : k ≠ l) : (s.modLaunch l f).launch k = s.launch k := by
  simp [State.launch, List.getD_eq_getElem?_getD, Ne.symm h]

theorem HubOnly.launch {s u : State} (h : HubOnly u s) (l : Nat) : s.launch l = u.launch l := by rw [State.launch, h.launches, State.launch]

theorem engineKeeps_launch (l : Nat) (x : Launch) : EngineKeeps fun s => s.launch l = x := ⟨fun h => h, fun h _ => h⟩

/-- A launch that neither is placed nor runs stays as it is while groups stop. -/
theorem stopKeeps_launch (l g : Nat) (x : Launch) (hx : ¬(x.state = .placing ∨ x.state = .running)) : StopKeeps g fun s => s.launch l = x where
  toEngineKeeps := engineKeeps_launch l x
  headland := fun h => h
  free := fun {s _ _} h => ((hubOnly_saveFree (.refl s)).launch l).trans h
  own := fun h => h
  drain := by
    intro s k h
    by_cases hk : l = k
    · subst hk
      have hstate : ¬((s.launch l).state = .placing ∨ (s.launch l).state = .running) := h.symm ▸ hx
      rw [State.drainCheck, if_neg fun hc => hstate hc.1]
      exact h
    · exact ite_keeps (P := fun t => State.launch t l = x) ((launch_modLaunch_ne s _ hk).trans h) h

/-! ## Groups beside one that stops -/

/-- A group without what engines change of its threads. -/
def Group.quiet (x : Group) : Group := { x with threads := x.threads.map Thread.eng }

theorem quiet_modThread (s : State) (r : TRef) {f : Thread → Thread} (hf : ∀ th, (f th).eng = th.eng) (h : Nat) :
    ((s.modThread r f).group h).quiet = (s.group h).quiet := by
  by_cases hg : h < s.groups.length
  · by_cases hr : h = r.g
    · subst hr
      have hthreads : ((s.group r.g).threads.modify r.t f).map Thread.eng = (s.group r.g).threads.map Thread.eng := by
        refine List.ext_getElem? fun i => ?_
        rw [List.getElem?_map, List.getElem?_map, List.getElem?_modify]
        cases (s.group r.g).threads[i]? with
        | none => rfl
        | some th => by_cases hi : r.t = i <;> simp [hi, hf]
      rw [State.modThread, group_modGroup_same _ _ hg, Group.quiet, hthreads, Group.quiet]
    · rw [State.modThread, group_modGroup_ne _ _ hr]
  · have hlen : ((s.modThread r f).groups).length ≤ h := by simpa using hg
    rw [group_of_length_le _ hlen, group_of_length_le _ (Nat.not_lt.mp hg)]

theorem engineKeeps_quiet (h : Nat) (x : Group) : EngineKeeps fun s => (s.group h).quiet = x :=
  ⟨fun hs => hs, fun hs hf => (quiet_modThread _ _ hf h).trans hs⟩

theorem drainCheck_quiet (s : State) (l : Nat) : ((s.drainCheck l).group g).quiet = (s.group g).quiet :=
  ite_keeps (P := fun t => (State.group t g).quiet = (s.group g).quiet) rfl rfl

theorem stopKeeps_quiet {h : Nat} (hne : h ≠ g) (x : Group) : StopKeeps g fun s => (s.group h).quiet = x where
  toEngineKeeps := engineKeeps_quiet h x
  headland := fun hs => hs
  free := fun {s _ _} hs => (congrArg Group.quiet ((hubOnly_saveFree (.refl s)).group h)).trans hs
  own := fun hs => (congrArg Group.quiet (group_modGroup_ne _ _ hne)).trans hs
  drain := fun {s l} hs => (drainCheck_quiet s l).trans hs

theorem quiet_threads {x y : Group} (h : y.quiet = x.quiet) : y = { x with threads := y.threads } := by
  cases x
  cases y
  simp only [Group.quiet, Group.mk.injEq] at h ⊢
  tauto

theorem quiet_mem {x y : Group} (h : y.quiet = x.quiet) {th : Thread} (hth : th ∈ y.threads) : ∃ th' ∈ x.threads, th.eng = th'.eng := by
  have hmem : th.eng ∈ x.quiet.threads := h ▸ List.mem_map_of_mem hth
  obtain ⟨th', hth', e⟩ := List.mem_map.mp hmem
  exact ⟨th', hth', e.symm⟩

theorem eng_status {x y : Thread} (h : x.eng = y.eng) : x.status = y.status := (congrArg Thread.status h :)

theorem eng_outs {x y : Thread} (h : x.eng = y.eng) (hy : y.outs = []) : x.outs = [] := by
  have houts : x.outs.map (fun o => { o with val := .awaited }) = y.outs.map fun o : Outst => { o with val := .awaited } := (congrArg Thread.outs h :)
  rw [hy] at houts
  exact List.map_eq_nil_iff.mp houts

theorem quiet_thread {s t : State} {h : Nat} (hq : (t.group h).quiet = (s.group h).quiet) (k : Nat) :
    t.thread ⟨h, k⟩ = { s.thread ⟨h, k⟩ with outs := (t.thread ⟨h, k⟩).outs, obsEng := (t.thread ⟨h, k⟩).obsEng } := by
  have hmap : (t.group h).threads.map Thread.eng = (s.group h).threads.map Thread.eng := (congrArg Group.threads hq :)
  have heng : (t.thread ⟨h, k⟩).eng = (s.thread ⟨h, k⟩).eng := by
    have hget (u : State) : (u.thread ⟨h, k⟩).eng = ((u.group h).threads.map Thread.eng).getD k ({ status := .exited } : Thread).eng := by
      simp only [State.thread, List.getD_eq_getElem?_getD, List.getElem?_map]
      cases (u.group h).threads[k]? <;> rfl
    rw [hget, hget, hmap]
  generalize t.thread ⟨h, k⟩ = x at heng ⊢
  generalize s.thread ⟨h, k⟩ = y at heng ⊢
  cases x
  cases y
  simp only [Thread.eng, Thread.mk.injEq] at heng ⊢
  tauto

/-! ## A group that stops -/

/-- The group stands stopped, with every thread exited and no result outstanding. -/
def Group.halted (x : Group) : Prop := x.state = .stopped ∧ ∀ th ∈ x.threads, th.status = .exited ∧ th.outs = []

theorem Group.halted_of_quiet {x y : Group} (h : y.quiet = x.quiet) (hx : x.halted) : y.halted := by
  obtain ⟨hstate, hthreads⟩ := hx
  refine ⟨(congrArg Group.state h).trans hstate, fun th hth => ?_⟩
  obtain ⟨th', hmem, heng⟩ := quiet_mem h hth
  obtain ⟨hstatus, houts⟩ := hthreads th' hmem
  exact ⟨(eng_status heng).trans hstatus, eng_outs heng houts⟩

theorem haltedAt_group (s : State) (hg : g < s.groups.length) : ((s.haltedAt g).group g).halted := by
  have hlen : (((s.leaveWaits g Thread.waits).freeSlotLanes (s.group g).core ((s.group g).threads.flatMap (·.outs))).freeGroup g).hasGroups s.groups.length :=
    hasGroups_freeGroup (hasGroups_freeSlotLanes (hasGroups_leaveWaits (s := s) rfl))
  rw [State.haltedAt, group_modGroup_same _ _ (hlen ▸ hg)]
  refine ⟨rfl, fun th hth => ?_⟩
  obtain ⟨th', -, rfl⟩ := List.mem_map.mp hth
  exact ⟨rfl, rfl⟩

theorem moved_quiet (u : State) (c l : Nat) (x : Core) :
    ((((u.setCore c x).queuesMoved c).drainCheck l).group g).quiet = (u.group g).quiet := by
  have hQ := engineKeeps_quiet g (u.group g).quiet
  rw [drainCheck_quiet]
  exact hQ.queuesMoved (s := u.setCore c x) (hQ.setCore (s := u) rfl)

theorem stopGroup_halted (s : State) (hg : g < s.groups.length) (hstate : (s.group g).state ≠ .retired) (hstopped : (s.group g).state ≠ .stopped) :
    ((s.stopGroup g).group g).halted := by
  obtain ⟨x, e⟩ := stopGroup_eq hstate hstopped
  rw [e]
  exact Group.halted_of_quiet (moved_quiet (s.haltedAt g) (s.group g).core (s.group g).launch x) (haltedAt_group s hg)

theorem stopGroup_ended {h : Nat} (s : State) (hended : (s.group g).state = .retired ∨ (s.group g).state = .stopped) :
    ((s.stopGroup g).group h) = s.group h := by rw [State.stopGroup, if_pos hended]

theorem stopGroup_quiet (s : State) {h : Nat} (hne : h ≠ g) : ((s.stopGroup g).group h).quiet = (s.group h).quiet := (stopKeeps_quiet hne _).stopGroup rfl

/-- A group that has ended stays as it is while others stop. -/
theorem stopGroups_quiet (s : State) {l : List Nat} (hended : (s.group g).state = .retired ∨ (s.group g).state = .stopped) :
    ((s.stopGroups l).group g).quiet = (s.group g).quiet := by
  induction l generalizing s with
  | nil => rfl
  | cons k l ih =>
    have hstop : ((s.stopGroup k).group g).quiet = (s.group g).quiet := by
      by_cases hk : g = k
      · subst hk
        rw [stopGroup_ended s hended]
      · exact stopGroup_quiet s hk
    have hstate : ((s.stopGroup k).group g).state = (s.group g).state := (congrArg Group.state hstop :)
    exact (ih _ (hstate.symm ▸ hended)).trans hstop

/-- What the stop of all groups makes of one: it stands stopped, every thread exited, unless it stood so or had retired. -/
def Stopped (x y : Group) : Prop := x.state ≠ .retired → y.state = .stopped ∧ ∀ th ∈ y.threads, x.state = .stopped ∨ th.status = .exited

theorem Stopped.of_quiet {x y z : Group} (h : Stopped x y) (hq : z.quiet = y.quiet) : Stopped x z := by
  intro hx
  obtain ⟨hstate, hthreads⟩ := h hx
  refine ⟨(congrArg Group.state hq).trans hstate, fun th hth => ?_⟩
  obtain ⟨th', hmem, heng⟩ := quiet_mem hq hth
  exact (hthreads th' hmem).imp_right (eng_status heng).trans

theorem stopGroup_stops (s : State) (hg : g < s.groups.length) : Stopped (s.group g) ((s.stopGroup g).group g) := by
  intro hretired
  by_cases hstopped : (s.group g).state = .stopped
  · rw [stopGroup_ended s (.inr hstopped)]
    exact ⟨hstopped, fun _ _ => .inl hstopped⟩
  · obtain ⟨hstate, hthreads⟩ := stopGroup_halted s hg hretired hstopped
    exact ⟨hstate, fun th hth => .inr (hthreads th hth).1⟩

theorem stopGroups_stops (s : State) {l : List Nat} (hg : g < s.groups.length) (hmem : g ∈ l) : Stopped (s.group g) ((s.stopGroups l).group g) := by
  induction l generalizing s with
  | nil => cases hmem
  | cons k l ih =>
    have hlen : (s.stopGroup k).hasGroups s.groups.length := hasGroups_stopGroup rfl
    by_cases hk : g = k
    · subst hk
      have hstop := stopGroup_stops s hg
      have hended : ((s.stopGroup g).group g).state = .retired ∨ ((s.stopGroup g).group g).state = .stopped := by
        by_cases hretired : (s.group g).state = .retired
        · rw [stopGroup_ended s (.inl hretired)]
          exact .inl hretired
        · exact .inr (hstop hretired).1
      exact hstop.of_quiet (stopGroups_quiet _ hended)
    · have hquiet := stopGroup_quiet s hk
      have hrest := ih (s.stopGroup k) (hlen ▸ hg) ((List.mem_cons.mp hmem).resolve_left hk)
      rw [State.stopGroups]
      have hstate : ((s.stopGroup k).group g).state = (s.group g).state := (congrArg Group.state hquiet :)
      intro hretired
      obtain ⟨hst, hth⟩ := hrest (hstate.symm ▸ hretired)
      exact ⟨hst, fun th h => (hth th h).imp_left hstate.symm.trans⟩

end Sys2Proof.Machine
end

section
/-! Faults taken (R69 to R73, R106, R116). -/

namespace Sys2Proof.Machine

variable {s : State} {c l : Nat}

/-! ## Launches whose groups stop -/

theorem modLaunch_replays (s : State) (l : Nat) {f : Launch → Launch} (hf : ∀ la, (f la).replays = la.replays) :
    ((s.modLaunch l f).launch l).replays = (s.launch l).replays := by
  by_cases hl : l < s.launches.length
  · rw [launch_modLaunch_same _ _ hl, hf]
  · have hnone (x : List Launch) (hx : x.length ≤ l) : x.getD l {} = ({} : Launch) := by
      rw [List.getD_eq_getElem?_getD, List.getElem?_eq_none hx]
      rfl
    rw [State.launch, State.launch, hnone _ (by simpa using hl), hnone _ (Nat.not_lt.mp hl)]

theorem stopAll_allStopped (s : State) (l : Nat) {f : Launch → Launch} (hf : ∀ la, (f la).replays = la.replays) (replay : Bool) :
    s.allStopped ((((s.modLaunch l f).stopGroups ((s.modLaunch l f).groupsOf l)).dispose l replay)) l := by
  intro g hg
  have hmem : g ∈ (s.modLaunch l f).groupsOf l := by
    rw [State.groupsOf, modLaunch_replays s l hf]
    exact hg
  have hlen : g < s.groups.length := List.mem_range.mp (List.mem_filter.mp hg).1
  exact (stopGroups_stops (s.modLaunch l f) hlen hmem).of_quiet ((engineKeeps_quiet g _).dispose rfl)

theorem stopAll_launch (s : State) {f : Launch → Launch} (hl : l < s.launches.length)
    (hf : ¬((f (s.launch l)).state = .placing ∨ (f (s.launch l)).state = .running)) (gs : List Nat) (replay : Bool) :
    (((s.modLaunch l f).stopGroups gs).dispose l replay).launch l = f (s.launch l) :=
  (engineKeeps_launch l _).dispose (stopGroups_keeps (fun g _ => stopKeeps_launch l g _ hf) (launch_modLaunch_same s f hl))

theorem stopAll_sticky (s : State) (c : Nat) (f : Launch → Launch) (gs : List Nat) (replay : Bool) :
    ((((s.modLaunch l f).stopGroups gs).dispose l replay).ctx c).sticky = (s.ctx c).sticky :=
  (engineKeeps_sticky c _).dispose (stopGroups_keeps (fun g _ => stopKeeps_sticky c g _) rfl)

/-- What stopping a launch does, whether it ends or is to be replayed: all its groups stand stopped, and the sticky register stays. -/
structure Stops (s t : State) (l c : Nat) (f : Launch → Launch) : Prop where
  groups : s.allStopped t l
  launch : t.launch l = f (s.launch l)
  sticky : (t.ctx c).sticky = (s.ctx c).sticky

theorem stops_dispose (s : State) (hl : l < s.launches.length) {f : Launch → Launch} (hf : ∀ la, (f la).replays = la.replays)
    (hstate : ¬((f (s.launch l)).state = .placing ∨ (f (s.launch l)).state = .running)) (replay : Bool) :
    Stops s (((s.modLaunch l f).stopGroups ((s.modLaunch l f).groupsOf l)).dispose l replay) l c f :=
  ⟨stopAll_allStopped s l hf replay, stopAll_launch s hl hstate _ _, stopAll_sticky s c f _ _⟩

/-- A fault comes too late to act on its launch (R117). -/
def Launch.late (la : Launch) : Bool := (la.state = .draining && la.ended) || la.state = .rollingBack || la.state = .finished || la.state = .gone

theorem endLaunch_stops (s : State) (hl : l < s.launches.length) (hlate : (s.launch l).late = false) :
    Stops s (s.endLaunch l) l c fun la => { la with state := .draining, ended := true } := by
  have hgo : ¬(((s.launch l).state = .draining ∧ (s.launch l).ended) ∨ (s.launch l).state = .rollingBack ∨ (s.launch l).state = .finished ∨
      (s.launch l).state = .gone) := by
    simp only [Launch.late, Bool.or_eq_false_iff, Bool.and_eq_false_iff, decide_eq_false_iff_not] at hlate
    obtain ⟨⟨⟨hdrain, hroll⟩, hfin⟩, hgone⟩ := hlate
    rintro (⟨h, he⟩ | h | h | h)
    · exact hdrain.elim (fun hd => hd h) fun hd => by simp [hd] at he
    · exact hroll h
    · exact hfin h
    · exact hgone h
  rw [State.endLaunch, if_neg hgo]
  exact stops_dispose s hl (f := fun la => { la with state := .draining, ended := true }) (fun _ => rfl) (by rintro (h | h) <;> cases h) false

theorem rollback_stops (s : State) (hl : l < s.launches.length) (sector : Option Nat) :
    Stops s (s.rollback l sector) l c fun la => { la with state := .rollingBack, rereadSector := sector } :=
  stops_dispose s hl (f := fun la => { la with state := .rollingBack, rereadSector := sector }) (fun _ => rfl) (by rintro (h | h) <;> cases h) _

theorem allStopped_of_hub {s u t : State} (hu : HubOnly s u) (h : u.allStopped t l) : s.allStopped t l := by
  have hgroups : u.groupsOf l = s.groupsOf l := by rw [State.groupsOf, State.groupsOf, hu.groups, hu.launch l]; simp only [hu.group]
  intro g hg
  have hstop := h g (hgroups ▸ hg)
  rwa [hu.group g] at hstop

/-! ## The action of a fault (R69) -/

theorem actionOf_eq (la : Launch) {code : Nat} (h1 : 1 ≤ code) (h2 : code ≤ 0x1E) : faultAction la code = actionOf la code := by
  have hmin : (if code ∈ [0x0E, 0x0F, 0x11, 0x12] then 2 else if code ∈ [0x01, 0x02, 0x03, 0x04, 0x05, 0x06, 0x07, 0x08, 0x09, 0x0A, 0x0B, 0x0C, 0x0D, 0x13,
      0x14, 0x16, 0x17, 0x19, 0x1B] then 1 else 0) = minAction code := by
    interval_cases code <;> rfl
  have hreplay : (code ∈ [0x0F, 0x11, 0x12, 0x17, 0x18, 0x19, 0x1A]) ↔ mayReplay code = true := by
    interval_cases code <;> decide
  have hpolicy : bits la.region.policy (2 * code + 1) (2 * code) = la.region.policy / 4 ^ code % 4 := by
    rw [bits, Nat.shiftRight_eq_div_pow, Nat.pow_mul, show 2 * code + 1 - 2 * code + 1 = 2 by omega]
    norm_num
  simp only [faultAction, actionOf, hmin, hreplay, hpolicy, ne_eq, ite_not, Bool.and_eq_true, Bool.not_eq_true', decide_eq_true_eq, and_assoc]

/-- The fault as its record names it: one whose action is not 0 is recorded for its group (R71, log entry 33). -/
def FaultInfo.named (f : FaultInfo) (act : Nat) : FaultInfo := { f with kind := if f.kind = 0 ∧ act ≠ 0 then 1 else f.kind }

theorem named_eq (f : FaultInfo) (act : Nat) : (if f.kind = 0 ∧ act ≠ 0 then { f with kind := 1 } else f) = f.named act := by
  rw [FaultInfo.named]
  split <;> rfl

/-- What a fault of a launch does, by its action (R69, R106, R116). -/
theorem takeFault_eq (s : State) (f : FaultInfo) (hl : f.launch = some l) :
    s.takeFault c f =
      let la := s.launch l
      let act := actionOf la f.code
      let R := s.record c (f.named act) act (some (la.region.ring, la.region.ringlog))
      if act = 3 ∧ f.code = 0x11 ∧ !la.late then
        (s.modLaunch l fun la => { la with heldFault := some { f.named act with time := some s.refTimer } }).rollback l f.sector
      else if act = 0 then R
      else if act = 1 then match f.group with
        | some g => R.stopGroup g
        | none => R
      else if la.late then R
      else if act = 2 then R.endLaunch l
      else R.rollback l f.sector := by
  have hnamed := named_eq f (actionOf (s.launch l) f.code)
  unfold State.takeFault
  split
  · next h => cases h.symm.trans hl
  · next k h =>
    obtain rfl : k = l := Option.some.inj (h.symm.trans hl)
    extract_lets la act f' late R' R
    have hf : f' = f.named act := hnamed
    have hR : R' = R := by rw [show R' = s.record c f' act (some (la.region.ring, la.region.ringlog)) from rfl, hf]
    rw [hR, hf]
    rfl

theorem late_iff (la : Launch) :
    (la.late = true) ↔ (la.state = .draining ∧ la.ended = true) ∨ la.state ∈ [LState.rollingBack, .finished, .gone] := by
  simp only [Launch.late, Bool.or_eq_true, Bool.and_eq_true, decide_eq_true_eq, List.mem_cons, List.not_mem_nil, or_false, or_assoc]

variable {f : FaultInfo}

/-- The record of a fault of launch l. -/
def State.faultRecord (s : State) (f : FaultInfo) (l : Nat) : State :=
  let la := s.launch l
  let act := actionOf la f.code
  s.record la.ctx (f.named act) act (some (la.region.ring, la.region.ringlog))

theorem hubOnly_faultRecord (s : State) (f : FaultInfo) (l : Nat) : HubOnly s (s.faultRecord f l) := hubOnly_record (.refl s)

theorem takeFault_report (hl : f.launch = some l) (hact : actionOf (s.launch l) f.code = 0) :
    s.takeFault (s.launch l).ctx f = s.faultRecord f l := by
  simp only [takeFault_eq s f hl, hact]
  simp [State.faultRecord, hact]

theorem takeFault_stop (hl : f.launch = some l) (hact : actionOf (s.launch l) f.code = 1) {g : Nat} (hg : f.group = some g) :
    s.takeFault (s.launch l).ctx f = (s.faultRecord f l).stopGroup g := by
  simp only [takeFault_eq s f hl, hact, hg]
  simp [State.faultRecord, hact]

theorem takeFault_late (hl : f.launch = some l) (hact : 2 ≤ actionOf (s.launch l) f.code) (hlate : (s.launch l).late = true) :
    s.takeFault (s.launch l).ctx f = s.faultRecord f l := by
  have h0 : actionOf (s.launch l) f.code ≠ 0 := by omega
  have h1 : actionOf (s.launch l) f.code ≠ 1 := by omega
  simp [takeFault_eq s f hl, hlate, h0, h1, State.faultRecord]

theorem takeFault_end (hl : f.launch = some l) (hact : actionOf (s.launch l) f.code = 2) (hlate : (s.launch l).late = false) :
    s.takeFault (s.launch l).ctx f = (s.faultRecord f l).endLaunch l := by
  simp only [takeFault_eq s f hl, hact, hlate]
  simp [State.faultRecord, hact]

theorem takeFault_replay (hl : f.launch = some l) (hact : actionOf (s.launch l) f.code = 3) (hcode : f.code ≠ 0x11) (hlate : (s.launch l).late = false) :
    s.takeFault (s.launch l).ctx f = (s.faultRecord f l).rollback l f.sector := by
  simp only [takeFault_eq s f hl, hact, hlate]
  simp [State.faultRecord, hact, hcode]

theorem takeFault_reread (hl : f.launch = some l) (hact : actionOf (s.launch l) f.code = 3) (hcode : f.code = 0x11) (hlate : (s.launch l).late = false) :
    s.takeFault (s.launch l).ctx f =
      (s.modLaunch l fun la => { la with heldFault := some { f.named 3 with time := some s.refTimer } }).rollback l f.sector := by
  simp only [takeFault_eq s f hl, hact, hlate]
  exact if_pos ⟨trivial, hcode, rfl⟩

/-! ## A fault that stops its group -/

/-- What the stop of one group leaves of another. -/
theorem stopGroup_others (s : State) {g h : Nat} (hne : h ≠ g) : (s.stopGroup g).group h = { s.group h with threads := ((s.stopGroup g).group h).threads } ∧
    ∀ k, (s.stopGroup g).thread ⟨h, k⟩ = { s.thread ⟨h, k⟩ with outs := ((s.stopGroup g).thread ⟨h, k⟩).outs, obsEng := ((s.stopGroup g).thread ⟨h, k⟩).obsEng } :=
  ⟨quiet_threads (stopGroup_quiet s hne), quiet_thread (stopGroup_quiet s hne)⟩

theorem stopGroup_sticky (s : State) (c g : Nat) : ((s.stopGroup g).ctx c).sticky = (s.ctx c).sticky := (stopKeeps_sticky c g _).stopGroup rfl

end Sys2Proof.Machine
end

section
/-! Records in a ring of reports (R71, R72). -/

namespace Sys2Proof.Machine

variable {s u v w : State} {c ring lg : Nat} {f : FaultInfo} {la : Launch} {action lin : Nat} {bs : List Byte}

/-! ## The fields of a record (R71) -/

/-- The fields of a record, from bit 0 up. -/
def recordFields (s : State) (f : FaultInfo) (la : Launch) (c action seq lap lin : Nat) : List (Nat × Nat) :=
  [(lap, 1), (0, 15), (la.queue, 16), (la.replays, 8), (f.kind, 8), (c, 6), (action, 2), (f.code, 8), (0, 18), (f.furrow, 5), (f.core, 9),
    (seq % 2 ^ 32, 32), (lin % 2 ^ 32, 32), ((wrapInt 32 f.pc).toNat, 32), (f.lanes % 2 ^ 32, 32), (f.usertag % 2 ^ 32, 32),
    (la.seq % 2 ^ 64, 64), (f.d0 % 2 ^ 64, 64), (f.d1 % 2 ^ 64, 64), (f.time.getD s.refTimer % 2 ^ 64, 64)]

theorem recordBits_eq (s : State) (f : FaultInfo) (la : Launch) (c action seq lap lin : Nat) :
    recordBits s f la c action seq lap lin = fieldsNat (recordFields s f la c action seq lap lin) := by
  simp only [recordBits, recordFields, fieldsNat]
  generalize f.time.getD s.refTimer % 2 ^ 64 = a1, f.d1 % 2 ^ 64 = a2, f.d0 % 2 ^ 64 = a3, la.seq % 2 ^ 64 = a4, f.usertag % 2 ^ 32 = a5,
    f.lanes % 2 ^ 32 = a6, lin % 2 ^ 32 = a7, seq % 2 ^ 32 = a8
  omega

theorem recordFields_width (s : State) (f : FaultInfo) (la : Launch) (c action seq lap lin : Nat) :
    fieldsWidth (recordFields s f la c action seq lap lin) = 512 := by
  simp only [recordFields, fieldsWidth, Nat.reduceAdd]

/-- A record in its 64 bytes. -/
def recordWord (s : State) (f : FaultInfo) (la : Launch) (c action produced lg lin : Nat) : BitVec 512 :=
  .ofNat 512 (recordBits s f la c action produced (produced / 2 ^ lg % 2) lin)

theorem recordWord_fields (s : State) {produced : Nat} (hc : c < 64) (ha : action < 4) (hcode : f.code < 256) (hkind : f.kind < 256) (hcore : f.core < 512)
    (hfurrow : f.furrow < 32) (hrep : la.replays < 256) (hqueue : la.queue < 65536) :
    let r := recordWord s f la c action produced lg lin
    let fld (lo w : Nat) : Nat := (r.extractLsb' lo w).toNat
    r.toNat = recordBits s f la c action produced (produced / 2 ^ lg % 2) lin ∧
      fld 448 64 = f.time.getD s.refTimer % 2 ^ 64 ∧ fld 384 64 = f.d1 % 2 ^ 64 ∧ fld 320 64 = f.d0 % 2 ^ 64 ∧ fld 256 64 = la.seq % 2 ^ 64 ∧
      fld 224 32 = f.usertag % 2 ^ 32 ∧ fld 192 32 = f.lanes % 2 ^ 32 ∧ fld 160 32 = (wrapInt 32 f.pc).toNat ∧ fld 128 32 = lin % 2 ^ 32 ∧
      fld 96 32 = produced % 2 ^ 32 ∧ fld 87 9 = f.core ∧ fld 82 5 = f.furrow ∧ fld 64 18 = 0 ∧ fld 56 8 = f.code ∧ fld 54 2 = action ∧ fld 48 6 = c ∧
      fld 40 8 = f.kind ∧ fld 32 8 = la.replays ∧ fld 16 16 = la.queue ∧ fld 1 15 = 0 ∧ fld 0 1 = produced / 2 ^ lg % 2 := by
  intro r fld
  have h64 (n : Nat) : n % 2 ^ 64 < 2 ^ 64 := Nat.mod_lt _ (by decide)
  have h32 (n : Nat) : n % 2 ^ 32 < 2 ^ 32 := Nat.mod_lt _ (by decide)
  have hfit : FieldsFit (recordFields s f la c action produced (produced / 2 ^ lg % 2) lin) := by
    simp only [recordFields, fieldsFit_cons]
    exact ⟨Nat.mod_lt _ (by decide), by decide, hqueue, hrep, hkind, hc, ha, hcode, by decide, hfurrow, hcore, h32 _, h32 _, (wrapInt 32 f.pc).isLt, h32 _, h32 _,
      h64 _, h64 _, h64 _, h64 _, fieldsFit_nil⟩
  have hr : r.toNat = fieldsNat (recordFields s f la c action produced (produced / 2 ^ lg % 2) lin) := by
    rw [show r = .ofNat 512 (recordBits s f la c action produced (produced / 2 ^ lg % 2) lin) from rfl, recordBits_eq,
      toNat_ofNat_fieldsNat hfit (recordFields_width ..)]
  obtain ⟨lap, low, queue, replays, kind, ctx, act, code, gap, furrow, core, seq, lin, pc, lanes, tag, launch, d0, d1, time, -⟩ :=
    fieldsRead_extract hfit hr
  exact ⟨hr.trans (recordBits_eq ..).symm, time, d1, d0, launch, tag, lanes, pc, lin, seq, core, furrow, gap, code, act, ctx, kind, replays, queue, low, lap⟩

/-! ## A ring that can be read and written -/

/-- A successful read of one state is one of a state alike. -/
theorem Alike.virtRd {x y : Ctx} {va n : Nat} (h : Alike s w) (hxy : x.sameTree y) (e : s.virtRd x va n = some (u, bs)) :
    ∃ u', w.virtRd y va n = some (u', bs) ∧ Alike u u' := by
  have hrd := accessKeeps_alike.virtRd (va := va) (n := n) hxy h
  rw [e] at hrd
  cases hw : w.virtRd y va n with
  | none => rw [hw] at hrd; exact hrd.elim
  | some p =>
    obtain ⟨hu, hbs⟩ := hrd.some hw
    obtain rfl : p.2 = bs := hbs
    exact ⟨p.1, rfl, hu⟩

theorem Alike.virtWr {x y : Ctx} {va : Nat} (h : Alike s w) (hxy : x.sameTree y) (e : s.virtWr x va bs = some v) :
    ∃ v', w.virtWr y va bs = some v' ∧ Alike v v' := by
  have hwr := accessKeeps_alike.virtWr (va := va) (bs := bs) hxy h
  rw [e] at hwr
  cases hw : w.virtWr y va bs with
  | none => rw [hw] at hwr; exact hwr.elim
  | some v' => exact ⟨v', rfl, hwr.some hw⟩

theorem Alike.mem (h : Alike s w) : w.mem = s.mem := by
  obtain ⟨⟨cs, b, rfl⟩, -⟩ := h
  rfl

theorem Alike.vectors (h : Alike s w) : w.vectors = s.vectors := by
  obtain ⟨⟨cs, b, rfl⟩, -⟩ := h
  rfl

theorem virtRd_outer {x : Ctx} {va n : Nat} (e : s.virtRd x va n = some (u, bs)) : (u.ctx c).outer = (s.ctx c).outer :=
  ((accessKeeps_outer c _).virtRd_self rfl).some e

theorem virtWr_outer {x : Ctx} {va : Nat} (e : s.virtWr x va bs = some v) : (v.ctx c).outer = (s.ctx c).outer :=
  ((accessKeeps_outer c _).virtWr_self rfl).some e

/-- A ring that is full loses the record and counts it. -/
theorem ringWrite_full (e : s.virtRd (s.ctx c) ring 64 = some (u, bs))
    (hfull : ofBytes bs % 2 ^ 64 = ofBytes bs / 2 ^ 64 % 2 ^ 64 + 2 ^ lg) :
    s.ringWrite ring lg f la c action lin = (u.virtPut c (ring + 16) (bytesOf 8 (ofBytes bs / 2 ^ 128 % 2 ^ 64 + 1)), true) := by
  have hlow : bits (ofBytes bs) 63 0 = ofBytes bs % 2 ^ 64 := rfl
  have hmid : bits (ofBytes bs) 127 64 = ofBytes bs / 2 ^ 64 % 2 ^ 64 := by rw [bits, Nat.shiftRight_eq_div_pow]
  have hhigh : bits (ofBytes bs) 191 128 = ofBytes bs / 2 ^ 128 % 2 ^ 64 := by rw [bits, Nat.shiftRight_eq_div_pow]
  have hgo : ofBytes bs % 2 ^ 64 - ofBytes bs / 2 ^ 64 % 2 ^ 64 = 2 ^ lg ∧ ofBytes bs / 2 ^ 64 % 2 ^ 64 ≤ ofBytes bs % 2 ^ 64 := by
    rw [hfull]
    exact ⟨Nat.add_sub_cancel_left .., Nat.le_add_right ..⟩
  unfold State.ringWrite
  dsimp only
  rw [e]
  dsimp only
  rw [hlow, hmid, hhigh, if_pos hgo]

/-- A ring with room takes the record in the slot that its count of records names, and counts it. -/
theorem ringWrite_room (e : s.virtRd (s.ctx c) ring 64 = some (u, bs))
    (hroom : ofBytes bs % 2 ^ 64 ≠ ofBytes bs / 2 ^ 64 % 2 ^ 64 + 2 ^ lg)
    (hv : u.virtWr (s.ctx c) (ring + 64 + 64 * (ofBytes bs % 2 ^ 64 % 2 ^ lg))
      (bytesOf 64 (recordBits u f la c action (ofBytes bs % 2 ^ 64) (ofBytes bs % 2 ^ 64 / 2 ^ lg % 2) lin)) = some v)
    (hw : v.virtWr (s.ctx c) ring (bytesOf 8 (ofBytes bs % 2 ^ 64 + 1)) = some w) :
    s.ringWrite ring lg f la c action lin =
      (if ofBytes bs % 2 ^ 64 = ofBytes bs / 2 ^ 64 % 2 ^ 64 then w.raise (s.ctx c).fn (ofBytes bs / 2 ^ 192 % 2 ^ 16) else w, false) := by
  have hlow : bits (ofBytes bs) 63 0 = ofBytes bs % 2 ^ 64 := rfl
  have hmid : bits (ofBytes bs) 127 64 = ofBytes bs / 2 ^ 64 % 2 ^ 64 := by rw [bits, Nat.shiftRight_eq_div_pow]
  have hvec : bits (ofBytes bs) 207 192 = ofBytes bs / 2 ^ 192 % 2 ^ 16 := by rw [bits, Nat.shiftRight_eq_div_pow]
  have hgo : ¬(ofBytes bs % 2 ^ 64 - ofBytes bs / 2 ^ 64 % 2 ^ 64 = 2 ^ lg ∧ ofBytes bs / 2 ^ 64 % 2 ^ 64 ≤ ofBytes bs % 2 ^ 64) := by omega
  unfold State.ringWrite
  dsimp only
  rw [e]
  dsimp only
  rw [hlow, hmid, hvec, if_neg hgo, hv]
  dsimp only
  rw [hw]

/-! ## Records while every generator runs -/

/-- The state in which a fault is marked in its context's sticky register and its record is due. -/
def State.marked (s : State) (c : Nat) (f : FaultInfo) (la : Launch) : State :=
  { s.setCtx c { s.ctx c with sticky := sticky (s.ctx c).sticky f.code f.pc la.seq } with hubWaits := false }

/-- A state with a mark of the hub's waits. -/
def State.waiting (s : State) (b : Bool) : State := { s with hubWaits := b }

theorem marked_ctx (s : State) (c : Nat) (f : FaultInfo) (la : Launch) :
    ((s.marked c f la).ctx c) = { s.ctx c with sticky := sticky (s.ctx c).sticky f.code f.pc la.seq } := ctx_setCtx ..

theorem marked_alike (s : State) (c : Nat) (f : FaultInfo) (la : Launch) : Alike s (s.marked c f la) := by
  refine ⟨⟨(s.marked c f la).ctxs, false, rfl⟩, fun k => ?_⟩
  by_cases hk : k = c
  · subst hk
    rw [marked_ctx]
    exact ⟨rfl, rfl⟩
  · have hctx : (s.marked c f la).ctx k = s.ctx k := ctx_setCtx_ne _ _ hk
    rw [hctx]
    exact ⟨rfl, rfl⟩

/-- The launch that a record is made for. -/
def State.recordLaunch (s : State) (f : FaultInfo) : Launch := match f.launch with
  | some l => s.launch l
  | none => { queue := f.queue }

/-- The linear index that a record names. -/
def State.recordLin (s : State) (f : FaultInfo) : Nat := (f.group.map fun g => (s.group g).lin).getD 0

/-- A record is made at once where the hub owes nothing and every generator runs. -/
theorem record_made (hruns : ∀ d, s.runs d = true) (howed : s.owed = []) {ring : Option (Nat × Nat)} :
    s.record c f action ring = ((s.marked c f (s.recordLaunch f)).toRing c { f with time := some (f.time.getD s.refTimer) } (s.recordLaunch f) action
      (s.recordLin f) ring).waiting s.hubWaits := by
  unfold State.record
  extract_lets la lin f' x t
  have hlin : lin = s.recordLin f := by
    simp only [lin, State.recordLin]
    cases f.group <;> rfl
  have hla : la = s.recordLaunch f := rfl
  have hmark : { t with hubWaits := false } = s.marked c f (s.recordLaunch f) := rfl
  have hwaits : (({ t with hubWaits := false } : State).toRing c f' la action lin ring).hubWaits = false :=
    (toRing_keeps accessKeeps_runs (fun h => h) (s := { t with hubWaits := false }) ⟨rfl, hruns⟩).1
  rw [orOwe_made (s := t) howed hwaits, hmark, hlin, hla]
  rfl

theorem record_owed (howed : s.owed ≠ []) {ring : Option (Nat × Nat)} :
    (s.record c f action ring).mem = s.mem ∧ ∃ o, (s.record c f action ring).owed = s.owed ++ [o] := by
  unfold State.record
  extract_lets la lin f' x t
  have htake : (!t.owed.isEmpty) = true := by simpa [t] using howed
  rw [State.orOwe, if_pos htake]
  exact ⟨rfl, _, rfl⟩

theorem waiting_ctx (s : State) (b : Bool) (c : Nat) : (s.waiting b).ctx c = s.ctx c := rfl

/-- A record offered to a full ring (R72). -/
theorem record_full (hruns : ∀ d, s.runs d = true) (howed : s.owed = []) (e : s.virtRd (s.ctx c) ring 64 = some (u, bs))
    (hfull : ofBytes bs % 2 ^ 64 = ofBytes bs / 2 ^ 64 % 2 ^ 64 + 2 ^ lg) :
    ((s.record c f action (some (ring, lg))).ctx c).sticky.getLsbD 31 = true ∧
      ∀ v, u.virtWr (s.ctx c) (ring + 16) (bytesOf 8 (ofBytes bs / 2 ^ 128 % 2 ^ 64 + 1)) = some v → (s.record c f action (some (ring, lg))).mem = v.mem := by
  have hmark := marked_alike s c f (s.recordLaunch f)
  obtain ⟨u', hu', halike⟩ := hmark.virtRd (hmark.2 c) e
  have hring := ringWrite_full (f := { f with time := some (f.time.getD s.refTimer) }) (la := s.recordLaunch f) (action := action) (lin := s.recordLin f) hu' hfull
  rw [record_made hruns howed, State.toRing]
  dsimp only
  rw [hring]
  dsimp only
  rw [if_pos rfl]
  refine ⟨?_, fun v hv => ?_⟩
  · rw [waiting_ctx, ctx_setCtx]
    dsimp only
    rw [BitVec.getLsbD_or, Bool.or_eq_true]
    right
    decide
  · have hctx := virtRd_outer (c := c) hu'
    have htree : (s.ctx c).sameTree (u'.ctx c) := ⟨(congrArg Ctx.ptroot hctx).trans (hmark.2 c).1, (congrArg Ctx.keyslot hctx).trans (hmark.2 c).2⟩
    obtain ⟨v', hv', hvalike⟩ := halike.virtWr htree hv
    rw [State.virtPut, hv']
    exact hvalike.mem

/-- A record offered to a ring with room (R72). -/
theorem record_room (hruns : ∀ d, s.runs d = true) (howed : s.owed = []) (e : s.virtRd (s.ctx c) ring 64 = some (u, bs))
    (hroom : ofBytes bs % 2 ^ 64 ≠ ofBytes bs / 2 ^ 64 % 2 ^ 64 + 2 ^ lg) {n : Nat}
    (hn : n = recordBits s f (s.recordLaunch f) c action (ofBytes bs % 2 ^ 64) (ofBytes bs % 2 ^ 64 / 2 ^ lg % 2) (s.recordLin f))
    (hv : u.virtWr (s.ctx c) (ring + 64 + 64 * (ofBytes bs % 2 ^ 64 % 2 ^ lg)) (bytesOf 64 n) = some v)
    (hw : v.virtWr (s.ctx c) ring (bytesOf 8 (ofBytes bs % 2 ^ 64 + 1)) = some w) :
    let t := s.record c f action (some (ring, lg))
    let p := ofBytes bs % 2 ^ 64
    let fn := (s.ctx c).fn
    t.mem = w.mem ∧ (t.ctx c).sticky = sticky (s.ctx c).sticky f.code f.pc (s.recordLaunch f).seq ∧
      t.vectors = w.vectors ++ if p = ofBytes bs / 2 ^ 64 % 2 ^ 64 ∧ ofBytes bs / 2 ^ 192 % 2 ^ 16 < (if fn = 0 then 2048 else 32)
        then [(fn, ofBytes bs / 2 ^ 192 % 2 ^ 16)] else [] := by
  intro t p fn
  have hmark := marked_alike s c f (s.recordLaunch f)
  obtain ⟨u', hu', hualike⟩ := hmark.virtRd (hmark.2 c) e
  subst hn
  obtain ⟨v', hv', hvalike⟩ := hualike.virtWr (hmark.2 c) hv
  obtain ⟨w', hw', hwalike⟩ := hvalike.virtWr (hmark.2 c) hw
  have hring := ringWrite_room (f := { f with time := some (f.time.getD s.refTimer) }) (la := s.recordLaunch f) (action := action) (lin := s.recordLin f)
    hu' hroom hv' hw'
  have hsticky : (w'.ctx c).sticky = sticky (s.ctx c).sticky f.code f.pc (s.recordLaunch f).seq := by
    have houter := (virtWr_outer (c := c) hw').trans ((virtWr_outer (c := c) hv').trans (virtRd_outer (c := c) hu'))
    rw [marked_ctx] at houter
    exact congrArg Ctx.sticky houter
  have ht : t = (if p = ofBytes bs / 2 ^ 64 % 2 ^ 64 then w'.raise fn (ofBytes bs / 2 ^ 192 % 2 ^ 16) else w').waiting s.hubWaits := by
    have hfn : ((s.marked c f (s.recordLaunch f)).ctx c).fn = fn := by rw [marked_ctx]
    rw [show t = s.record c f action (some (ring, lg)) from rfl, record_made hruns howed, State.toRing]
    dsimp only
    rw [hring, hfn]
    rfl
  rw [ht, raise_eq, ← hwalike.mem, ← hwalike.vectors, ← hsticky]
  by_cases hempty : p = ofBytes bs / 2 ^ 64 % 2 ^ 64
  · rw [if_pos hempty]
    exact ⟨rfl, rfl, by rw [if_congr (and_iff_right hempty) rfl rfl]; rfl⟩
  · rw [if_neg hempty]
    exact ⟨rfl, rfl, by rw [if_neg fun h => hempty h.1, List.append_nil]; rfl⟩

end Sys2Proof.Machine
end

section
/-! The statement on faults, from its three parts: the record, the sticky register and the action. -/

namespace Sys2Proof.Machine

variable {s : State} {c action : Nat} {f : FaultInfo} {ring : Option (Nat × Nat)}

/-- A record marks the register beside the fault in bit 31 at most. -/
theorem record_lost (s : State) (c action : Nat) (f : FaultInfo) (ring : Option (Nat × Nat)) :
    let v := sticky (s.ctx c).sticky f.code f.pc ((f.launch.map fun l => (s.launch l).seq).getD 0)
    ∀ k ≠ 31, ((s.record c f action ring).ctx c).sticky.getLsbD k = v.getLsbD k := by
  intro v k hk
  obtain h | h := record_sticky s c action f ring
  · rw [h]
  · rw [h, BitVec.getLsbD_or, BitVec.getLsbD_ofNat, Nat.testBit_two_pow_of_ne (Ne.symm hk), Bool.and_false, Bool.or_false]

theorem extract_congr {a b : BitVec 128} (lo w : Nat) (h : ∀ k, lo ≤ k → a.getLsbD k = b.getLsbD k) : a.extractLsb' lo w = b.extractLsb' lo w := by
  refine BitVec.eq_of_getLsbD_eq fun i hi => ?_
  rw [BitVec.getLsbD_extractLsb', BitVec.getLsbD_extractLsb', h _ (Nat.le_add_right ..)]

/-- The register after a record, whether or not the record was lost (R73). -/
theorem record_marks (s : State) (c action : Nat) (f : FaultInfo) (ring : Option (Nat × Nat)) (hcode : f.code < 32) :
    let old := (s.ctx c).sticky
    let new := ((s.record c f action ring).ctx c).sticky
    let fld (b : BitVec 128) (lo w : Nat) : Nat := (b.extractLsb' lo w).toNat
    fld new 80 16 = min (fld old 80 16 + 1) 0xFFFF ∧
      fld new 96 32 = (if fld old 80 16 = 0 then ((f.launch.map fun l => (s.launch l).seq).getD 0) % 2 ^ 32 else fld old 96 32) ∧
      fld new 64 8 = (if fld old 80 16 = 0 then f.code else fld old 64 8) ∧
      fld new 32 32 = (if fld old 80 16 = 0 then (wrapInt 32 f.pc).toNat else fld old 32 32) ∧
      ∀ k < 31, new.getLsbD k = (old.getLsbD k || decide (f.code = k)) := by
  intro old new fld
  have hlost := record_lost s c action f ring
  have hpart (lo w : Nat) (hlo : 32 ≤ lo) : fld new lo w = fld (sticky old f.code f.pc ((f.launch.map fun l => (s.launch l).seq).getD 0)) lo w :=
    congrArg BitVec.toNat (extract_congr lo w fun k hk => hlost k (by omega))
  obtain ⟨hcount, hseq, hfirst, hpc, hflags⟩ := sticky_fields old f.code ((f.launch.map fun l => (s.launch l).seq).getD 0) f.pc hcode
  rw [hpart 80 16 (by decide), hpart 96 32 (by decide), hpart 64 8 (by decide), hpart 32 32 (by decide)]
  exact ⟨hcount, hseq, hfirst, hpc, fun k hk => (hlost k (by omega)).trans (hflags k (by omega))⟩

/-- The bit of a fault's code is set, bit 31 too. -/
theorem record_flag (s : State) (c action : Nat) (f : FaultInfo) (ring : Option (Nat × Nat)) (hcode : f.code < 32) :
    ((s.record c f action ring).ctx c).sticky.getLsbD f.code = true := by
  obtain ⟨-, -, -, -, hflags⟩ := sticky_fields (s.ctx c).sticky f.code ((f.launch.map fun l => (s.launch l).seq).getD 0) f.pc hcode
  have hflag := hflags f.code hcode
  rw [decide_eq_true rfl, Bool.or_true] at hflag
  obtain h | h := record_sticky s c action f ring
  · rw [h, hflag]
  · rw [h, BitVec.getLsbD_or, hflag, Bool.true_or]

/-- The fields and the place of a record in a ring with room (R71, R72). -/
theorem record_stands {u : State} {bs : List Byte} {ring lg : Nat} (hc : c < 64) (ha : action < 4) (hcode : f.code < 256) (hkind : f.kind < 256)
    (hcore : f.core < 512) (hfurrow : f.furrow < 32) (hrep : (s.recordLaunch f).replays < 256) (hqueue : (s.recordLaunch f).queue < 65536)
    (htime : f.time = none) (hruns : ∀ d, s.runs d = true) (howed : s.owed = []) (e : s.virtRd (s.ctx c) ring 64 = some (u, bs))
    (hroom : ofBytes bs % 2 ^ 64 ≠ ofBytes bs / 2 ^ 64 % 2 ^ 64 + 2 ^ lg) :
    let n := ofBytes bs
    let produced := n % 2 ^ 64
    let consumed := n / 2 ^ 64 % 2 ^ 64
    let la := s.recordLaunch f
    let x := s.ctx c
    let t := s.record c f action (some (ring, lg))
    ∃ r : BitVec 512, let fld (lo w : Nat) : Nat := (r.extractLsb' lo w).toNat
      fld 448 64 = s.refTimer % 2 ^ 64 ∧ fld 384 64 = f.d1 % 2 ^ 64 ∧ fld 320 64 = f.d0 % 2 ^ 64 ∧ fld 256 64 = la.seq % 2 ^ 64 ∧ fld 224 32 = f.usertag % 2 ^ 32 ∧
      fld 192 32 = f.lanes % 2 ^ 32 ∧ r.extractLsb' 160 32 = BitVec.ofInt 32 f.pc ∧ fld 128 32 = s.recordLin f % 2 ^ 32 ∧
      fld 96 32 = produced % 2 ^ 32 ∧ fld 87 9 = f.core ∧ fld 82 5 = f.furrow ∧ fld 64 18 = 0 ∧ fld 56 8 = f.code ∧ fld 54 2 = action ∧ fld 48 6 = c ∧ fld 40 8 = f.kind ∧
      fld 32 8 = la.replays ∧ fld 16 16 = la.queue ∧ fld 1 15 = 0 ∧ fld 0 1 = produced / 2 ^ lg % 2 ∧
      ∀ v w, u.virtWr x (ring + 64 + 64 * (produced % 2 ^ lg)) (bytesOf 64 r.toNat) = some v → v.virtWr x ring (bytesOf 8 (produced + 1)) = some w →
        t.mem = w.mem ∧ (x.sticky.getLsbD 31 = false → f.code ≠ 31 → (t.ctx c).sticky.getLsbD 31 = false) ∧
        t.vectors = w.vectors ++ if produced = consumed ∧ n / 2 ^ 192 % 2 ^ 16 < (if x.fn = 0 then 2048 else 32) then [(x.fn, n / 2 ^ 192 % 2 ^ 16)] else [] := by
  intro n produced consumed la x t
  obtain ⟨hr, htick, hd1, hd0, hseq, htag, hlanes, hpc, hlin, hprod, hfields⟩ :=
    recordWord_fields (lin := s.recordLin f) (lg := lg) (produced := produced) s hc ha hcode hkind hcore hfurrow hrep hqueue
  obtain ⟨hc, hfu, hz, hco, hac, hcx, hk, hre, hq, hz', hlap⟩ := hfields
  rw [htime] at htick
  refine ⟨recordWord s f la c action produced lg (s.recordLin f), htick, hd1, hd0, hseq, htag, hlanes, BitVec.eq_of_toNat_eq hpc, hlin, hprod, hc, hfu, hz, hco,
    hac, hcx, hk, hre, hq, hz', hlap, fun v w hv hw => ?_⟩
  obtain ⟨hmem, hsticky, hvec⟩ := record_room hruns howed e hroom hr hv hw
  exact ⟨hmem, fun hlost hcode => by rw [hsticky]; exact sticky_lost _ _ _ _ hlost hcode, hvec⟩

/-- What a fault does to its launch, group and context, by its action (R69, R106, R116). -/
theorem fault_acts (s : State) (l : Nat) (f : FaultInfo) (hf : f.launch = some l) (hl : l < s.launches.length) :
    let la := s.launch l
    let act := actionOf la f.code
    let t := s.takeFault la.ctx f
    let R := s.faultRecord f l
    (act = 1 → ∀ g, f.group = some g → g < s.groups.length → (s.group g).state ≠ .retired → (s.group g).state ≠ .stopped →
      (t.group g).halted ∧ (∀ h, h ≠ g → t.group h = { s.group h with threads := (t.group h).threads } ∧
        ∀ k, t.thread ⟨h, k⟩ = { s.thread ⟨h, k⟩ with outs := (t.thread ⟨h, k⟩).outs, obsEng := (t.thread ⟨h, k⟩).obsEng }) ∧
      (t.ctx la.ctx).sticky = (R.ctx la.ctx).sticky) ∧
    (act = 2 → la.late = false → (t.launch l).state = .draining ∧ (t.launch l).ended = true ∧ s.allStopped t l ∧ (t.ctx la.ctx).sticky = (R.ctx la.ctx).sticky) ∧
    (act = 3 → la.late = false → (t.launch l).state = .rollingBack ∧ s.allStopped t l ∧ (f.code ≠ 0x11 → (t.ctx la.ctx).sticky = (R.ctx la.ctx).sticky) ∧
      (f.code = 0x11 → (t.launch l).heldFault.isSome = true ∧ (t.launch l).rereadSector = f.sector)) := by
  intro la act t R
  have hR := hubOnly_faultRecord s f l
  have hRl : l < R.launches.length := hR.launches.symm ▸ hl
  have hlate (h : la.late = false) : (R.launch l).late = false := (hR.launch l).symm ▸ h
  refine ⟨fun hact g hg hlen hretired hstopped => ?_, fun hact h => ?_, fun hact h => ?_⟩
  · have ht : t = R.stopGroup g := takeFault_stop hf hact hg
    have hgroup (k : Nat) : R.group k = s.group k := hR.group k
    have hthread (r : TRef) : R.thread r = s.thread r := by rw [State.thread, hgroup, State.thread]
    rw [ht]
    refine ⟨stopGroup_halted R (hR.groups.symm ▸ hlen) (hgroup g ▸ hretired) (hgroup g ▸ hstopped), fun h hne => ?_, stopGroup_sticky R _ g⟩
    have hothers := stopGroup_others R hne
    simp only [hgroup, hthread] at hothers
    exact hothers
  · have ht : t = R.endLaunch l := takeFault_end hf hact h
    obtain ⟨hgroups, hlaunch, hsticky⟩ := endLaunch_stops (c := la.ctx) R hRl (hlate h)
    rw [ht, hlaunch]
    exact ⟨rfl, rfl, allStopped_of_hub hR hgroups, hsticky⟩
  · by_cases hcode : f.code = 0x11
    · have ht := takeFault_reread hf hact hcode h
      obtain ⟨hgroups, hlaunch, -⟩ := rollback_stops (c := la.ctx) (s.modLaunch l fun la => { la with heldFault := some { f.named 3 with time := some s.refTimer } })
        (by simpa using hl) f.sector
      rw [launch_modLaunch_same _ _ hl] at hlaunch
      rw [show t = _ from ht, hlaunch]
      refine ⟨rfl, fun g hg => hgroups g ?_, fun hne => (hne hcode).elim, fun _ => ⟨rfl, rfl⟩⟩
      rw [State.groupsOf, launch_modLaunch_same _ _ hl]
      exact hg
    · have ht : t = R.rollback l f.sector := takeFault_replay hf hact hcode h
      obtain ⟨hgroups, hlaunch, hsticky⟩ := rollback_stops (c := la.ctx) R hRl f.sector
      rw [ht, hlaunch]
      exact ⟨rfl, allStopped_of_hub hR hgroups, fun _ => hsticky, fun h => (hcode h).elim⟩

end Sys2Proof.Machine

open Sys2Proof Sys2Proof.Machine

/-- Settles O55: the record, the register and the action are each followed through the module's operations, which keep what the others do. -/
theorem faultsTaken : Obligations.FaultsTaken := by
  refine ⟨?_, ?_, ?_⟩
  · intro s c action ring lg f u bs x la n produced consumed t hc ha hcode hkind hcore hfurrow hrep hqueue htime
    refine ⟨fun h => record_owed h, fun howed hruns e => ⟨record_full hruns howed e, fun hroom => ?_⟩⟩
    exact record_stands hc ha hcode hkind hcore hfurrow hrep hqueue htime hruns howed e hroom
  · intro s c action f ring hcode x seq t fld new
    obtain ⟨hcount, hseq, hfirst, hpc, hflags⟩ := record_marks s c action f ring hcode
    have hR : HubOnly s t := hubOnly_record (.refl s)
    refine ⟨record_flag s c action f ring hcode, hcount, fun k hk hne => ?_, fun h0 => ?_, fun h0 => ?_, hR.groups, hR.launches⟩
    · rw [show new.getLsbD k = _ from hflags k hk, decide_eq_false (Ne.symm hne), Bool.or_false]
    · exact ⟨hseq.trans (if_pos h0), hfirst.trans (if_pos h0), BitVec.eq_of_toNat_eq (hpc.trans (if_pos h0))⟩
    · exact ⟨hseq.trans (if_neg h0), hfirst.trans (if_neg h0), hpc.trans (if_neg h0)⟩
  · intro s l f la act t R late hf hl h1 h2
    have hact : act = actionOf la f.code := actionOf_eq la h1 h2
    have hR : R = s.faultRecord f l := by rw [State.faultRecord, ← hact]; rfl
    have hlate : la.late = true ↔ late := late_iff la
    have hsoon (h : ¬late) : la.late = false := Bool.eq_false_iff.mpr fun h' => h (hlate.mp h')
    obtain ⟨hstop, hend, hreplay⟩ := fault_acts s l f hf hl
    rw [hR, hact]
    refine ⟨fun h => takeFault_report hf h, fun h g hg hlen hret hst => ?_, fun h hl => takeFault_late hf h.ge (hlate.mpr hl), fun h hl => hend h (hsoon hl), ?_, ?_⟩
    · obtain ⟨⟨hstate, hthreads⟩, hrest⟩ := hstop h g hg hlen hret hst
      exact ⟨hstate, hthreads, hrest⟩
    · intro h hor
      refine ⟨fun hl => takeFault_late hf (h ▸ by decide) (hlate.mpr hl), fun hl => ?_⟩
      obtain ⟨hstate, hgroups, hsticky, -⟩ := hreplay h (hsoon hl)
      exact ⟨hstate, hgroups, hsticky (hor.resolve_right hl)⟩
    · intro h hcode hl
      obtain ⟨hstate, hgroups, -, hheld⟩ := hreplay h (hsoon hl)
      exact ⟨hstate, hgroups, hheld hcode⟩
end

section
/-! System and power instructions (R77, R80 to R83, R355 to R358). Each lane of a read finds the fields of its group, its launch and its units as they
stood when the sheaf issued (`SameShape`), so that its value is that of the state before. -/

namespace Sys2Proof.Machine

variable {s t u : State} {r : TRef} {sw : Bool} {d a b : BitVec 7}

/-! ## What the lanes of a sheaf find -/

theorem SameShape.stack (h : SameShape s u) (k : Nat) : u.stack k = s.stack k := by rw [State.stack, h.1, State.stack]
theorem SameShape.core (h : SameShape s u) (c : Nat) : u.core c = s.core c := by rw [State.core, h.1, State.core]
theorem SameShape.cluster (h : SameShape s u) (c : Nat) : u.cluster c = s.cluster c := by rw [State.cluster, h.1, State.cluster]
theorem SameShape.die (h : SameShape s u) (d : Nat) : u.die d = s.die d := by rw [State.die, h.1, State.die]
theorem SameShape.launch (h : SameShape s u) (l : Nat) : u.launch l = s.launch l := by rw [State.launch, h.1, State.launch]
theorem SameShape.refTimer (h : SameShape s u) : u.refTimer = s.refTimer := by rw [h.1]

theorem sysValue_of_sameShape (h : SameShape s u) (ht : u.thread r = s.thread r) (sel : Nat) : u.sysValue r sel = s.sysValue r sel := by
  have hgroup := h.2.2 r.g
  generalize (u.group r.g).threads = ths at hgroup
  simp only [State.sysValue, hgroup, h.launch, h.core, h.cluster, ht]

theorem yokeWord_of_sameShape (h : SameShape s u) (k : Nat) : u.yokeWord k = s.yokeWord k := by
  simp only [State.yokeWord, h.stack, h.core]

theorem permitWord_of_sameShape (h : SameShape s u) (d : Nat) : u.permitWord d = s.permitWord d := by
  simp only [State.permitWord, h.cluster, h.die]

/-! ## Values that become outstanding -/

/-- A sheaf each of whose lanes has a value outstanding. -/
theorem runSheaf_issueVal {f : Form} {body : State → TRef → LaneRes} {n : Nat} {val : TRef → Nat} (h : s.sheafOk f = true)
    (hbody : ∀ u r, SameShape s u → u.thread r = s.thread r → body u r = .done (u.issueVal r d n (val r))) :
    ∃ t, runSheaf f body s = .next t ∧ SheafDoes s t fun r th th' => AwaitsNext f.sw d n (fun _ ws => ws = wordsOf n (val r)) r th th' := by
  refine runSheaf_does h fun u r hu ht hok => ?_
  obtain ⟨m, th, hrun, hth⟩ := runLane_issueOut hu ht hok (hbody u r hu ht)
  exact ⟨m, th, hrun, _, _, rfl, hth⟩

theorem SheafDoes.imp {eff eff' : TRef → Thread → Thread → Prop} (h : SheafDoes s t eff) (himp : ∀ r th th', eff r th th' → eff' r th th') :
    SheafDoes s t eff' :=
  ⟨h.1, fun r hr => himp r _ _ (h.2 r hr)⟩

/-- One word read by every lane. -/
theorem runSheaf_tells {f : Form} {body : State → TRef → LaneRes} {val : TRef → Nat} {v : TRef → Word → Prop} (h : s.sheafOk f = true)
    (hbody : ∀ u r, SameShape s u → u.thread r = s.thread r → body u r = .done (u.issueVal r d 1 (val r))) (hv : ∀ r, v r (.ofNat 32 (val r))) :
    ∃ t, runSheaf f body s = .next t ∧ SheafDoes s t fun r th th' => AwaitsNext f.sw d 1 (fun _ ws => ∃ w, v r w ∧ ws = [w]) r th th' := by
  obtain ⟨t, ht, hdoes⟩ := runSheaf_issueVal h hbody
  refine ⟨t, ht, hdoes.imp fun r th th' => ?_⟩
  rintro ⟨ws, id, rfl, hth⟩
  exact ⟨_, id, ⟨_, hv r, rfl⟩, hth⟩

theorem selectors_map (s : State) (r : TRef) :
    [0x00, 0x01, 0x02, 0x03, 0x04, 0x05, 0x06, 0x07, 0x08, 0x09, 0x0A, 0x0B, 0x0C, 0x0D, 0x0E, 0x0F, 0x10, 0x11, 0x12, 0x13, 0x14, 0x15, (0x16 : BitVec 7)].map
      (fun sel => (sel, s.sysValue r sel.toNat)) = selectors s r := by
  simp [selectors, State.sysValue, clusterOf, dieOfCore, stackOf, Nat.mul_comm]

theorem sysrd_tells (h : s.sheafOk { sw := sw, writes := [{ v := d }], var := true } = true) {sel : BitVec 7}
    (hsel : sel ∈ [0x00, 0x01, 0x02, 0x03, 0x04, 0x05, 0x06, 0x07, 0x08, 0x09, 0x0A, 0x0B, 0x0C, 0x0D, 0x0E, 0x0F, 0x10, 0x11, 0x12, 0x13, 0x14, 0x15,
      (0x16 : BitVec 7)]) :
    ∃ t, exec (.sysrd sw d sel) s = .next t ∧
      SheafDoes s t fun r th th' => AwaitsNext sw d 1 (fun _ ws => ∃ w, (∃ v, (sel, v) ∈ selectors s r ∧ w = .ofNat 32 v) ∧ ws = [w]) r th th' :=
  runSheaf_tells (v := fun r w => ∃ v, (sel, v) ∈ selectors s r ∧ w = .ofNat 32 v) h
    (fun u r hu ht => by rw [sysValue_of_sameShape hu ht]) fun r => ⟨_, selectors_map s r ▸ List.mem_map_of_mem hsel, rfl⟩

/-- The mismatch is at most 32767 in magnitude, so that its low 16 bits are those of the word. -/
theorem yokeWord_eq (s : State) (k : Nat) : .ofNat 32 (s.yokeWord k) = yokeRead s k := by
  have hwrap (i : Int) : (wrapInt 16 i).toNat = (i % 2 ^ 16).toNat := by rw [wrapInt, BitVec.toNat_ofInt]; rfl
  simp only [State.yokeWord, yokeRead, hwrap]
  rfl

theorem item_eq (m : Monitor) (a : BitVec 7) :
    m.item a.toNat = if a = 0 then m.min else if a = 1 then m.max else if a = 2 then m.count else m.hist.getD (a.toNat - 16) 0 := by
  simp only [Monitor.item, BitVec.toNat_eq]
  rfl

/-- A sheaf each of whose lanes has a result outstanding. -/
theorem runSheaf_issueOut {f : Form} {body : State → TRef → LaneRes} {val : ResVal} (h : s.sheafOk f = true)
    (hbody : ∀ u r, body u r = .done (u.issueOut r { v := d } val)) :
    ∃ t, runSheaf f body s = .next t ∧ SheafDoes s t fun _ th th' => ∃ id, th' = (th.await { v := d } id val none).issued f.sw (th.pc + 4) := by
  refine runSheaf_does h fun u r hu ht hok => ?_
  obtain ⟨m, th, hrun, hth⟩ := runLane_issueOut hu ht hok (hbody u r)
  exact ⟨m, th, hrun, _, hth⟩

theorem system_reads (h : s.sheafOk { sw := sw, writes := [{ v := d }], var := true } = true) :
    let tells (i : Instr) (v : TRef → Word → Prop) : Prop := ∃ t, exec i s = .next t ∧
      SheafDoes s t fun r th th' => AwaitsNext sw d 1 (fun _ ws => ∃ w, v r w ∧ ws = [w]) r th th'
    tells (.ykrd sw d) (fun r w => w = yokeRead s ((s.group r.g).core / 2)) ∧
      tells (.permits sw d) (fun r w => w = .ofNat 32 (s.permitWord ((s.group r.g).core / 96))) ∧
      (∀ n : BitVec 3, tells (.monrd sw d a n) fun r w =>
        let m := (s.cluster ((s.group r.g).core / 6)).monitors.getD n.toNat {}
        w = if m.ctx = some (s.ctxOf r.g) then .ofNat 32 (if a = 0 then m.min else if a = 1 then m.max else if a = 2 then m.count else m.hist.getD (a.toNat - 16) 0) else 0) ∧
      ∃ t, exec (.errrd sw d b) s = .next t ∧
        SheafDoes s t fun _ th th' => ∃ id, th' = (th.await { v := d } id (.sticky b.toNat) none).issued sw (th.pc + 4) := by
  intro tells
  refine ⟨?_, ?_, fun n => ?_, ?_⟩
  · exact runSheaf_tells (val := fun r => s.yokeWord ((s.group r.g).core / 2)) (v := fun r w => w = yokeRead s ((s.group r.g).core / 2)) h
      (fun u r hu _ => by rw [yokeWord_of_sameShape hu, hu.coreIdx, stackOf]) fun r => yokeWord_eq ..
  · exact runSheaf_tells (val := fun r => s.permitWord ((s.group r.g).core / 96)) (v := fun r w => w = .ofNat 32 (s.permitWord ((s.group r.g).core / 96))) h
      (fun u r hu _ => by rw [permitWord_of_sameShape hu, hu.coreIdx, dieOfCore]) fun r => rfl
  · refine runSheaf_tells (val := fun r => let m := (s.cluster ((s.group r.g).core / 6)).monitors.getD n.toNat {}
      if m.ctx = some (s.ctxOf r.g) then m.item a.toNat else 0) h (fun u r hu _ => by rw [hu.cluster, hu.coreIdx, hu.ctxOf, clusterOf]) fun r => ?_
    dsimp only
    rw [← item_eq]
    split <;> rfl
  · exact runSheaf_issueOut h fun _ _ => rfl

theorem refrd_reads (h : s.sheafOk { sw := sw, writes := [{ v := d, n := 2 }], var := true } = true) :
    ∃ t, exec (.refrd sw d) s = .next t ∧ SheafDoes s t (AwaitsNext sw d 2 fun _ ws => ws = wordsOfNat s.refTimer) :=
  runSheaf_issueVal (val := fun _ => s.refTimer) h fun u r hu _ => by rw [hu.refTimer]

/-- A clock counter written at once. -/
theorem runSheaf_writes {f : Form} {body : State → TRef → LaneRes} {val : TRef → Nat} (h : s.sheafOk f = true)
    (hbody : ∀ u r, SameShape s u → body u r = .done (u.setRegs r d (wordsOf 2 (val r)))) :
    ∃ t, runSheaf f body s = .next t ∧ SheafDoes s t fun r th th' => WritesNext f.sw d (fun _ ws => ws = wordsOfNat (val r)) r th th' := by
  refine runSheaf_does h fun u r hu ht hok => ?_
  obtain ⟨m, th, hrun, hth⟩ := runLane_setRegs hu ht hok (hbody u r hu)
  exact ⟨m, th, hrun, _, rfl, hth⟩

theorem clock_reads (h : s.sheafOk { sw := sw, writes := [{ v := d, n := 2 }] } = true) :
    (∃ t, exec (.clkrd sw d) s = .next t ∧
      SheafDoes s t fun r th th' => WritesNext sw d (fun _ ws => ws = wordsOfNat (s.die ((s.group r.g).core / 96)).raw) r th th') ∧
    ∃ t, exec (.clkrdNom sw d) s = .next t ∧
      SheafDoes s t fun r th th' => WritesNext sw d (fun _ ws => ws = wordsOfNat ((s.die ((s.group r.g).core / 96)).nominal / 2 ^ 16)) r th th' :=
  ⟨runSheaf_writes (val := fun r => (s.die ((s.group r.g).core / 96)).raw) h fun u r hu => by rw [hu.die, hu.coreIdx, dieOfCore],
    runSheaf_writes (val := fun r => (s.die ((s.group r.g).core / 96)).nominal / 2 ^ 16) h fun u r hu => by rw [hu.die, hu.coreIdx, dieOfCore]; rfl⟩

/-! ## SYSWR (R77) -/

/-- A lane that changes its thread and goes on. -/
theorem runLane_modThread {f : Form} {body : State → TRef → LaneRes} {g : Thread → Thread}
    (hs : SameShape s u) (ht : u.thread r = s.thread r) (hok : s.laneOk f r = true) (hb : body u r = .done (u.modThread r g)) :
    ∃ n th, runLane f body u r = ({ u with fresh := n }.modThread r fun _ => th, none) ∧ th = (g (s.thread r)).issued f.sw ((s.thread r).pc + 4) := by
  refine ⟨u.fresh + 1, _, ?_, rfl⟩
  rw [runLane_ok hs ht hok, hb, ← ht]
  simp only [Prod.mk.injEq, and_true]
  have hboth := modThread_modThread u r g fun th => th.issued f.sw ((u.thread r).pc + 4)
  have hconst := modThread_const u r fun th => (g th).issued f.sw ((u.thread r).pc + 4)
  exact congrArg (fun x : State => { x with fresh := u.fresh + 1 }) (hboth.trans hconst.symm)

/-- A sheaf each of whose lanes changes its thread and goes on. -/
theorem runSheaf_modThread {f : Form} {body : State → TRef → LaneRes} {g : State → TRef → Thread → Thread} {eff : TRef → Thread → Thread → Prop}
    (h : s.sheafOk f = true) (hbody : ∀ u r, body u r = .done (u.modThread r (g u r)))
    (heff : ∀ u r, u.thread r = s.thread r → eff r (s.thread r) ((g u r (s.thread r)).issued f.sw ((s.thread r).pc + 4))) :
    ∃ t, runSheaf f body s = .next t ∧ SheafDoes s t eff := by
  refine runSheaf_does h fun u r hu ht hok => ?_
  obtain ⟨n, th, hrun, rfl⟩ := runLane_modThread hu ht hok (hbody u r)
  exact ⟨n, _, hrun, heff u r ht⟩

theorem syswr_writes (h : s.sheafOk { sw := sw, reads := [{ v := a }] } = true) :
    (∃ t, exec (.syswr sw a 0x10) s = .next t ∧ SheafDoes s t fun _ th th' => ∃ w, th.reads a 0 w ∧
      th' = ({ th with sp := w &&& 0xFFFFFFF0 } : Thread).issued sw (th.pc + 4)) ∧
    ∃ t, exec (.syswr sw a 0x11) s = .next t ∧ SheafDoes s t fun _ th th' => ∃ w, th.reads a 0 w ∧
      th' = ({ th with usertag := w } : Thread).issued sw (th.pc + 4) := by
  have hreads (u : State) (r : TRef) (ht : u.thread r = s.thread r) : (s.thread r).reads a 0 (u.reg r a) := ht ▸ reg_reads u r a 0
  exact ⟨runSheaf_modThread (g := fun u r th => { th with sp := u.reg r a &&& 0xFFFFFFF0 }) h (fun _ _ => rfl) fun u r ht => ⟨_, hreads u r ht, rfl⟩,
    runSheaf_modThread (g := fun u r th => { th with usertag := u.reg r a }) h (fun _ _ => rfl) fun u r ht => ⟨_, hreads u r ht, rfl⟩⟩

end Sys2Proof.Machine
end

section
/-! Classes, burn levels and waits for a mate (R355 to R357). -/

namespace Sys2Proof.Machine

variable {s t u : State} {r : TRef} {sw : Bool} {d a b : BitVec 7}

theorem hasThread_of_oneOk {f : Form} (h : s.oneOk f r = true) : s.hasThread r := by
  simp only [State.oneOk, State.sheafOk, State.laneOk, Bool.and_eq_true, decide_eq_true_eq, List.all_eq_true] at h
  obtain ⟨hs, -, hl⟩ := h
  obtain ⟨⟨⟨⟨hcan, -⟩, -⟩, -⟩, -⟩ := hl r (by simp [hs])
  exact hasThread_of_canIssue s hcan

/-! ## A group's class or burn level -/

/-- What a lane that sets a field of its group does: its group becomes g', its cluster's claim is as given, and it goes on. -/
def SetsGroup (s : State) (sw : Bool) (r : TRef) (g' : Group) (claim : Option Nat) (t : State) : Prop :=
  t.thread r = (s.thread r).issued sw ((s.thread r).pc + 4) ∧
    t = { s with groups := t.groups, clusters := t.clusters, fresh := t.fresh, sheafId := t.sheafId } ∧ t.groups.length = s.groups.length ∧
    (∀ q, q ≠ r → t.thread q = s.thread q) ∧ (∀ x, t.group x = { (if x = r.g then g' else s.group x) with threads := (t.group x).threads }) ∧
    ∀ x, t.cluster x = if x = (s.group r.g).core / 6 then { s.cluster x with claimAt := claim } else s.cluster x

/-- A state whose group g and clusters have been set. -/
def State.withGroup (s : State) (g : Nat) (f : Group → Group) (cs : List (Nat × Cluster)) : State := { s.inSheaf.modGroup g f with clusters := cs }

theorem withGroup_group (s : State) {g : Nat} (hg : g < s.groups.length) (f : Group → Group) (cs : List (Nat × Cluster)) (x : Nat) :
    (s.withGroup g f cs).group x = if x = g then f (s.group g) else s.group x := by
  by_cases hx : x = g
  · subst hx
    rw [if_pos rfl]
    exact group_modGroup_same s.inSheaf f hg
  · rw [if_neg hx]
    exact group_modGroup_ne s.inSheaf f hx

theorem withGroup_sets (hr : s.hasThread r) {f : Group → Group} (hf : ∀ x, (f x).threads = x.threads) {cs : List (Nat × Cluster)} {claim : Option Nat}
    (hcs : ∀ x, tget {} cs x = if x = (s.group r.g).core / 6 then { s.cluster x with claimAt := claim } else s.cluster x) :
    SetsGroup s sw r (f (s.group r.g)) claim ((s.withGroup r.g f cs).tick.modThread r (·.issued sw ((s.thread r).pc + 4))) := by
  obtain ⟨hg, ht⟩ := hr
  have hgroup := withGroup_group s hg f cs
  have hthreads (x : Nat) : ((s.withGroup r.g f cs).group x).threads = (s.group x).threads := by
    rw [hgroup]
    split
    · next hx => rw [hf, hx]
    · rfl
  have hthread (q : TRef) : (s.withGroup r.g f cs).thread q = s.thread q := by rw [State.thread, hthreads, State.thread]
  have hlen : (s.withGroup r.g f cs).groups.length = s.groups.length := List.length_modify ..
  have hhas : (s.withGroup r.g f cs).tick.hasThread r := ⟨hlen.symm ▸ hg, (congrArg List.length (hthreads r.g)).symm ▸ ht⟩
  refine ⟨?_, rfl, ?_, fun q hq => ?_, fun x => ?_, hcs⟩
  · rw [thread_modThread_same _ _ hhas]
    exact congrArg (fun th : Thread => th.issued sw ((s.thread r).pc + 4)) (hthread r)
  · exact (List.length_modify ..).trans hlen
  · exact (thread_modThread_ne _ _ hq).trans (hthread q)
  · have hx : (s.withGroup r.g f cs).tick.group x = if x = r.g then f (s.group r.g) else s.group x := hgroup x
    rw [group_modThread, hx]

theorem withGroup_cluster (s : State) (g : Nat) (f : Group → Group) (k : Nat) : (s.withGroup g f s.clusters).cluster k = s.cluster k := rfl

theorem withGroup_setCluster (s : State) (g : Nat) (f : Group → Group) (k : Nat) (x : Cluster) :
    (s.withGroup g f s.clusters).setCluster k x = s.withGroup g f (tset s.clusters k x) := rfl

/-- Another Resident group of class 2 in the cluster of group g. -/
def State.otherBoost (s : State) (g : Nat) : Bool :=
  (List.range s.groups.length).any fun h => h ≠ g && (s.group h).state = .resident && (s.group h).core / 6 = (s.group g).core / 6 && (s.group h).cls = 2

/-- A cluster with a claim on permits since a moment, or none. -/
def Cluster.claiming (c : Cluster) (claim : Option Nat) : Cluster := { c with claimAt := claim }

theorem noteClass_eq (s : State) (g : Nat) (was : Bool) :
    s.noteClass g was = if s.otherBoost g = true ∨ ((s.group g).cls = 2 ∧ was = true) then s
      else s.setCluster ((s.group g).core / 6) ((s.cluster ((s.group g).core / 6)).claiming (if (s.group g).cls = 2 then some s.refTimer else none)) := by
  have hother : ((List.range s.groups.length).any fun h => h ≠ g && (s.group h).state = .resident && clusterOf (s.group h).core = clusterOf (s.group g).core &&
      (s.group h).cls = 2) = s.otherBoost g := rfl
  unfold State.noteClass
  dsimp only
  rw [hother]
  by_cases hcls : (s.group g).cls = 2
  · cases was <;> cases ho : s.otherBoost g <;> simp [hcls, clusterOf, Cluster.claiming]
  · cases ho : s.otherBoost g <;> simp [hcls, clusterOf, Cluster.claiming]

theorem otherBoost_withGroup (s : State) {g : Nat} (hg : g < s.groups.length) {f : Group → Group} (hcore : ∀ x, (f x).core = x.core) (cs : List (Nat × Cluster)) :
    (s.withGroup g f cs).otherBoost g = s.otherBoost g := by
  have hgroup := withGroup_group s hg f cs
  have hlen : (s.withGroup g f cs).groups.length = s.groups.length := List.length_modify ..
  have hself : ((s.withGroup g f cs).group g).core = (s.group g).core := by rw [hgroup, if_pos rfl, hcore]
  unfold State.otherBoost
  rw [hlen, hself]
  congr 1
  funext h
  by_cases hh : h = g
  · subst hh; simp
  · rw [hgroup, if_neg hh]

theorem claim_same (s : State) (cl x : Nat) : s.cluster x = if x = cl then { s.cluster x with claimAt := (s.cluster cl).claimAt } else s.cluster x := by
  split
  · next h => subst h; rfl
  · rfl

/-- A group of a class, since a moment. -/
def Group.classed (c now : Nat) (gr : Group) : Group := { gr with cls := c, clsAt := now }

theorem pcls_sets (h : s.oneOk { sw := sw } r = true) (c : BitVec 2) :
    ∃ t, exec (.pcls sw c) s = .next t ∧ SetsGroup s sw r ((s.group r.g).classed c.toNat s.refTimer)
      (if s.otherBoost r.g = true ∨ (c = 2 ∧ (s.group r.g).cls = 2) then (s.cluster ((s.group r.g).core / 6)).claimAt else if c = 2 then some s.refTimer else none) t := by
  have hr := hasThread_of_oneOk h
  have hset := withGroup_group s hr.1 (Group.classed c.toNat s.refTimer) s.clusters
  have hc : c.toNat = 2 ↔ c = 2 := by rw [BitVec.toNat_eq]; rfl
  have hnote := noteClass_eq (s.withGroup r.g (Group.classed c.toNat s.refTimer) s.clusters) r.g (decide ((s.group r.g).cls = 2))
  rw [otherBoost_withGroup s hr.1 (f := Group.classed c.toNat s.refTimer) (fun _ => rfl), hset, if_pos rfl,
    show (Group.classed c.toNat s.refTimer (s.group r.g)).cls = c.toNat from rfl] at hnote
  simp only [hc, decide_eq_true_eq] at hnote
  refine ⟨_, (runSheaf_one h).trans rfl, ?_⟩
  have hbody : (s.inSheaf.modGroup r.g fun gr => { gr with cls := c.toNat, clsAt := s.inSheaf.refTimer }).noteClass r.g (decide ((s.inSheaf.group r.g).cls = 2)) =
      (s.withGroup r.g (Group.classed c.toNat s.refTimer) s.clusters).noteClass r.g (decide ((s.group r.g).cls = 2)) := rfl
  rw [withGroup_cluster, withGroup_setCluster] at hnote
  rw [hbody, hnote]
  split
  · exact withGroup_sets (f := Group.classed c.toNat s.refTimer) (cs := s.clusters) hr (fun _ => rfl) fun x => claim_same s _ x
  · refine withGroup_sets (f := Group.classed c.toNat s.refTimer) hr (fun _ => rfl) fun x => ?_
    by_cases hx : x = (s.group r.g).core / 6
    · rw [if_pos hx, hx]
      exact cluster_setCluster s ..
    · rw [if_neg hx]
      exact cluster_setCluster_ne s _ hx

theorem burn_sets (h : s.oneOk { sw := sw } r = true) (l : BitVec 3) :
    ∃ t, exec (.burn sw l) s = .next t ∧ SetsGroup s sw r { s.group r.g with burn := l.toNat } (s.cluster ((s.group r.g).core / 6)).claimAt t := by
  refine ⟨_, (runSheaf_one h).trans rfl, ?_⟩
  exact withGroup_sets (f := fun gr => { gr with burn := l.toNat }) (cs := s.clusters) (hasThread_of_oneOk h) (fun _ => rfl) fun x => claim_same s _ x

/-! ## BALIDLE (R357) -/

/-- A lane that changes its thread alone and goes on. -/
theorem oneThread (h : s.hasThread r) (f : Thread → Thread) : SameBut [r] s (s.inSheaf.tick.modThread r f) ∧
    (s.inSheaf.tick.modThread r f).thread r = f (s.thread r) := by
  have hshape : SameShape s (s.inSheaf.tick.modThread r f) := ((((SameShape.refl s).fresh _).sheafId _).fresh _).modThread r f
  exact ⟨SameBut.of hshape fun q hq => thread_modThread_ne s.inSheaf.tick _ (by simpa using hq), thread_modThread_same s.inSheaf.tick _ h⟩

theorem balidle_waits (h : s.oneOk { sw := sw } r = true) :
    let g := s.group r.g
    let k := s.stack (g.core / 2)
    let more : Prop := if g.core % 2 = 0 then k.upper < k.lower else k.lower < k.upper
    (more → ∃ t, exec (.balidle sw) s = .next t ∧ SameBut [r] s t ∧ (t.thread r).status = .waiting (.balidle s.refTimer) ∧ (t.thread r).pc = (s.thread r).pc + 4 ∧
      (t.thread r).regs = (s.thread r).regs) ∧
    (¬more → ∃ t, exec (.balidle sw) s = .next t ∧ SameBut [r] s t ∧ t.thread r = (s.thread r).issued sw ((s.thread r).pc + 4)) := by
  intro g k more
  have hr := hasThread_of_oneOk h
  have hrun : exec (.balidle sw) s = .next ((if more then s.inSheaf.waitOn r (.balidle s.refTimer) else s.inSheaf).tick.modThread r
      (·.issued sw ((s.thread r).pc + 4))) := by
    refine (runSheaf_one h).trans ?_
    have hless : ((if (s.inSheaf.group r.g).core % 2 = 0 then decide ((s.inSheaf.stack (stackOf (s.inSheaf.group r.g).core)).upper <
        (s.inSheaf.stack (stackOf (s.inSheaf.group r.g).core)).lower) else decide ((s.inSheaf.stack (stackOf (s.inSheaf.group r.g).core)).lower <
        (s.inSheaf.stack (stackOf (s.inSheaf.group r.g).core)).upper)) = true) = more := by
      change ((if g.core % 2 = 0 then decide (k.upper < k.lower) else decide (k.lower < k.upper)) = true) = more
      simp only [more]
      split
      · exact decide_eq_true_eq
      · exact decide_eq_true_eq
    simp only [hless]
    rfl
  rw [hrun]
  refine ⟨fun hm => ?_, fun hm => ?_⟩
  · rw [if_pos hm]
    have hboth : (s.inSheaf.waitOn r (.balidle s.refTimer)).tick.modThread r (·.issued sw ((s.thread r).pc + 4)) = s.inSheaf.tick.modThread r
        ((·.issued sw ((s.thread r).pc + 4)) ∘ fun th => { th with status := .waiting (.balidle s.refTimer), waitAt := s.inSheaf.cycles (clusterOf (s.group r.g).core) }) :=
      modThread_modThread s.inSheaf.tick r _ _
    obtain ⟨hsame, hthread⟩ := oneThread hr
      ((·.issued sw ((s.thread r).pc + 4)) ∘ fun th : Thread => { th with status := .waiting (.balidle s.refTimer), waitAt := s.inSheaf.cycles (clusterOf (s.group r.g).core) })
    rw [← hboth] at hsame hthread
    exact ⟨_, rfl, hsame, by rw [hthread]; rfl, by rw [hthread]; rfl, by rw [hthread]; rfl⟩
  · rw [if_neg hm]
    obtain ⟨hsame, hthread⟩ := oneThread hr (·.issued sw ((s.thread r).pc + 4))
    exact ⟨_, rfl, hsame, hthread⟩

end Sys2Proof.Machine
end

section
/-! MONCFG (R82, R83), and the statement on the system and power instructions. -/

namespace Sys2Proof.Machine

variable {s t u : State} {r q : TRef} {sw : Bool} {d a : BitVec 7} {n : BitVec 3} {m : Monitor} {c w now k i : Nat}

/-! ## What a MONCFG finds -/

/-- A unit that another context has. -/
def Monitor.others (m : Monitor) (c : Nat) : Prop := ∃ o, m.ctx = some o ∧ o ≠ c

/-- A unit that a higher context took in this very cycle. -/
def Monitor.first (m : Monitor) (c now : Nat) : Prop := ∃ o p, m.ctx = some o ∧ c < o ∧ m.setAt = some p ∧ p.1 = now

theorem others_iff : (m.ctx.any fun o => decide (o ≠ c)) = true ↔ m.others c := by
  cases h : m.ctx <;> simp [Monitor.others, h]

theorem first_iff : ((m.ctx.any (fun o => decide (c < o))) && m.setAt.any fun p => decide (p.1 = now)) = true ↔ m.first c now := by
  cases h : m.ctx <;> cases h2 : m.setAt <;> simp [Monitor.first, h, h2]

theorem Monitor.first.others (h : m.first c now) : m.others c := by
  obtain ⟨o, p, ho, hlt, -⟩ := h
  exact ⟨o, ho, Nat.ne_of_gt hlt⟩

theorem source_bits (hw : w < 2 ^ 32) : bits w 31 28 = w / 2 ^ 28 := by
  rw [bits, Nat.shiftRight_eq_div_pow, Nat.mod_eq_of_lt (by omega)]

theorem monBad_iff (hw : w < 2 ^ 32) : monBad w = true ↔ 8 ≤ w / 2 ^ 28 ∨ w / 4 % 2 ^ 20 ≠ 0 := by
  have hmid : bits w 21 2 = w / 4 % 2 ^ 20 := by rw [bits, Nat.shiftRight_eq_div_pow]
  rw [monBad, source_bits hw, hmid, Bool.or_eq_true, decide_eq_true_eq, decide_eq_true_eq]

/-! ## What it does -/

/-- The unit that a thread's MONCFG names. -/
def State.unit (s : State) (r : TRef) (k : Nat) : Monitor := (s.cluster ((s.group r.g).core / 6)).monitors.getD k {}

/-- The cluster of a thread's group with unit k replaced. -/
def State.setUnit (s : State) (r : TRef) (k : Nat) (m : Monitor) : State :=
  let cl := (s.group r.g).core / 6
  s.setCluster cl { s.cluster cl with monitors := (s.cluster cl).monitors.set k m }

theorem moncfg_taken (ho : (s.unit r k).others (s.ctxOf r.g)) (hf : ¬(s.unit r k).first (s.ctxOf r.g) (s.cycles ((s.group r.g).core / 6))) :
    s.moncfg r d k w = (s, 1) := by
  rw [← first_iff, Bool.not_eq_true] at hf
  rw [← others_iff] at ho
  unfold State.moncfg
  exact if_pos (Bool.and_eq_true_iff.mpr ⟨ho, by rw [Bool.not_eq_true']; exact hf⟩)

/-- The unit is free for the thread's context. -/
def State.unitFree (s : State) (r : TRef) (k : Nat) : Prop :=
  ¬(s.unit r k).others (s.ctxOf r.g) ∨ (s.unit r k).first (s.ctxOf r.g) (s.cycles ((s.group r.g).core / 6))

/-- What a MONCFG does to a unit that is free for its context. -/
theorem moncfg_free (h : s.unitFree r k) : s.moncfg r d k w =
    let m := s.unit r k
    let other := m.ctx.any fun o => decide (o ≠ s.ctxOf r.g)
    if monBad w then (s, 2)
    else if bits w 31 28 = 0 then (if other then s else s.setUnit r k {}, 0)
    else ((if other then s.outclaimed m else s).setCluster ((s.group r.g).core / 6) { s.cluster ((s.group r.g).core / 6) with
      monitors := (s.cluster ((s.group r.g).core / 6)).monitors.set k ((if other then {} else m).claimed (s.ctxOf r.g) w (s.cycles ((s.group r.g).core / 6))
        (if d = 0 then [] else [(r, ((if other then s.outclaimed m else s).thread r).base + d.toNat)])) }, 0) := by
  have hgo : ¬((((s.unit r k).ctx.any fun o => decide (o ≠ s.ctxOf r.g)) && !(((s.unit r k).ctx.any (fun o => decide (s.ctxOf r.g < o))) &&
      (s.unit r k).setAt.any fun p => decide (p.1 = s.cycles ((s.group r.g).core / 6)))) = true) := by
    rw [Bool.and_eq_true, Bool.not_eq_true', others_iff]
    rintro ⟨ho, hf⟩
    refine h.elim (fun hn => hn ho) fun hfirst => ?_
    rw [first_iff.mpr hfirst] at hf
    cases hf
  unfold State.moncfg
  exact if_neg hgo

theorem moncfg_bad (h : s.unitFree r k) (hb : monBad w = true) : s.moncfg r d k w = (s, 2) := by
  rw [moncfg_free h]
  exact if_pos hb

theorem moncfg_release (ho : ¬(s.unit r k).others (s.ctxOf r.g)) (hb : monBad w = false) (hw : bits w 31 28 = 0) :
    s.moncfg r d k w = (s.setUnit r k {}, 0) := by
  have hother : ((s.unit r k).ctx.any fun o => decide (o ≠ s.ctxOf r.g)) = false := by rw [← Bool.not_eq_true, others_iff]; exact ho
  rw [moncfg_free (.inl ho)]
  simp only [hb, hw, hother]
  rfl

/-- A unit that another context has just taken is not released. -/
theorem moncfg_release_first (hf : (s.unit r k).first (s.ctxOf r.g) (s.cycles ((s.group r.g).core / 6))) (hb : monBad w = false) (hw : bits w 31 28 = 0) :
    s.moncfg r d k w = (s, 0) := by
  have hother := others_iff.mpr hf.others
  rw [moncfg_free (.inr hf)]
  simp only [hb, hw, hother]
  rfl

theorem moncfg_sets (ho : ¬(s.unit r k).others (s.ctxOf r.g)) (hb : monBad w = false) (hw : bits w 31 28 ≠ 0) :
    ∃ at', s.moncfg r d k w = (s.setUnit r k ((s.unit r k).claimed (s.ctxOf r.g) w (s.cycles ((s.group r.g).core / 6)) at'), 0) := by
  have hother : ((s.unit r k).ctx.any fun o => decide (o ≠ s.ctxOf r.g)) = false := by rw [← Bool.not_eq_true, others_iff]; exact ho
  rw [moncfg_free (.inl ho)]
  simp only [hb, hother, if_neg hw]
  exact ⟨_, rfl⟩

/-- The thread whose status was to be written for the higher context has status 1. -/
theorem moncfg_takes (hf : (s.unit r k).first (s.ctxOf r.g) (s.cycles ((s.group r.g).core / 6))) (hb : monBad w = false) (hw : bits w 31 28 ≠ 0) {p : Nat}
    (hset : (s.unit r k).setAt = some (p, [(q, i)])) :
    ∃ at', s.moncfg r d k w = ({ s.modThread q (·.puts i [1]) with
      clusters := (s.setUnit r k (Monitor.claimed {} (s.ctxOf r.g) w (s.cycles ((s.group r.g).core / 6)) at')).clusters }, 0) := by
  have hother := others_iff.mpr hf.others
  have hout : s.outclaimed (s.unit r k) = s.modThread q (·.puts i [1]) := by
    rw [State.outclaimed, hset]
    rfl
  rw [moncfg_free (.inr hf)]
  simp only [hb, hother, if_neg hw, hout]
  exact ⟨_, rfl⟩

/-! ## The status and the thread -/

theorem setReg_issued (s : State) (r : TRef) (d : BitVec 7) (x : Word) (pc : Int) :
    (s.setReg r d x).tick.modThread r (·.issued sw pc) = s.tick.modThread r fun th => (th.write d [x]).issued sw pc := by
  unfold State.setReg State.setRegs Thread.write
  split
  · rfl
  · exact modThread_modThread s.tick r _ _

theorem moncfg_runs (h : s.oneOk { sw := sw, reads := [{ v := a }], writes := [{ v := d }] } r = true) :
    exec (.moncfg sw d a n) s = .next ((s.inSheaf.moncfg r d n.toNat (s.inSheaf.reg r a).toNat).1.tick.modThread r fun th =>
      (th.write d [.ofNat 32 (s.inSheaf.moncfg r d n.toNat (s.inSheaf.reg r a).toNat).2]).issued sw ((s.thread r).pc + 4)) := by
  rw [← setReg_issued]
  exact (runSheaf_one h).trans rfl

theorem moncfg_gives (h : s.oneOk { sw := sw, reads := [{ v := a }], writes := [{ v := d }] } r = true) {cs : List (Nat × Cluster)} {st : Nat}
    (hmon : s.inSheaf.moncfg r d n.toNat (s.inSheaf.reg r a).toNat = ({ s.inSheaf with clusters := cs }, st)) :
    ∃ t, exec (.moncfg sw d a n) s = .next t ∧ SameBut [r] { s with clusters := t.clusters } t ∧ t.clusters = cs ∧
      t.thread r = ((s.thread r).write d [.ofNat 32 st]).issued sw ((s.thread r).pc + 4) := by
  obtain ⟨hsame, hthread⟩ := oneThread (s := { s with clusters := cs }) (r := r) (hasThread_of_oneOk h) fun th =>
    (th.write d [.ofNat 32 st]).issued sw ((s.thread r).pc + 4)
  rw [moncfg_runs h, hmon]
  exact ⟨_, rfl, hsame, rfl, hthread⟩

theorem moncfg_gives_two (h : s.oneOk { sw := sw, reads := [{ v := a }], writes := [{ v := d }] } r = true) {cs : List (Nat × Cluster)} {st : Nat}
    (hne : q ≠ r) (hq : s.hasThread q) {f : Thread → Thread}
    (hmon : s.inSheaf.moncfg r d n.toNat (s.inSheaf.reg r a).toNat = ({ s.inSheaf.modThread q f with clusters := cs }, st)) :
    ∃ t, exec (.moncfg sw d a n) s = .next t ∧ SameBut [r, q] { s with clusters := t.clusters } t ∧ t.clusters = cs ∧ t.thread q = f (s.thread q) ∧
      t.thread r = ((s.thread r).write d [.ofNat 32 st]).issued sw ((s.thread r).pc + 4) := by
  have hr := hasThread_of_oneOk h
  let u : State := { s.inSheaf.tick.modThread q f with clusters := cs }
  have hrun := moncfg_runs (n := n) h
  rw [hmon] at hrun
  let v : State := { s with clusters := cs }
  have hstart : SameShape v v.inSheaf.tick := (((SameShape.refl v).fresh _).sheafId _).fresh _
  have hshape : SameShape v (u.modThread r fun th => (th.write d [.ofNat 32 st]).issued sw ((s.thread r).pc + 4)) := (hstart.modThread q f).modThread r _
  have hother (p : TRef) (hp : p ≠ q) : u.thread p = s.thread p := thread_modThread_ne s.inSheaf.tick f hp
  have huq : u.thread q = f (s.thread q) := thread_modThread_same s.inSheaf.tick f hq
  have hur : u.hasThread r := (hasThread_modThread s.inSheaf.tick q r f).mpr hr
  refine ⟨_, hrun, SameBut.of hshape fun p hp => ?_, rfl, ?_, ?_⟩
  · obtain ⟨hpr, hpq⟩ : p ≠ r ∧ p ≠ q := by simpa using hp
    exact (thread_modThread_ne u _ hpr).trans (hother p hpq)
  · exact (thread_modThread_ne u _ hne).trans huq
  · exact (thread_modThread_same u _ hur).trans (by rw [hother r (Ne.symm hne)])

/-! ## The unit afterwards -/

theorem claimed_fields (hw : w < 2 ^ 32) (at' : List (TRef × Nat)) : let m' := m.claimed c w now at'
    m'.ctx = some c ∧ m'.source = w / 2 ^ 28 ∧ m'.cores = w / 2 ^ 22 % 64 ∧ (m'.enable = true ↔ w % 2 = 1) ∧
      (m.ctx = some c → w / 2 % 2 = 0 → m'.min = m.min ∧ m'.max = m.max ∧ m'.count = m.count ∧ m'.hist = m.hist) ∧
      (m.ctx = none ∨ w / 2 % 2 = 1 → m'.count = 0 ∧ m'.hist = []) := by
  have hclear : bits w 1 1 = w / 2 % 2 := by rw [bits, Nat.shiftRight_eq_div_pow, Nat.pow_one]
  have hcores : bits w 27 22 = w / 2 ^ 22 % 64 := by rw [bits, Nat.shiftRight_eq_div_pow]; rfl
  have henable : bits w 0 0 = w % 2 := rfl
  intro m'
  refine ⟨rfl, source_bits hw, hcores, ?_, fun hm hkeep => ?_, fun hnew => ?_⟩
  · rw [← henable]
    exact decide_eq_true_iff
  · have hbase : ¬(m.ctx.isNone = true ∨ bits w 1 1 = 1) := by
      rw [hm, hclear, hkeep]
      simp
    have hbase' : (if m.ctx.isNone ∨ bits w 1 1 = 1 then ({} : Monitor) else m) = m := if_neg hbase
    simp only [m', Monitor.claimed, Monitor.configure, hbase']
    exact ⟨trivial, trivial, trivial, trivial⟩
  · have hbase : (if m.ctx.isNone ∨ bits w 1 1 = 1 then ({} : Monitor) else m) = {} :=
      if_pos (hnew.imp (fun h => by rw [h]; rfl) (hclear.trans ·))
    simp only [m', Monitor.claimed, Monitor.configure, hbase]
    exact ⟨trivial, trivial⟩

theorem cluster_of_clusters (h : t.clusters = u.clusters) (x : Nat) : t.cluster x = u.cluster x := by rw [State.cluster, h, State.cluster]

theorem setUnit_cluster_ne {x : Nat} (hx : x ≠ (s.group r.g).core / 6) : (s.setUnit r k m).cluster x = s.cluster x := cluster_setCluster_ne s _ hx

theorem setUnit_cluster (hk : k < (s.cluster ((s.group r.g).core / 6)).monitors.length) : let cl := (s.group r.g).core / 6
    ((s.setUnit r k m).cluster cl).monitors.getD k {} = m ∧
      (s.setUnit r k m).cluster cl = { s.cluster cl with monitors := (s.cluster cl).monitors.set k m } := by
  intro cl
  have hset : (s.setUnit r k m).cluster cl = { s.cluster cl with monitors := (s.cluster cl).monitors.set k m } := cluster_setCluster s ..
  refine ⟨?_, hset⟩
  rw [hset, List.getD_eq_getElem?_getD, List.getElem?_set_self hk, Option.getD_some]

/-- A unit that some context has is one of its cluster's. -/
theorem unit_lt {o : Nat} (h : (s.unit r k).ctx = some o) : k < (s.cluster ((s.group r.g).core / 6)).monitors.length := by
  refine Nat.lt_of_not_le fun hle => ?_
  rw [State.unit, List.getD_eq_getElem?_getD, List.getElem?_eq_none hle] at h
  cases h

end Sys2Proof.Machine

open Sys2Proof Sys2Proof.Machine

/-- Settles O42: lane by lane for the reads and SYSWR, and for one lane at the others. -/
theorem systemReads : Obligations.SystemReads := by
  intro s sw d a b
  refine ⟨fun h => ?_, refrd_reads, clock_reads, syswr_writes, fun r h => ?_, fun r u h => ?_⟩
  · exact ⟨fun sel hsel => sysrd_tells h hsel, system_reads h⟩
  · exact ⟨pcls_sets h, burn_sets h, balidle_waits h⟩
  · intro w cl c m others first bad gives
    have hw : w < 2 ^ 32 := (s.inSheaf.reg r a).isLt
    have hbad : monBad w = true ↔ bad := monBad_iff hw
    have hfree (hx : ¬others ∨ first) : s.inSheaf.unitFree r u.toNat := hx
    have hfine (hx : ¬bad) : monBad w = false := by rw [← Bool.not_eq_true, hbad]; exact hx
    have hsource : bits w 31 28 = w / 2 ^ 28 := source_bits hw
    refine ⟨fun ho hf => ?_, fun hx hb => ?_, fun hf h0 hb => ?_, fun q i hf hb h0 hset hq hlt => ?_, fun ho hb => ?_⟩
    · obtain ⟨t, hrun, hsame, hcs, hth⟩ := moncfg_gives (cs := s.clusters) h (moncfg_taken ho hf)
      exact ⟨t, hrun, hsame, hcs, hth⟩
    · obtain ⟨t, hrun, hsame, hcs, hth⟩ := moncfg_gives (cs := s.clusters) h (moncfg_bad (hfree hx) (hbad.mpr hb))
      exact ⟨t, hrun, hsame, hcs, hth⟩
    · obtain ⟨t, hrun, hsame, hcs, hth⟩ := moncfg_gives (cs := s.clusters) h (moncfg_release_first (s := s.inSheaf) hf (hfine hb) (hsource.trans h0))
      exact ⟨t, hrun, hsame, hcs, hth⟩
    · obtain ⟨at', htake⟩ := moncfg_takes (s := s.inSheaf) (d := d) hf (hfine hb) (hsource.symm ▸ h0) hset
      have hhas : s.hasThread q := by
        refine ⟨Nat.lt_of_not_le fun hle => ?_, hlt⟩
        rw [group_of_length_le s hle] at hlt
        exact absurd hlt (Nat.not_lt_zero _)
      obtain ⟨t, hrun, hsame, hcs, htq, htr⟩ := moncfg_gives_two
        (cs := (s.setUnit r u.toNat (Monitor.claimed {} c w (s.cycles cl) at')).clusters) h hq hhas htake
      obtain ⟨o, -, ho, -⟩ := hf
      have hcl (x : Nat) : t.cluster x = (s.setUnit r u.toNat (Monitor.claimed {} c w (s.cycles cl) at')).cluster x := cluster_of_clusters hcs x
      obtain ⟨hunit, hset'⟩ := setUnit_cluster (m := Monitor.claimed {} c w (s.cycles cl) at') (unit_lt ho)
      obtain ⟨hctx, hsrc, hcores, hen, -, hclear⟩ := claimed_fields (m := {}) (c := c) (now := s.cycles cl) hw at'
      obtain ⟨hcount, hhist⟩ := hclear (.inl rfl)
      refine ⟨t, hrun, hsame, htq, htr, fun x hx => (hcl x).trans (setUnit_cluster_ne hx), ?_⟩
      rw [hcl, hunit]
      exact ⟨hset', hctx, hsrc, hcores, hen, hcount, hhist⟩
    · have hu (hlen : (s.cluster cl).monitors.length = 8) : u.toNat < (s.cluster cl).monitors.length := hlen ▸ u.isLt
      by_cases h0 : w / 2 ^ 28 = 0
      · obtain ⟨t, hrun, hsame, hcs, hth⟩ := moncfg_gives (cs := (s.setUnit r u.toNat {}).clusters) h
          (moncfg_release (s := s.inSheaf) ho (hfine hb) (hsource.trans h0))
        have hcl (x : Nat) : t.cluster x = (s.setUnit r u.toNat {}).cluster x := cluster_of_clusters hcs x
        refine ⟨t, hrun, hsame, ⟨fun x hx => (hcl x).trans (setUnit_cluster_ne hx), fun hlen => ?_⟩, hth⟩
        obtain ⟨hunit, hset'⟩ := setUnit_cluster (m := {}) (hu hlen)
        rw [hcl, hunit]
        exact ⟨hset', fun _ => rfl, fun hne => (hne h0).elim⟩
      · obtain ⟨at', hmon⟩ := moncfg_sets (s := s.inSheaf) (d := d) ho (hfine hb) (hsource.symm ▸ h0)
        obtain ⟨t, hrun, hsame, hcs, hth⟩ := moncfg_gives (cs := (s.setUnit r u.toNat (m.claimed c w (s.cycles cl) at')).clusters) h hmon
        have hcl (x : Nat) : t.cluster x = (s.setUnit r u.toNat (m.claimed c w (s.cycles cl) at')).cluster x := cluster_of_clusters hcs x
        refine ⟨t, hrun, hsame, ⟨fun x hx => (hcl x).trans (setUnit_cluster_ne hx), fun hlen => ?_⟩, hth⟩
        obtain ⟨hunit, hset'⟩ := setUnit_cluster (m := m.claimed c w (s.cycles cl) at') (hu hlen)
        rw [hcl, hunit]
        exact ⟨hset', fun hz => (h0 hz).elim, fun _ => claimed_fields hw at'⟩
end

section
/-! Threads that leave barriers, and a publish (R217, R242, R247): what of the state these leave as it is. -/

namespace Sys2Proof.Machine

variable {s t u : State} {r q : TRef} {g b : Nat}

/-! ## Threads that leave a wait -/

/-- Threads of a list, at most, have changed; none of them has exited or begun to wait; memory and the launches are as before. -/
structure Leaves (l : List TRef) (s t : State) : Prop where
  mem : t.mem = s.mem
  launches : t.launches = s.launches
  len : t.groups.length = s.groups.length
  group : ∀ x, t.group x = { s.group x with threads := (t.group x).threads }
  other : ∀ p, p ∉ l → t.thread p = s.thread p
  exited : ∀ p, (t.thread p).status = .exited ↔ (s.thread p).status = .exited
  calm : ∀ p, (∀ w, (s.thread p).status ≠ .waiting w) → ∀ w, (t.thread p).status ≠ .waiting w

theorem Leaves.trans {l m : List TRef} (h : Leaves l s t) (h' : Leaves m t u) : Leaves (l ++ m) s u where
  mem := h'.mem.trans h.mem
  launches := h'.launches.trans h.launches
  len := h'.len.trans h.len
  group x := by rw [h'.group x, h.group x]
  other p hp := by
    rw [List.mem_append, not_or] at hp
    exact (h'.other p hp.2).trans (h.other p hp.1)
  exited p := (h'.exited p).trans (h.exited p)
  calm p hp := h'.calm p (h.calm p hp)

/-- Nothing of threads, groups, launches and memory has changed. -/
theorem Leaves.of_eq {l : List TRef} (hg : t.groups = s.groups) (hl : t.launches = s.launches) (hm : t.mem = s.mem) : Leaves l s t := by
  have hgroup (x : Nat) : t.group x = s.group x := by rw [State.group, hg, State.group]
  have hthread (p : TRef) : t.thread p = s.thread p := by rw [State.thread, hgroup, State.thread]
  refine ⟨hm, hl, by rw [hg], fun x => by rw [hgroup], fun p _ => hthread p, fun p => by rw [hthread], fun p hp => ?_⟩
  rwa [hthread]

theorem thread_of_not_hasThread (h : ¬s.hasThread r) : s.thread r = { status := .exited } := by
  rw [State.hasThread, not_and_or, Nat.not_lt, Nat.not_lt] at h
  obtain h | h := h
  · rw [State.thread, group_of_length_le s h]
    rfl
  · rw [State.thread, List.getD_eq_getElem?_getD, List.getElem?_eq_none h]
    rfl

theorem Leaves.modThread {l : List TRef} (h : Leaves l s t) (q : TRef) (hq : q ∈ l) {f : Thread → Thread} (hexit : ∀ th, (f th).status = .exited ↔ th.status = .exited)
    (hcalm : ∀ th, (∀ w, th.status ≠ .waiting w) → ∀ w, (f th).status ≠ .waiting w) : Leaves l s (t.modThread q f) := by
  have hself (p : TRef) : (t.modThread q f).thread p = t.thread p ∨ (t.modThread q f).thread p = f (t.thread p) := by
    by_cases hp : p = q
    · subst hp
      by_cases hhas : t.hasThread p
      · exact .inr (thread_modThread_same t f hhas)
      · left
        rw [thread_of_not_hasThread hhas, thread_of_not_hasThread (mt (hasThread_modThread t p p f).mp hhas)]
    · exact .inl (thread_modThread_ne t f hp)
  refine ⟨h.mem, h.launches, ?_, fun x => ?_, fun p hp => ?_, fun p => ?_, fun p hp => ?_⟩
  · exact (List.length_modify ..).trans h.len
  · rw [group_modThread, h.group x]
  · exact (thread_modThread_ne t f (by rintro rfl; exact hp hq)).trans (h.other p hp)
  · obtain e | e := hself p
    · rw [e]; exact h.exited p
    · rw [e]; exact (hexit _).trans (h.exited p)
  · obtain e | e := hself p
    · rw [e]; exact h.calm p hp
    · rw [e]; exact hcalm _ (h.calm p hp)

/-- A change of a thread that keeps its status. -/
theorem Leaves.modStill {l : List TRef} (h : Leaves l s t) (q : TRef) (hq : q ∈ l) {f : Thread → Thread} (hf : ∀ th, (f th).status = th.status) :
    Leaves l s (t.modThread q f) :=
  h.modThread q hq (fun th => by rw [hf]) fun th hth => by rwa [hf]

theorem Leaves.upd {l : List TRef} (h : Leaves l s t) (hg : u.groups = t.groups) (hl : u.launches = t.launches) (hm : u.mem = t.mem) : Leaves l s u := by
  have hstep := h.trans (Leaves.of_eq (l := l) hg hl hm)
  exact ⟨hstep.mem, hstep.launches, hstep.len, hstep.group, fun p hp => hstep.other p (by simpa using hp), hstep.exited, hstep.calm⟩

theorem Leaves.refl {l : List TRef} (s : State) : Leaves l s s := .of_eq rfl rfl rfl

theorem Thread.release_status (th : Thread) (n : Nat) : (th.release n).status = .parked ∨ (th.release n).status = .ready := by
  unfold Thread.release
  split
  · exact .inl rfl
  · exact .inr rfl

/-- What waking makes of a thread. -/
def Thread.woken (n : Nat) (th : Thread) : Thread :=
  match th.status with
  | .exited => th
  | _ => th.release n

theorem woken_exited (n : Nat) (th : Thread) : (th.woken n).status = .exited ↔ th.status = .exited := by
  have hrel := th.release_status n
  unfold Thread.woken
  split
  · exact Iff.rfl
  · next h => exact ⟨fun he => by rw [he] at hrel; simp at hrel, fun he => (h he).elim⟩

theorem woken_calm (n : Nat) (th : Thread) (w : Wait) : (th.woken n).status ≠ .waiting w := by
  have hrel := th.release_status n
  unfold Thread.woken
  split
  · next h => rw [h]; exact fun e => by cases e
  · intro he
    rw [he] at hrel
    simp at hrel

theorem wakeAt_leaves (s : State) (n : Nat) (q : TRef) : Leaves [q] s (s.wakeAt n q) := by
  have hctx : Leaves [q] s (s.setCtx (s.ctxOf q.g) { s.ctx (s.ctxOf q.g) with headland := 0 }) := .of_eq rfl rfl rfl
  exact hctx.modThread q (List.mem_singleton_self q) (f := Thread.woken n) (woken_exited n) fun th _ => woken_calm n th

theorem wakeAt_calm (s : State) (n : Nat) (q : TRef) (w : Wait) : ((s.wakeAt n q).thread q).status ≠ .waiting w := by
  by_cases hhas : s.hasThread q
  · have hthread : (s.wakeAt n q).thread q = (s.thread q).woken n :=
      thread_modThread_same (s.setCtx (s.ctxOf q.g) { s.ctx (s.ctxOf q.g) with headland := 0 }) (Thread.woken n) hhas
    rw [hthread]
    exact woken_calm n _ w
  · have hexit : ((s.wakeAt n q).thread q).status = .exited := ((wakeAt_leaves s n q).exited q).mpr (by rw [thread_of_not_hasThread hhas])
    rw [hexit]
    exact fun e => by cases e

theorem refresh_leaves {l : List TRef} (h : Leaves l s t) (q : TRef) (hq : q ∈ l) (scope : Nat) (needs : List Need) : Leaves l s (t.refresh q scope needs) := by
  have hview (c : Nat) : Leaves l s (t.refreshView c scope) := ite_keeps h (h.upd rfl rfl rfl)
  exact ite_keeps (ite_keeps (hview _) ((hview _).modStill q hq fun _ => rfl)) (h.modStill q hq fun _ => rfl)

theorem monitor_leaves {l : List TRef} (h : Leaves l s t) (c x k v : Nat) : Leaves l s (t.monitor c x k v) := ite_keeps (h.upd rfl rfl rfl) h

/-- After waking, a thread that leaves a barrier is only counted and refreshed. -/
theorem counted_leaves (u : State) (q : TRef) (scope c x v : Nat) :
    Leaves [q] u ((if 7 ≤ scope then (u.monitor c x 4 v).observe q else u.monitor c x 4 v).refresh q scope []) := by
  have hmem := List.mem_singleton_self q
  have hmon : Leaves [q] u (u.monitor c x 4 v) := monitor_leaves (.refl u) ..
  have hobs : Leaves [q] u (if 7 ≤ scope then (u.monitor c x 4 v).observe q else u.monitor c x 4 v) := by
    split
    · exact hmon.modStill q hmem fun _ => rfl
    · exact hmon
  exact refresh_leaves hobs q hmem scope []

theorem leaveAt_after (s : State) (n : Nat) (q : TRef) (scope : Nat) : Leaves [q] (s.wakeAt n q) (s.leaveAt n q scope) := by
  rw [State.leaveAt]
  exact counted_leaves ..

theorem leaveAt_leaves (s : State) (n : Nat) (q : TRef) (scope : Nat) : Leaves [q] s (s.leaveAt n q scope) := by
  have hall := (wakeAt_leaves s n q).trans (leaveAt_after s n q scope)
  exact ⟨hall.mem, hall.launches, hall.len, hall.group, fun p hp => hall.other p (by simpa using hp), hall.exited, hall.calm⟩

theorem leaveAll_leaves (s : State) (n scope : Nat) (l : List TRef) : Leaves l s (s.leaveAll n scope l) := by
  induction l generalizing s with
  | nil => exact .refl s
  | cons q l ih => exact (leaveAt_leaves s n q scope).trans (ih _)

theorem leaveAll_calm (s : State) (n scope : Nat) {l : List TRef} (hq : q ∈ l) (w : Wait) : ((s.leaveAll n scope l).thread q).status ≠ .waiting w := by
  induction l generalizing s with
  | nil => cases hq
  | cons p l ih =>
    by_cases hl : q ∈ l
    · exact ih _ hl
    · obtain rfl := (List.mem_cons.mp hq).resolve_right hl
      exact (leaveAll_leaves _ n scope l).calm q ((leaveAt_after s n q scope).calm q (wakeAt_calm s n q)) w

theorem leaveBarriers_leaves (s : State) (scope : Nat) (l : List TRef) : Leaves l s (s.leaveBarriers scope l) := by
  unfold State.leaveBarriers
  split
  · exact .refl s
  · have hall := leaveAll_leaves s.tick s.fresh scope l
    exact ⟨hall.mem, hall.launches, hall.len, hall.group, hall.other, hall.exited, hall.calm⟩

theorem leaveBarriers_calm (s : State) (scope : Nat) {l : List TRef} (hq : q ∈ l) (w : Wait) : ((s.leaveBarriers scope l).thread q).status ≠ .waiting w := by
  unfold State.leaveBarriers
  rw [if_neg (by simpa using List.ne_nil_of_mem hq)]
  exact leaveAll_calm s.tick s.fresh scope hq w

end Sys2Proof.Machine
end

section
/-! EXIT (R74, R118, R137, R144, R242, R247). -/

namespace Sys2Proof.Machine

variable {s t u : State} {r q : TRef} {sw : Bool} {g b : Nat}

/-! ## The thread that exits -/

/-- A thread after a publish, up to what it has left to wait for. -/
def Thread.unpublished (th : Thread) : Thread := { th with obs := [], obsEng := false, after := [], engAfter := [] }

theorem dropCopies_dies (s : State) (d : Nat) (p : Nat → Bool) : ∃ ds, s.dropCopies d p = { s with dies := ds } ∧
    ∀ e, tget {} ds e = { s.die e with copies := (tget {} ds e : Die).copies } := by
  unfold State.dropCopies
  dsimp only
  split
  · exact ⟨s.dies, rfl, fun _ => rfl⟩
  · refine ⟨_, rfl, fun e => ?_⟩
    by_cases he : e = d
    · subst he
      rw [tget_tset_same]
    · rw [tget_tset_ne _ _ _ he]
      rfl

theorem modThread_id (s : State) (r : TRef) : s.modThread r id = s := by
  simp only [State.modThread, State.modGroup, List.modify_id]
  exact congrArg (fun l => ({ s with groups := l } : State)) (List.modify_id ..)

/-- A publish changes of the module the copies of dies, and of its thread what it waits for. -/
theorem publish_parts (s : State) (r : TRef) (scope : Nat) : ∃ ds f, s.publish r scope = ({ s with dies := ds } : State).modThread r f ∧
    (∀ e, tget {} ds e = { s.die e with copies := (tget {} ds e : Die).copies }) ∧ ∀ th, (f th).unpublished = th.unpublished := by
  have hshare : ∃ ds f, s.shareSeen r = ({ s with dies := ds } : State).modThread r f ∧
      (∀ e, tget {} ds e = { s.die e with copies := (tget {} ds e : Die).copies }) ∧ ∀ th, (f th).unpublished = th.unpublished := by
    unfold State.shareSeen
    extract_lets th c v old
    split
    · obtain ⟨ds, hds, hcopies⟩ := dropCopies_dies s (dieOfCore c) old
      rw [hds]
      exact ⟨ds, _, rfl, hcopies, fun _ => rfl⟩
    · exact ⟨s.dies, id, (modThread_id s r).symm, fun _ => rfl, fun _ => rfl⟩
  obtain ⟨ds, f, hsh, hcopies, hf⟩ := hshare
  unfold State.publish
  extract_lets ns t
  have ht : ∃ ds f, t = ({ s with dies := ds } : State).modThread r f ∧
      (∀ e, tget {} ds e = { s.die e with copies := (tget {} ds e : Die).copies }) ∧ ∀ th, (f th).unpublished = th.unpublished := by
    by_cases hscope : scope < 4
    · exact ⟨s.dies, id, (if_pos hscope).trans (modThread_id s r).symm, fun _ => rfl, fun _ => rfl⟩
    · exact ⟨ds, f, (if_neg hscope).trans hsh, hcopies, hf⟩
  obtain ⟨ds, f, ht, hcopies, hf⟩ := ht
  rw [ht, modThread_modThread]
  exact ⟨ds, _, rfl, hcopies, fun th => hf th⟩

theorem freeSlotLanes_none (s : State) (c : Nat) {l : List Outst} (h : ∀ o ∈ l, o.slot = none) : s.freeSlotLanes c l = s := by
  induction l with
  | nil => rfl
  | cons o l ih =>
    rw [State.freeSlotLanes, h o (List.mem_cons_self ..)]
    exact ih fun p hp => h p (List.mem_cons_of_mem _ hp)

/-- The state in which the thread has exited: its stores published, its results discarded (R144). -/
def State.exitOf (s : State) (r : TRef) : State :=
  let c := (s.group r.g).core
  let s := s.publish r 7
  let s := if (s.thread r).level = 0 then s else s.setCtx (s.ctxOf r.g) { s.ctx (s.ctxOf r.g) with headland := 0 }
  let s := s.freeSlotLanes c (s.thread r).outs
  s.modThread r fun th => { th with status := .exited, outs := [], cands := [] }

/-- The Headland counter of a context is reset where the thread that exits has polled (R74). -/
def State.unpolled (s : State) (r : TRef) : State :=
  if (s.thread r).level = 0 then s else s.setCtx (s.ctxOf r.g) { s.ctx (s.ctxOf r.g) with headland := 0 }

theorem unpublished_level {x y : Thread} (h : x.unpublished = y.unpublished) : x.level = y.level := (congrArg Thread.level h :)
theorem unpublished_outs {x y : Thread} (h : x.unpublished = y.unpublished) : x.outs = y.outs := (congrArg Thread.outs h :)

/-- The exit as one change of the thread, beside the copies of dies and the Headland counter. -/
theorem exitOf_parts (s : State) (hr : s.hasThread r) (hslots : ∀ o ∈ (s.thread r).outs, o.slot = none) :
    ∃ ds f, s.exitOf r = ({ s.unpolled r with dies := ds } : State).modThread r f ∧
      (∀ e, tget {} ds e = { s.die e with copies := (tget {} ds e : Die).copies }) ∧
      ∀ th, (f th).unpublished = { th.unpublished with status := .exited, outs := [], cands := [] } := by
  obtain ⟨ds, f, hpub, hcopies, hf⟩ := publish_parts s r 7
  have hthread : (s.publish r 7).thread r = f (s.thread r) := by
    rw [hpub]
    exact thread_modThread_same ({ s with dies := ds } : State) f hr
  have hlevel : ((s.publish r 7).thread r).level = (s.thread r).level := by rw [hthread, unpublished_level (hf _)]
  have hctx : (s.publish r 7).ctxOf r.g = s.ctxOf r.g := by
    have hshape : SameShape ({ s with dies := ds } : State) (s.publish r 7) := by
      rw [hpub]
      exact (SameShape.refl _).modThread r f
    exact hshape.ctxOf r.g
  have hpoll : (if ((s.publish r 7).thread r).level = 0 then s.publish r 7
      else (s.publish r 7).setCtx ((s.publish r 7).ctxOf r.g) { (s.publish r 7).ctx ((s.publish r 7).ctxOf r.g) with headland := 0 }) =
      ({ s.unpolled r with dies := ds } : State).modThread r f := by
    rw [hlevel, hctx, hpub, State.unpolled]
    by_cases h : (s.thread r).level = 0
    · rw [if_pos h, if_pos h]
    · rw [if_neg h, if_neg h]
      rfl
  have hunpolled : ({ s.unpolled r with dies := ds } : State).thread r = s.thread r := by
    rw [State.unpolled]
    split <;> rfl
  have hhas : ({ s.unpolled r with dies := ds } : State).hasThread r := by
    rw [State.unpolled]
    split
    · exact hr
    · exact hr
  unfold State.exitOf
  extract_lets c u x v w
  have hv : v = ({ s.unpolled r with dies := ds } : State).modThread r f := hpoll
  have hw : w = v := by
    refine freeSlotLanes_none v c ?_
    rw [hv, thread_modThread_same _ _ hhas, hunpolled, unpublished_outs (hf _)]
    exact hslots
  rw [hw, hv, modThread_modThread]
  refine ⟨ds, _, rfl, hcopies, fun th => ?_⟩
  exact congrArg (fun y : Thread => { y with status := .exited, outs := [], cands := [] }) (hf th)

theorem unpolled_parts (s : State) (r : TRef) : ∃ cs, s.unpolled r = { s with ctxs := cs } := by
  unfold State.unpolled
  split
  · exact ⟨s.ctxs, rfl⟩
  · exact ⟨_, rfl⟩

/-- What has become of the thread that exits. -/
def Thread.goneFrom (th th' : Thread) : Prop := th'.status = .exited ∧ th'.outs = [] ∧ th'.regs = th.regs ∧ th'.pc = th.pc

/-- The exit of a thread leaves the rest of the module as it was (R144). -/
theorem exitOf_same (s : State) (hr : s.hasThread r) (hslots : ∀ o ∈ (s.thread r).outs, o.slot = none) :
    SameButCopies [r] (s.unpolled r) (s.exitOf r) ∧ (s.thread r).goneFrom ((s.exitOf r).thread r) := by
  obtain ⟨ds, f, he, hcopies, hf⟩ := exitOf_parts s hr hslots
  obtain ⟨cs, hcs⟩ := unpolled_parts s r
  rw [he, hcs]
  let v : State := { s with ctxs := cs, dies := ds }
  have hshape : SameShape v (v.modThread r f) := (SameShape.refl v).modThread r f
  have hthread : (v.modThread r f).thread r = f (s.thread r) := thread_modThread_same v f hr
  have hth := hf (s.thread r)
  refine ⟨⟨SameBut.of hshape fun p hp => thread_modThread_ne v f (by simpa using hp), hcopies⟩, ?_⟩
  rw [show ((({ ({ s with ctxs := cs } : State) with dies := ds } : State).modThread r f).thread r) = f (s.thread r) from hthread]
  exact ⟨(congrArg Thread.status hth :), (congrArg Thread.outs hth :), (congrArg Thread.regs hth :), (congrArg Thread.pc hth :)⟩

/-! ## Named barriers, the launch-wide barrier and the group -/

/-- A barrier with no arrival does not complete. -/
theorem namedCheck_idle (s : State) (g b : Nat) (h : ∀ nb, (s.group g).bars[b]? = some nb → nb.arrived = 0) : s.namedCheck g b = s := by
  unfold State.namedCheck
  dsimp only
  split
  · rfl
  · next nb e => exact if_neg fun hc => hc.1 (h nb e)

theorem namedChecks_idle (s : State) (g : Nat) {l : List Nat} (h : ∀ b ∈ l, ∀ nb, (s.group g).bars[b]? = some nb → nb.arrived = 0) : s.namedChecks g l = s := by
  induction l with
  | nil => rfl
  | cons b l ih =>
    rw [State.namedChecks, namedCheck_idle s g b (h b (List.mem_cons_self ..))]
    exact ih fun c hc => h c (List.mem_cons_of_mem _ hc)

/-- Where one barrier alone has arrivals, its completion is all that the checks do. -/
theorem namedChecks_one (s : State) (g b : Nat) {l : List Nat} (hl : l.Nodup) (hb : b ∈ l)
    (hidle : ∀ c ∈ l, c ≠ b → ∀ nb, (s.group g).bars[c]? = some nb → nb.arrived = 0)
    (hafter : ∀ c ∈ l, c ≠ b → ((s.namedCheck g b).group g).bars[c]? = (s.group g).bars[c]?) : s.namedChecks g l = s.namedCheck g b := by
  induction l with
  | nil => cases hb
  | cons c l ih =>
    obtain ⟨hc, hl⟩ := List.nodup_cons.mp hl
    rw [State.namedChecks]
    by_cases hcb : c = b
    · subst hcb
      refine namedChecks_idle _ g fun x hx nb hnb => ?_
      have hne : x ≠ c := by rintro rfl; exact hc hx
      rw [hafter x (List.mem_cons_of_mem _ hx) hne] at hnb
      exact hidle x (List.mem_cons_of_mem _ hx) hne nb hnb
    · rw [namedCheck_idle s g c (hidle c (List.mem_cons_self ..) hcb)]
      exact ih hl ((List.mem_cons.mp hb).resolve_left (Ne.symm hcb)) (fun x hx => hidle x (List.mem_cons_of_mem _ hx)) fun x hx =>
        hafter x (List.mem_cons_of_mem _ hx)

/-- The threads that wait at a named barrier. -/
def State.barWaiters (s : State) (g b : Nat) : List TRef := (s.refs g).filter fun r => (s.thread r).status = .waiting (.namedBar b)

/-- The group g with barrier b cleared. -/
def State.barCleared (s : State) (g b : Nat) (nb : NBar) : State := s.modGroup g fun gr => { gr with bars := gr.bars.set b { nb with arrived := 0 } }

theorem namedCheck_completes (s : State) (g b : Nat) {nb : NBar} (hb : (s.group g).bars[b]? = some nb) (harr : nb.arrived ≠ 0)
    (hmiss : (s.group g).missing nb = []) : s.namedCheck g b = (s.barCleared g b nb).leaveBarriers 2 (s.barWaiters g b) := by
  unfold State.namedCheck
  dsimp only
  rw [hb]
  exact if_pos ⟨harr, hmiss⟩

theorem gbarCheck_idle (s : State) (l : Nat) (h : ∀ g ∈ s.groupsOf l, (s.group g).gbar = 0) : s.gbarCheck l = s := by
  refine if_neg fun hc => ?_
  obtain ⟨g, hg, hne⟩ := List.any_eq_true.mp hc.1
  exact of_decide_eq_true hne (h g hg)

theorem retireCheck_lives (s : State) (g : Nat) {th : Thread} (hth : th ∈ (s.group g).threads) (hlive : th.status ≠ .exited) : s.retireCheck g = s := by
  refine if_neg fun hc => hlive ?_
  exact of_decide_eq_true (List.all_eq_true.mp hc.2 th hth)

end Sys2Proof.Machine
end

section
/-! The cases of EXIT, and its statement (R74, R118, R137, R144, R242, R247). -/

namespace Sys2Proof.Machine

variable {s t u : State} {r q : TRef} {sw : Bool} {g b l : Nat}

/-! ## The end of the instruction -/

/-- The rendezvous that name the lane of a thread. -/
def State.namedRdvs (s : State) (r : TRef) : List Rdv :=
  (s.group r.g).rdvs.filter fun v => v.furrow = r.t / 32 && v.mask.toNat.testBit (r.t % 32)

/-- The barriers, the launch and the group see that a thread is gone. -/
def State.exitChecks (s : State) (r : TRef) (n l : Nat) : State :=
  ((s.namedChecks r.g (List.range n)).gbarCheck l).retireCheck r.g

theorem runSheaf_done {f : Form} {body : State → TRef → LaneRes} (h : s.oneOk f r = true) (hb : body s.inSheaf r = .done t) :
    runSheaf f body s = .next (t.tick.modThread r (·.issued f.sw ((s.thread r).pc + 4))) := by
  rw [runSheaf_one h, hb]

theorem exit_faults (h : s.oneOk { sw := sw } r = true) (hn : s.namedRdvs r ≠ []) :
    exec (.exit sw) s = .next ((s.inSheaf.exitOf r).tick.faultMaskOf r 0x0C ((s.namedRdvs r).foldl (fun m v => m ||| v.mask.toNat) 0)) := by
  have hbody (body : State → TRef → LaneRes) (u : State) (m : Nat) (hb : body s.inSheaf r = .doneFault u 0x0C 0 0 (r.t / 32) m) :
      runSheaf { sw := sw } body s = .next (u.tick.faultMaskOf r 0x0C m) := by
    rw [runSheaf_one h, hb]
    rfl
  exact hbody _ _ _ (if_pos hn)

theorem exit_goes (h : s.oneOk { sw := sw } r = true) (hn : s.namedRdvs r = []) :
    exec (.exit sw) s = .next (((s.inSheaf.exitOf r).exitChecks r (s.group r.g).bars.length (s.group r.g).launch).tick.modThread r
      (·.issued sw ((s.thread r).pc + 4))) :=
  runSheaf_done h (if_neg (not_not.mpr hn))

theorem sameButCopies_inSheaf {rs : List TRef} (h : SameButCopies rs (s.inSheaf.unpolled r) t) : SameButCopies rs (s.unpolled r) t := by
  unfold State.unpolled at h ⊢
  split
  · next hl => rwa [if_pos (show (s.inSheaf.thread r).level = 0 from hl)] at h
  · next hl => rwa [if_neg (show ¬(s.inSheaf.thread r).level = 0 from hl)] at h

/-- The thread after EXIT's step: it stays exited, its counter moves on. -/
theorem goneFrom_issued {th x : Thread} (h : th.goneFrom x) (pc : Int) :
    (x.issued sw pc).status = .exited ∧ (x.issued sw pc).outs = [] ∧ (x.issued sw pc).regs = th.regs := by
  obtain ⟨hstatus, houts, hregs, -⟩ := h
  have hissued : x.issued sw pc = { x with pc := pc, marked := sw } := by
    unfold Thread.issued
    rw [hstatus]
  rw [hissued]
  exact ⟨hstatus, houts, hregs⟩

theorem thread_modThread_or (s : State) (r : TRef) (f : Thread → Thread) :
    (s.modThread r f).thread r = f (s.thread r) ∨ (s.modThread r f).thread r = s.thread r := by
  by_cases hhas : s.hasThread r
  · exact .inl (thread_modThread_same s f hhas)
  · right
    rw [thread_of_not_hasThread hhas, thread_of_not_hasThread (mt (hasThread_modThread s r r f).mp hhas)]

theorem gone_step {th : Thread} (h : th.goneFrom (s.thread r)) (pc : Int) : let x := (s.tick.modThread r (·.issued sw pc)).thread r
    x.status = .exited ∧ x.outs = [] ∧ x.regs = th.regs := by
  intro x
  obtain e | e : x = (s.thread r).issued sw pc ∨ x = s.thread r := thread_modThread_or s.tick r _
  · rw [e]
    exact goneFrom_issued h pc
  · obtain ⟨hstatus, houts, hregs, -⟩ := h
    rw [e]
    exact ⟨hstatus, houts, hregs⟩

/-! ## A rendezvous that names the lane (R137) -/

theorem foldl_or_testBit (l : List Rdv) (m k : Nat) :
    (l.foldl (fun m v => m ||| v.mask.toNat) m).testBit k = true ↔ m.testBit k = true ∨ ∃ v ∈ l, v.mask.getLsbD k = true := by
  induction l generalizing m with
  | nil => simp
  | cons v l ih =>
    rw [List.foldl_cons, ih, Nat.testBit_or, Bool.or_eq_true, List.exists_mem_cons_iff, or_assoc]
    rfl

theorem mem_namedRdvs (s : State) (r : TRef) (v : Rdv) :
    v ∈ s.namedRdvs r ↔ v ∈ (s.group r.g).rdvs ∧ v.furrow = r.t / 32 ∧ v.mask.getLsbD (r.t % 32) = true := by
  rw [State.namedRdvs, List.mem_filter, Bool.and_eq_true, decide_eq_true_eq]
  rfl

/-! ## What the checks find -/

/-- Another state of the same launches, whose groups are of the same attempts and have arrived alike at the launch-wide barrier. -/
structure SameArrivals (s t : State) : Prop where
  len : t.groups.length = s.groups.length
  replays : ∀ l, (t.launch l).replays = (s.launch l).replays
  group : ∀ x, (t.group x).launch = (s.group x).launch ∧ (t.group x).attempt = (s.group x).attempt ∧ (t.group x).gbar = (s.group x).gbar

theorem SameArrivals.trans (h : SameArrivals s t) (h' : SameArrivals t u) : SameArrivals s u where
  len := h'.len.trans h.len
  replays l := (h'.replays l).trans (h.replays l)
  group x := by
    obtain ⟨h1, h2, h3⟩ := h.group x
    obtain ⟨h1', h2', h3'⟩ := h'.group x
    exact ⟨h1'.trans h1, h2'.trans h2, h3'.trans h3⟩

/-- No thread has arrived at the launch-wide barrier of a launch. -/
def State.noArrivals (s : State) (l : Nat) : Prop := ∀ g ∈ s.groupsOf l, (s.group g).gbar = 0

theorem noArrivals_of (h : SameArrivals s t) (hs : s.noArrivals l) : t.noArrivals l := by
  intro g hg
  obtain ⟨hlaunch, hatt, hgbar⟩ := h.group g
  rw [State.groupsOf, h.len, h.replays] at hg
  obtain ⟨hrange, hmem⟩ := List.mem_filter.mp hg
  rw [hlaunch, hatt] at hmem
  rw [hgbar]
  exact hs g (List.mem_filter.mpr ⟨hrange, hmem⟩)

theorem sameArrivals_modGroup (s : State) (g : Nat) {f : Group → Group} (hg : g < s.groups.length)
    (hf : ∀ x, (f x).launch = x.launch ∧ (f x).attempt = x.attempt ∧ (f x).gbar = x.gbar) : SameArrivals s (s.modGroup g f) where
  len := List.length_modify ..
  replays _ := rfl
  group x := by
    by_cases hx : x = g
    · subst hx
      rw [group_modGroup_same s f hg]
      exact hf _
    · rw [group_modGroup_ne s f hx]
      exact ⟨rfl, rfl, rfl⟩

theorem Leaves.sameArrivals {l : List TRef} (h : Leaves l s t) : SameArrivals s t where
  len := h.len
  replays k := by rw [State.launch, h.launches, State.launch]
  group x := by
    rw [h.group x]
    exact ⟨rfl, rfl, rfl⟩

/-! ## A group whose last thread exits (R118) -/

/-- What retiring leaves of a group. -/
def Group.retire (gr : Group) : Group :=
  { gr with state := .retired, spillAt := none, record := none, burn := 0, chans := [], bars := [], rdvs := [] }

/-- The second state differs from the first in cores and stacks alone. -/
def UnitsOnly (s u : State) : Prop := ∃ cs ks, u = { s with cores := cs, stackTbl := ks }

theorem unitsOnly_setCore (h : UnitsOnly s u) (c : Nat) (x : Core) : UnitsOnly s (u.setCore c x) := by
  obtain ⟨cs, ks, rfl⟩ := h
  exact ⟨_, _, rfl⟩

theorem unitsOnly_setStack (h : UnitsOnly s u) (k : Nat) (x : Stack) : UnitsOnly s (u.setStack k x) := by
  obtain ⟨cs, ks, rfl⟩ := h
  exact ⟨_, _, rfl⟩

theorem unitsOnly_releaseMat (s : State) (g : Nat) : UnitsOnly s (s.releaseMat g) := by
  have hsettle (u : State) (c : Nat) (h : UnitsOnly s u) : UnitsOnly s (u.settleMat c) := unitsOnly_setStack (unitsOnly_setCore (unitsOnly_setCore h ..) ..) ..
  exact hsettle _ _ (unitsOnly_setStack (unitsOnly_setCore (unitsOnly_setCore ⟨s.cores, s.stackTbl, rfl⟩ ..) ..) ..)

theorem freeGroup_parts (s : State) (g : Nat) (hspill : (s.group g).spillAt = none) (hrec : (s.group g).record = none) :
    ∃ cs ks, s.freeGroup g = ({ s with cores := cs, stackTbl := ks } : State).modGroup g fun gr =>
      { gr with spillAt := none, record := none, burn := 0, chans := [], bars := [], rdvs := [], gbar := gr.gbar } := by
  unfold State.freeGroup
  dsimp only
  rw [hspill, hrec]
  obtain ⟨cs, ks, hmat⟩ := unitsOnly_releaseMat s g
  rw [hmat]
  exact ⟨cs, ks, rfl⟩

theorem drainCheck_parts (s : State) (l : Nat) : ∃ ls, s.drainCheck l = { s with launches := ls } ∧ SameArrivals s { s with launches := ls } := by
  have hrefl : SameArrivals s s := ⟨rfl, fun _ => rfl, fun _ => ⟨rfl, rfl, rfl⟩⟩
  unfold State.drainCheck
  dsimp only
  split
  · refine ⟨_, rfl, rfl, fun k => ?_, fun _ => ⟨rfl, rfl, rfl⟩⟩
    by_cases hk : k = l
    · subst hk
      exact modLaunch_replays s k fun _ => rfl
    · exact congrArg Launch.replays (launch_modLaunch_ne s _ hk)
  · exact ⟨s.launches, rfl, hrefl⟩

theorem retireCheck_retires (s : State) {g : Nat} (hg : g < s.groups.length) (hres : (s.group g).state = .resident)
    (hall : ∀ th ∈ (s.group g).threads, th.status = .exited) (hspill : (s.group g).spillAt = none) (hrec : (s.group g).record = none)
    (hnone : s.noArrivals (s.group g).launch) : let t := s.retireCheck g
    (t.group g).state = .retired ∧ (t.group g).threads = (s.group g).threads ∧ t.stores = s.stores ∧ t.mem = s.mem ∧ t.ctxs = s.ctxs ∧
      ∀ x, x ≠ g → t.group x = s.group x := by
  obtain ⟨cs, ks, hfree⟩ := freeGroup_parts s g hspill hrec
  let v : State := { s with cores := cs, stackTbl := ks }
  let w : State := v.modGroup g Group.retire
  have hw : (s.freeGroup g).modGroup g (fun gr => { gr with state := .retired }) = w := by
    rw [hfree]
    simp only [w, State.modGroup, List.modify_modify_eq]
    rfl
  have harrv : SameArrivals v w := sameArrivals_modGroup v g (f := Group.retire) hg fun _ => ⟨rfl, rfl, rfl⟩
  have harr : SameArrivals s w := ⟨harrv.len, harrv.replays, harrv.group⟩
  obtain ⟨ls, hdrain, hsame⟩ := drainCheck_parts w (s.group g).launch
  have hquiet := gbarCheck_idle _ (s.group g).launch (noArrivals_of (harr.trans hsame) hnone)
  have hgo : s.retireCheck g = ((w.drainCheck (s.group g).launch).gbarCheck (s.group g).launch) := by
    rw [← hw]
    exact if_pos ⟨hres, List.all_eq_true.mpr fun th hth => decide_eq_true (hall th hth)⟩
  intro t
  have ht : t = { w with launches := ls } := by rw [show t = s.retireCheck g from rfl, hgo, hdrain, hquiet]
  have hgroup : t.group g = (s.group g).retire := by
    rw [ht]
    exact group_modGroup_same v Group.retire hg
  rw [hgroup, ht]
  exact ⟨rfl, rfl, rfl, rfl, rfl, fun x hx => group_modGroup_ne v Group.retire hx⟩

/-! ## The exit seen from the state before -/

/-- What the statement needs of the state in which the thread has exited. -/
structure Exited (s : State) (r : TRef) (u : State) : Prop where
  same : SameButCopies [r] (s.unpolled r) u
  gone : (s.thread r).goneFrom (u.thread r)
  mem : u.mem = s.mem
  stores : u.stores = s.stores
  ctxs : u.ctxs = (s.unpolled r).ctxs
  group : ∀ x, u.group x = { s.group x with threads := (u.group x).threads }
  other : ∀ p, p ≠ r → u.thread p = s.thread p
  arrivals : SameArrivals s u
  has : ∀ p, u.hasThread p ↔ s.hasThread p

theorem exited_exitOf (hr : s.hasThread r) (hslots : ∀ o ∈ (s.thread r).outs, o.slot = none) : Exited s r (s.inSheaf.exitOf r) := by
  obtain ⟨hsame, hgone⟩ := exitOf_same s.inSheaf hr hslots
  obtain ⟨cs, hcs⟩ := unpolled_parts s r
  obtain ⟨ds, f, he, -, -⟩ := exitOf_parts s.inSheaf hr hslots
  obtain ⟨cs', hcs'⟩ := unpolled_parts s.inSheaf r
  have hsame' := sameButCopies_inSheaf hsame
  have hbut := hsame'.1
  obtain ⟨heq, hlen, hgroup, hother⟩ := hbut
  have hg (x : Nat) : (s.unpolled r).group x = s.group x := by rw [hcs]; rfl
  have hgroups (x : Nat) : (s.inSheaf.exitOf r).group x = { s.group x with threads := ((s.inSheaf.exitOf r).group x).threads } :=
    (hgroup x).trans (by rw [← hg x]; rfl)
  refine ⟨hsame', hgone, ?_, ?_, ?_, hgroups, fun p hp => ?_, ⟨?_, fun l => ?_, fun x => ?_⟩, fun p => ?_⟩
  · rw [heq, hcs]
  · rw [heq, hcs]
  · rw [heq]
  · exact (hother p (by simpa using hp)).trans (by rw [hcs]; rfl)
  · rw [hlen, hcs]
  · rw [State.launch, heq, hcs]; rfl
  · rw [hgroups x]
    exact ⟨rfl, rfl, rfl⟩
  · rw [he, hcs']
    exact hasThread_modThread _ r p f

section
variable (hx : Exited s r u)
include hx

theorem Exited.length : (u.group g).threads.length = (s.group g).threads.length := by
  by_cases hg : g < s.groups.length
  · have hiff (t : Nat) : t < (u.group g).threads.length ↔ t < (s.group g).threads.length := by
      have h := hx.has ⟨g, t⟩
      rw [State.hasThread, State.hasThread, hx.arrivals.len] at h
      exact ⟨fun ht => (h.mp ⟨hg, ht⟩).2, fun ht => (h.mpr ⟨hg, ht⟩).2⟩
    exact Nat.le_antisymm (Nat.le_of_not_lt fun h => lt_irrefl _ ((hiff _).mp h)) (Nat.le_of_not_lt fun h => lt_irrefl _ ((hiff _).mpr h))
  · rw [group_of_length_le s (Nat.not_lt.mp hg), group_of_length_le u (hx.arrivals.len ▸ Nat.not_lt.mp hg)]

theorem Exited.bars : (u.group g).bars = (s.group g).bars := by rw [hx.group]

/-- A thread that still lives keeps the group from retiring. -/
theorem Exited.live (hlast : ¬∀ t < (s.group r.g).threads.length, t ≠ r.t → (s.thread { g := r.g, t := t }).status = .exited) :
    ∃ k, k ≠ r.t ∧ (u.thread ⟨r.g, k⟩).status ≠ .exited := by
  simp only [not_forall] at hlast
  obtain ⟨k, -, hk, hlive⟩ := hlast
  refine ⟨k, hk, ?_⟩
  rwa [hx.other ⟨r.g, k⟩ fun h => hk (congrArg TRef.t h)]

end

theorem retireCheck_of_live {k : Nat} (h : (s.thread ⟨g, k⟩).status ≠ .exited) : s.retireCheck g = s := by
  obtain ⟨-, hlt⟩ := hasThread_of_status s h
  have hmem : s.thread ⟨g, k⟩ ∈ (s.group g).threads := by
    rw [State.thread, List.getD_eq_getElem?_getD, List.getElem?_eq_getElem hlt]
    exact List.getElem_mem hlt
  exact retireCheck_lives s g hmem h

theorem resident_of_oneOk {f : Form} (h : s.oneOk f r = true) : (s.group r.g).state = .resident := by
  simp only [State.oneOk, State.sheafOk, State.laneOk, State.canIssue, Bool.and_eq_true, decide_eq_true_eq, List.all_eq_true] at h
  obtain ⟨hs, -, hl⟩ := h
  obtain ⟨⟨⟨⟨⟨-, hres⟩, -⟩, -⟩, -⟩, -⟩ := hl r (by simp [hs])
  exact hres

/-- No barrier has an arrival, no other check finds anything, and another thread lives. -/
theorem exitChecks_idle {n : Nat} (hidle : ∀ nb ∈ (u.group r.g).bars, nb.arrived = 0) (hnone : u.noArrivals l) :
    u.exitChecks r n l = u.retireCheck r.g := by
  rw [State.exitChecks, namedChecks_idle u r.g fun b _ nb hnb => hidle nb (List.mem_of_getElem? hnb), gbarCheck_idle u l hnone]

theorem SameButCopies.stepped {v : State} (h : SameButCopies [r] v u) (f : Thread → Thread) : SameButCopies [r] v (u.tick.modThread r f) := by
  obtain ⟨⟨heq, hlen, hgroup, hother⟩, hdies⟩ := h
  have hshape : SameShape { v with dies := u.dies } (u.tick.modThread r f) := SameShape.modThread (SameShape.fresh ⟨heq, hlen, hgroup⟩ _) r f
  refine ⟨⟨hshape.1, hshape.2.1, hshape.2.2, fun p hp => ?_⟩, hdies⟩
  exact (thread_modThread_ne u.tick f (by simpa using hp)).trans (hother p hp)

/-! ## A barrier that lacked the thread alone (R242) -/

theorem missing_nil {x : Group} {nb : NBar} (h : ∀ k < x.threads.length, nb.members.testBit (k / 32) = true → (x.threads.getD k { status := .exited }).status ≠ .exited →
    nb.arrived.testBit k = true) : x.missing nb = [] := by
  refine List.filter_eq_nil_iff.mpr fun k hk hc => ?_
  have hlt := List.mem_range.mp hk
  have hdef : x.threads.getD k {} = x.threads.getD k { status := .exited } := by
    rw [List.getD_eq_getElem?_getD, List.getD_eq_getElem?_getD, List.getElem?_eq_getElem hlt]
    rfl
  rw [hdef, Bool.and_eq_true, Bool.and_eq_true, decide_eq_true_eq, Bool.not_eq_true'] at hc
  obtain ⟨⟨hmem, hlive⟩, harr⟩ := hc
  rw [h k hlt hmem hlive] at harr
  cases harr

theorem mem_barWaiters {b : Nat} (hg : q.g = g) (hw : (s.thread q).status = .waiting (.namedBar b)) : q ∈ s.barWaiters g b := by
  subst hg
  have hlive : (s.thread q).status ≠ .exited := by
    rw [hw]
    exact fun h => by cases h
  obtain ⟨-, hlt⟩ := hasThread_of_status s hlive
  exact List.mem_filter.mpr ⟨List.mem_map.mpr ⟨q.t, List.mem_range.mpr hlt, rfl⟩, decide_eq_true hw⟩

/-- The completed barrier's state, seen from the state in which the thread had exited. -/
theorem barrier_completes (hg : g < u.groups.length) {nb : NBar} (hb : (u.group g).bars[b]? = some nb) (harr : nb.arrived ≠ 0) (hmiss : (u.group g).missing nb = []) :
    let w := u.namedCheck g b
    w.mem = u.mem ∧ (w.group g).bars = (u.group g).bars.set b { nb with arrived := 0 } ∧ SameArrivals u w ∧
      (∀ p, (∀ k, (u.thread p).status ≠ .waiting k) → w.thread p = u.thread p) ∧ (∀ p, (w.thread p).status = .exited ↔ (u.thread p).status = .exited) ∧
      ∀ p, p.g = g → (u.thread p).status = .waiting (.namedBar b) → ∀ k, (w.thread p).status ≠ .waiting k := by
  intro w
  have hw : w = (u.barCleared g b nb).leaveBarriers 2 (u.barWaiters g b) := namedCheck_completes u g b hb harr hmiss
  have hclear : (u.barCleared g b nb).group g = { u.group g with bars := (u.group g).bars.set b { nb with arrived := 0 } } := group_modGroup_same u _ hg
  have hthread (p : TRef) : (u.barCleared g b nb).thread p = u.thread p := by
    by_cases hp : p.g = g
    · rw [State.thread, hp, hclear, State.thread, hp]
    · rw [State.thread, State.barCleared, group_modGroup_ne u _ hp, State.thread]
  have hleave := leaveBarriers_leaves (u.barCleared g b nb) 2 (u.barWaiters g b)
  rw [← hw] at hleave
  refine ⟨hleave.mem, ?_, ?_, fun p hp => ?_, fun p => ?_, fun p hpg hp k => ?_⟩
  · rw [hleave.group g, hclear]
  · have hcleared : SameArrivals u (u.barCleared g b nb) := sameArrivals_modGroup u g hg fun _ => ⟨rfl, rfl, rfl⟩
    exact hcleared.trans hleave.sameArrivals
  · refine (hleave.other p fun hmem => ?_).trans (hthread p)
    exact hp _ (of_decide_eq_true (List.mem_filter.mp hmem).2)
  · rw [hleave.exited p, hthread]
  · rw [hw]
    exact leaveBarriers_calm _ 2 (mem_barWaiters hpg hp) k

end Sys2Proof.Machine

open Sys2Proof Sys2Proof.Machine

/-- Settles O9: the thread's exit leaves the rest as it was, and each check that follows finds nothing, one barrier, or the whole group. -/
theorem exitEndsTheThread : Obligations.ExitEndsTheThread := by
  intro s sw r h hslots gr th base gone names last idle
  have hr := hasThread_of_oneOk h
  have hx := exited_exitOf hr hslots
  have hu (x : State) (hgone : th.goneFrom (x.thread r)) : gone (x.tick.modThread r (·.issued sw (th.pc + 4))) := gone_step hgone _
  constructor
  · rintro ⟨v, hv⟩
    have hmem : v ∈ s.namedRdvs r := (mem_namedRdvs s r v).mpr hv
    have hrun := exit_faults h (List.ne_nil_of_mem hmem)
    generalize s.inSheaf.exitOf r = w at hx hrun
    obtain ⟨hstatus, houts, hregs, hpc⟩ := hx.gone
    refine ⟨w.tick, _, hrun, fun l _ => ?_, ?_, ⟨hstatus, houts, hregs⟩, hpc⟩
    · rw [foldl_or_testBit, Nat.zero_testBit]
      simp only [Bool.false_eq_true, false_or, mem_namedRdvs]
      rfl
    · rw [← modThread_id w.tick r]
      exact hx.same.stepped id
  · intro hnames hgbar
    have hnil : s.namedRdvs r = [] := List.eq_nil_iff_forall_not_mem.mpr fun v hv => hnames v ((mem_namedRdvs s r v).mp hv)
    have hrun := exit_goes h hnil
    have hnone : (s.inSheaf.exitOf r).noArrivals gr.launch := noArrivals_of hx.arrivals hgbar
    have hbars : ((s.inSheaf.exitOf r).group r.g).bars = gr.bars := hx.bars
    have hlen : r.g < (s.inSheaf.exitOf r).groups.length := by
      rw [hx.arrivals.len]
      exact hr.1
    refine ⟨fun b nb hb harr hothers hlast hcomplete => ?_, fun hidle hlast => ?_, fun hidle hlast hspill hrec => ?_⟩
    · have hblt : b < gr.bars.length := (List.getElem?_eq_some_iff.mp hb).1
      have hmiss : ((s.inSheaf.exitOf r).group r.g).missing nb = [] := by
        refine missing_nil fun k hk hmem hlive => ?_
        have hne : k ≠ r.t := by
          rintro rfl
          exact hlive hx.gone.1
        rw [hx.length] at hk
        have hthread : (s.inSheaf.exitOf r).thread ⟨r.g, k⟩ = s.thread ⟨r.g, k⟩ := hx.other ⟨r.g, k⟩ fun e => hne (congrArg TRef.t e)
        exact hcomplete k hk hne hmem (hthread ▸ hlive)
      obtain ⟨hmem, hset, harrivals, hothr, hexit, hcalm⟩ :=
        barrier_completes (b := b) (nb := nb) hlen (hbars ▸ hb) harr hmiss
      have hchecks : (s.inSheaf.exitOf r).namedChecks r.g (List.range gr.bars.length) = (s.inSheaf.exitOf r).namedCheck r.g b := by
        refine namedChecks_one _ r.g b List.nodup_range (List.mem_range.mpr hblt) (fun c _ hne nb' hc => ?_) fun c _ hne => ?_
        · exact hothers c nb' (hbars ▸ hc) hne
        · rw [hset, List.getElem?_set_ne (Ne.symm hne)]
      obtain ⟨k, hk, hlive⟩ := hx.live hlast
      have hlive' : (((s.inSheaf.exitOf r).namedCheck r.g b).thread ⟨r.g, k⟩).status ≠ .exited := fun e => hlive ((hexit _).mp e)
      rw [State.exitChecks, hchecks, gbarCheck_idle _ _ (noArrivals_of harrivals hnone), retireCheck_of_live hlive'] at hrun
      have hrthread := hothr r fun k => by rw [hx.gone.1]; exact fun e => by cases e
      refine ⟨_, hrun, hmem.trans hx.mem, hu _ (hrthread ▸ hx.gone), ?_, fun q hq hne hw k => ?_⟩
      · rw [group_modThread]
        exact (congrArg (·[b]?) hset).trans (List.getElem?_set_self (hbars ▸ hblt))
      · rw [thread_modThread_ne _ _ hne]
        exact hcalm q hq (by rw [hx.other q hne]; exact hw) k
    · obtain ⟨k, hk, hlive⟩ := hx.live hlast
      rw [exitChecks_idle (hbars ▸ hidle) hnone, retireCheck_of_live hlive] at hrun
      exact ⟨_, hrun, hx.same.stepped _, hu _ hx.gone⟩
    · rw [exitChecks_idle (hbars ▸ hidle) hnone] at hrun
      have hgroup := hx.group r.g
      have hall : ∀ th ∈ ((s.inSheaf.exitOf r).group r.g).threads, th.status = .exited := by
        intro th hth
        obtain ⟨k, hk, rfl⟩ := List.mem_iff_getElem.mp hth
        have hthread : (s.inSheaf.exitOf r).thread ⟨r.g, k⟩ = ((s.inSheaf.exitOf r).group r.g).threads[k] := by
          rw [State.thread, List.getD_eq_getElem?_getD, List.getElem?_eq_getElem hk]
          rfl
        rw [← hthread]
        by_cases hkr : k = r.t
        · subst hkr
          exact hx.gone.1
        · rw [hx.other ⟨r.g, k⟩ fun e => hkr (congrArg TRef.t e)]
          exact hlast k (hx.length ▸ hk) hkr
      have hresident : ((s.inSheaf.exitOf r).group r.g).state = .resident := by
        rw [hgroup]
        exact resident_of_oneOk h
      obtain ⟨hstate, hthreads, hstores, hmem, hctxs, hothers⟩ := retireCheck_retires (s.inSheaf.exitOf r) hlen hresident hall
        (by rw [hgroup]; exact hspill) (by rw [hgroup]; exact hrec) (by rw [hgroup]; exact hnone)
      have hthread : ((s.inSheaf.exitOf r).retireCheck r.g).thread r = (s.inSheaf.exitOf r).thread r := by rw [State.thread, hthreads, State.thread]
      generalize (s.inSheaf.exitOf r).retireCheck r.g = w at hrun hstate hthreads hstores hmem hctxs hothers hthread
      refine ⟨_, hrun, ?_, hu w (hthread ▸ hx.gone), hstores.trans hx.stores, hmem.trans hx.mem, hctxs.trans hx.ctxs, fun q hq => ?_⟩
      · rw [group_modThread]
        exact hstate
      · have hne : q ≠ r := fun e => hq (congrArg TRef.g e)
        rw [thread_modThread_ne _ _ hne, ← hx.other q hne]
        exact congrArg (fun x : Group => x.threads.getD q.t { status := .exited }) (hothers q.g hq)
end

section
/-! HSPLIT (R338): the checks in their order, a split of a handle with weight left, and one of an exhausted handle through the core's reserved cell. -/

namespace Sys2Proof.Machine

variable {s t u : State} {r : TRef} {sw : Bool} {d a b : BitVec 7} {f : Form} {body : State → TRef → LaneRes} {code d0 d1 : Nat}

/-! ## The one lane's outcome -/

theorem runSheaf_fault (h : s.oneOk f r = true) (hb : body s.inSheaf r = .fault code d0 d1) :
    runSheaf f body s = .next (s.inSheaf.faultOf r code d0 d1) := by
  rw [runSheaf_one h, hb]
  rfl

theorem runSheaf_stay (h : s.oneOk f r = true) (hb : body s.inSheaf r = .stay t) : runSheaf f body s = .next t := by
  rw [runSheaf_one h, hb]

theorem runSheaf_again (h : s.oneOk f r = true) (hb : body s.inSheaf r = .again t) : runSheaf f body s = .next t.tick := by
  rw [runSheaf_one h, hb]

/-- The record of a fault whose lanes are the faulting lane alone is that of an ordinary fault. -/
theorem runSheaf_doneFault (h : s.oneOk f r = true) (hb : body s.inSheaf r = .doneFault t code d0 d1 (r.t / 32) (2 ^ (r.t % 32))) :
    runSheaf f body s = .next (t.tick.faultOf r code d0 d1) := by
  have hmask : laneMask r.g (r.t / 32) [r] = 2 ^ (r.t % 32) := by simp [laneMask]
  rw [runSheaf_one h, hb]
  simp only [State.faultOf, raiseFaults, List.map, Option.getD, hmask]

/-! ## The checks of HSPLIT -/

theorem not_eq_true_of {x : Bool} (h : x = false) : (!x) = true := by rw [h]; rfl
theorem not_not_of {x : Bool} (h : x = true) : ¬(!x) = true := by rw [h]; decide

/-- The share right, as the bit of the rights field. -/
theorem testBit_mod (n k : Nat) : n.testBit k = true ↔ ¬n / 2 ^ k % 2 = 0 := by
  rw [Nat.testBit_eq_decide_div_mod_eq, decide_eq_true_eq]
  omega

/-- A handle that HSPLIT may divide. -/
structure State.Splits (s : State) (r : TRef) (h : QWord) : Prop where
  sealed : s.sealOk (s.ctxOf r.g) h = true
  weight : hK h ≠ 63
  share : (hRights h).testBit 4 = true
  key : s.keyUsable (s.launchOf r.g) (hKey h) = true

theorem ne_zero_of_sealOk {c : Nat} {h : QWord} (hs : s.sealOk c h = true) : h ≠ 0 := by
  simp only [State.sealOk, Bool.and_eq_true, decide_eq_true_eq] at hs
  exact hs.1

section
variable {m : BitVec 6} (hok : s.oneOk { sw := sw, reads := [{ v := a, n := 4 }], writes := [{ v := d, n := 4 }] } r = true)
include hok

theorem hsplit_null (h0 : s.inSheaf.quad r a = 0) : exec (.hsplit sw d a m) s = .next (s.inSheaf.faultOf r 0x13 0 6) :=
  runSheaf_fault hok (if_pos h0)

theorem hsplit_unsealed (h0 : s.inSheaf.quad r a ≠ 0) (hs : s.sealOk (s.ctxOf r.g) (s.inSheaf.quad r a) = false) :
    exec (.hsplit sw d a m) s = .next (s.inSheaf.faultOf r 0x13 (hTarget (s.inSheaf.quad r a)) 1) :=
  runSheaf_fault hok ((if_neg h0).trans (if_pos (not_eq_true_of hs)))

theorem hsplit_sealK (hs : s.sealOk (s.ctxOf r.g) (s.inSheaf.quad r a) = true) (hk : hK (s.inSheaf.quad r a) = 63) :
    exec (.hsplit sw d a m) s = .next (s.inSheaf.faultOf r 0x13 (hTarget (s.inSheaf.quad r a)) 9) :=
  runSheaf_fault hok ((if_neg (ne_zero_of_sealOk hs)).trans ((if_neg (not_not_of hs)).trans (if_pos hk)))

theorem hsplit_unshared (hs : s.sealOk (s.ctxOf r.g) (s.inSheaf.quad r a) = true) (hk : hK (s.inSheaf.quad r a) ≠ 63)
    (hr : (hRights (s.inSheaf.quad r a)).testBit 4 = false) :
    exec (.hsplit sw d a m) s = .next (s.inSheaf.faultOf r 0x13 (hTarget (s.inSheaf.quad r a)) 2) :=
  runSheaf_fault hok ((if_neg (ne_zero_of_sealOk hs)).trans ((if_neg (not_not_of hs)).trans ((if_neg hk).trans (if_pos (by
    rw [← Bool.not_eq_true, testBit_mod, not_not] at hr
    exact hr)))))

theorem hsplit_keyless (hs : s.sealOk (s.ctxOf r.g) (s.inSheaf.quad r a) = true) (hk : hK (s.inSheaf.quad r a) ≠ 63)
    (hr : (hRights (s.inSheaf.quad r a)).testBit 4 = true) (hkey : s.keyUsable (s.launchOf r.g) (hKey (s.inSheaf.quad r a)) = false) :
    exec (.hsplit sw d a m) s = .next (s.inSheaf.faultOf r 0x13 (hTarget (s.inSheaf.quad r a)) 3) :=
  runSheaf_fault hok ((if_neg (ne_zero_of_sealOk hs)).trans ((if_neg (not_not_of hs)).trans ((if_neg hk).trans ((if_neg ((testBit_mod _ 4).mp hr)).trans
    (if_pos (not_eq_true_of hkey))))))

end

/-! ## Fields of a value -/

/-- A value as what stands under a field, the field, and what stands above it. -/
theorem split_at_field (n : Nat) {hi lo : Nat} (h : lo ≤ hi) : n = n % 2 ^ lo + (bits n hi lo + n / 2 ^ (hi + 1) * 2 ^ (hi - lo + 1)) * 2 ^ lo := by
  have hpow : 2 ^ (hi + 1) = 2 ^ lo * 2 ^ (hi - lo + 1) := by rw [← Nat.pow_add]; congr 1; omega
  rw [bits, Nat.shiftRight_eq_div_pow, hpow, ← Nat.div_div_eq_div_mul, Nat.mod_add_div', Nat.mod_add_div']

theorem putBits_eq (n v : Nat) {hi lo : Nat} (h : lo ≤ hi) :
    putBits n hi lo v = n % 2 ^ lo + (v % 2 ^ (hi - lo + 1) + n / 2 ^ (hi + 1) * 2 ^ (hi - lo + 1)) * 2 ^ lo := by
  have hn := split_at_field n h
  rw [Nat.add_mul] at hn ⊢
  unfold putBits
  omega

/-- A field above a place is that of what stands from there on. -/
theorem bits_above (x y : Nat) {k hi lo : Nat} (hx : x < 2 ^ k) (hk : k ≤ lo) (hl : lo ≤ hi) : bits (x + y * 2 ^ k) hi lo = bits y (hi - k) (lo - k) := by
  obtain ⟨j, rfl⟩ := Nat.exists_eq_add_of_le hk
  rw [bits, bits, Nat.shiftRight_eq_div_pow, Nat.shiftRight_eq_div_pow, Nat.pow_add, ← Nat.div_div_eq_div_mul, Nat.add_mul_div_right _ _ (Nat.two_pow_pos k),
    Nat.div_eq_of_lt hx, Nat.zero_add, Nat.add_sub_cancel_left, show hi - k - j = hi - (k + j) by omega]

theorem bits_mod (n : Nat) {k hi lo : Nat} (h : hi < k) (hl : lo ≤ hi) : bits (n % 2 ^ k) hi lo = bits n hi lo := by
  conv_rhs => rw [← Nat.mod_add_div' n (2 ^ k)]
  exact (bits_low _ _ _ _ _ h hl).symm

theorem bits_putBits_same (n v : Nat) {hi lo : Nat} (h : lo ≤ hi) : bits (putBits n hi lo v) hi lo = v % 2 ^ (hi - lo + 1) := by
  rw [putBits_eq n v h, bits_above _ _ (Nat.mod_lt _ (Nat.two_pow_pos _)) (Nat.le_refl _) h, bits_low _ _ _ _ _ (by omega) (by omega), bits]
  simp

theorem bits_putBits_below (n v : Nat) {hi lo hi' lo' : Nat} (h : lo ≤ hi) (h' : hi' < lo) (hl : lo' ≤ hi') :
    bits (putBits n hi lo v) hi' lo' = bits n hi' lo' := by
  rw [putBits_eq n v h, bits_low _ _ _ _ _ h' hl, bits_mod n h' hl]

theorem bits_putBits_above (n v : Nat) {hi lo hi' lo' : Nat} (h : lo ≤ hi) (h' : hi < lo') (hl : lo' ≤ hi') :
    bits (putBits n hi lo v) hi' lo' = bits n hi' lo' := by
  have habove (x : Nat) (hx : x < 2 ^ (hi - lo + 1)) : bits (n % 2 ^ lo + (x + n / 2 ^ (hi + 1) * 2 ^ (hi - lo + 1)) * 2 ^ lo) hi' lo' =
      bits (n / 2 ^ (hi + 1)) (hi' - lo - (hi - lo + 1)) (lo' - lo - (hi - lo + 1)) := by
    rw [bits_above _ _ (Nat.mod_lt _ (Nat.two_pow_pos _)) (by omega) hl, bits_above _ _ hx (by omega) (by omega)]
  conv_rhs => rw [split_at_field n h]
  rw [putBits_eq n v h, habove _ (Nat.mod_lt _ (Nat.two_pow_pos _)), habove (bits n hi lo) (Nat.mod_lt _ (Nat.two_pow_pos _))]

/-! ## The two halves of a handle with weight left -/

/-- The half that keeps the place of the handle: its weight is halved, which is not under the seal. -/
def lighter (h : QWord) : QWord := .ofNat 128 (putBits h.toNat 35 30 (hK h - 1))

/-- A handle with its rights masked, sealed anew. -/
def State.masked (s : State) (c : Nat) (h : QWord) (m : Nat) : QWord := s.sealed c (putBits h.toNat 57 52 (hRights h &&& m))

theorem bits_lt (n hi lo : Nat) : bits n hi lo < 2 ^ (hi - lo + 1) := Nat.mod_lt _ (Nat.two_pow_pos _)

theorem lighter_toNat (h : QWord) : (lighter h).toNat = putBits h.toNat 35 30 (hK h - 1) := by
  have hlt : putBits h.toNat 35 30 (hK h - 1) < 2 ^ 128 := by
    have hn := split_at_field h.toNat (show 30 ≤ 35 by decide)
    have hk : (hK h - 1) % 2 ^ 6 ≤ hK h := (Nat.mod_le _ _).trans (Nat.sub_le _ _)
    have hh := h.isLt
    rw [putBits_eq _ _ (by decide)]
    simp only [hK, show 35 - 30 + 1 = 6 from rfl] at hn hk ⊢
    omega
  rw [lighter, BitVec.toNat_ofNat, Nat.mod_eq_of_lt hlt]

theorem lighter_above (h : QWord) {hi lo : Nat} (hlo : 35 < lo) (hl : lo ≤ hi) : bits (lighter h).toNat hi lo = bits h.toNat hi lo := by
  rw [lighter_toNat, bits_putBits_above _ _ (by decide) hlo hl]

theorem lighter_below (h : QWord) {hi lo : Nat} (hhi : hi < 30) (hl : lo ≤ hi) : bits (lighter h).toNat hi lo = bits h.toNat hi lo := by
  rw [lighter_toNat, bits_putBits_below _ _ (by decide) hhi hl]

theorem lighter_sameTarget (h : QWord) : sameTarget (lighter h) h := by
  simp only [sameTarget, hHome, hIndex, hGen, hKey, hTag, hInd]
  rw [lighter_below h (by decide) (by decide), lighter_below h (by decide) (by decide), lighter_above h (by decide) (by decide),
    lighter_above h (by decide) (by decide), lighter_above h (by decide) (by decide), lighter_above h (by decide) (by decide)]
  exact ⟨rfl, rfl, rfl, rfl, rfl, rfl⟩

theorem lighter_rights (h : QWord) : hRights (lighter h) = hRights h := lighter_above h (by decide) (by decide)

theorem lighter_hK {h : QWord} (hk : hK h ≠ 0) : hK (lighter h) + 1 = hK h := by
  have hlt : hK h < 2 ^ 6 := bits_lt ..
  have hmod : hK (lighter h) = (hK h - 1) % 2 ^ 6 := by rw [hK, lighter_toNat, bits_putBits_same _ _ (by decide)]
  rw [hmod, Nat.mod_eq_of_lt (by omega)]
  omega

theorem lighter_sealRight {c : Nat} {h : QWord} (hs : s.sealOk c h = true) : s.sealRight c (lighter h) := by
  simp only [State.sealOk, Bool.and_eq_true, decide_eq_true_eq] at hs
  have hbody : hBody (lighter h) = hBody h := by
    rw [hBody, lighter_above h (by decide) (by decide), lighter_below h (by decide) (by decide), hBody]
  rw [State.sealRight, lighter_above h (by decide) (by decide), hs.2, State.sealOf, State.sealOf, hbody]

theorem sealed_sealRight (s : State) (c n : Nat) : s.sealRight c (s.sealed c n) := by
  rw [State.sealRight, sealed_toNat, bits_high _ _ _ _ (Nat.mod_lt _ (Nat.two_pow_pos _)) (by unfold State.sealOf; exact BitVec.isLt _)]
  simp only [State.sealOf, sealed_body]

theorem masked_bits (s : State) (c : Nat) (h : QWord) (m : Nat) {hi lo : Nat} (hhi : hi < 80) (hl : lo ≤ hi) (hout : hi < 52 ∨ 57 < lo) :
    bits (s.masked c h m).toNat hi lo = bits h.toNat hi lo := by
  rw [State.masked, sealed_bits _ _ _ _ _ hhi hl, bits_mod _ hhi hl]
  rcases hout with hout | hout
  · exact bits_putBits_below _ _ (by decide) hout hl
  · exact bits_putBits_above _ _ (by decide) hout hl

theorem masked_sameTarget (s : State) (c : Nat) (h : QWord) (m : Nat) : sameTarget (s.masked c h m) h := by
  simp only [sameTarget, hHome, hIndex, hGen, hKey, hTag, hInd]
  rw [masked_bits s c h m (by decide) (by decide) (by decide), masked_bits s c h m (by decide) (by decide) (by decide),
    masked_bits s c h m (by decide) (by decide) (by decide), masked_bits s c h m (by decide) (by decide) (by decide),
    masked_bits s c h m (by decide) (by decide) (by decide), masked_bits s c h m (by decide) (by decide) (by decide)]
  exact ⟨rfl, rfl, rfl, rfl, rfl, rfl⟩

theorem masked_hK (s : State) (c : Nat) (h : QWord) (m : Nat) : hK (s.masked c h m) = hK h := masked_bits s c h m (by decide) (by decide) (by decide)

theorem masked_rights (s : State) (c : Nat) (h : QWord) (m : Nat) : hRights (s.masked c h m) = hRights h &&& m := by
  have hlt : hRights h &&& m < 2 ^ 6 := Nat.lt_of_le_of_lt Nat.and_le_left (bits_lt ..)
  rw [hRights, State.masked, sealed_bits _ _ _ _ _ (by decide) (by decide), bits_mod _ (by decide) (by decide), bits_putBits_same _ _ (by decide)]
  exact Nat.mod_eq_of_lt hlt

theorem sameTarget.trans {h j k : QWord} (h1 : sameTarget h j) (h2 : sameTarget j k) : sameTarget h k := by
  obtain ⟨a1, a2, a3, a4, a5, a6⟩ := h1
  obtain ⟨b1, b2, b3, b4, b5, b6⟩ := h2
  exact ⟨a1.trans b1, a2.trans b2, a3.trans b3, a4.trans b4, a5.trans b5, a6.trans b6⟩

end Sys2Proof.Machine
end

section
/-! HSPLIT's effect: what it writes, and the reserved cell that keeps an exhausted handle (R332, R338). -/

namespace Sys2Proof.Machine

variable {s t u : State} {r : TRef} {sw : Bool} {d a b : BitVec 7}

theorem setRegs_eq (s : State) (r : TRef) (v : BitVec 7) (ws : List Word) : s.setRegs r v ws = s.modThread r (·.write v ws) := by
  unfold State.setRegs Thread.write
  split
  · exact (modThread_id s r).symm
  · rfl

/-- A change of a thread that leaves it as it is. -/
theorem modThread_of_fixed (s : State) (r : TRef) {f : Thread → Thread} (hf : f (s.thread r) = s.thread r) : s.modThread r f = s := by
  rw [← modThread_const, hf]
  exact (modThread_const s r id).trans (modThread_id s r)

/-- The end of polling clears a level and a counter of Headland, and nothing else (R74, R142). -/
theorem pollDone_parts (s : State) (r : TRef) : ∃ xs, s.pollDone r = ({ s with ctxs := xs } : State).modThread r (fun th => { th with level := 0 }) ∧
    ∀ z, tget {} xs z = { s.ctx z with headland := (tget {} xs z : Ctx).headland } := by
  unfold State.pollDone
  split
  · next h =>
    exact ⟨s.ctxs, (modThread_of_fixed s r (by rw [← h])).symm, fun _ => rfl⟩
  · refine ⟨tset s.ctxs (s.ctxOf r.g) { s.ctx (s.ctxOf r.g) with headland := 0 }, rfl, fun z => ?_⟩
    by_cases hz : z = s.ctxOf r.g
    · subst hz
      rw [tget_tset_same]
    · rw [tget_tset_ne _ _ _ hz]
      rfl

/-- A thread after a split: two handles written, and no back-off level. -/
def Thread.split (sw : Bool) (a d : BitVec 7) (x y : List Word) (pc : Int) (th : Thread) : Thread :=
  ({ (th.write a x).write d y with level := 0 } : Thread).issued sw pc

/-- The end of a split whose contexts and clusters are given. -/
theorem split_ends (s : State) (r : TRef) (xs : List (Nat × Ctx)) (cs : List (Nat × Cluster)) (x y : List Word) (pc : Int) :
    ∃ xs', ((((({ s with ctxs := xs, clusters := cs } : State).inSheaf.setRegs r a x).setRegs r d y).pollDone r).tick.modThread r (·.issued sw pc)) =
        ({ s with ctxs := xs', clusters := cs } : State).inSheaf.tick.modThread r (Thread.split sw a d x y pc) ∧
      ∀ z, tget {} xs' z = { (tget {} xs z : Ctx) with headland := (tget {} xs' z : Ctx).headland } := by
  have hboth : (({ s with ctxs := xs, clusters := cs } : State).inSheaf.setRegs r a x).setRegs r d y =
      ({ s with ctxs := xs, clusters := cs } : State).inSheaf.modThread r fun th => (th.write a x).write d y := by
    rw [setRegs_eq, setRegs_eq]
    exact modThread_modThread ..
  rw [hboth]
  obtain ⟨xs', hpoll, hxs⟩ := pollDone_parts (({ s with ctxs := xs, clusters := cs } : State).inSheaf.modThread r fun th => (th.write a x).write d y) r
  rw [hpoll]
  refine ⟨xs', ?_, hxs⟩
  refine (congrArg (fun w : State => w.modThread r (·.issued sw pc)) (modThread_modThread ({ s with ctxs := xs', clusters := cs } : State).inSheaf.tick r _ _)).trans ?_
  exact modThread_modThread ..

/-- A context whose counter of Headland alone has moved has its cells. -/
theorem cells_of_headland {x y : Ctx} (h : y = { x with headland := y.headland }) : y.cells = x.cells := by rw [h]

theorem with_cells_of_headland {x y : Ctx} (h : y = { x with headland := y.headland }) : y = { x with headland := y.headland, cells := y.cells } := by
  rw [cells_of_headland h]
  exact h

/-! ## The half of a handle with weight left (R338) -/

section
variable {m : BitVec 6} (hok : s.oneOk { sw := sw, reads := [{ v := a, n := 4 }], writes := [{ v := d, n := 4 }] } r = true)
include hok

/-- What a split writes, and the contexts it leaves. -/
def SplitWrites (s : State) (sw : Bool) (r : TRef) (a d : BitVec 7) (t : State) (x y : QWord) : Prop :=
  t.thread r = ({ ((s.thread r).write a (wordsOf 4 x.toNat)).write d (wordsOf 4 y.toNat) with level := 0 } : Thread).issued sw ((s.thread r).pc + 4) ∧
    ∀ z, t.ctx z = { s.ctx z with headland := (t.ctx z).headland, cells := (t.ctx z).cells }

theorem hsplit_halves (hsp : s.Splits r (s.inSheaf.quad r a)) (hk : hK (s.inSheaf.quad r a) ≠ 0) :
    let h := s.inSheaf.quad r a
    ∃ t, exec (.hsplit sw d a m) s = .next t ∧ SameBut [r] { s with ctxs := t.ctxs } t ∧
      SplitWrites s sw r a d t (lighter h) (s.masked (s.ctxOf r.g) (lighter h) m.toNat) ∧ ∀ z x, t.cell z x = s.cell z x := by
  intro h
  obtain ⟨hs, h63, hr, hkey⟩ := hsp
  have hrun : exec (.hsplit sw d a m) s = .next (((s.inSheaf.splitWeight r (s.ctxOf r.g) d a m.toNat h).pollDone r).tick.modThread r
      (·.issued sw ((s.thread r).pc + 4))) :=
    runSheaf_done hok ((if_neg (ne_zero_of_sealOk hs)).trans ((if_neg (not_not_of hs)).trans ((if_neg h63).trans ((if_neg ((testBit_mod _ 4).mp hr)).trans
      ((if_neg (not_not_of hkey)).trans (if_pos hk))))))
  have hwrites : s.inSheaf.splitWeight r (s.ctxOf r.g) d a m.toNat h = (s.inSheaf.setRegs r a (wordsOf 4 (lighter h).toNat)).setRegs r d
      (wordsOf 4 (s.masked (s.ctxOf r.g) (lighter h) m.toNat).toNat) := by
    rw [State.masked, lighter_toNat, lighter_rights]
    rfl
  obtain ⟨xs, hend, hxs⟩ := split_ends (sw := sw) (a := a) (d := d) s r s.ctxs s.clusters (wordsOf 4 (lighter h).toNat)
    (wordsOf 4 (s.masked (s.ctxOf r.g) (lighter h) m.toNat).toNat) ((s.thread r).pc + 4)
  obtain ⟨hsame, hthread⟩ := oneThread (s := { s with ctxs := xs, clusters := s.clusters }) (r := r)
    (show s.hasThread r from hasThread_of_oneOk hok)
    (Thread.split sw a d (wordsOf 4 (lighter h).toNat) (wordsOf 4 (s.masked (s.ctxOf r.g) (lighter h) m.toNat).toNat) ((s.thread r).pc + 4))
  refine ⟨_, hrun.trans (congrArg Host.Outcome.next ((by rw [hwrites]; exact hend))), hsame, ⟨hthread, fun z => with_cells_of_headland (hxs z)⟩, fun z x => ?_⟩
  exact congrArg (tget (freshCell x) · x) (cells_of_headland (hxs z))

end

/-! ## An exhausted handle (R332, R338) -/

/-- A core that reserves a cell takes a free one, and nothing else changes. -/
theorem reserveCell_parts (s : State) (c core : Nat) : ∃ xs, s.reserveCell c core = { s with ctxs := xs } ∧
    (∀ z, tget {} xs z = { s.ctx z with cells := (tget {} xs z : Ctx).cells }) ∧
    ∀ k, (s.cell c k).isFree = false → tget (freshCell k) (tget {} xs c : Ctx).cells k = s.cell c k := by
  unfold State.reserveCell
  split
  · next k hres hfree =>
    refine ⟨tset s.ctxs c { s.ctx c with cells := tset (s.ctx c).cells k { s.cell c k with reserved := some core } }, rfl, fun z => ?_, fun j hj => ?_⟩
    · by_cases hz : z = c
      · rw [hz, tget_tset_same]
      · rw [tget_tset_ne _ _ _ hz]
        rfl
    · have hjk : j ≠ k := by
        rintro rfl
        unfold State.freeCell at hfree
        split at hfree
        · cases hfree
        · rw [List.find?_some hfree] at hj
          cases hj
      rw [tget_tset_same]
      exact tget_tset_ne _ _ _ hjk
  · exact ⟨s.ctxs, rfl, fun _ => rfl, fun _ _ => rfl⟩

/-- The cell that keeps an exhausted handle until its creation arrives. -/
def State.keeper (s : State) (r : TRef) (k : Nat) (h : QWord) : Cell :=
  { gen := (s.cell (s.ctxOf r.g) k).gen, pending := true, kept := h, creator := (s.group r.g).launch }

/-- The contexts and the clusters after a core's reserved cell has taken a handle. -/
theorem splitCell_parts (s : State) (r : TRef) (k : Nat) (d a : BitVec 7) (mask : Nat) (h : QWord) :
    let c := s.ctxOf r.g
    let cl := (s.group r.g).core / 6
    let ih (rights : Nat) : QWord := s.sealed c (hFields cl (k % 65536) 61 (s.cell c k).gen rights (hKey h) (hTag h) 1)
    ∃ xs, s.splitCell r c k d a mask h = (({ s with
          ctxs := xs, clusters := tset s.clusters cl { s.cluster cl with cellsDue := (s.cluster cl).cellsDue ++ [(c, k)] } } : State).setRegs r a
          (wordsOf 4 (ih (hRights h)).toNat)).setRegs r d (wordsOf 4 (ih (hRights h &&& mask)).toNat) ∧
      (∀ z, tget {} xs z = { s.ctx z with cells := (tget {} xs z : Ctx).cells }) ∧
      tget (freshCell k) (tget {} xs c : Ctx).cells k = s.keeper r k h := by
  intro c cl ih
  have hkeeper : ((s.setCell c k (s.keeper r k h)).setCluster cl { s.cluster cl with cellsDue := (s.cluster cl).cellsDue ++ [(c, k)] }).cell c k =
      s.keeper r k h := by
    have hctx : ((s.setCell c k (s.keeper r k h)).setCluster cl { s.cluster cl with cellsDue := (s.cluster cl).cellsDue ++ [(c, k)] }).ctx c =
        { s.ctx c with cells := tset (s.ctx c).cells k (s.keeper r k h) } := ctx_setCtx ..
    rw [State.cell, hctx]
    exact tget_tset_same ..
  obtain ⟨xs, hres, hxs, hcell⟩ := reserveCell_parts
    ((s.setCell c k (s.keeper r k h)).setCluster cl { s.cluster cl with cellsDue := (s.cluster cl).cellsDue ++ [(c, k)] }) c (s.group r.g).core
  refine ⟨xs, congrArg (fun w : State => (w.setRegs r a (wordsOf 4 (ih (hRights h)).toNat)).setRegs r d (wordsOf 4 (ih (hRights h &&& mask)).toNat)) hres,
    fun z => ?_, ?_⟩
  · rw [hxs z]
    by_cases hz : z = c
    · have hctx : ((s.setCell c k (s.keeper r k h)).setCluster cl { s.cluster cl with cellsDue := (s.cluster cl).cellsDue ++ [(c, k)] }).ctx z =
          { s.ctx z with cells := tset (s.ctx z).cells k (s.keeper r k h) } := by
        rw [hz]
        exact ctx_setCtx ..
      rw [hctx]
    · have hctx : ((s.setCell c k (s.keeper r k h)).setCluster cl { s.cluster cl with cellsDue := (s.cluster cl).cellsDue ++ [(c, k)] }).ctx z = s.ctx z :=
        ctx_setCtx_ne s _ hz
      rw [hctx]
  · rw [hcell k (by rw [hkeeper]; rfl), hkeeper]

/-- The fields of a handle made of them (R327). -/
theorem sealed_hFields (s : State) (c : Nat) {home index k gen rights key atag : Nat} (hhome : home < 2 ^ 6) (hindex : index < 2 ^ 24) (hk : k < 2 ^ 6)
    (hgen : gen < 2 ^ 16) (hrights : rights < 2 ^ 6) (hkey : key < 2 ^ 6) (htag : atag < 2 ^ 4) :
    let y := s.sealed c (hFields home index k gen rights key atag 1)
    hHome y = home ∧ hIndex y = index ∧ hK y = k ∧ hInd y = true ∧ hGen y = gen ∧ hKey y = key ∧ hTag y = atag ∧ hRights y = rights := by
  intro y
  let fs := [(home, 6), (index, 24), (k, 6), (gen, 16), (rights, 6), (key, 6), (atag, 4), (1, 1)]
  have hfit : FieldsFit fs := by
    simp only [fs, fieldsFit_cons]
    exact ⟨hhome, hindex, hk, hgen, hrights, hkey, htag, by decide, fieldsFit_nil⟩
  have hsum : hFields home index k gen rights key atag 1 = fieldsNat fs := by
    simp only [hFields, fs, fieldsNat]
    omega
  have hlt : fieldsNat fs < 2 ^ 69 := fieldsNat_lt hfit
  obtain ⟨e1, e2, e3, e4, e5, e6, e7, e8⟩ := sealed_fields s c _ (hsum ▸ Nat.lt_trans hlt (by decide))
  obtain ⟨f1, f2, f3, f4, f5, f6, f7, f8, -⟩ := fieldsRead_of_fieldsNat (fld := fun lo w => hFields home index k gen rights key atag 1 >>> lo % 2 ^ w)
    (lo := 0) hfit fun k w => by rw [Nat.zero_add, Nat.shiftRight_eq_div_pow, hsum]
  exact ⟨e1.trans f1, e2.trans f2, e3.trans f3, e8.trans (decide_eq_true f8), e4.trans f4, e6.trans f6, e7.trans f7, e5.trans f5⟩

theorem runSheaf_congr {f : Form} {body body' : State → TRef → LaneRes} (h : s.oneOk f r = true) (hb : body s.inSheaf r = body' s.inSheaf r) :
    runSheaf f body s = runSheaf f body' s := by
  rw [runSheaf_one h, runSheaf_one h, hb]

/-- A split of an exhausted handle in a context with cells (R332, R338). -/
def State.splitExhausted (s : State) (r : TRef) (d a : BitVec 7) (mask : Nat) : LaneRes :=
  let c := s.ctxOf r.g
  let core := (s.group r.g).core
  match s.reservedCell c core with
  | some k =>
    if (s.cell c k).altered then .doneFault (s.killCell c k) 0x13 (core / 6 * 2 ^ 24 + k % 65536) 0xB (r.t / 32) (2 ^ (r.t % 32))
    else .done ((s.splitCell r c k d a mask (s.quad r a)).pollDone r)
  | none => if (s.freeCell c (core / 6)).isSome then .stay s else .again (s.backOff r none)

theorem splitExhausted_some {mask x : Nat} (hx : s.reservedCell (s.ctxOf r.g) (s.group r.g).core = some x) :
    s.splitExhausted r d a mask = if (s.cell (s.ctxOf r.g) x).altered then
      .doneFault (s.killCell (s.ctxOf r.g) x) 0x13 ((s.group r.g).core / 6 * 2 ^ 24 + x % 65536) 0xB (r.t / 32) (2 ^ (r.t % 32))
    else .done ((s.splitCell r (s.ctxOf r.g) x d a mask (s.quad r a)).pollDone r) := by
  unfold State.splitExhausted
  dsimp only
  rw [hx]

theorem splitExhausted_none {mask : Nat} (hx : s.reservedCell (s.ctxOf r.g) (s.group r.g).core = none) :
    s.splitExhausted r d a mask = if (s.freeCell (s.ctxOf r.g) ((s.group r.g).core / 6)).isSome then .stay s else .again (s.backOff r none) := by
  unfold State.splitExhausted
  dsimp only
  rw [hx]

theorem with_cells_of_both {x y z : Ctx} (h : y = { x with cells := y.cells }) (h' : z = { y with headland := z.headland }) :
    z = { x with headland := z.headland, cells := z.cells } := by
  rw [cells_of_headland h', h', h]

section
variable {m : BitVec 6} (hok : s.oneOk { sw := sw, reads := [{ v := a, n := 4 }], writes := [{ v := d, n := 4 }] } r = true)
  (hsp : s.Splits r (s.inSheaf.quad r a)) (hk : hK (s.inSheaf.quad r a) = 0)
include hok hsp hk

theorem hsplit_cellless (hno : ∀ x, (s.ctx (s.ctxOf r.g)).harea = some x → x.2.2 = 0) :
    exec (.hsplit sw d a m) s = .next (s.inSheaf.faultOf r 0x13 (hTarget (s.inSheaf.quad r a)) 0xA) := by
  obtain ⟨hs, h63, hr, hkey⟩ := hsp
  have hzero : ((s.ctx (s.ctxOf r.g)).harea.map fun x => x.2.2).getD 0 = 0 := by
    cases h : (s.ctx (s.ctxOf r.g)).harea with
    | none => rfl
    | some x => exact hno x h
  exact runSheaf_fault hok ((if_neg (ne_zero_of_sealOk hs)).trans ((if_neg (not_not_of hs)).trans ((if_neg h63).trans ((if_neg ((testBit_mod _ 4).mp hr)).trans
      ((if_neg (not_not_of hkey)).trans ((if_neg (not_not.mpr hk)).trans (if_pos hzero)))))))

/-- HSPLIT of an exhausted handle, in a context with cells, goes by the core's reserved cell. -/
theorem hsplit_exhausted {ab nt nc : Nat} (harea : (s.ctx (s.ctxOf r.g)).harea = some (ab, nt, nc + 1)) :
    exec (.hsplit sw d a m) s = runSheaf { sw := sw, reads := [{ v := a, n := 4 }], writes := [{ v := d, n := 4 }] }
      (fun u q => u.splitExhausted q d a m.toNat) s := by
  obtain ⟨hs, h63, hr, hkey⟩ := hsp
  have hsome : ¬((s.ctx (s.ctxOf r.g)).harea.map fun x => x.2.2).getD 0 = 0 := by
    rw [harea]
    exact Nat.succ_ne_zero nc
  exact runSheaf_congr hok ((if_neg (ne_zero_of_sealOk hs)).trans ((if_neg (not_not_of hs)).trans ((if_neg h63).trans ((if_neg ((testBit_mod _ 4).mp hr)).trans
      ((if_neg (not_not_of hkey)).trans ((if_neg (not_not.mpr hk)).trans (if_neg hsome)))))))

theorem hsplit_spoilt {ab nt nc x : Nat} (harea : (s.ctx (s.ctxOf r.g)).harea = some (ab, nt, nc + 1))
    (hx : s.reservedCell (s.ctxOf r.g) (s.group r.g).core = some x) (halt : (s.cell (s.ctxOf r.g) x).altered = true) :
    exec (.hsplit sw d a m) s = .next ((s.inSheaf.killCell (s.ctxOf r.g) x).tick.faultOf r 0x13 ((s.group r.g).core / 6 * 2 ^ 24 + x % 65536) 0xB) :=
  (hsplit_exhausted hok hsp hk harea).trans (runSheaf_doneFault hok ((splitExhausted_some (s := s.inSheaf) hx).trans (if_pos halt)))

theorem hsplit_waits {ab nt nc : Nat} (harea : (s.ctx (s.ctxOf r.g)).harea = some (ab, nt, nc + 1))
    (hx : s.reservedCell (s.ctxOf r.g) (s.group r.g).core = none) (hfree : s.freeCell (s.ctxOf r.g) ((s.group r.g).core / 6) ≠ none) :
    exec (.hsplit sw d a m) s = .next s.inSheaf :=
  (hsplit_exhausted hok hsp hk harea).trans (runSheaf_stay hok ((splitExhausted_none (s := s.inSheaf) hx).trans (if_pos (Option.isSome_iff_ne_none.mpr hfree))))

theorem hsplit_backsOff {ab nt nc : Nat} (harea : (s.ctx (s.ctxOf r.g)).harea = some (ab, nt, nc + 1))
    (hx : s.reservedCell (s.ctxOf r.g) (s.group r.g).core = none) (hfree : s.freeCell (s.ctxOf r.g) ((s.group r.g).core / 6) = none) :
    ∃ t, exec (.hsplit sw d a m) s = .next t ∧ SameBut [r] s t ∧
      (t.thread r).status = .backedOff (s.sliceCount (s.group r.g).core + 2 ^ min ((s.thread r).level + 1) 7) none ∧ (t.thread r).pc = (s.thread r).pc ∧
      (t.thread r).regs = (s.thread r).regs := by
  have hnone : ¬(s.freeCell (s.ctxOf r.g) ((s.group r.g).core / 6)).isSome = true := by rw [hfree]; decide
  obtain ⟨hsame, hthread⟩ := oneThread (hasThread_of_oneOk hok) fun th : Thread =>
    { th with level := min (th.level + 1) 7, status := .backedOff (s.sliceCount (s.group r.g).core + 2 ^ min (th.level + 1) 7) none, pollCh := none }
  exact ⟨_, (hsplit_exhausted hok hsp hk harea).trans (runSheaf_again hok ((splitExhausted_none (s := s.inSheaf) hx).trans (if_neg hnone))), hsame,
    (congrArg Thread.status hthread :), (congrArg Thread.pc hthread :), (congrArg Thread.regs hthread :)⟩

/-- Each of the two handles to a core's cell (R338). -/
def toCell (s : State) (c cl x : Nat) (h : QWord) (rights : Nat) (y : QWord) : Prop :=
  hHome y = cl ∧ hIndex y = x % 65536 ∧ hK y = 61 ∧ hInd y = true ∧ hGen y = (s.cell c x).gen ∧ hKey y = hKey h ∧ hTag y = hTag h ∧ s.sealRight c y ∧
    hRights y = rights

theorem hsplit_keeps {ab nt nc x : Nat} (harea : (s.ctx (s.ctxOf r.g)).harea = some (ab, nt, nc + 1))
    (hx : s.reservedCell (s.ctxOf r.g) (s.group r.g).core = some x) (halt : (s.cell (s.ctxOf r.g) x).altered = false)
    (hcl : (s.group r.g).core / 6 < 64) (hgen : (s.cell (s.ctxOf r.g) x).gen < 2 ^ 16) :
    let h := s.inSheaf.quad r a
    let c := s.ctxOf r.g
    let cl := (s.group r.g).core / 6
    ∃ t keep new, exec (.hsplit sw d a m) s = .next t ∧ SameBut [r] { s with ctxs := t.ctxs, clusters := t.clusters } t ∧ SplitWrites s sw r a d t keep new ∧
      t.cell c x = s.keeper r x h ∧ (t.cluster cl).cellsDue = (s.cluster cl).cellsDue ++ [(c, x)] ∧ toCell s c cl x h (hRights h) keep ∧
      toCell s c cl x h (hRights h &&& m.toNat) new := by
  intro h c cl
  have hto (rights : Nat) (hrights : rights < 2 ^ 6) :
      toCell s c cl x h rights (s.sealed c (hFields cl (x % 65536) 61 (s.cell c x).gen rights (hKey h) (hTag h) 1)) := by
    obtain ⟨e1, e2, e3, e4, e5, e6, e7, e8⟩ := sealed_hFields s c (index := x % 65536) (k := 61) (gen := (s.cell c x).gen) (rights := rights) (key := hKey h)
      (atag := hTag h) hcl (by omega) (by decide) hgen hrights (bits_lt ..) (bits_lt ..)
    exact ⟨e1, e2, e3, e4, e5, e6, e7, sealed_sealRight .., e8⟩
  obtain ⟨xs, hparts, hxs, hcell⟩ := splitCell_parts s.inSheaf r x d a m.toNat h
  generalize hkeep : s.sealed c (hFields cl (x % 65536) 61 (s.cell c x).gen (hRights h) (hKey h) (hTag h) 1) = keep
  generalize hnew : s.sealed c (hFields cl (x % 65536) 61 (s.cell c x).gen (hRights h &&& m.toNat) (hKey h) (hTag h) 1) = new
  have hrights : hRights h < 2 ^ 6 := bits_lt ..
  obtain ⟨xs', hend, hxs'⟩ := split_ends (sw := sw) (a := a) (d := d) s r xs
    (tset s.clusters cl { s.cluster cl with cellsDue := (s.cluster cl).cellsDue ++ [(c, x)] }) (wordsOf 4 keep.toNat) (wordsOf 4 new.toNat) ((s.thread r).pc + 4)
  obtain ⟨hsame, hthread⟩ := oneThread
    (s := { s with ctxs := xs', clusters := tset s.clusters cl { s.cluster cl with cellsDue := (s.cluster cl).cellsDue ++ [(c, x)] } }) (r := r)
    (show s.hasThread r from hasThread_of_oneOk hok) (Thread.split sw a d (wordsOf 4 keep.toNat) (wordsOf 4 new.toNat) ((s.thread r).pc + 4))
  have hrun := (hsplit_exhausted (m := m) hok hsp hk harea).trans (runSheaf_done hok ((splitExhausted_some (s := s.inSheaf) hx).trans (if_neg (fun e => Bool.noConfusion (halt.symm.trans e)))))
  refine ⟨_, keep, new, hrun.trans (congrArg Host.Outcome.next (Eq.trans ?_ hend)), hsame, ⟨hthread, fun z => ?_⟩, ?_, ?_, ?_, ?_⟩
  · rw [← hkeep, ← hnew]
    exact congrArg (fun w : State => (w.pollDone r).tick.modThread r (·.issued sw ((s.thread r).pc + 4))) hparts
  · exact with_cells_of_both (hxs z) (hxs' z)
  · exact (congrArg (tget (freshCell x) · x) (cells_of_headland (hxs' c))).trans hcell
  · exact congrArg Cluster.cellsDue (tget_tset_same ..)
  · rw [← hkeep]
    exact hto _ hrights
  · rw [← hnew]
    exact hto _ (Nat.lt_of_le_of_lt Nat.and_le_left hrights)

end

end Sys2Proof.Machine
end

section
/-! What a load through a view leaves: the views of cores, the copies of dies, and what its thread has seen (R213). -/

namespace Sys2Proof.Machine

variable {s t u : State} {r : TRef}

/-- A thread up to the stores that it has seen. -/
def Thread.unseen (th : Thread) : Thread := { th with seen := [] }

theorem eq_of_unseen {x y : Thread} (h : x.unseen = y.unseen) : x = { y with seen := x.seen } :=
  (congrArg (fun z : Thread => ({ z with seen := x.seen } : Thread)) h :)

/-- t is s but for views of cores, copies of dies, and what thread r has seen. -/
structure Viewed (r : TRef) (s t : State) : Prop where
  parts : ∃ f : Thread → Thread, t = ({ s with cores := t.cores, dies := t.dies } : State).modThread r f ∧ ∀ th, (f th).unseen = th.unseen
  core : ∀ k, t.core k = { s.core k with view := (t.core k).view }
  die : ∀ d, t.die d = { s.die d with copies := (t.die d).copies }

theorem Viewed.refl (s : State) : Viewed r s s := ⟨⟨id, (modThread_id s r).symm, fun _ => rfl⟩, fun _ => rfl, fun _ => rfl⟩

theorem Viewed.trans (h : Viewed r s t) (h' : Viewed r t u) : Viewed r s u where
  parts := by
    obtain ⟨f, ht, hf⟩ := h.parts
    obtain ⟨g, hu, hg⟩ := h'.parts
    refine ⟨g ∘ f, ?_, fun th => (hg _).trans (hf th)⟩
    rw [ht] at hu
    exact hu.trans (modThread_modThread ({ s with cores := u.cores, dies := u.dies } : State) r f g)
  core k := by rw [h'.core, h.core]
  die d := by rw [h'.die, h.die]

theorem sees_viewed (s : State) (r : TRef) (ids : List Nat) : Viewed r s (s.sees r ids) := by
  unfold State.sees
  split
  · exact .refl s
  · exact ⟨⟨_, rfl, fun _ => rfl⟩, fun _ => rfl, fun _ => rfl⟩

theorem Viewed.setCore (s : State) (k : Nat) (v : View) : Viewed r s (s.setCore k { s.core k with view := v }) where
  parts := ⟨id, (modThread_id (s.setCore k { s.core k with view := v }) r).symm, fun _ => rfl⟩
  core c := by
    by_cases hc : c = k
    · rw [hc, core_setCore]
    · rw [core_setCore_ne s _ hc]
  die _ := rfl

theorem Viewed.setDie (s : State) (d : Nat) (l : List Snap) : Viewed r s (s.setDie d { s.die d with copies := l }) where
  parts := ⟨id, (modThread_id (s.setDie d { s.die d with copies := l }) r).symm, fun _ => rfl⟩
  core _ := rfl
  die c := by
    by_cases hc : c = d
    · rw [hc, die_setDie]
    · rw [die_setDie_ne s _ hc]

theorem fetch_viewed (s : State) (c a need : Nat) : Viewed r s (s.fetch c a need).1 := by
  rw [State.fetch]
  split
  · exact .setCore s c _
  · extract_lets di cur
    split
    · exact .setCore s c _
    · exact (Viewed.setDie s (dieOfCore c) _).trans (.setCore _ c _)

/-- What a load of a byte leaves; about a function that is given, so that unfolding it leaves the addresses alone. -/
def ViewsByte (view : State → Nat → TRef → Nat → State × Byte) : Prop :=
  ∀ s c r a, ∃ t ids v, view s c r a = (State.sees t r ids, v) ∧ Viewed r s t

theorem viewByte_viewsByte : ViewsByte State.viewByte := by
  suffices h : ∀ view, view = State.viewByte → ViewsByte view from h _ rfl
  intro view hview
  delta State.viewByte at hview
  subst hview
  intro s c r a
  beta_reduce
  extract_lets es need
  split
  next t base hb =>
    refine ⟨t, _, _, rfl, ?_⟩
    split at hb
    · obtain ⟨rfl, rfl⟩ := Prod.mk.inj hb
      exact .refl s
    · split at hb
      · obtain ⟨rfl, rfl⟩ := Prod.mk.inj hb
        exact .refl s
      · obtain rfl : (s.fetch c a need).1 = t := congrArg Prod.fst hb
        exact fetch_viewed s c a need

theorem viewByte_viewed (s : State) (c : Nat) (r : TRef) (a : Nat) : Viewed r s (s.viewByte c r a).1 := by
  obtain ⟨t, ids, v, hview, ht⟩ := viewByte_viewsByte s c r a
  rw [hview]
  exact ht.trans (sees_viewed t r ids)

/-- A load of more bytes goes on from what the load of the first leaves; about functions that are given. -/
def GoesOnFrom (byte : State → Nat → TRef → Nat → State × Byte) (bytes : State → Nat → TRef → Nat → Nat → State × List Byte) : Prop :=
  ∀ s c r a, (bytes s c r a 0).1 = s ∧ ∀ n, (bytes s c r a (n + 1)).1 = (bytes (byte s c r a).1 c r (a + 1) n).1

theorem viewBytes_goesOn : GoesOnFrom State.viewByte State.viewBytes := by
  suffices h : ∀ byte, byte = State.viewByte → ∀ bytes, bytes = State.viewBytes → GoesOnFrom byte bytes from h _ rfl _ rfl
  intro byte hbyte bytes hbytes
  delta State.viewBytes at hbytes
  generalize hf : @State.viewBytes._f = f at hbytes
  delta State.viewBytes._f at hf
  rw [← hbyte] at hf
  clear hbyte
  subst hf hbytes
  exact fun _ _ _ _ => ⟨rfl, fun _ => rfl⟩

theorem viewBytes_viewed (s : State) (c : Nat) (r : TRef) (a n : Nat) : Viewed r s (s.viewBytes c r a n).1 := by
  induction n generalizing s a with
  | zero =>
    rw [(viewBytes_goesOn s c r a).1]
    exact .refl s
  | succ n ih =>
    rw [(viewBytes_goesOn s c r a).2]
    exact (viewByte_viewed s c r a).trans (ih ..)

end Sys2Proof.Machine
end

section
/-! HDROP, HBIND and HNEW (R336, R337, R339). -/

namespace Sys2Proof.Machine

variable {s t u v : State} {r : TRef} {sw : Bool} {d a b : BitVec 7}

/-! ## Frames -/

/-- A change of one thread, with fresh names spent. -/
theorem sameBut_spent (s : State) (n k : Nat) (r : TRef) (f : Thread → Thread) : SameBut [r] s (({ s with fresh := n, sheafId := k } : State).modThread r f) :=
  SameBut.of ((((SameShape.refl s).fresh n).sheafId k).modThread r f) fun _ hq => thread_modThread_ne _ _ (by simpa using hq)

theorem eq_of_unpublished {x y : Thread} (h : x.unpublished = y.unpublished) :
    x = { y with after := x.after, engAfter := x.engAfter, obs := x.obs, obsEng := x.obsEng } :=
  (congrArg (fun z : Thread => ({ z with after := x.after, engAfter := x.engAfter, obs := x.obs, obsEng := x.obsEng } : Thread)) h :)

/-- A core with an entry more in its queue H. -/
theorem core_enqueue (s : State) (k : Nat) (e : Entry) (z : Nat) : (s.setCore k { s.core k with hq := (s.core k).hq ++ [e] }).core z =
    if z = k then { s.core k with hq := (s.core k).hq ++ [e] } else s.core z := by
  by_cases hz : z = k
  · rw [hz, if_pos rfl, core_setCore]
  · rw [if_neg hz, core_setCore_ne s _ hz]

/-- The entry that a thread's operation on a handle is in queue H. -/
def State.handed (s : State) (r : TRef) (k : Nat) (op : HOp) : Entry :=
  { id := s.fresh, iss := s.issuer r, work := .hand op, ord := s.fresh, at0 := s.cycles (k / 6) }

/-- An operation on a handle placed last in queue H of a core. -/
def State.hand (s : State) (r : TRef) (k : Nat) (op : HOp) : State :=
  s.tick.setCore k { s.tick.core k with hq := (s.tick.core k).hq ++ [s.handed r k op] }

/-- The state in which copies of dies have been dropped, and an entry placed in queue H of a core. -/
def State.handedOver (s : State) (ds : List (Nat × Die)) (k : Nat) (e : Entry) : State :=
  { s with dies := ds, cores := tset s.cores k { s.core k with hq := (s.core k).hq ++ [e] } }

/-- The end of an instruction that has changed its thread, dropped copies of dies, and placed an operation in queue H. -/
theorem hand_ends (s : State) (r : TRef) (k n m : Nat) (ds : List (Nat × Die)) (f g : Thread → Thread) (op : HOp) :
    let v := ({ s with dies := ds, fresh := n, sheafId := m } : State).modThread r f
    (v.hand r k op).tick.modThread r g = ({ s.handedOver ds k (v.handed r k op) with fresh := n + 2, sheafId := m } : State).modThread r (g ∘ f) := by
  intro v
  exact modThread_modThread ({ s.handedOver ds k (v.handed r k op) with fresh := n + 2, sheafId := m } : State) r f g

/-- What such an instruction leaves. -/
theorem handedOver_step (hr : s.hasThread r) (ds : List (Nat × Die)) (k n m : Nat) (e : Entry) (f : Thread → Thread) :
    let t := ({ s.handedOver ds k e with fresh := n, sheafId := m } : State).modThread r f
    SameBut [r] { s with cores := t.cores, dies := t.dies } t ∧ t.thread r = f (s.thread r) ∧ (∀ d, t.die d = tget {} ds d) ∧
      ∀ z, t.core z = if z = k then { s.core k with hq := (s.core k).hq ++ [e] } else s.core z :=
  ⟨sameBut_spent (s.handedOver ds k e) n m r f, thread_modThread_same ({ s.handedOver ds k e with fresh := n, sheafId := m } : State) f hr, fun _ => rfl,
    core_enqueue s k e⟩

/-! ## HDROP (R339) -/

section
variable (hok : s.oneOk { sw := sw, reads := [{ v := a, n := 4 }], access := true } r = true)
include hok

theorem hdrop_null (h0 : s.inSheaf.quad r a = 0) : ∃ t, exec (.hdrop sw a) s = .next t ∧ SameBut [r] s t ∧
    t.thread r = ((s.thread r).write a [0, 0, 0, 0]).issued sw ((s.thread r).pc + 4) := by
  have hno : ¬(s.sealOk (s.ctxOf r.g) (s.inSheaf.quad r a) = true ∧ (!s.keyUsable (s.launchOf r.g) (hKey (s.inSheaf.quad r a))) = true) := fun h =>
    ne_zero_of_sealOk h.1 h0
  obtain ⟨hsame, hthread⟩ := oneThread (hasThread_of_oneOk hok) ((·.issued sw ((s.thread r).pc + 4)) ∘ (·.write a [0, 0, 0, 0]))
  have hend : (s.inSheaf.setRegs r a [0, 0, 0, 0]).tick.modThread r (·.issued sw ((s.thread r).pc + 4)) =
      s.inSheaf.tick.modThread r ((·.issued sw ((s.thread r).pc + 4)) ∘ (·.write a [0, 0, 0, 0])) := by
    rw [setRegs_eq]
    exact modThread_modThread s.inSheaf.tick r _ _
  exact ⟨_, (runSheaf_done hok ((if_neg hno).trans (if_pos h0))).trans (congrArg Host.Outcome.next hend), hsame, hthread⟩

theorem hdrop_keyless (hs : s.sealOk (s.ctxOf r.g) (s.inSheaf.quad r a) = true)
    (hkey : s.keyUsable (s.launchOf r.g) (hKey (s.inSheaf.quad r a)) = false) :
    exec (.hdrop sw a) s = .next (s.inSheaf.faultOf r 0x13 (hTarget (s.inSheaf.quad r a)) 3) :=
  runSheaf_fault hok (if_pos ⟨hs, not_eq_true_of hkey⟩)

/-- The post of a drop stands last in queue H after the thread has published at the scope that holds the home. -/
theorem hdrop_posts (h0 : s.inSheaf.quad r a ≠ 0) (hgo : s.sealOk (s.ctxOf r.g) (s.inSheaf.quad r a) = false ∨
      s.keyUsable (s.launchOf r.g) (hKey (s.inSheaf.quad r a)) = true) :
    let k := (s.group r.g).core
    let th := s.thread r
    ∃ t e x y o b, exec (.hdrop sw a) s = .next t ∧ SameButCopies [r] { s with cores := t.cores } t ∧ e.work = .hand (.post (s.inSheaf.quad r a)) ∧
      e.iss.thr = r ∧ t.thread r = ({ th.write a [0, 0, 0, 0] with after := x, engAfter := y, obs := o, obsEng := b } : Thread).issued sw (th.pc + 4) ∧
      ∀ z, t.core z = if z = k then { s.core k with hq := (s.core k).hq ++ [e] } else s.core z := by
  intro k th
  have hno : ¬(s.sealOk (s.ctxOf r.g) (s.inSheaf.quad r a) = true ∧ (!s.keyUsable (s.launchOf r.g) (hKey (s.inSheaf.quad r a))) = true) := by
    rintro ⟨hs, hk⟩
    rcases hgo with e | e
    · rw [hs] at e
      cases e
    · rw [e] at hk
      cases hk
  have hrun : exec (.hdrop sw a) s = .next ((((s.inSheaf.setRegs r a [0, 0, 0, 0]).publish r (homeScope k (hHome (s.inSheaf.quad r a)))).hand r k
      (.post (s.inSheaf.quad r a))).tick.modThread r (·.issued sw (th.pc + 4))) := runSheaf_done hok ((if_neg hno).trans (if_neg h0))
  obtain ⟨ds, f, hpub, hcopies, hf⟩ := publish_parts (s.inSheaf.setRegs r a [0, 0, 0, 0]) r (homeScope k (hHome (s.inSheaf.quad r a)))
  have hparts : (s.inSheaf.setRegs r a [0, 0, 0, 0]).publish r (homeScope k (hHome (s.inSheaf.quad r a))) =
      ({ s with dies := ds, fresh := s.fresh + 1, sheafId := s.fresh } : State).modThread r (f ∘ (·.write a [0, 0, 0, 0])) := by
    rw [hpub, setRegs_eq]
    exact modThread_modThread ({ s with dies := ds, fresh := s.fresh + 1, sheafId := s.fresh } : State) r _ _
  rw [hparts, hand_ends] at hrun
  generalize he : State.handed _ r k (.post (s.inSheaf.quad r a)) = e at hrun
  obtain ⟨hsame, hthread, hdie, hcore⟩ := handedOver_step (hasThread_of_oneOk hok) ds k (s.fresh + 1 + 2) s.fresh e
    ((·.issued sw (th.pc + 4)) ∘ f ∘ (·.write a [0, 0, 0, 0]))
  generalize State.modThread { s.handedOver ds k e with fresh := s.fresh + 1 + 2, sheafId := s.fresh } r
    ((·.issued sw (th.pc + 4)) ∘ f ∘ (·.write a [0, 0, 0, 0])) = t at hrun hsame hthread hdie hcore
  have hdies (x : Nat) : t.die x = { s.die x with copies := (t.die x).copies } := by
    have hx := hcopies x
    rw [setRegs_eq] at hx
    rw [hdie]
    exact hx
  let y := f (th.write a [0, 0, 0, 0])
  have hy : y = { th.write a [0, 0, 0, 0] with after := y.after, engAfter := y.engAfter, obs := y.obs, obsEng := y.obsEng } := eq_of_unpublished (hf _)
  exact ⟨t, e, y.after, y.engAfter, y.obs, y.obsEng, hrun, ⟨hsame, hdies⟩, by rw [← he]; rfl, by rw [← he]; rfl,
    hthread.trans (congrArg (·.issued sw (th.pc + 4)) hy), hcore⟩

end

/-! ## HBIND (R337) -/

/-- HBIND to a bin of its launch: the handle's checks, and the request (R337). -/
def State.bindTo (s : State) (r : TRef) (a b : BitVec 7) (bin : Nat) : LaneRes :=
  let h := s.quad r a
  let la := s.launch (s.group r.g).launch
  if !s.sealOk la.ctx h then .fault 0x13 (hTarget h) 1
  else if hRights h / 32 % 2 = 0 then .fault 0x13 (hTarget h) 2
  else if !s.keyUsable la (hKey h) then .fault 0x13 (hTarget h) 3
  else .done (s.hand r (s.group r.g).core (.bind h bin (s.reg r b)))

section
variable (hok : s.oneOk { sw := sw, reads := [{ v := d }, { v := a, n := 4 }, { v := b }], access := true } r = true)
include hok

theorem hbind_binless (hx : s.binOf (s.launchOf r.g) (s.inSheaf.reg r d).toNat = none) :
    exec (.hbind sw d a b) s = .next (s.inSheaf.faultOf r 0x01 0 (s.inSheaf.reg r d).toNat) :=
  runSheaf_fault hok (by
    have hx' : s.inSheaf.binOf (s.inSheaf.launch (s.inSheaf.group r.g).launch) (s.inSheaf.reg r d).toNat = none := hx
    dsimp only
    rw [hx'])

variable {x : Nat} (hx : s.binOf (s.launchOf r.g) (s.inSheaf.reg r d).toNat = some x)
include hx

theorem hbind_found : exec (.hbind sw d a b) s =
    runSheaf { sw := sw, reads := [{ v := d }, { v := a, n := 4 }, { v := b }], access := true } (fun u q => u.bindTo q a b x) s :=
  runSheaf_congr hok (by
    have hx' : s.inSheaf.binOf (s.inSheaf.launch (s.inSheaf.group r.g).launch) (s.inSheaf.reg r d).toNat = some x := hx
    dsimp only
    rw [hx']
    rfl)

theorem hbind_unsealed (hs : s.sealOk (s.ctxOf r.g) (s.inSheaf.quad r a) = false) :
    exec (.hbind sw d a b) s = .next (s.inSheaf.faultOf r 0x13 (hTarget (s.inSheaf.quad r a)) 1) :=
  (hbind_found hok hx).trans (runSheaf_fault hok (if_pos (not_eq_true_of hs)))

theorem hbind_rightless (hs : s.sealOk (s.ctxOf r.g) (s.inSheaf.quad r a) = true) (hr : (hRights (s.inSheaf.quad r a)).testBit 5 = false) :
    exec (.hbind sw d a b) s = .next (s.inSheaf.faultOf r 0x13 (hTarget (s.inSheaf.quad r a)) 2) :=
  (hbind_found hok hx).trans (runSheaf_fault hok ((if_neg (not_not_of hs)).trans (if_pos (by
    rw [← Bool.not_eq_true, testBit_mod, not_not] at hr
    exact hr))))

theorem hbind_keyless (hs : s.sealOk (s.ctxOf r.g) (s.inSheaf.quad r a) = true) (hr : (hRights (s.inSheaf.quad r a)).testBit 5 = true)
    (hkey : s.keyUsable (s.launchOf r.g) (hKey (s.inSheaf.quad r a)) = false) :
    exec (.hbind sw d a b) s = .next (s.inSheaf.faultOf r 0x13 (hTarget (s.inSheaf.quad r a)) 3) :=
  (hbind_found hok hx).trans (runSheaf_fault hok ((if_neg (not_not_of hs)).trans ((if_neg ((testBit_mod _ 5).mp hr)).trans
    (if_pos (not_eq_true_of hkey)))))

theorem hbind_binds (hs : s.sealOk (s.ctxOf r.g) (s.inSheaf.quad r a) = true) (hr : (hRights (s.inSheaf.quad r a)).testBit 5 = true)
    (hkey : s.keyUsable (s.launchOf r.g) (hKey (s.inSheaf.quad r a)) = true) :
    let k := (s.group r.g).core
    ∃ t e, exec (.hbind sw d a b) s = .next t ∧ SameBut [r] { s with cores := t.cores } t ∧
      e.work = .hand (.bind (s.inSheaf.quad r a) x (s.inSheaf.reg r b)) ∧ t.thread r = (s.thread r).issued sw ((s.thread r).pc + 4) ∧
      ∀ z, t.core z = if z = k then { s.core k with hq := (s.core k).hq ++ [e] } else s.core z := by
  intro k
  have hrun : exec (.hbind sw d a b) s = .next ((s.inSheaf.hand r k (.bind (s.inSheaf.quad r a) x (s.inSheaf.reg r b))).tick.modThread r
      (·.issued sw ((s.thread r).pc + 4))) :=
    (hbind_found hok hx).trans (runSheaf_done hok ((if_neg (not_not_of hs)).trans ((if_neg ((testBit_mod _ 5).mp hr)).trans
      (if_neg (not_not_of hkey)))))
  obtain ⟨hsame, hthread, -, hcore⟩ := handedOver_step (hasThread_of_oneOk hok) s.dies k (s.fresh + 1 + 2) s.fresh
    (s.inSheaf.handed r k (.bind (s.inSheaf.quad r a) x (s.inSheaf.reg r b))) (·.issued sw ((s.thread r).pc + 4))
  exact ⟨_, _, hrun, hsame, rfl, hthread, hcore⟩

end

end Sys2Proof.Machine
end

section
/-! HNEW (R336): the checks of its image, and the request that it leaves at the service furrow of its cluster. -/

namespace Sys2Proof.Machine

variable {s t u v : State} {r : TRef} {sw : Bool} {d a : BitVec 7} {x : Ctx} {la : Launch} {img : Packet}

/-! ## The image's own checks -/

/-- An image whose fields are not those of an image (R336). -/
def oddImage (img : Packet) : Prop :=
  bits img.toNat 80 32 ≠ 0 ∨ bits img.toNat 511 448 ≠ 0 ∨ recSpan img = 0 ∨ bits img.toNat 321 319 < 1 ∨ 5 < bits img.toNat 321 319 ∨ 512 < recInd img

/-- A format that a table does not have. -/
def Ctx.deadFormat (x : Ctx) (e : Nat) : Prop := e = 14 ∨ Desc.valid (x.entry e) = false

theorem deadFormat_iff {e : Nat} : (decide (e = 14) || !(x.entry e).valid) = true ↔ x.deadFormat e := by
  rw [Bool.or_eq_true, decide_eq_true_eq, Bool.not_eq_true']
  rfl

theorem imageFault_odd (h : oddImage img) : s.imageFault x la img = some (0x13, 8) := if_pos h

theorem imageFault_format (h : ¬oddImage img) (hf : x.deadFormat (recFmt img)) : s.imageFault x la img = some (0x0A, recFmt img) :=
  (if_neg h).trans (if_pos (deadFormat_iff.mpr hf))

theorem imageFault_scale (h : ¬oddImage img) (hf : ¬x.deadFormat (recFmt img)) (hg : recGeom img ≠ 0) (hs : x.deadFormat (recSfmt img)) :
    s.imageFault x la img = some (0x0A, recSfmt img) :=
  (if_neg h).trans ((if_neg (mt deadFormat_iff.mp hf)).trans (if_pos ⟨hg, deadFormat_iff.mpr hs⟩))

theorem imageFault_key (h : ¬oddImage img) (hf : ¬x.deadFormat (recFmt img)) (hs : recGeom img ≠ 0 → ¬x.deadFormat (recSfmt img)) :
    s.imageFault x la img = if !s.keyUsable la (recKey img) then some (0x13, 3) else none :=
  (if_neg h).trans ((if_neg (mt deadFormat_iff.mp hf)).trans (if_neg fun hscale => hs hscale.1 (deadFormat_iff.mp hscale.2)))

/-! ## What the view leaves for the checks -/

theorem Viewed.tableOf (h : Viewed r s v) : v.tableOf r = s.tableOf r := by
  obtain ⟨f, hv, -⟩ := h.parts
  have hshape : SameShape ({ s with cores := v.cores, dies := v.dies } : State) v := by
    rw [hv]
    exact (SameShape.refl _).modThread r f
  have hctxs : v.ctxs = s.ctxs := by rw [hv]; rfl
  have hreqs : v.fmtReqs = s.fmtReqs := by rw [hv]; rfl
  simp only [State.tableOf, State.fmtCtx, State.ctx, hctxs, hreqs, hshape.ctxOf, hshape.coreIdx]
  rfl

theorem Viewed.keyUsable (h : Viewed r s v) (la : Launch) (k : Nat) : v.keyUsable la k = s.keyUsable la k := by
  obtain ⟨f, hv, -⟩ := h.parts
  have hctxs : v.ctxs = s.ctxs := by rw [hv]; rfl
  have hkeys : v.keys = s.keys := by rw [hv]; rfl
  unfold State.keyUsable State.key State.ctx
  rw [hctxs, hkeys]

/-! ## The request -/

/-- The request that a thread's HNEW is. -/
def State.hnewReq (s : State) (r : TRef) (la : Launch) (img : Packet) : HnewReq :=
  { id := s.fresh + 1, iss := s.issuer r, ctx := la.ctx, image := img, out := s.fresh }

/-- A cluster with one request more for its service furrow. -/
def Cluster.asked (x : Cluster) (q : HnewReq) : Cluster := { x with hnews := x.hnews ++ [q] }

/-- An HNEW marks its context and launch and leaves its request at a cluster (R113, R336). -/
def State.placeHnew (s : State) (r : TRef) (d : BitVec 7) (l cl : Nat) (la : Launch) (img : Packet) : State :=
  let s := s.setCtx la.ctx { s.ctx la.ctx with usedHnew := true }
  let s := s.modLaunch l fun la => { la with escaped := true }
  let q := s.hnewReq r la img
  let s := (s.issueOut r { v := d, n := 4 } .awaited).tick
  s.setCluster cl ((s.cluster cl).asked q)

/-- HNEW of a thread, once its image has been read. -/
def State.hnewOf (v : State) (r : TRef) (d : BitVec 7) (off l cl : Nat) (la : Launch) (img : Packet) : LaneRes :=
  match v.imageFault (v.tableOf r) la img with
  | some (code, d1) => .fault code off d1
  | none => .done (v.placeHnew r d l cl la img)

theorem hnewOf_bad {off l cl code d1 : Nat} (h : v.imageFault (v.tableOf r) la img = some (code, d1)) :
    v.hnewOf r d off l cl la img = .fault code off d1 := by
  unfold State.hnewOf
  rw [h]

theorem hnewOf_good {off l cl : Nat} (h : v.imageFault (v.tableOf r) la img = none) : v.hnewOf r d off l cl la img = .done (v.placeHnew r d l cl la img) := by
  unfold State.hnewOf
  rw [h]

/-- What an HNEW writes beside its thread. -/
def State.hnewMarks (s : State) (l cl : Nat) (la : Launch) (q : HnewReq) : State :=
  let s' := (s.setCtx la.ctx { s.ctx la.ctx with usedHnew := true }).modLaunch l fun la => { la with escaped := true }
  s'.tick.tick.setCluster cl ((s.cluster cl).asked q)

theorem hnewMarks_cluster (s : State) (l cl : Nat) (la : Launch) (q : HnewReq) : (s.hnewMarks l cl la q).cluster cl = (s.cluster cl).asked q := by
  unfold State.hnewMarks
  exact cluster_setCluster ..

theorem hnewMarks_groups (s : State) (l cl : Nat) (la : Launch) (q : HnewReq) : (s.hnewMarks l cl la q).groups = s.groups := by
  simp [State.hnewMarks]

theorem hnewMarks_parts (s : State) (l cl : Nat) (la : Launch) (q : HnewReq) : let w := s.hnewMarks l cl la q
    w = { ({ s with ctxs := w.ctxs, launches := w.launches, clusters := w.clusters } : State) with fresh := w.fresh } := by
  unfold State.hnewMarks
  rfl

theorem tick_modThread (s : State) (r : TRef) (f : Thread → Thread) : (s.modThread r f).tick = s.tick.modThread r f := rfl

theorem setCluster_modThread (s : State) (r : TRef) (f : Thread → Thread) (c : Nat) (x : Cluster) :
    (s.modThread r f).setCluster c x = (s.setCluster c x).modThread r f := rfl

theorem placeHnew_eq (s : State) (r : TRef) (d : BitVec 7) (l cl : Nat) (la : Launch) (img : Packet) : s.placeHnew r d l cl la img =
    (s.hnewMarks l cl la (s.hnewReq r la img)).modThread r fun th => th.await { v := d, n := 4 } s.fresh .awaited none := by
  have hreq (s' : State) (hs : s' = { s with ctxs := s'.ctxs, launches := s'.launches }) : s'.hnewReq r la img = s.hnewReq r la img := by
    rw [hs]
    rfl
  unfold State.placeHnew
  dsimp only
  rw [hreq _ rfl]
  generalize s.hnewReq r la img = q
  have hcl (s' : State) (hs : s'.clusters = s.clusters) : s'.cluster cl = s.cluster cl := cluster_of_clusters hs cl
  rw [hcl, issueOut_eq, tick_modThread, setCluster_modThread]
  · rfl
  · rfl

theorem hnewMarks_modThread (s : State) (r : TRef) (f : Thread → Thread) (l cl : Nat) (la : Launch) (q : HnewReq) :
    (s.modThread r f).hnewMarks l cl la q = (s.hnewMarks l cl la q).modThread r f := rfl

/-- What a placed HNEW leaves, from the view of its image. -/
theorem placeHnew_step {f : Thread → Thread} (hf : ∀ th, (f th).unseen = th.unseen) (hr : s.hasThread r) (l cl : Nat) (la : Launch) (img : Packet) (pc : Int) :
    let v := s.inSheaf.modThread r f
    let t := (v.placeHnew r d l cl la img).tick.modThread r (·.issued sw pc)
    let q := v.hnewReq r la img
    SameBut [r] { s with ctxs := t.ctxs, launches := t.launches, clusters := t.clusters } t ∧
      (∃ seen, t.thread r = (({ s.thread r with seen := seen } : Thread).await { v := d, n := 4 } q.out .awaited none).issued sw pc) ∧
      (t.cluster cl).hnews = (s.cluster cl).hnews ++ [q] := by
  intro v t q
  let g : Thread → Thread := (·.issued sw pc) ∘ (fun th : Thread => th.await { v := d, n := 4 } q.out .awaited none) ∘ f
  have ht : t = (s.inSheaf.hnewMarks l cl la q).tick.modThread r g := by
    change State.modThread (State.tick _) r _ = _
    rw [placeHnew_eq, hnewMarks_modThread, modThread_modThread, tick_modThread, modThread_modThread]
    rfl
  have hparts := hnewMarks_parts s.inSheaf l cl la q
  have hcluster := hnewMarks_cluster s.inSheaf l cl la q
  have hgroups := hnewMarks_groups s.inSheaf l cl la q
  rw [ht]
  generalize s.inSheaf.hnewMarks l cl la q = w at hparts hcluster hgroups
  have hthread : w.thread r = s.thread r := by rw [State.thread, State.group, hgroups]; rfl
  have hhas : w.tick.hasThread r := by
    unfold State.hasThread State.group
    rw [show w.tick.groups = s.groups from hgroups]
    exact hr
  have hsame := sameBut_spent { s with ctxs := w.ctxs, launches := w.launches, clusters := w.clusters } (w.fresh + 1) s.fresh r g
  have hw : w.tick = { ({ s with ctxs := w.ctxs, launches := w.launches, clusters := w.clusters } : State) with fresh := w.fresh + 1, sheafId := s.fresh } :=
    congrArg State.tick hparts
  rw [← hw] at hsame
  refine ⟨hsame, ⟨(f (s.thread r)).seen, ?_⟩, congrArg Cluster.hnews hcluster⟩
  rw [← eq_of_unseen (hf _), thread_modThread_same w.tick g hhas, show w.tick.thread r = s.thread r from hthread]
  rfl

/-- What a request that is placed after a view of the image leaves. -/
theorem placeHnew_leaves (hr : s.hasThread r) (hview : Viewed r s.inSheaf v) (l cl : Nat) (la : Launch) (img : Packet) (pc : Int) :
    let t := (v.placeHnew r d l cl la img).tick.modThread r (·.issued sw pc)
    let q := v.hnewReq r la img
    SameView [r] { s with ctxs := t.ctxs, launches := t.launches, clusters := t.clusters } t ∧
      (∃ seen, t.thread r = (({ s.thread r with seen := seen } : Thread).await { v := d, n := 4 } q.out .awaited none).issued sw pc) ∧
      (t.cluster cl).hnews = (s.cluster cl).hnews ++ [q] := by
  intro t q
  obtain ⟨f, hv, hf⟩ := hview.parts
  let s1 : State := { s with cores := v.cores, dies := v.dies }
  have hv1 : v = s1.inSheaf.modThread r f := hv
  obtain ⟨hsame, hthread, hcluster⟩ := placeHnew_step (s := s1) (sw := sw) (d := d) hf hr l cl la img pc
  rw [← hv1] at hsame hthread hcluster
  change SameBut [r] { s1 with ctxs := t.ctxs, launches := t.launches, clusters := t.clusters } t at hsame
  have hcores : t.cores = v.cores := by rw [hsame.1]
  have hdies : t.dies = v.dies := by rw [hsame.1]
  refine ⟨⟨?_, fun k => ?_, fun k => ?_⟩, hthread, hcluster⟩
  · rw [hcores, hdies]
    exact hsame
  · rw [State.core, hcores]
    exact hview.core k
  · rw [State.die, hdies]
    exact hview.die k

/-- The bytes that a thread's HNEW reads, and what reading them leaves. -/
def State.imageView (s : State) (r : TRef) (off : Nat) : State × List Byte :=
  s.viewBytes (s.group r.g).core r (gmemAddr (s.group r.g).core ((s.group r.g).gbase + off)) 64

theorem imageView_viewed (s : State) (r : TRef) (off : Nat) : Viewed r s (s.imageView r off).1 := by
  unfold State.imageView
  exact viewBytes_viewed ..

section
variable (hok : s.oneOk { sw := sw, reads := [{ v := a }], writes := [{ v := d, n := 4 }], var := true, access := true } r = true)
include hok

theorem hnew_misaligned (h : (s.inSheaf.reg r a).toNat % 64 ≠ 0) :
    exec (.hnew sw d a) s = .next (s.inSheaf.faultOf r 0x09 (s.inSheaf.reg r a).toNat 64) :=
  runSheaf_fault hok (if_pos h)

theorem hnew_outside (h : (s.inSheaf.reg r a).toNat % 64 = 0) (hout : (s.launchOf r.g).hdr.gmem < (s.inSheaf.reg r a).toNat + 64) :
    exec (.hnew sw d a) s = .next (s.inSheaf.faultOf r 0x05 (s.inSheaf.reg r a).toNat 0) :=
  runSheaf_fault hok ((if_neg (not_not.mpr h)).trans (if_pos hout))

theorem hnew_waits (h : (s.inSheaf.reg r a).toNat % 64 = 0) (hin : (s.inSheaf.reg r a).toNat + 64 ≤ (s.launchOf r.g).hdr.gmem)
    (hown : s.ownAtom r (gmemAddr (s.group r.g).core ((s.group r.g).gbase + (s.inSheaf.reg r a).toNat)) 64 = true) :
    exec (.hnew sw d a) s = .next s.inSheaf :=
  runSheaf_stay hok ((if_neg (not_not.mpr h)).trans ((if_neg (Nat.not_lt.mpr hin)).trans (if_pos hown)))

theorem hnew_views (h : (s.inSheaf.reg r a).toNat % 64 = 0) (hin : (s.inSheaf.reg r a).toNat + 64 ≤ (s.launchOf r.g).hdr.gmem)
    (hown : s.ownAtom r (gmemAddr (s.group r.g).core ((s.group r.g).gbase + (s.inSheaf.reg r a).toNat)) 64 = false) :
    exec (.hnew sw d a) s = runSheaf { sw := sw, reads := [{ v := a }], writes := [{ v := d, n := 4 }], var := true, access := true } (fun u q =>
      (u.imageView q (u.reg q a).toNat).1.hnewOf q d (u.reg q a).toNat (u.group q.g).launch ((u.group q.g).core / 6) (u.launchOf q.g)
        (.ofNat 512 (ofBytes (u.imageView q (u.reg q a).toNat).2))) s := by
  refine runSheaf_congr hok ((if_neg (not_not.mpr h)).trans ((if_neg (Nat.not_lt.mpr hin)).trans ((if_neg ?_).trans ?_)))
  · rw [Bool.not_eq_true]
    exact hown
  · rw [State.imageView]
    generalize State.viewBytes _ _ _ _ 64 = p
    obtain ⟨v, bs⟩ := p
    rfl

section
variable (h : (s.inSheaf.reg r a).toNat % 64 = 0) (hin : (s.inSheaf.reg r a).toNat + 64 ≤ (s.launchOf r.g).hdr.gmem)
  (hown : s.ownAtom r (gmemAddr (s.group r.g).core ((s.group r.g).gbase + (s.inSheaf.reg r a).toNat)) 64 = false)
include h hin hown

theorem hnew_bad {code d1 : Nat} (hbad : (s.inSheaf.imageView r (s.inSheaf.reg r a).toNat).1.imageFault
      ((s.inSheaf.imageView r (s.inSheaf.reg r a).toNat).1.tableOf r) (s.inSheaf.launchOf r.g)
      (.ofNat 512 (ofBytes (s.inSheaf.imageView r (s.inSheaf.reg r a).toNat).2)) = some (code, d1)) :
    exec (.hnew sw d a) s = .next (s.inSheaf.faultOf r code (s.inSheaf.reg r a).toNat d1) :=
  (hnew_views hok h hin hown).trans (runSheaf_fault hok (hnewOf_bad hbad))

/-- An HNEW whose image passes its checks places its request. -/
theorem hnew_places (hgood : (s.inSheaf.imageView r (s.inSheaf.reg r a).toNat).1.imageFault
      ((s.inSheaf.imageView r (s.inSheaf.reg r a).toNat).1.tableOf r) (s.inSheaf.launchOf r.g)
      (.ofNat 512 (ofBytes (s.inSheaf.imageView r (s.inSheaf.reg r a).toNat).2)) = none) :
    exec (.hnew sw d a) s = .next (((s.inSheaf.imageView r (s.inSheaf.reg r a).toNat).1.placeHnew r d (s.inSheaf.group r.g).launch
      ((s.inSheaf.group r.g).core / 6) (s.inSheaf.launchOf r.g) (.ofNat 512 (ofBytes (s.inSheaf.imageView r (s.inSheaf.reg r a).toNat).2))).tick.modThread r
      (·.issued sw ((s.thread r).pc + 4))) :=
  (hnew_views hok h hin hown).trans (runSheaf_done hok (hnewOf_good hgood))

end

end

end Sys2Proof.Machine
end

section
/-! HREC and HINFO (R340, R341). -/

namespace Sys2Proof.Machine

variable {s t u : State} {r : TRef} {sw : Bool} {d a b : BitVec 7}

/-! ## HREC (R340) -/

/-- A core with an entry more in one of its copy queues. -/
def Core.queued (x : Core) (q : Nat) (e : Entry) : Core := { x with copyQ := x.copyQ.set q (x.copyQ.getD q [] ++ [e]) }

/-- A monitor that counts changes its cluster alone. -/
theorem monitor_parts (s : State) (core x k n : Nat) : ∃ cs, s.monitor core x k n = { s with clusters := cs } := by
  unfold State.monitor
  dsimp only
  split
  · exact ⟨_, rfl⟩
  · exact ⟨s.clusters, rfl⟩

/-- An entry that joins a copy queue changes its core, and the monitors of clusters. -/
theorem placeCopy_parts (s : State) (c q : Nat) (e : Entry) :
    ∃ cs, s.placeCopy c q e = { s with cores := tset s.cores c ((s.core c).queued q e), clusters := cs } := by
  unfold State.placeCopy State.placeEntry
  dsimp only
  exact monitor_parts (s.setCore c ((s.core c).queued q e)) _ _ _ _

/-- What an instruction leaves whose result is outstanding at an entry that it has placed in a copy queue. -/
theorem placeCopy_step (hr : s.hasThread r) (c q : Nat) (e : Entry) (hq : q < (s.core c).copyQ.length) (f g : Thread → Thread) :
    let t := ((s.inSheaf.tick.tick.modThread r f).placeCopy c q e).tick.modThread r g
    SameBut [r] { s with cores := t.cores, clusters := t.clusters } t ∧ (t.core c).copyQ.getD q [] = (s.core c).copyQ.getD q [] ++ [e] ∧
      t.thread r = g (f (s.thread r)) := by
  intro t
  obtain ⟨cs, hcs⟩ := placeCopy_parts (s.inSheaf.tick.tick.modThread r f) c q e
  let w : State := { s with cores := tset s.cores c ((s.core c).queued q e), clusters := cs }
  have ht : t = ({ w with fresh := s.fresh + 4, sheafId := s.fresh } : State).modThread r (g ∘ f) := by
    change ((s.inSheaf.tick.tick.modThread r f).placeCopy c q e).tick.modThread r g = _
    rw [hcs]
    exact modThread_modThread ({ w with fresh := s.fresh + 4, sheafId := s.fresh } : State) r f g
  rw [ht]
  refine ⟨sameBut_spent w .., ?_, thread_modThread_same ({ w with fresh := s.fresh + 4, sheafId := s.fresh } : State) (g ∘ f) hr⟩
  have hcore : w.core c = (s.core c).queued q e := tget_tset_same ..
  refine (congrArg (fun x : Core => x.copyQ.getD q []) hcore).trans ?_
  unfold Core.queued
  rw [List.getD_eq_getElem?_getD, List.getElem?_set_self hq]
  rfl

/-- The entry that an HREC places in queue C3. -/
def State.hrecEntry (s : State) (r : TRef) (d a b : BitVec 7) : Entry :=
  { id := s.fresh + 1, ord := s.fresh + 1, iss := s.issuer r, work := .hrec (s.quad r a) b.toNat (s.reg r d).toNat s.fresh,
    at0 := s.cycles ((s.group r.g).core / 6) }

/-- HREC of a record and of an image of the launch: the handle's checks, the furrow's, and the entry. -/
def State.hrecOf (s : State) (r : TRef) (d a b : BitVec 7) : LaneRes :=
  let h := s.quad r a
  let la := s.launchOf r.g
  if h = 0 then .fault 0x13 0 6
  else if !s.sealOk la.ctx h then .fault 0x13 (hTarget h) 1
  else if !s.keyUsable la (hKey h) then .fault 0x13 (hTarget h) 3
  else if !s.isProducer r then .fault 0x0D 0 0
  else if s.roomC3 (s.group r.g).core = 0 then .stay s
  else .done ((s.tick.tick.modThread r fun th => th.await { v := d } s.fresh .awaited none).placeCopy (s.group r.g).core 3 (s.hrecEntry r d a b))

section
variable (hok : s.oneOk { sw := sw, reads := [{ v := d }, { v := a, n := 4 }], writes := [{ v := d }], var := true, access := true } r = true)
include hok

theorem hrec_recordless (hb : (s.launchOf r.g).hdr.nrec ≤ b.toNat) : exec (.hrec sw d a b) s = .next (s.inSheaf.faultOf r 0x01 0 b.toNat) :=
  runSheaf_fault hok (if_pos hb)

theorem hrec_misaligned (hb : b.toNat < (s.launchOf r.g).hdr.nrec) (hal : (s.inSheaf.reg r d).toNat % 64 ≠ 0) :
    exec (.hrec sw d a b) s = .next (s.inSheaf.faultOf r 0x09 (s.inSheaf.reg r d).toNat 64) :=
  runSheaf_fault hok ((if_neg (Nat.not_le.mpr hb)).trans (if_pos hal))

theorem hrec_outside (hb : b.toNat < (s.launchOf r.g).hdr.nrec) (hal : (s.inSheaf.reg r d).toNat % 64 = 0)
    (hout : (s.launchOf r.g).hdr.gmem < (s.inSheaf.reg r d).toNat + 64) :
    exec (.hrec sw d a b) s = .next (s.inSheaf.faultOf r 0x05 (s.inSheaf.reg r d).toNat 0) :=
  runSheaf_fault hok ((if_neg (Nat.not_le.mpr hb)).trans ((if_neg (not_not.mpr hal)).trans (if_pos hout)))

variable (hin : b.toNat < (s.launchOf r.g).hdr.nrec ∧ (s.inSheaf.reg r d).toNat % 64 = 0 ∧ (s.inSheaf.reg r d).toNat + 64 ≤ (s.launchOf r.g).hdr.gmem)
include hin

theorem hrec_inside : exec (.hrec sw d a b) s =
    runSheaf { sw := sw, reads := [{ v := d }, { v := a, n := 4 }], writes := [{ v := d }], var := true, access := true } (fun u q => u.hrecOf q d a b) s :=
  runSheaf_congr hok ((if_neg (Nat.not_le.mpr hin.1)).trans ((if_neg (not_not.mpr hin.2.1)).trans (if_neg (Nat.not_lt.mpr hin.2.2))))

theorem hrec_null (h0 : s.inSheaf.quad r a = 0) : exec (.hrec sw d a b) s = .next (s.inSheaf.faultOf r 0x13 0 6) :=
  (hrec_inside hok hin).trans (runSheaf_fault hok (if_pos h0))

theorem hrec_unsealed (h0 : s.inSheaf.quad r a ≠ 0) (hs : s.sealOk (s.ctxOf r.g) (s.inSheaf.quad r a) = false) :
    exec (.hrec sw d a b) s = .next (s.inSheaf.faultOf r 0x13 (hTarget (s.inSheaf.quad r a)) 1) :=
  (hrec_inside hok hin).trans (runSheaf_fault hok ((if_neg h0).trans (if_pos (not_eq_true_of hs))))

theorem hrec_keyless (hs : s.sealOk (s.ctxOf r.g) (s.inSheaf.quad r a) = true)
    (hkey : s.keyUsable (s.launchOf r.g) (hKey (s.inSheaf.quad r a)) = false) :
    exec (.hrec sw d a b) s = .next (s.inSheaf.faultOf r 0x13 (hTarget (s.inSheaf.quad r a)) 3) :=
  (hrec_inside hok hin).trans (runSheaf_fault hok ((if_neg (ne_zero_of_sealOk hs)).trans ((if_neg (not_not_of hs)).trans (if_pos (not_eq_true_of hkey)))))

variable (hs : s.sealOk (s.ctxOf r.g) (s.inSheaf.quad r a) = true) (hkey : s.keyUsable (s.launchOf r.g) (hKey (s.inSheaf.quad r a)) = true)
include hs hkey

theorem hrec_elsewhere (hp : (s.launchOf r.g).hdr.producer ≠ some (r.t / 32)) : exec (.hrec sw d a b) s = .next (s.inSheaf.faultOf r 0x0D 0 0) :=
  (hrec_inside hok hin).trans (runSheaf_fault hok ((if_neg (ne_zero_of_sealOk hs)).trans ((if_neg (not_not_of hs)).trans ((if_neg (not_not_of hkey)).trans
    (if_pos (not_eq_true_of (decide_eq_false hp)))))))

variable (hp : (s.launchOf r.g).hdr.producer = some (r.t / 32))
include hp

theorem hrec_waits (hfull : s.roomC3 (s.group r.g).core = 0) : exec (.hrec sw d a b) s = .next s.inSheaf :=
  (hrec_inside hok hin).trans (runSheaf_stay hok ((if_neg (ne_zero_of_sealOk hs)).trans ((if_neg (not_not_of hs)).trans ((if_neg (not_not_of hkey)).trans
    ((if_neg (not_not_of (decide_eq_true hp))).trans (if_pos hfull))))))

theorem hrec_asks (hroom : 0 < s.roomC3 (s.group r.g).core) (hfour : (s.core (s.group r.g).core).copyQ.length = 4) :
    let k := (s.group r.g).core
    ∃ t e o, exec (.hrec sw d a b) s = .next t ∧ SameBut [r] { s with cores := t.cores, clusters := t.clusters } t ∧
      (t.core k).copyQ.getD 3 [] = (s.core k).copyQ.getD 3 [] ++ [e] ∧ e.work = .hrec (s.inSheaf.quad r a) b.toNat (s.inSheaf.reg r d).toNat o ∧
      e.iss.thr = r ∧ t.thread r = ((s.thread r).await { v := d } o .awaited none).issued sw ((s.thread r).pc + 4) := by
  intro k
  have hrun := (hrec_inside hok hin).trans (runSheaf_done hok ((if_neg (ne_zero_of_sealOk hs)).trans ((if_neg (not_not_of hs)).trans
    ((if_neg (not_not_of hkey)).trans ((if_neg (not_not_of (decide_eq_true hp))).trans (if_neg (Nat.ne_of_gt hroom)))))))
  obtain ⟨hsame, hqueue, hthread⟩ := placeCopy_step (hasThread_of_oneOk hok) k 3 (s.inSheaf.hrecEntry r d a b) (by rw [hfour]; decide)
    (fun th => th.await { v := d } s.inSheaf.fresh .awaited none) (·.issued sw ((s.thread r).pc + 4))
  exact ⟨_, s.inSheaf.hrecEntry r d a b, s.inSheaf.fresh, hrun, hsame, hqueue, rfl, rfl, hthread⟩

end

/-! ## HINFO (R341) -/

/-- A handle of a sound entry: its checks come down to those of the entry. -/
theorem look_sound {c : Nat} {h : QWord} (hs : s.sealOk c h = true) (hi : hInd h = false) (ha : (s.tensor c (hTarget h)).altered = false) :
    s.look c h = if (s.tensor c (hTarget h)).state = .live ∧ (s.tensor c (hTarget h)).gen = hGen h then .tensor (s.tensor c (hTarget h)) else .bad 0x14 0 :=
  (if_neg (not_not_of hs)).trans ((if_neg (ne_true_of_eq_false hi)).trans (if_neg (ne_true_of_eq_false ha)))

theorem hinfo_unsealed {c : Nat} {h : QWord} (hs : s.sealOk c h = false) : s.hinfo c h = some 3 := if_pos (not_eq_true_of hs)

theorem hinfo_live {c : Nat} {h : QWord} (hl : s.livesAt c h) :
    s.hinfo c h = some ((s.tensor c (hTarget h)).gen * 2 ^ 16 + Nat.log2 (2 ^ 62 - (s.tensor c (hTarget h)).returned) * 8) := by
  obtain ⟨hs, hi, ha, hlive, hgen⟩ := hl
  have hlook := look_sound hs hi ha
  rw [if_pos ⟨hlive, hgen⟩] at hlook
  refine (if_neg (not_not_of hs)).trans ?_
  rw [State.lookup, State.reachTensor, hlook, hi]
  simp [fullWeight]

theorem hinfo_dead {c : Nat} {h : QWord} (hd : s.deadAt c h) :
    s.hinfo c h = some ((s.tensor c (hTarget h)).gen % 2 ^ 16 * 2 ^ 16 +
      (if (s.tensor c (hTarget h)).state = .live then Nat.log2 (2 ^ 62 - (s.tensor c (hTarget h)).returned) * 8 else 0) +
      if (s.tensor c (hTarget h)).state = .dying then 1 else 2) := by
  obtain ⟨hs, hi, ha, hdead⟩ := hd
  have hlook := look_sound hs hi ha
  rw [if_neg (by rintro ⟨hlive, hgen⟩; exact hdead.elim (absurd hlive) (absurd hgen))] at hlook
  refine (if_neg (not_not_of hs)).trans ?_
  rw [State.lookup, State.reachTensor, hlook]
  simp only [hi, ha, fullWeight, Bool.not_false, Bool.true_and, Bool.and_true, decide_eq_true_eq, Bool.false_eq_true, if_false, Nat.add_zero, ite_mul, Nat.zero_mul]

section
variable (hok : s.oneOk { sw := sw, reads := [{ v := a, n := 4 }], writes := [{ v := d }], var := true, access := true } r = true)
include hok

theorem hinfo_waits (h0 : s.inSheaf.quad r a ≠ 0) (hrun : s.homeRuns (s.inSheaf.quad r a) = false) : exec (.hinfo sw d a) s = .next s.inSheaf :=
  runSheaf_stay hok (if_pos ⟨h0, not_eq_true_of hrun⟩)

theorem hinfo_tells (hrun : s.inSheaf.quad r a = 0 ∨ s.homeRuns (s.inSheaf.quad r a) = true) {w : Nat}
    (hw : s.inSheaf.hinfo (s.ctxOf r.g) (s.inSheaf.quad r a) = some w) : ∃ t o, exec (.hinfo sw d a) s = .next t ∧ SameBut [r] s t ∧
      t.thread r = ((s.thread r).await { v := d } o (.have [.ofNat 32 w]) none).issued sw ((s.thread r).pc + 4) := by
  have hgo : ¬(s.inSheaf.quad r a ≠ 0 ∧ (!s.homeRuns (s.inSheaf.quad r a)) = true) := by
    rintro ⟨h0, hno⟩
    exact hrun.elim (fun e => h0 e) fun e => not_not_of e hno
  have hstep : exec (.hinfo sw d a) s = .next ((s.inSheaf.issueVal r d 1 w).tick.modThread r (·.issued sw ((s.thread r).pc + 4))) :=
    runSheaf_done hok ((if_neg hgo).trans (by
      have hw' : s.inSheaf.hinfo (s.inSheaf.ctxOf r.g) (s.inSheaf.quad r a) = some w := hw
      rw [hw']))
  have hend := modThread_modThread ({ s with fresh := s.fresh + 3, sheafId := s.fresh } : State) r
    (fun th => th.await { v := d } s.inSheaf.fresh (.have [.ofNat 32 w]) none) (·.issued sw ((s.thread r).pc + 4))
  exact ⟨_, s.inSheaf.fresh, hstep.trans (congrArg Host.Outcome.next hend), sameBut_spent ..,
    thread_modThread_same ({ s with fresh := s.fresh + 3, sheafId := s.fresh } : State) _ (hasThread_of_oneOk hok)⟩

end

end Sys2Proof.Machine
end

section
/-! The statement on handles (R67, R142, R327 to R341). -/

namespace Sys2Proof.Machine

/-- The halves of a handle with weight left are of one target, and together weigh what it weighed (R338). -/
theorem halves_weigh {h : QWord} (hk : hK h ≠ 0) (s : State) (c m : Nat) :
    hWeight (lighter h) + hWeight (s.masked c (lighter h) m) = hWeight h := by
  rw [hWeight, hWeight, masked_hK, ← Nat.two_mul, ← Nat.pow_succ', hWeight, Nat.succ_eq_add_one, lighter_hK hk]

end Sys2Proof.Machine

open Sys2Proof Sys2Proof.Machine

/-- Settles O40: HSPLIT divides the weight in registers or by the core's cell, and each other instruction faults at its first failing check or leaves
one request. -/
theorem handlesIssue : Obligations.HandlesIssue := by
  intro s sw d a b r s0 th c k la h words fault
  refine ⟨fun m hok => ?_, fun hok => ?_, fun hok => ?_, fun hok => ?_, fun hok => ?_, fun hok => ?_⟩
  · intro writes good
    have hsp (hg : good) : s.Splits r (s.inSheaf.quad r a) := ⟨hg.1, hg.2.1, hg.2.2.1, hg.2.2.2⟩
    refine ⟨hsplit_null hok, hsplit_unsealed hok, hsplit_sealK hok, hsplit_unshared hok, hsplit_keyless hok, fun hg hk => ?_,
      fun hg hk hno => hsplit_cellless hok (hsp hg) hk hno, fun hg hk ab nt nc harea => ⟨fun x hx halt => hsplit_spoilt hok (hsp hg) hk harea hx halt,
        fun x hx halt hcl hgen => ?_, hsplit_waits hok (hsp hg) hk harea, hsplit_backsOff hok (hsp hg) hk harea⟩⟩
    · obtain ⟨t, hrun, hsame, hwrites, hcell⟩ := hsplit_halves hok (hsp hg) hk
      exact ⟨t, _, _, hrun, hsame, hwrites, hcell, lighter_sameTarget h, (masked_sameTarget s c _ _).trans (lighter_sameTarget h), lighter_hK hk,
        by rw [masked_hK]; exact lighter_hK hk, halves_weigh hk s c _, lighter_rights h, by rw [masked_rights, lighter_rights], lighter_sealRight hg.1,
        sealed_sealRight ..⟩
    · obtain ⟨t, keep, new, hrun, hsame, hwrites, hcell, hdue, hkeep, hnew⟩ := hsplit_keeps hok (hsp hg) hk harea hx halt hcl hgen
      refine ⟨t, keep, new, hrun, hsame, hwrites, hcell, hdue, fun y hy => ?_⟩
      rcases List.mem_pair.mp hy with rfl | rfl
      · obtain ⟨e1, e2, e3, e4, e5, e6, e7, e8, e9⟩ := hkeep
        exact ⟨e1, e2, e3, e4, e5, e6, e7, e8, e9.trans (if_pos rfl).symm⟩
      · obtain ⟨e1, e2, e3, e4, e5, e6, e7, e8, e9⟩ := hnew
        refine ⟨e1, e2, e3, e4, e5, e6, e7, e8, ?_⟩
        split
        · next hy => rw [hy]; exact hkeep.2.2.2.2.2.2.2.2
        · exact e9
  · exact ⟨hdrop_null hok, hdrop_keyless hok, hdrop_posts hok⟩
  · intro off img dims odd dead mine inside
    have himg : img = .ofNat 512 (ofBytes (s0.imageView r off).2) := rfl
    clear_value img
    have htable : (s0.imageView r off).1.tableOf r = s.tableOf r := (imageView_viewed s0 r off).tableOf
    have hkeys (k : Nat) : (s0.imageView r off).1.keyUsable la k = s.keyUsable la k := (imageView_viewed s0 r off).keyUsable la k
    have hbad {code d1 : Nat} (hin : inside) (h : (s0.imageView r off).1.imageFault (s.tableOf r) la img = some (code, d1)) :
        fault (.hnew sw d a) code off d1 := by
      rw [himg, ← htable] at h
      exact hnew_bad hok hin.1 hin.2.1 hin.2.2 h
    refine ⟨hnew_misaligned hok, hnew_outside hok, hnew_waits hok, fun hin ho => hbad hin (imageFault_odd ho),
      fun hin ho hf => hbad hin (imageFault_format ho hf), fun hin ho hf hg hs => hbad hin (imageFault_scale ho hf hg hs), fun hin ho hf hs => ⟨fun hk => ?_, fun hk => ?_⟩⟩
    · exact hbad hin ((imageFault_key ho hf hs).trans (if_pos (not_eq_true_of ((hkeys _).trans hk))))
    · have hgood : (s0.imageView r off).1.imageFault (s.tableOf r) la img = none :=
        (imageFault_key ho hf hs).trans (if_neg (not_not_of ((hkeys _).trans hk)))
      rw [himg, ← htable] at hgood
      obtain ⟨hsame, ⟨seen, hthread⟩, hcluster⟩ := placeHnew_leaves (sw := sw) (d := d) (hasThread_of_oneOk hok) (imageView_viewed s0 r off)
        (s.group r.g).launch (k / 6) la img (th.pc + 4)
      have hrun := hnew_places hok hin.1 hin.2.1 hin.2.2 hgood
      rw [← himg] at hrun
      exact ⟨_, seen, _, hrun, hsame, hthread, hcluster, rfl, rfl, rfl⟩
  · intro n
    exact ⟨hbind_binless hok, fun x hx => ⟨hbind_unsealed hok hx, hbind_rightless hok hx, hbind_keyless hok hx, hbind_binds hok hx⟩⟩
  · intro off i inside c3
    exact ⟨hrec_recordless hok, hrec_misaligned hok, hrec_outside hok, hrec_null hok, hrec_unsealed hok, hrec_keyless hok, hrec_elsewhere hok,
      fun hin hs hkey hp hfour => ⟨hrec_waits hok hin hs hkey hp, fun hroom => hrec_asks hok hin hs hkey hp hroom hfour⟩⟩
  · intro t0 tells
    exact ⟨fun h0 => hinfo_tells hok (.inl h0) (hinfo_unsealed (by rw [show s.inSheaf.quad r a = 0 from h0]; rfl)),
      fun hrun hs => hinfo_tells hok (.inr hrun) (hinfo_unsealed hs), hinfo_waits hok,
      fun hrun hl => hinfo_tells hok (.inr hrun) (hinfo_live (s := s.inSheaf) hl), fun hrun hd => hinfo_tells hok (.inr hrun) (hinfo_dead (s := s.inSheaf) hd)⟩
end

section
/-! Commands on contexts that are not refused (R58 to R62, R66, R85): how a command ends, and those that set what they name. -/

namespace Sys2Proof.Machine

variable {s t : State} {fn : Nat} {p : Packet} {i : Instr} {st : Nat}

/-! ## How a command ends (R58, R349) -/

/-- A command's effect is t and its status st; where t meets a home in a relock, it has none yet and is read again. -/
def EndsOn (s : State) (fn : Nat) (i : Instr) (t : State) (st : Nat) : Prop :=
  (hubHeld s t → exec i s = .next (s.unread fn)) ∧ (¬hubHeld s t → exec i s = .next (t.complete fn st))

theorem hubHeld_iff (s t : State) : (t.hubWaits && !s.hubWaits) = true ↔ hubHeld s t := by
  rw [Bool.and_eq_true, Bool.not_eq_true', hubHeld]

theorem not_hubHeld_of_eq (h : t.hubWaits = s.hubWaits) : ¬hubHeld s t := by
  rintro ⟨ht, hs⟩
  rw [h, hs] at ht
  cases ht

theorem endsOn_done (h : exec i s = .next (s.finishAdm fn (.done t))) : EndsOn s fn i t 0 :=
  ⟨fun hheld => h.trans (congrArg Host.Outcome.next (if_pos ((hubHeld_iff s t).mpr hheld))),
    fun hheld => h.trans (congrArg Host.Outcome.next (if_neg (mt (hubHeld_iff s t).mp hheld)))⟩

theorem endsOn_refused (h : exec i s = .next (s.finishAdm fn (.refused t st))) : EndsOn s fn i t st :=
  ⟨fun hheld => h.trans (congrArg Host.Outcome.next (if_pos ((hubHeld_iff s t).mpr hheld))),
    fun hheld => h.trans (congrArg Host.Outcome.next (if_neg (mt (hubHeld_iff s t).mp hheld)))⟩

theorem waitsOn_wait {w : Pending} (h : exec i s = .next (s.finishAdm fn (.wait t w))) :
    (hubHeld s t → exec i s = .next (s.unread fn)) ∧ (¬hubHeld s t → exec i s = .next (t.setFn fn { t.fn fn with pending := some w })) :=
  ⟨fun hheld => h.trans (congrArg Host.Outcome.next (if_pos ((hubHeld_iff s t).mpr hheld))),
    fun hheld => h.trans (congrArg Host.Outcome.next (if_neg (mt (hubHeld_iff s t).mp hheld)))⟩

/-- A command whose effect meets no home ends with it. -/
theorem EndsOn.ends (h : EndsOn s fn i t st) (ht : t.hubWaits = s.hubWaits) : exec i s = .next (t.complete fn st) := h.2 (not_hubHeld_of_eq ht)

/-- A command on a context of the giving function, in a state that allows it, has the effect of its body. -/
theorem onCtx_runs {ok : CtxState → Bool} {body : Nat → State → Adm} {res : Adm} (hc : fieldOf p 8 8 < 64)
    (hown : (s.ctx (fieldOf p 8 8)).state = .free ∨ (s.ctx (fieldOf p 8 8)).fn = fn) (hok : ok (s.ctx (fieldOf p 8 8)).state = true)
    (hb : body (fieldOf p 8 8) s = res) : onCtx fn p ok body s = .next (s.finishAdm fn res) := by
  rw [onCtx_own hc hown, if_pos hok, hb]

theorem pkt_bit (p : Packet) (k : Nat) : pkt p k k = 1 ↔ p.getLsbD k = true := by
  rw [BitVec.getLsbD, Nat.testBit_eq_decide_div_mod_eq, decide_eq_true_eq, pkt, bits, Nat.shiftRight_eq_div_pow, Nat.sub_self]
  rfl

/-! ## CREATE (R58, R61) -/

theorem boundTo_iff (k : KeySlot) (fn c : Nat) : k.boundTo fn c = true ↔ k.state = .loaded ∧ k.fn = fn ∧ k.ctxmask.getLsbD c = true := by
  rw [KeySlot.boundTo, Bool.and_eq_true, Bool.and_eq_true, decide_eq_true_eq, decide_eq_true_eq, and_assoc]

theorem mayProtect_iff (f : Fn) (fn : Nat) : f.mayProtect fn = true ↔ f.keyed = true ∧ (fn = 0 ∨ f.tdi = .run) := by
  rw [Fn.mayProtect, Bool.and_eq_true, Bool.or_eq_true, decide_eq_true_eq, decide_eq_true_eq]

/-- The refusals of a CREATE without formats of its own (R58, R61, R364). -/
def State.createBad (s : State) (fn : Nat) (p : Packet) : Prop :=
  ¬(s.key (fieldOf p 66 6)).boundTo fn (fieldOf p 8 8) = true ∨ (p.getLsbD 55 = true ∧ p.getLsbD 54 = true) ∨
    (p.getLsbD 55 = true ∧ ¬(s.fn fn).mayProtect fn = true)

/-- The context that a CREATE without formats of its own opens. -/
def State.created (s : State) (fn : Nat) (p : Packet) (hlog : Nat) : Ctx :=
  { state := .opened, fn := fn, rootrcb := fieldOf p 448 64, ptroot := fieldOf p 384 64, scratchtab := fieldOf p 320 64, hangbuf := fieldOf p 192 64,
    savebase := fieldOf p 128 64, keyslot := fieldOf p 66 6, sealKey := s.fresh, hlog := hlog, prot := p.getLsbD 55, debug := p.getLsbD 54,
    stale := p.getLsbD 53, fmt := List.replicate 48 0 }

/-- What a CREATE without formats of its own answers. -/
def State.createRes (s : State) (fn : Nat) (p : Packet) : Adm :=
  match hlogOf (fieldOf p 60 6) with
  | some hlog =>
    if (!(s.key (fieldOf p 66 6)).boundTo fn (fieldOf p 8 8)) = true ∨ (pkt p 55 55 = 1 ∧ pkt p 54 54 = 1) ∨ (pkt p 55 55 = 1 ∧ (!(s.fn fn).mayProtect fn) = true)
    then .refused s 3 else .done (s.tick.setCtx (fieldOf p 8 8) (s.created fn p hlog))
  | none => .refused s 3

theorem decide_pkt_bit (p : Packet) (k : Nat) : decide (pkt p k k = 1) = p.getLsbD k := by
  rw [Bool.eq_iff_iff, decide_eq_true_eq, pkt_bit]

theorem create_runs (hc : fieldOf p 8 8 < 64) (hfree : (s.ctx (fieldOf p 8 8)).state = .free) (hfmt : fieldOf p 256 64 = 0) :
    exec (.create fn p) s = .next (s.finishAdm fn (s.createRes fn p)) := by
  have hread : s.readFormats (fieldOf p 8 8) (pkt p 319 256) = (s, some (List.replicate 48 0)) := by
    rw [pkt_eq_fieldOf, show fieldOf p 256 (319 - 256 + 1) = 0 from hfmt]
    rfl
  change execCreate fn p s = _
  unfold execCreate
  refine onCtx_runs hc (.inl hfree) (decide_eq_true hfree) ?_
  dsimp only
  rw [hread]
  unfold State.createRes State.created
  simp only [decide_pkt_bit, pkt_eq_fieldOf p 71 66, pkt_eq_fieldOf p 511 448, pkt_eq_fieldOf p 447 384, pkt_eq_fieldOf p 383 320, pkt_eq_fieldOf p 255 192,
    pkt_eq_fieldOf p 191 128, pkt_eq_fieldOf p 65 60, Nat.reduceSub, Nat.reduceAdd]
  cases hlogOf (fieldOf p 60 6) <;> rfl

theorem create_refuses (hc : fieldOf p 8 8 < 64) (hfree : (s.ctx (fieldOf p 8 8)).state = .free) (hfmt : fieldOf p 256 64 = 0)
    (hbad : hlogOf (fieldOf p 60 6) = none ∨ s.createBad fn p) : exec (.create fn p) s = .next (s.complete fn 3) := by
  refine (endsOn_refused ((create_runs hc hfree hfmt).trans ?_)).ends rfl
  unfold State.createRes
  cases hlog : hlogOf (fieldOf p 60 6) with
  | none => rfl
  | some n =>
    have hcond := hbad.resolve_left (by rw [hlog]; nofun)
    unfold State.createBad at hcond
    dsimp only
    rw [if_pos]
    rw [pkt_bit, pkt_bit, Bool.not_eq_true', ← Bool.not_eq_true, Bool.not_eq_true', ← Bool.not_eq_true]
    exact hcond

theorem create_opens (hc : fieldOf p 8 8 < 64) (hfree : (s.ctx (fieldOf p 8 8)).state = .free) (hfmt : fieldOf p 256 64 = 0) {n : Nat}
    (hlog : hlogOf (fieldOf p 60 6) = some n) (hgood : ¬s.createBad fn p) :
    exec (.create fn p) s = .next ((s.tick.setCtx (fieldOf p 8 8) (s.created fn p n)).complete fn 0) := by
  refine (endsOn_done ((create_runs hc hfree hfmt).trans ?_)).ends rfl
  unfold State.createRes
  rw [hlog]
  dsimp only
  rw [if_neg]
  rw [pkt_bit, pkt_bit, Bool.not_eq_true', ← Bool.not_eq_true, Bool.not_eq_true', ← Bool.not_eq_true]
  exact hgood

end Sys2Proof.Machine
end

section
/-! LOADKERNEL, SNAPPOOL and the commands that set a field of their context (R58, R59, R62). -/

namespace Sys2Proof.Machine

variable {s t u : State} {fn : Nat} {p : Packet} {st : Nat}

/-! ## LOADKERNEL (R58, R68) -/

theorem zeroSites_nil (bs : List Byte) : zeroSites bs [] = bs := by
  unfold zeroSites
  simp only [List.any_nil, Bool.false_eq_true, if_false]
  exact List.zipIdx_map_fst ..

/-- A LOADKERNEL without relocations, once its section has been read. -/
def State.loadkernelRes (s u : State) (c desc len : Nat) (bs : List Byte) : Adm :=
  let x := s.ctx c
  if 256 ≤ x.kernels.length ∧ !x.kernels.any fun k => k.desc = desc then .refused u 4
  else .done (u.setCtx c (x.enter { desc := desc, len := len, digest := sha384 bs }))

section
variable (hc : fieldOf p 8 8 < 64) (hfn : (s.ctx (fieldOf p 8 8)).fn = fn)
  (hst : (s.ctx (fieldOf p 8 8)).state = .opened ∨ (s.ctx (fieldOf p 8 8)).state = .active)
include hc hfn hst

theorem loadkernel_misaligned (hd : fieldOf p 448 64 % 64 ≠ 0) : exec (.loadkernel fn p) s = .next (s.complete fn 3) := by
  change execLoadkernel fn p s = _
  unfold execLoadkernel
  refine onCtx_runs (res := .refuse 3) hc (.inr hfn) (by simpa using hst) (if_pos (.inl ?_))
  rw [pkt_eq_fieldOf]
  exact hd

variable (hd : fieldOf p 448 64 % 64 = 0) (hr : fieldOf p 352 64 % 16 = 0) (hn : fieldOf p 336 16 = 0)
include hd hr hn

theorem loadkernel_runs {res : Adm} (hres : (match s.virtRd (s.ctx (fieldOf p 8 8)) (fieldOf p 448 64) (fieldOf p 416 32) with
      | none => .refused (s.virtNote (fieldOf p 8 8) (fieldOf p 448 64) (fieldOf p 416 32)) 3
      | some (u, bs) => s.loadkernelRes u (fieldOf p 8 8) (fieldOf p 448 64) (fieldOf p 416 32) bs) = res) :
    exec (.loadkernel fn p) s = .next (s.finishAdm fn res) := by
  change execLoadkernel fn p s = _
  unfold execLoadkernel
  refine onCtx_runs hc (.inr hfn) (by simpa using hst) ?_
  simp only [pkt_eq_fieldOf, Nat.reduceSub, Nat.reduceAdd, hn, if_true]
  rw [if_neg (by simp [hd, hr]), ← hres]
  cases s.virtRd (s.ctx (fieldOf p 8 8)) (fieldOf p 448 64) (fieldOf p 416 32) with
  | none => rfl
  | some r =>
    obtain ⟨u, bs⟩ := r
    simp only [entries, List.all_nil, Bool.not_true, Bool.false_eq_true, if_false, zeroSites_nil, List.append_nil]
    rfl

theorem loadkernel_unread (h : s.virtRd (s.ctx (fieldOf p 8 8)) (fieldOf p 448 64) (fieldOf p 416 32) = none) :
    EndsOn s fn (.loadkernel fn p) (s.virtNote (fieldOf p 8 8) (fieldOf p 448 64) (fieldOf p 416 32)) 3 :=
  endsOn_refused (loadkernel_runs hc hfn hst hd hr hn (by rw [h]))

variable {bs : List Byte} (h : s.virtRd (s.ctx (fieldOf p 8 8)) (fieldOf p 448 64) (fieldOf p 416 32) = some (u, bs))
include h

theorem loadkernel_full (hfull : 256 ≤ (s.ctx (fieldOf p 8 8)).kernels.length)
    (hdup : ¬∃ k ∈ (s.ctx (fieldOf p 8 8)).kernels, k.desc = fieldOf p 448 64) : EndsOn s fn (.loadkernel fn p) u 4 := by
  refine endsOn_refused (loadkernel_runs hc hfn hst hd hr hn ?_)
  rw [h]
  exact if_pos ⟨hfull, not_eq_true_of (by simpa using hdup)⟩

theorem loadkernel_enters (hroom : (s.ctx (fieldOf p 8 8)).kernels.length < 256 ∨ ∃ k ∈ (s.ctx (fieldOf p 8 8)).kernels, k.desc = fieldOf p 448 64) :
    EndsOn s fn (.loadkernel fn p) (u.setCtx (fieldOf p 8 8) ((s.ctx (fieldOf p 8 8)).enter
      { desc := fieldOf p 448 64, len := fieldOf p 416 32, digest := sha384 bs })) 0 := by
  refine endsOn_done (loadkernel_runs hc hfn hst hd hr hn ?_)
  rw [h]
  refine if_neg ?_
  rintro ⟨hfull, hno⟩
  refine hroom.elim (Nat.not_lt.mpr hfull) fun hdup => ?_
  simp only [Bool.not_eq_true', List.any_eq_false, decide_eq_true_eq] at hno
  obtain ⟨k, hk, he⟩ := hdup
  exact hno k hk he

end

theorem enter_eq (x : Ctx) (m : Measured) {ks : List Measured} (hnew : (¬∃ k ∈ x.kernels, k.desc = m.desc) → ks = x.kernels ++ [m])
    (hdup : (∃ k ∈ x.kernels, k.desc = m.desc) → ks = x.kernels.map fun k => if k.desc = m.desc then m else k) :
    x.enter m = { x with kernels := ks, measured := x.measured ++ [(m.desc, m.len)] } := by
  by_cases h : ∃ k ∈ x.kernels, k.desc = m.desc
  · rw [hdup h]
    exact if_pos (by simpa using h)
  · rw [hnew h]
    exact if_neg (by simpa using h)

/-! ## SNAPPOOL (R58, R112) -/

/-- The frames of a SNAPPOOL's list. -/
def poolFrames (n : Nat) (bs : List Byte) : List Nat := (List.range n).map fun i => ofBytes ((bs.drop (8 * i)).take 8)

theorem entries_eq (k n : Nat) (bs : List Byte) : entries k n bs = (List.range n).map fun i => ofBytes ((bs.drop (k * i)).take k) := by
  induction n generalizing bs with
  | zero => rfl
  | succ n ih =>
    rw [entries, ih, List.range_succ_eq_map, List.map_cons, List.map_map, Nat.mul_zero, List.drop_zero]
    congr 1
    refine List.map_congr_left fun i _ => ?_
    rw [List.drop_drop, Function.comp, Nat.mul_succ, Nat.add_comm]

/-- A SNAPPOOL once its list has been read. -/
def State.snappoolRes (s u : State) (c n : Nat) (bs : List Byte) : Adm :=
  let x := s.ctx c
  if (poolFrames n bs).any fun f => decide (f % 65536 ≠ 0) || !physOk f then .refused u 3
  else if !x.snapBusy.isEmpty then .refused u 4
  else .done (u.setCtx c { x with snapPool := (poolFrames n bs).map (· / 65536) })

section
variable (hc : fieldOf p 8 8 < 64) (hfn : (s.ctx (fieldOf p 8 8)).fn = fn)
  (hst : (s.ctx (fieldOf p 8 8)).state = .opened ∨ (s.ctx (fieldOf p 8 8)).state = .active)
include hc hfn hst

theorem snappool_long (hn : 2 ^ 20 < fieldOf p 416 32) : exec (.snappool fn p) s = .next (s.complete fn 3) := by
  change execSnappool fn p s = _
  unfold execSnappool
  refine onCtx_runs (res := .refuse 3) hc (.inr hfn) (by simpa using hst) (if_pos ?_)
  rw [pkt_eq_fieldOf]
  exact hn

theorem snappool_runs (hn : fieldOf p 416 32 ≤ 2 ^ 20) {res : Adm}
    (hres : (match (if fieldOf p 416 32 = 0 then (s, some []) else s.cmdRd (fieldOf p 8 8) (fieldOf p 448 64) (8 * fieldOf p 416 32)) with
      | (u, none) => .refused u 3
      | (u, some bs) => s.snappoolRes u (fieldOf p 8 8) (fieldOf p 416 32) bs) = res) :
    exec (.snappool fn p) s = .next (s.finishAdm fn res) := by
  change execSnappool fn p s = _
  unfold execSnappool
  refine onCtx_runs hc (.inr hfn) (by simpa using hst) ?_
  simp only [pkt_eq_fieldOf, Nat.reduceSub, Nat.reduceAdd]
  rw [if_neg (Nat.not_lt.mpr hn), ← hres]
  generalize (if fieldOf p 416 32 = 0 then (s, some []) else s.cmdRd (fieldOf p 8 8) (fieldOf p 448 64) (8 * fieldOf p 416 32)) = r
  obtain ⟨u, o⟩ := r
  cases o with
  | none => rfl
  | some bs =>
    simp only [entries_eq]
    rfl

theorem snappool_empties (hn : fieldOf p 416 32 = 0) : ((s.ctx (fieldOf p 8 8)).snapBusy ≠ [] → exec (.snappool fn p) s = .next (s.complete fn 4)) ∧
    ((s.ctx (fieldOf p 8 8)).snapBusy = [] →
      exec (.snappool fn p) s = .next ((s.setCtx (fieldOf p 8 8) { s.ctx (fieldOf p 8 8) with snapPool := [] }).complete fn 0)) := by
  have hrun {res : Adm} (hres : s.snappoolRes s (fieldOf p 8 8) 0 [] = res) : exec (.snappool fn p) s = .next (s.finishAdm fn res) :=
    snappool_runs hc hfn hst (by rw [hn]; decide) (by rw [if_pos hn, hn]; exact hres)
  refine ⟨fun hbusy => (endsOn_refused (hrun (if_pos ?_))).ends rfl, fun hbusy => (endsOn_done (hrun (if_neg ?_))).ends rfl⟩
  · simpa using hbusy
  · simp [hbusy]

theorem snappool_unread (h0 : 0 < fieldOf p 416 32) (hn : fieldOf p 416 32 ≤ 2 ^ 20)
    (h : s.cmdRd (fieldOf p 8 8) (fieldOf p 448 64) (8 * fieldOf p 416 32) = (u, none)) : EndsOn s fn (.snappool fn p) u 3 :=
  endsOn_refused (snappool_runs hc hfn hst hn (by rw [if_neg (Nat.ne_of_gt h0), h]))

theorem snappool_reads (h0 : 0 < fieldOf p 416 32) (hn : fieldOf p 416 32 ≤ 2 ^ 20) {bs : List Byte}
    (h : s.cmdRd (fieldOf p 8 8) (fieldOf p 448 64) (8 * fieldOf p 416 32) = (u, some bs)) :
    let frames := poolFrames (fieldOf p 416 32) bs
    let x := s.ctx (fieldOf p 8 8)
    ((∃ f ∈ frames, f % 65536 ≠ 0 ∨ physOk f = false) → EndsOn s fn (.snappool fn p) u 3) ∧
      ((∀ f ∈ frames, f % 65536 = 0 ∧ physOk f = true) → (x.snapBusy ≠ [] → EndsOn s fn (.snappool fn p) u 4) ∧
        (x.snapBusy = [] → EndsOn s fn (.snappool fn p) (u.setCtx (fieldOf p 8 8) { x with snapPool := frames.map (· / 65536) }) 0)) := by
  intro frames x
  have hrun {res : Adm} (hres : s.snappoolRes u (fieldOf p 8 8) (fieldOf p 416 32) bs = res) : exec (.snappool fn p) s = .next (s.finishAdm fn res) :=
    snappool_runs hc hfn hst hn (by rw [if_neg (Nat.ne_of_gt h0), h]; exact hres)
  refine ⟨fun hbad => endsOn_refused (hrun (if_pos ?_)), fun hgood => ?_⟩
  · simpa using hbad
  · have hno : ¬(frames.any fun f => decide (f % 65536 ≠ 0) || !physOk f) = true := by
      rw [Bool.not_eq_true, List.any_eq_false]
      intro f hf
      simp [hgood f hf]
    exact ⟨fun hbusy => endsOn_refused (hrun ((if_neg hno).trans (if_pos (by simpa using hbusy)))),
      fun hbusy => endsOn_done (hrun ((if_neg hno).trans (if_neg (by simpa using hbusy))))⟩

end

end Sys2Proof.Machine
end

section
/-! QUIESCE, SUSPEND, CLEARERR, SETHEADLAND, PAGEHOLD and the commands on queues (R58, R59, R62, R85). -/

namespace Sys2Proof.Machine

variable {s t u : State} {fn : Nat} {p : Packet} {st : Nat}

/-! ## QUIESCE and SUSPEND (R58, R59) -/

theorem inUse_of {st : CtxState} (h : st ≠ .free ∧ st ≠ .closing) : CtxState.inUse st = true := by
  obtain ⟨h1, h2⟩ := h
  revert h1 h2
  cases st <;> decide

section
variable (hc : fieldOf p 8 8 < 64) (hfn : (s.ctx (fieldOf p 8 8)).fn = fn)
include hc hfn

theorem quiesce_ends (hst : (s.ctx (fieldOf p 8 8)).state = .active) : ∃ t : State, exec (.quiesce fn p) s = .next (t.complete fn 0) ∧ t.mem = s.mem ∧
    (t.ctx (fieldOf p 8 8)).state = if ∃ la ∈ s.launches, la.ctx = fieldOf p 8 8 ∧ la.unfinished = true then .quiescing else .opened := by
  generalize hcc : fieldOf p 8 8 = c at hc hfn hst ⊢
  have hrun : exec (.quiesce fn p) s = .next (s.finishAdm fn (.done ((s.setCtx c { s.ctx c with state := .quiescing }).quiesced c))) := by
    subst hcc
    change execQuiesce fn p s = _
    unfold execQuiesce
    exact onCtx_runs hc (.inr hfn) (decide_eq_true hst) rfl
  have hquiet : (s.setCtx c { s.ctx c with state := .quiescing }).ctx c = { s.ctx c with state := .quiescing } := ctx_setCtx ..
  have hany : (s.launches.any fun la => decide (la.ctx = c) && la.unfinished) = true ↔ ∃ la ∈ s.launches, la.ctx = c ∧ la.unfinished = true := by
    simp [List.any_eq_true]
  unfold State.quiesced at hrun
  dsimp only at hrun
  rw [hquiet] at hrun
  by_cases h : ∃ la ∈ s.launches, la.ctx = c ∧ la.unfinished = true
  · rw [if_neg (fun hn => not_not_of (hany.mpr h) hn.2)] at hrun
    rw [if_pos h]
    exact ⟨_, (endsOn_done hrun).ends rfl, rfl, congrArg Ctx.state hquiet⟩
  · rw [if_pos ⟨rfl, not_eq_true_of (Bool.not_eq_true _ ▸ mt hany.mp h)⟩] at hrun
    rw [if_neg h]
    exact ⟨_, (endsOn_done hrun).ends rfl, rfl, congrArg Ctx.state (ctx_setCtx ..)⟩

theorem suspend_runs (hst : (s.ctx (fieldOf p 8 8)).state = .active ∨ (s.ctx (fieldOf p 8 8)).state = .quiescing) {res : Adm}
    (hres : (match s.suspend (fieldOf p 8 8) with
      | none => .refused (s.preemptNote (s.ctxLive (fieldOf p 8 8))) 4
      | some t => if t.suspendOver (fieldOf p 8 8) then .done t else .wait t (.suspend (fieldOf p 8 8))) = res) :
    exec (.suspend fn p) s = .next (s.finishAdm fn res) := by
  change execSuspend fn p s = _
  unfold execSuspend
  refine onCtx_runs hc (.inr hfn) (by simpa using hst) ?_
  rw [← hres] <;> cases s.suspend (fieldOf p 8 8) <;> rfl

/-! ## CLEARERR, SETHEADLAND and PAGEHOLD (R58, R62, R111) -/

variable (hst : (s.ctx (fieldOf p 8 8)).state ≠ .free ∧ (s.ctx (fieldOf p 8 8)).state ≠ .closing)
include hst

theorem clearerr_ends : exec (.clearerr fn p) s = .next ((s.setCtx (fieldOf p 8 8) { s.ctx (fieldOf p 8 8) with sticky := 0 }).complete fn 0) := by
  refine (endsOn_done ?_).ends rfl
  change execClearerr fn p s = _
  unfold execClearerr
  exact onCtx_runs hc (.inr hfn) (inUse_of hst) rfl

theorem setheadland_runs {res : Adm} (hres : (match hlogOf (fieldOf p 256 6) with
      | none => .refuse 3
      | some n => .done (s.setCtx (fieldOf p 8 8) { s.ctx (fieldOf p 8 8) with hlog := n })) = res) :
    exec (.setheadland fn p) s = .next (s.finishAdm fn res) := by
  change execSetheadland fn p s = _
  unfold execSetheadland
  refine onCtx_runs hc (.inr hfn) (inUse_of hst) ?_
  rw [← hres, pkt_eq_fieldOf] <;> cases hlogOf (fieldOf p 256 6) <;> rfl

/-- The hold that a PAGEHOLD names. -/
def holdOf (p : Packet) : Hold := { va := fieldOf p 448 64, pages := fieldOf p 416 32 }

/-- What a PAGEHOLD on a context answers. -/
def State.pageholdRes (s : State) (p : Packet) (c : Nat) : Adm :=
  let x := s.ctx c
  let h := holdOf p
  if h.va % 65536 ≠ 0 ∨ h.pages = 0 ∨ 2 ^ 20 < h.pages then .refuse 3
  else if p.getLsbD 415 = false then
    if h ∈ x.holds then .done (s.setCtx c { x with holds := x.holds.erase h }) else .refuse 3
  else if 64 ≤ x.holds.length then .refuse 4
  else
    let t := s.setCtx c { x with holds := x.holds ++ [h] }
    if t.pinned c h.va h.pages then .wait t (.pagehold c h.va h.pages) else .done t

theorem pagehold_runs {res : Adm} (hres : s.pageholdRes p (fieldOf p 8 8) = res) : exec (.pagehold fn p) s = .next (s.finishAdm fn res) := by
  have hbit : pkt p 415 415 = 0 ↔ p.getLsbD 415 = false := by
    rw [← Bool.not_eq_true, ← pkt_bit]
    have hlt : pkt p 415 415 < 2 := bits_lt ..
    omega
  change execPagehold fn p s = _
  unfold execPagehold
  refine onCtx_runs hc (.inr hfn) (inUse_of hst) ?_
  rw [← hres]
  unfold State.pageholdRes holdOf
  simp only [hbit, pkt_eq_fieldOf p 511 448, pkt_eq_fieldOf p 447 416, Nat.reduceSub, Nat.reduceAdd, List.contains_iff_mem]

end

end Sys2Proof.Machine
end

section
/-! The commands on queues and the handle area (R85, R86, R330). -/

namespace Sys2Proof.Machine

variable {s t u : State} {fn : Nat} {p : Packet} {st : Nat}

/-! ## Commands on an open queue (R85) -/

theorem qNum_eq (p : Packet) : qNum p = fieldOf p 342 10 := pkt_eq_fieldOf p 351 342

section
variable {okCtx : CtxState → Bool} {okQ : QState → Bool} {body : Nat → State → Adm} (hc : fieldOf p 8 8 < 64)
  (hfn : (s.ctx (fieldOf p 8 8)).fn = fn) (hok : okCtx (s.ctx (fieldOf p 8 8)).state = true)
include hc hfn hok

theorem onQueue_closed (h : (s.queue (fieldOf p 342 10)).state = .closed) : onQueue fn p okCtx okQ body s = .next (s.complete fn 1) := by
  unfold onQueue
  rw [qNum_eq]
  exact onCtx_runs (res := .refuse 1) hc (.inr hfn) hok (if_pos h)

theorem onQueue_foreign (h : (s.queue (fieldOf p 342 10)).state ≠ .closed) (ho : (s.queue (fieldOf p 342 10)).ctx ≠ fieldOf p 8 8) :
    onQueue fn p okCtx okQ body s = .next (s.complete fn 3) := by
  unfold onQueue
  rw [qNum_eq]
  exact onCtx_runs (res := .refuse 3) hc (.inr hfn) hok ((if_neg h).trans (if_pos ho))

variable (h : (s.queue (fieldOf p 342 10)).state ≠ .closed) (ho : (s.queue (fieldOf p 342 10)).ctx = fieldOf p 8 8)
include h ho

theorem onQueue_rowless (hq : okQ (s.queue (fieldOf p 342 10)).state = false) : onQueue fn p okCtx okQ body s = .next (s.complete fn 1) := by
  unfold onQueue
  rw [qNum_eq]
  exact onCtx_runs (res := .refuse 1) hc (.inr hfn) hok ((if_neg h).trans ((if_neg (not_not.mpr ho)).trans (if_pos (not_eq_true_of hq))))

theorem onQueue_runs (hq : okQ (s.queue (fieldOf p 342 10)).state = true) {res : Adm} (hb : body (fieldOf p 342 10) s = res) :
    onQueue fn p okCtx okQ body s = .next (s.finishAdm fn res) := by
  unfold onQueue
  rw [qNum_eq]
  exact onCtx_runs hc (.inr hfn) hok ((if_neg h).trans ((if_neg (not_not.mpr ho)).trans ((if_neg (not_not_of hq)).trans hb)))

end

theorem queueBusy_iff (s : State) (q : Nat) : s.queueBusy q = true ↔
    ∃ la ∈ s.launches, la.queue = q ∧ la.opening = (s.queue q).opening ∧ la.node = none ∧ la.state ≠ .gone := by
  simp only [State.queueBusy, List.any_eq_true, Bool.and_eq_true, decide_eq_true_eq, Option.isNone_iff_eq_none, and_assoc]

theorem exec_qstop (s : State) (fn : Nat) (p : Packet) : exec (.qstop fn p) s =
    onQueue fn p CtxState.inUse (fun st => decide (st = .running)) (fun q s => .done (s.setQueue q { s.queue q with state := .stopped })) s := rfl

theorem exec_qstart (s : State) (fn : Nat) (p : Packet) : exec (.qstart fn p) s = onQueue fn p CtxState.inUse (fun st => decide (st = .stopped))
    (fun q s => .done ((s.setQueue q { s.queue q with state := .running }).settleQueue q)) s := rfl

theorem exec_qclose (s : State) (fn : Nat) (p : Packet) : exec (.qclose fn p) s = onQueue fn p (fun st => decide (st ≠ .free)) (fun _ => true)
    (fun q s => if s.queueBusy q then .refuse 4 else .done (s.setQueue q {})) s := rfl

section
variable (hc : fieldOf p 8 8 < 64) (hfn : (s.ctx (fieldOf p 8 8)).fn = fn)
  (hst : (s.ctx (fieldOf p 8 8)).state ≠ .free ∧ (s.ctx (fieldOf p 8 8)).state ≠ .closing)
include hc hfn hst

theorem queueCommands_refuse : ∀ i ∈ [Instr.qstop fn p, .qstart fn p, .qclose fn p],
    ((s.queue (fieldOf p 342 10)).state = .closed → exec i s = .next (s.complete fn 1)) ∧
      ((s.queue (fieldOf p 342 10)).state ≠ .closed → (s.queue (fieldOf p 342 10)).ctx ≠ fieldOf p 8 8 → exec i s = .next (s.complete fn 3)) := by
  simp only [List.forall_mem_cons]
  rw [exec_qstop, exec_qstart, exec_qclose]
  exact ⟨⟨onQueue_closed hc hfn (inUse_of hst), onQueue_foreign hc hfn (inUse_of hst)⟩,
    ⟨onQueue_closed hc hfn (inUse_of hst), onQueue_foreign hc hfn (inUse_of hst)⟩,
    ⟨onQueue_closed hc hfn (decide_eq_true hst.1), onQueue_foreign hc hfn (decide_eq_true hst.1)⟩, fun _ hi => nomatch hi⟩

variable (hopen : (s.queue (fieldOf p 342 10)).state ≠ .closed) (ho : (s.queue (fieldOf p 342 10)).ctx = fieldOf p 8 8)
include hopen ho

theorem qstop_running (hr : (s.queue (fieldOf p 342 10)).state = .running) :
    exec (.qstop fn p) s = .next ((s.setQueue (fieldOf p 342 10) { s.queue (fieldOf p 342 10) with state := .stopped }).complete fn 0) ∧
      exec (.qstart fn p) s = .next (s.complete fn 1) :=
  ⟨(endsOn_done ((exec_qstop s fn p).trans (onQueue_runs hc hfn (inUse_of hst) hopen ho (decide_eq_true hr) rfl))).ends rfl,
    (exec_qstart s fn p).trans (onQueue_rowless hc hfn (inUse_of hst) hopen ho (decide_eq_false (by rw [hr]; nofun)))⟩

theorem qstart_stopped (hr : (s.queue (fieldOf p 342 10)).state = .stopped) :
    let t := (s.setQueue (fieldOf p 342 10) { s.queue (fieldOf p 342 10) with state := .running }).settleQueue (fieldOf p 342 10)
    exec (.qstop fn p) s = .next (s.complete fn 1) ∧ EndsOn s fn (.qstart fn p) t 0 ∧ (t.queue (fieldOf p 342 10)).state = .running := by
  intro t
  refine ⟨(exec_qstop s fn p).trans (onQueue_rowless hc hfn (inUse_of hst) hopen ho (decide_eq_false (by rw [hr]; nofun))),
    endsOn_done ((exec_qstart s fn p).trans (onQueue_runs hc hfn (inUse_of hst) hopen ho (decide_eq_true hr) rfl)), ?_⟩
  have hdoor := doorOnly_settleQueue (q := fieldOf p 342 10)
    (u := s.setQueue (fieldOf p 342 10) { s.queue (fieldOf p 342 10) with state := .running }) (fun _ => rfl) (fieldOf p 342 10)
  rw [queue_setQueue] at hdoor
  exact congrArg Prod.fst hdoor

theorem qclose_busy (hb : s.queueBusy (fieldOf p 342 10) = true) : exec (.qclose fn p) s = .next (s.complete fn 4) :=
  (exec_qclose s fn p).trans (onQueue_runs (res := .refuse 4) hc hfn (decide_eq_true hst.1) hopen ho rfl (if_pos hb))

theorem qclose_closes (hb : ¬s.queueBusy (fieldOf p 342 10) = true) :
    exec (.qclose fn p) s = .next ((s.setQueue (fieldOf p 342 10) {}).complete fn 0) :=
  (endsOn_done ((exec_qclose s fn p).trans (onQueue_runs hc hfn (decide_eq_true hst.1) hopen ho rfl (if_neg hb)))).ends rfl

end

/-! ## QOPEN (R85, R86) -/

/-- The queue that a QOPEN opens. -/
def State.opened (s : State) (p : Packet) : Queue :=
  { state := .running, ctx := fieldOf p 8 8, ring := fieldOf p 448 64, ctl := fieldOf p 384 64, vector := fieldOf p 368 16, qlog := fieldOf p 364 4,
    devmode := p.getLsbD 363, opening := s.fresh }

/-- What a QOPEN answers. -/
def State.qopenRes (s : State) (p : Packet) : Adm :=
  if fieldOf p 448 64 % 128 ≠ 0 ∨ fieldOf p 384 64 % 64 ≠ 0 ∨ fieldOf p 364 4 < 2 then .refuse 3
  else if (s.queue (fieldOf p 342 10)).state ≠ .closed ∨ 64 ≤ (s.ctxQueues (fieldOf p 8 8)).length then .refuse 4
  else .done ((s.setQueue (fieldOf p 342 10) (s.opened p)).tick.writeFields (fieldOf p 8 8) (fieldOf p 384 64) [(0, 0), (8, 0)])

theorem qopen_runs (hc : fieldOf p 8 8 < 64) (hfn : (s.ctx (fieldOf p 8 8)).fn = fn)
    (hst : (s.ctx (fieldOf p 8 8)).state = .opened ∨ (s.ctx (fieldOf p 8 8)).state = .active) {res : Adm} (hres : s.qopenRes p = res) :
    exec (.qopen fn p) s = .next (s.finishAdm fn res) := by
  change execQopen fn p s = _
  unfold execQopen
  refine onCtx_runs hc (.inr hfn) (by simpa using hst) ?_
  rw [← hres]
  unfold State.qopenRes State.opened
  simp only [qNum_eq, decide_pkt_bit, pkt_eq_fieldOf p 511 448, pkt_eq_fieldOf p 447 384, pkt_eq_fieldOf p 383 368, pkt_eq_fieldOf p 367 364, Nat.reduceSub,
    Nat.reduceAdd]

theorem qopened_queues (s : State) (p : Packet) :
    let t := (s.setQueue (fieldOf p 342 10) (s.opened p)).tick.writeFields (fieldOf p 8 8) (fieldOf p 384 64) [(0, 0), (8, 0)]
    (∀ y, y ≠ fieldOf p 342 10 → t.queue y = s.queue y) ∧ t.queue (fieldOf p 342 10) = s.opened p := by
  intro t
  have ht (y : Nat) : t.queue y = (s.setQueue (fieldOf p 342 10) (s.opened p)).queue y := (hubOnly_writeFields (.refl _)).queue y
  exact ⟨fun y hy => (ht y).trans (queue_setQueue_ne s _ hy), (ht _).trans (queue_setQueue ..)⟩

end Sys2Proof.Machine
end

section
/-! HANDLEAREA (R58, R330): the entries of an area stand under its context's key slot. -/

namespace Sys2Proof.Machine

variable {s t u : State} {fn : Nat} {p : Packet}

/-- A sector that a new area takes. -/
def Area.takes (a : Area) (n : Nat) (x : Sector) : Sector := { tag := x.tag, key := a.key, addr := n, pair := a.pair }

theorem sectorOf_taken (a : Area) (l : List (Nat × Sector)) (n : Nat) :
    sectorOf? (l.map fun e => if a.has e.1 then (e.1, a.takes e.1 e.2) else e) n = (sectorOf? l n).map fun x => if a.has n then a.takes n x else x := by
  induction l with
  | nil => rfl
  | cons e l ih =>
    obtain ⟨i, x⟩ := e
    rw [List.map_cons, sectorOf?]
    by_cases hi : i = n
    · subst hi
      by_cases ha : a.has i = true
      · simp only [ha, if_true, sectorOf?, Option.map_some]
      · simp only [ha, Bool.false_eq_true, if_false, sectorOf?, if_true, Option.map_some]
    · by_cases ha : a.has i = true
      · simp only [ha, if_true, sectorOf?, if_neg hi, ih]
      · simp only [ha, Bool.false_eq_true, if_false, sectorOf?, if_neg hi, ih]

/-- The area that a HANDLEAREA places. -/
def State.areaOf (s : State) (base len key : Nat) : Area := { first := base / 64, count := len / 64, key := key, pair := (s.key key).key }

theorem placeArea_sector (s : State) (base len key n : Nat) : let a := s.areaOf base len key
    (s.placeArea base len key).sector n = if a.has n then some ((sectorOf? s.sectors n).elim { tag := 0, key := a.key, addr := n, pair := a.pair } (a.takes n))
      else s.sector n := by
  intro a
  have hs : (s.placeArea base len key).sector n = (sectorOf? (s.sectors.map fun e => if a.has e.1 then (e.1, a.takes e.1 e.2) else e) n).orElse fun _ =>
    areaSector (a :: s.areas) n := rfl
  rw [hs, sectorOf_taken, State.sector]
  by_cases ha : a.has n = true
  · rw [if_pos ha]
    cases sectorOf? s.sectors n with
    | none =>
      unfold areaSector
      rw [List.find?_cons_of_pos (p := fun a : Area => a.has n) ha]
      rfl
    | some x =>
      simp only [ha, if_true]
      rfl
  · rw [if_neg ha]
    cases sectorOf? s.sectors n with
    | none =>
      unfold areaSector
      rw [List.find?_cons_of_neg (p := fun a : Area => a.has n) ha]
      rfl
    | some x =>
      simp only [ha, Bool.false_eq_true, if_false]
      rfl

/-- A sector of a new area stands under its key slot, with no errors. -/
theorem placeArea_taken (s : State) (base len key n : Nat) (h : (s.areaOf base len key).has n = true) : ∃ y, (s.placeArea base len key).sector n = some y ∧
    y.key = key ∧ y.addr = n ∧ y.errors = 0 ∧ y.pair = (s.key key).key := by
  rw [placeArea_sector, if_pos h]
  refine ⟨_, rfl, ?_⟩
  cases sectorOf? s.sectors n with
  | none => exact ⟨rfl, rfl, rfl, rfl⟩
  | some x => exact ⟨rfl, rfl, rfl, rfl⟩

theorem area_has (s : State) (base k key n : Nat) :
    (s.areaOf base (8192 * k) key).has n = true ↔ base / 64 ≤ n ∧ n < base / 64 + 128 * k := by
  have hcount : 8192 * k / 64 = 128 * k := by omega
  rw [Area.has, Bool.and_eq_true, decide_eq_true_eq, decide_eq_true_eq]
  change base / 64 ≤ n ∧ n < base / 64 + 8192 * k / 64 ↔ _
  rw [hcount]

theorem meet_hubWaits (s : State) (a : Nat) : (s.meet a).hubWaits = true ↔ s.hubWaits = true ∨ (homeDie a).all s.runs = false := by
  unfold State.meet
  split
  · next h => simp [h]
  · next h => simp [Bool.not_eq_true _ ▸ h]

theorem meet_parts (s : State) (a : Nat) : s.meet a = { s with hubWaits := (s.meet a).hubWaits } := by
  unfold State.meet
  split <;> rfl

/-- The state after a HANDLEAREA. -/
def State.withArea (s : State) (p : Packet) : State :=
  let c := fieldOf p 8 8
  ((s.meet (fieldOf p 448 64)).placeArea (fieldOf p 448 64) (8192 * (fieldOf p 424 24 + fieldOf p 408 16)) (s.ctx c).keyslot).setCtx c
    { s.ctx c with harea := some (fieldOf p 448 64, fieldOf p 424 24, fieldOf p 408 16), tensors := [], cells := [] }

theorem handlearea_runs (hc : fieldOf p 8 8 < 64) (hfn : (s.ctx (fieldOf p 8 8)).fn = fn) (hst : (s.ctx (fieldOf p 8 8)).state = .opened) {res : Adm}
    (hres : (if (s.ctx (fieldOf p 8 8)).usedHnew then .refuse 1
      else if fieldOf p 448 64 % 65536 ≠ 0 ∨ fieldOf p 424 24 = 0 then .refuse 3
      else .done (s.withArea p)) = res) : exec (.handlearea fn p) s = .next (s.finishAdm fn res) := by
  change execHandlearea fn p s = _
  unfold execHandlearea
  refine onCtx_runs hc (.inr hfn) (decide_eq_true hst) ?_
  rw [← hres]
  unfold State.withArea
  simp only [pkt_eq_fieldOf, Nat.reduceSub, Nat.reduceAdd]

theorem withArea_leaves (s : State) (p : Packet) :
    let c := fieldOf p 8 8
    let x := s.ctx c
    let base := fieldOf p 448 64
    let inArea (n : Nat) : Prop := base / 64 ≤ n ∧ n < base / 64 + 128 * (fieldOf p 424 24 + fieldOf p 408 16)
    let t := s.withArea p
    SameBut [] { s with ctxs := t.ctxs, areas := t.areas, sectors := t.sectors, hubWaits := t.hubWaits } t ∧
      (t.hubWaits = true ↔ s.hubWaits = true ∨ (homeDie base).all s.runs = false) ∧ (∀ y, y ≠ c → t.ctx y = s.ctx y) ∧
      t.ctx c = { x with harea := some (base, fieldOf p 424 24, fieldOf p 408 16), tensors := [], cells := [] } ∧
      (∀ n, ¬inArea n → t.sector n = s.sector n) ∧
      ∀ n, inArea n → ∃ y, t.sector n = some y ∧ y.key = x.keyslot ∧ y.addr = n ∧ y.errors = 0 ∧ y.pair = (s.key x.keyslot).key := by
  intro c x base inArea t
  have hmeet := meet_parts s base
  generalize hb : (s.meet base).hubWaits = w at hmeet
  have ht : t = (({ s with hubWaits := w } : State).placeArea base (8192 * (fieldOf p 424 24 + fieldOf p 408 16)) x.keyslot).setCtx c
      { x with harea := some (base, fieldOf p 424 24, fieldOf p 408 16), tensors := [], cells := [] } := by
    change s.withArea p = _
    unfold State.withArea
    rw [hmeet]
  have hsector (n : Nat) : t.sector n = (({ s with hubWaits := w } : State).placeArea base (8192 * (fieldOf p 424 24 + fieldOf p 408 16)) x.keyslot).sector n := by
    rw [ht]
    rfl
  have hw : t.hubWaits = w := by rw [ht]; rfl
  refine ⟨?_, ?_, fun y hy => ?_, ?_, fun n hn => ?_, fun n hn => ?_⟩
  · rw [ht]
    exact SameBut.refl _ _
  · rw [hw, ← hb]
    exact meet_hubWaits s base
  · rw [ht, ctx_setCtx_ne _ _ hy]
    rfl
  · rw [ht]
    exact ctx_setCtx ..
  · rw [hsector, placeArea_sector, if_neg fun h => hn ((area_has ..).mp h)]
    rfl
  · obtain ⟨y, hy, hk, ha, he, hp⟩ := placeArea_taken ({ s with hubWaits := w } : State) base (8192 * (fieldOf p 424 24 + fieldOf p 408 16)) x.keyslot n
      ((area_has ..).mpr hn)
    exact ⟨y, (hsector n).trans hy, hk, ha, he, hp⟩

end Sys2Proof.Machine
end

section
/-! What reading the head of a queue keeps (R86 to R93): a property that records keep and that says nothing of queues (`QueueKeeps`) holds after a queue's
packets and signals have been read where it held before. ACTIVATE (R59, R79) follows. -/

namespace Sys2Proof.Machine

variable {s t u : State} {Q : State → Prop} {fn : Nat} {p : Packet}

/-- A property that records keep, and that says nothing of queues. -/
structure QueueKeeps (Q : State → Prop) : Prop extends RecordKeeps Q where
  queue : ∀ {s q x}, Q s → Q (s.setQueue q x)

namespace QueueKeeps

variable (hQ : QueueKeeps Q)

include hQ

theorem writeFields {c ctl : Nat} {l : List (Nat × Nat)} (h : Q s) : Q (s.writeFields c ctl l) := by
  induction l generalizing s with
  | nil => exact h
  | cons p l ih => exact ih (hQ.access.virtPut_self h)

theorem updQueue {q : Nat} {f : Queue → Queue} (h : Q s) : Q (s.updQueue q f) := hQ.writeFields (hQ.queue h)

theorem read0 {c va n : Nat} (h : Q s) : PairKeeps Q (s.read0 c va n) := by
  unfold State.read0
  split
  · next e => exact (hQ.access.virtRd_self h).some e
  · exact hQ.access.virtNote_self h

theorem mapped {c va : Nat} (h : Q s) : PairKeeps Q (s.mapped c va) := by
  unfold State.mapped
  have hwalk := hQ.access.walk_self (x := s.ctx c) (va := va) h
  obtain ⟨walk, he⟩ := exists_eq (a' := @State.walk)
  rw [← he] at hwalk ⊢
  split
  · next e => exact (hwalk.ok e :)
  · next e => exact hQ.access.post_self (hwalk.error e)

theorem badSignal {c : Nat} {l : List Nat} (h : Q s) : PairKeeps Q (s.badSignal c l) := by
  induction l generalizing s with
  | nil => exact h
  | cons a l ih =>
    unfold State.badSignal
    refine ite_keeps h ?_
    split
    · next e => exact ih ((hQ.mapped h).fst e)
    · next e => exact ((hQ.mapped h).fst e :)

theorem packetFault {c : Nat} {p : BitVec 1024} (h : Q s) : PairKeeps Q (s.packetFault c p) := ite_keeps (P := PairKeeps Q) h (hQ.badSignal h)

theorem readSignal {c a : Nat} (h : Q s) : PairKeeps Q (s.readSignal c a) := by
  unfold State.readSignal
  split
  · next e => exact ((hQ.access.virtRd_self h).some e :)
  · exact hQ.access.virtNote_self h

theorem readDeps {c : Nat} {p : BitVec 1024} {met l : List Nat} (h : Q s) : PairKeeps Q (s.readDeps c p met l) := by
  induction l generalizing s with
  | nil => exact h
  | cons j l ih => exact ih (ite_keeps (P := PairKeeps Q) h (hQ.readSignal h))

theorem rereadHead {q : Nat} (h : Q s) : Q (s.rereadHead q) := by
  unfold State.rereadHead
  extract_lets a
  split
  · exact h
  · split
    next e => exact hQ.queue ((hQ.readDeps h).fst e)

theorem rereadAll {l : List Nat} (h : Q s) : Q (s.rereadAll l) := foldl_keeps h fun _ _ ht => hQ.rereadHead ht

theorem regionChain {c n a prev : Nat} (h : Q s) : PairKeeps Q (s.regionChain c n a prev) := by
  induction n generalizing s a prev with
  | zero => exact h
  | succ n ih =>
    unfold State.regionChain
    refine ite_keeps h (ite_keeps h ?_)
    split
    · exact hQ.access.virtNote_self h
    · next e =>
      have hrd := PairKeeps.fst ((hQ.access.virtRd_self h).some e) rfl
      refine ite_keeps hrd ?_
      split
      · next e2 => exact ((ih hrd).fst e2 :)
      · next e2 => exact ((ih hrd).fst e2 :)

theorem packetRegion {c : Nat} {p : BitVec 1024} (h : Q s) : PairKeeps Q (s.packetRegion c p) := by
  have hread {c a : Nat} (h : Q s) : PairKeeps Q (s.readRegion c a) := by
    unfold State.readRegion
    split
    · next e => exact ((hQ.regionChain h).fst e :)
    · next e => exact ((hQ.regionChain h).fst e :)
  unfold State.packetRegion
  split
  · next e => exact ((hread h).fst e :)
  · next e => exact ((hread h).fst e :)

theorem miss {q policy deadline : Nat} {launch : Option Nat} (h : Q s) : Q (s.miss q policy deadline launch) := by
  have hcount : Q (s.updQueue q fun a => { a with missed := a.missed + 1 }) := hQ.updQueue h
  unfold State.miss
  extract_lets t c x seq
  exact ite_keeps (hQ.record hcount) (hQ.sticky hcount)

theorem missHead {q : Nat} (h : Q s) : Q (s.missHead q) := by
  unfold State.missHead
  extract_lets a
  split
  · exact h
  · refine ite_keeps h ?_
    split
    next e => exact hQ.miss (hQ.queue ((hQ.packetRegion h).fst e))

/-- Lean takes too long to unfold a step of `State.loadHead`: its recursion is taken apart by `brecOn_nat_keeps`. -/
theorem loadHead {q n : Nat} (h : Q s) : Q (s.loadHead q n) := by
  delta State.loadHead
  refine brecOn_nat_keeps (P := fun _ f => ∀ s, Q s → Q (f s)) (F := State.loadHead._f q) (fun _ _ hs => hs) ?_ n s h
  intro n below ih s hs
  unfold State.loadHead._f
  dsimp only
  refine ite_keeps hs ?_
  split
  · next e => exact ih _ (hQ.record (hQ.updQueue ((hQ.packetFault (hQ.read0 hs)).fst e)))
  · next e => exact hQ.missHead (hQ.rereadHead (hQ.queue ((hQ.packetFault (hQ.read0 hs)).fst e)))

theorem settleQueue {q : Nat} (h : Q s) : Q (s.settleQueue q) := hQ.loadHead h

theorem settleQueues {l : List Nat} (h : Q s) : Q (s.settleQueues l) := foldl_keeps h fun _ _ ht => hQ.settleQueue ht

end QueueKeeps

/-! ## ACTIVATE (R59, R79) -/

/-- A context's state and Headland counter, and the groups of the module. -/
def State.activeAs (c : Nat) (st : CtxState) (hl : Nat) (gs : List Group) (s : State) : Prop :=
  (s.ctx c).state = st ∧ (s.ctx c).headland = hl ∧ s.groups = gs

theorem Ctx.overwrite_state (x : Ctx) (pa n : Nat) : (x.overwrite pa n).state = x.state := (congrArg Ctx.state (Ctx.outer_overwrite x pa n) :)
theorem Ctx.overwrite_headland (x : Ctx) (pa n : Nat) : (x.overwrite pa n).headland = x.headland := (congrArg Ctx.headland (Ctx.outer_overwrite x pa n) :)

theorem queueKeeps_activeAs (c : Nat) (st : CtxState) (hl : Nat) (gs : List Group) : QueueKeeps (State.activeAs c st hl gs) where
  access := accessKeeps_self
    (fun h e => by
      rw [State.activeAs, ctx_eq_of_bare e]
      exact ⟨h.1, h.2.1, (congrArg State.groups e :).trans h.2.2⟩)
    (fun h => by rw [State.activeAs, meet_ctx]; exact ⟨h.1, h.2.1, by rw [meet_parts]; exact h.2.2⟩) (fun h => h)
    (fun h => by rw [State.activeAs, ctx_overwrite, Ctx.overwrite_state, Ctx.overwrite_headland]; exact h)
  waits h := h
  sticky {s d v} h := by
    by_cases hd : c = d
    · subst hd
      unfold State.activeAs
      rw [ctx_setCtx]
      exact h
    · unfold State.activeAs
      rw [ctx_setCtx_ne _ _ hd]
      exact h
  queue h := h

theorem unbrk_brk (s : State) {c g : Nat} (hg : g < s.groups.length) (hctx : s.ctxOf g = c) : ((s.unbrk c).group g).brk = false := by
  have hgroup : s.group g = s.groups[g] := by rw [State.group, List.getD_eq_getElem?_getD, List.getElem?_eq_getElem hg]; rfl
  have hlaunch : (s.launch s.groups[g].launch).ctx = c := by rw [← hgroup]; exact hctx
  unfold State.unbrk State.group
  rw [List.getD_eq_getElem?_getD, List.getElem?_map, List.getElem?_eq_getElem hg, Option.map_some, Option.getD_some, if_pos hlaunch]

theorem activate_acts (hc : fieldOf p 8 8 < 64) (hfn : (s.ctx (fieldOf p 8 8)).fn = fn)
    (hst : (s.ctx (fieldOf p 8 8)).state = .opened ∨ (s.ctx (fieldOf p 8 8)).state = .suspended ∨ (s.ctx (fieldOf p 8 8)).state = .active) :
    let c := fieldOf p 8 8
    let u := (s.setCtx c { s.ctx c with state := .active, headland := 0 }).unbrk c
    let t := u.settleQueues (u.ctxQueues c)
    EndsOn s fn (.activate fn p) t 0 ∧ (t.ctx c).state = .active ∧ (t.ctx c).headland = 0 ∧
      ∀ g < s.groups.length, s.ctxOf g = c → (t.group g).brk = false := by
  intro c u t
  have hu : u.activeAs c .active 0 u.groups := by
    have hctx : u.ctx c = { s.ctx c with state := .active, headland := 0 } := ctx_setCtx ..
    unfold State.activeAs
    rw [hctx]
    exact ⟨rfl, rfl, rfl⟩
  obtain ⟨hstate, hheadland, hgroups⟩ := (queueKeeps_activeAs ..).settleQueues (l := u.ctxQueues c) hu
  refine ⟨endsOn_done ?_, hstate, hheadland, fun g hg hctx => ?_⟩
  · change execActivate fn p s = _
    unfold execActivate
    exact onCtx_runs hc (.inr hfn) (by simpa [or_assoc] using hst) rfl
  · have hgroup : t.group g = u.group g := by rw [State.group, hgroups, State.group]
    rw [hgroup]
    exact unbrk_brk (s.setCtx c { s.ctx c with state := .active, headland := 0 }) hg hctx

end Sys2Proof.Machine
end

section
/-! DESTROY (R60, R85, R99, R106, R117): the context is Closing, its launches end and its queues close. -/

namespace Sys2Proof.Machine

variable {s t u : State} {fn : Nat} {p : Packet} {c l : Nat}

/-! ## Launches of a context that is destroyed -/

/-- Launch l exists and satisfies Q. -/
def LaunchIs (l : Nat) (Q : Launch → Prop) (s : State) : Prop := l < s.launches.length ∧ Q (s.launch l)

theorem LaunchIs.of_launches {Q : Launch → Prop} (h : LaunchIs l Q s) (ht : t.launches = s.launches) : LaunchIs l Q t := by
  unfold LaunchIs State.launch
  rw [ht]
  exact h

theorem LaunchIs.modLaunch {Q R : Launch → Prop} {f : Launch → Launch} (h : LaunchIs l Q s) (hf : ∀ x, Q x → R (f x)) : LaunchIs l R (s.modLaunch l f) := by
  obtain ⟨hl, hq⟩ := h
  exact ⟨by simpa using hl, by rw [launch_modLaunch_same s f hl]; exact hf _ hq⟩

theorem LaunchIs.modLaunch_ne {Q : Launch → Prop} {k : Nat} {f : Launch → Launch} (h : LaunchIs l Q s) (hk : l ≠ k) : LaunchIs l Q (s.modLaunch k f) := by
  obtain ⟨hl, hq⟩ := h
  exact ⟨by simpa using hl, by rw [launch_modLaunch_ne s f hk]; exact hq⟩

/-- The last of its groups ends: Q stays true of a launch that then drains. -/
def DrainKeeps (Q : Launch → Prop) : Prop := ∀ x : Launch, Q x → x.state = .placing ∨ x.state = .running → Q { x with state := .draining }

theorem stopKeeps_launchIs {Q : Launch → Prop} (hQ : DrainKeeps Q) (l g : Nat) : StopKeeps g (LaunchIs l Q) where
  toEngineKeeps := ⟨fun h => h.of_launches rfl, fun h _ => h.of_launches rfl⟩
  headland h := h.of_launches rfl
  free h := h.of_launches (hubOnly_saveFree (.refl _)).launches
  own h := h.of_launches rfl
  drain := by
    intro s k h
    unfold State.drainCheck
    extract_lets la placed
    split
    · next hc =>
      by_cases hk : l = k
      · subst hk
        have hrun : LaunchIs l (fun x => Q x ∧ (x.state = .placing ∨ x.state = .running)) s := ⟨h.1, h.2, hc.1⟩
        exact hrun.modLaunch fun x hx => hQ x hx.1 hx.2
      · exact h.modLaunch_ne hk
    · exact h

/-- How a launch stands before its context's destruction gets to it: whether it has finished is known. -/
def Launch.awaits (fin : Prop) (x : Launch) : Prop := x.state ≠ .gone ∧ (x.state = .finished ↔ fin)

/-- How the destruction of its context leaves a launch. -/
def Launch.dying (fin : Prop) (x : Launch) : Prop := x.ended = true ∧ x.donesig = 0 ∧ x.irq = false ∧ (fin → x.state = .finished) ∧ (¬fin → x.state = .draining)

theorem awaits_drains (fin : Prop) : DrainKeeps (Launch.awaits fin) := by
  rintro x ⟨-, hfin⟩ hx
  have hnot : ¬fin := by
    rintro h
    rw [hfin.mpr h] at hx
    exact hx.elim nofun nofun
  exact ⟨nofun, iff_of_false nofun hnot⟩

theorem dying_drains (fin : Prop) : DrainKeeps (Launch.dying fin) := by
  rintro x ⟨-, -, -, hyes, hno⟩ hx
  by_cases h : fin
  · rw [hyes h] at hx
    exact hx.elim nofun nofun
  · rw [hno h] at hx
    exact hx.elim nofun nofun

theorem Launch.dying.awaits {fin : Prop} {x : Launch} (h : x.dying fin) : x.awaits fin := by
  obtain ⟨-, -, -, hyes, hno⟩ := h
  by_cases hf : fin
  · exact ⟨by rw [hyes hf]; nofun, iff_of_true (hyes hf) hf⟩
  · exact ⟨by rw [hno hf]; nofun, iff_of_false (by rw [hno hf]; nofun) hf⟩

theorem launchIs_stopped {Q : Launch → Prop} (hQ : DrainKeeps Q) {gs : List Nat} {k : Nat} {replay : Bool} (h : LaunchIs l Q s) :
    LaunchIs l Q ((s.stopGroups gs).dispose k replay) :=
  (stopKeeps_launchIs hQ l 0).dispose (stopGroups_keeps (fun g _ => stopKeeps_launchIs hQ l g) h)

theorem launchIs_flushHeld {Q : Launch → Prop} (hQ : ∀ x : Launch, Q x → Q { x with heldFault := none }) {k action : Nat} (h : LaunchIs l Q s) :
    LaunchIs l Q (s.flushHeld k action) := by
  unfold State.flushHeld
  extract_lets la
  split
  · exact h
  · have hr (f : FaultInfo) (r : Option (Nat × Nat)) : LaunchIs l Q (s.record la.ctx f action r) := h.of_launches (hubOnly_record (.refl s)).launches
    by_cases hk : l = k
    · subst hk
      exact (hr _ _).modLaunch hQ
    · exact (hr _ _).modLaunch_ne hk

theorem launchIs_destroyLaunch_ne {Q : Launch → Prop} (hQ : DrainKeeps Q) (hheld : ∀ x : Launch, Q x → Q { x with heldFault := none }) {k : Nat}
    (hk : l ≠ k) (h : LaunchIs l Q s) : LaunchIs l Q (s.destroyLaunch k) :=
  ite_keeps (h.modLaunch_ne hk) (ite_keeps h ((launchIs_flushHeld hheld (launchIs_stopped hQ h)).modLaunch_ne hk))

theorem dying_of_destroyLaunch {fin : Prop} (h : LaunchIs l (Launch.awaits fin) s) : LaunchIs l (Launch.dying fin) (s.destroyLaunch l) := by
  obtain ⟨hl, hgone, hfin⟩ := h
  unfold State.destroyLaunch
  extract_lets quiet t r
  by_cases hs : (s.launch l).state = .finished
  · rw [if_pos hs]
    have hdone : LaunchIs l (fun x => x.state = .finished) s := ⟨hl, hs⟩
    exact hdone.modLaunch fun x hx => ⟨rfl, rfl, rfl, fun _ => hx, fun hn => absurd (hfin.mp hs) hn⟩
  · have hun : (s.launch l).unfinished = true := by simp [Launch.unfinished, hs, hgone]
    rw [if_neg hs, if_neg (not_not_of hun)]
    have hr : LaunchIs l (Launch.awaits fin) r := launchIs_flushHeld (fun x hx => hx) (launchIs_stopped (awaits_drains fin) ⟨hl, hgone, hfin⟩)
    exact hr.modLaunch fun x _ => ⟨rfl, rfl, rfl, fun hf => absurd (hfin.mpr hf) hs, fun _ => rfl⟩

theorem destroyLaunches_dying {fin : Prop} {ls : List Nat} (h : LaunchIs l (Launch.awaits fin) s) (hmem : l ∈ ls) :
    LaunchIs l (Launch.dying fin) (ls.foldl (fun s k => s.destroyLaunch k) s) := by
  have hstep (k : Nat) {s : State} (hs : LaunchIs l (Launch.dying fin) s) : LaunchIs l (Launch.dying fin) (s.destroyLaunch k) := by
    by_cases hk : l = k
    · subst hk
      exact dying_of_destroyLaunch ⟨hs.1, hs.2.awaits⟩
    · exact launchIs_destroyLaunch_ne (dying_drains fin) (fun _ hx => hx) hk hs
  induction ls generalizing s with
  | nil => cases hmem
  | cons k ls ih =>
    rw [List.foldl_cons]
    by_cases hk : l = k
    · subst hk
      exact foldl_keeps (dying_of_destroyLaunch h) fun _ k hs => hstep k hs
    · exact ih (launchIs_destroyLaunch_ne (awaits_drains fin) (fun _ hx => hx) hk h) ((List.mem_cons.mp hmem).resolve_left hk)

/-! ## Queues of a context that is destroyed (R85) -/

theorem mem_of_tget_ne {α : Type} {d : α} {l : List (Nat × α)} {k : Nat} (h : tget d l k ≠ d) : (k, tget d l k) ∈ l := by
  induction l with
  | nil => exact absurd rfl h
  | cons e l ih =>
    obtain ⟨i, a⟩ := e
    rw [tget] at h ⊢
    split at h
    · next hi =>
      subst hi
      rw [if_pos rfl]
      exact List.mem_cons_self ..
    · next hi =>
      rw [if_neg hi]
      exact List.mem_cons_of_mem _ (ih h)

theorem mem_ctxQueues_of_open {q : Nat} (hctx : (s.queue q).ctx = c) (hopen : (s.queue q).state ≠ .closed) : q ∈ s.ctxQueues c := by
  have hmem : (q, s.queue q) ∈ s.queues := mem_of_tget_ne fun h => hopen (congrArg Queue.state h)
  exact List.mem_filter.mpr ⟨List.mem_map.mpr ⟨_, List.mem_filter.mpr ⟨hmem, decide_eq_true hopen⟩, rfl⟩, decide_eq_true hctx⟩

theorem closeQueues_closed {qs : List Nat} {q : Nat} (hq : q ∈ qs) : ((qs.foldl (fun s q => s.setQueue q {}) s).queue q).state = .closed := by
  have hstep (t : State) (k : Nat) (h : (t.queue q).state = .closed) : ((t.setQueue k {}).queue q).state = .closed := by
    by_cases hk : q = k
    · subst hk
      rw [queue_setQueue]
    · rw [queue_setQueue_ne _ _ hk]
      exact h
  induction qs generalizing s with
  | nil => cases hq
  | cons k qs ih =>
    rw [List.foldl_cons]
    rcases List.mem_cons.mp hq with rfl | hq
    · exact foldl_keeps (P := fun t : State => (t.queue q).state = .closed) (by rw [queue_setQueue]) hstep
    · exact ih hq

/-! ## DESTROY -/

/-- The launches of a context end, the first step of `State.endContext`. -/
def State.endLaunches (s : State) (c : Nat) : State :=
  let s := s.setCtx c { s.ctx c with state := .closing }
  ((List.range s.launches.length).filter fun l => (s.launch l).ctx = c).foldl (fun s l => s.destroyLaunch l) s

theorem endContext_eq (s : State) (c : Nat) :
    s.endContext c = ((s.endLaunches c).ctxQueues c).foldl (fun s q => s.setQueue q {}) (s.endLaunches c) := rfl

theorem endLaunches_queues (s : State) (c : Nat) : (s.endLaunches c).queues = s.queues := by
  have h : GroupsOnly (s.setCtx c { s.ctx c with state := .closing }) (s.endLaunches c) := foldl_keeps (.refl _) fun _ _ ht => groupsOnly_destroyLaunch ht
  exact (congrArg State.queues h.rest :)

theorem destroyCtx_parts (s : State) (c : Nat) : (s.destroyCtx c).queues = (s.endContext c).queues ∧ (s.destroyCtx c).launches = (s.endContext c).launches := by
  rw [destroyCtx_eq]
  generalize s.endContext c = u
  exact ⟨rfl, rfl⟩

theorem destroyCtx_queue (s : State) {c q : Nat} (hctx : (s.queue q).ctx = c) (hopen : (s.queue q).state ≠ .closed) :
    ((s.destroyCtx c).queue q).state = .closed := by
  have hq : (s.endLaunches c).queue q = s.queue q := by rw [State.queue, endLaunches_queues, State.queue]
  have hmem : q ∈ (s.endLaunches c).ctxQueues c := mem_ctxQueues_of_open (by rw [hq]; exact hctx) (by rw [hq]; exact hopen)
  have hclosed : ((s.endContext c).queue q).state = .closed := by
    rw [endContext_eq]
    exact closeQueues_closed hmem
  rw [State.queue, (destroyCtx_parts s c).1]
  exact hclosed

theorem destroyCtx_launches (s : State) (c : Nat) : (s.destroyCtx c).launches = (s.endLaunches c).launches := by
  rw [(destroyCtx_parts s c).2, endContext_eq]
  exact foldl_keeps (P := fun t : State => t.launches = (s.endLaunches c).launches) rfl fun _ _ ht => ht

theorem destroyCtx_launch (s : State) {c l : Nat} (hl : l < s.launches.length) (hctx : (s.launch l).ctx = c) (hgone : (s.launch l).state ≠ .gone) :
    ((s.destroyCtx c).launch l).dying ((s.launch l).state = .finished) := by
  have hmem : l ∈ (List.range s.launches.length).filter fun l => decide ((s.launch l).ctx = c) :=
    List.mem_filter.mpr ⟨List.mem_range.mpr hl, decide_eq_true hctx⟩
  have hend : LaunchIs l (Launch.dying ((s.launch l).state = .finished)) (s.endLaunches c) :=
    destroyLaunches_dying (s := s.setCtx c { s.ctx c with state := .closing }) ⟨hl, hgone, Iff.rfl⟩ hmem
  exact (hend.of_launches (destroyCtx_launches s c)).2

theorem destroy_runs (hc : fieldOf p 8 8 < 64) (hfn : (s.ctx (fieldOf p 8 8)).fn = fn) (hfree : (s.ctx (fieldOf p 8 8)).state ≠ .free) {res : Adm}
    (hres : .done (if (s.ctx (fieldOf p 8 8)).state = .closing then s else s.destroyCtx (fieldOf p 8 8)) = res) :
    exec (.destroy fn p) s = .next (s.finishAdm fn res) := by
  change execDestroy fn p s = _
  unfold execDestroy
  exact onCtx_runs hc (.inr hfn) (decide_eq_true hfree) hres

theorem destroy_again (hc : fieldOf p 8 8 < 64) (hfn : (s.ctx (fieldOf p 8 8)).fn = fn) (hclosing : (s.ctx (fieldOf p 8 8)).state = .closing) :
    exec (.destroy fn p) s = .next (s.complete fn 0) :=
  (endsOn_done (destroy_runs hc hfn (by rw [hclosing]; nofun) (congrArg Adm.done (if_pos hclosing)))).ends rfl

theorem Ctx.closing_of_base {x y : Ctx} (h : y.base = { x.base with state := .closing, bins := [], nodeReady := [] }) :
    y.state = .closing ∧ y.bins = [] ∧ y.nodeReady = [] :=
  ⟨(congrArg Ctx.state h :), (congrArg Ctx.bins h :), (congrArg Ctx.nodeReady h :)⟩

theorem destroy_acts (hc : fieldOf p 8 8 < 64) (hfn : (s.ctx (fieldOf p 8 8)).fn = fn) (hfree : (s.ctx (fieldOf p 8 8)).state ≠ .free)
    (hclosing : (s.ctx (fieldOf p 8 8)).state ≠ .closing) :
    let c := fieldOf p 8 8
    let t := s.destroyCtx c
    EndsOn s fn (.destroy fn p) t 0 ∧ (t.ctx c).state = .closing ∧ (t.ctx c).bins = [] ∧ (t.ctx c).nodeReady = [] ∧
      (∀ q, (s.queue q).ctx = c → (s.queue q).state ≠ .closed → (t.queue q).state = .closed) ∧
      ∀ l < s.launches.length, (s.launch l).ctx = c → (s.launch l).state ≠ .gone → (t.launch l).ended = true ∧ (t.launch l).donesig = 0 ∧
        (t.launch l).irq = false ∧ (t.launch l).state = if (s.launch l).state = .finished then .finished else .draining := by
  intro c t
  obtain ⟨hstate, hbins, hready⟩ := Ctx.closing_of_base ((destroyCtx_base s c c).trans (if_pos rfl))
  refine ⟨endsOn_done (destroy_runs hc hfn hfree (congrArg Adm.done (if_neg hclosing))), hstate, hbins, hready, fun q hctx hopen => destroyCtx_queue s hctx hopen, fun l hl hctx hgone => ?_⟩
  obtain ⟨hended, hsig, hirq, hyes, hno⟩ := destroyCtx_launch s hl hctx hgone
  refine ⟨hended, hsig, hirq, ?_⟩
  split
  · next h => exact hyes h
  · next h => exact hno h

end Sys2Proof.Machine
end

section
/-! The end of a teardown, and the commands on key slots (R60, R62, R66, R67). -/

namespace Sys2Proof.Machine

variable {s t u v : State} {fn : Nat} {p : Packet} {c : Nat}

/-! ## TEARDOWN_COMPLETE (R60) -/

theorem exec_teardown (s : State) (c : Nat) : exec (.teardownComplete c) s = execTeardownComplete c s := rfl

theorem teardown_idle (h : (s.ctx c).state ≠ .closing) : exec (.teardownComplete c) s = .next s := by
  rw [exec_teardown]
  unfold execTeardownComplete
  exact if_pos (.inl h)

theorem teardown_owing (h : ((s.killTensors c (s.ctx c).tensors).owed.any fun o => o.ofCtx c) = true) : exec (.teardownComplete c) s = .next s := by
  rw [exec_teardown]
  unfold execTeardownComplete
  exact if_pos (.inr (.inr h))

theorem teardown_frees (h : (s.ctx c).state = .closing) (htorn : s.torn c = true)
    (howes : ((s.killTensors c (s.ctx c).tensors).owed.any fun o => o.ofCtx c) = false) :
    ∃ t : State, exec (.teardownComplete c) s = .next t ∧ t.ctx c = {} := by
  rw [exec_teardown]
  unfold execTeardownComplete
  refine ⟨_, if_neg ?_, ctx_setCtx ..⟩
  rintro (hn | hn | hn)
  · exact hn h
  · exact not_not_of htorn hn
  · rw [howes] at hn
    cases hn

/-! ## IMPORTKEY (R62, R67) -/

/-- The contexts that an IMPORTKEY binds are free or the giving function's. -/
def State.mayBind (s : State) (fn : Nat) (p : Packet) : Prop :=
  ∀ c < 64, (p.extractLsb' 384 64).getLsbD c = true → (s.ctx c).state = .free ∨ (s.ctx c).fn = fn

theorem pkt_mask (p : Packet) : BitVec.ofNat 64 (pkt p 447 384) = p.extractLsb' 384 64 := by
  refine BitVec.eq_of_toNat_eq ?_
  rw [BitVec.toNat_ofNat, BitVec.extractLsb'_toNat, pkt, bits]
  exact Nat.mod_mod ..

theorem no_foreign (h : s.mayBind fn p) :
    ¬((List.range 64).any fun c => (p.extractLsb' 384 64).getLsbD c && decide ((s.ctx c).state ≠ .free) && decide ((s.ctx c).fn ≠ fn)) = true := by
  intro hany
  simp only [List.any_eq_true, List.mem_range, Bool.and_eq_true, decide_eq_true_eq] at hany
  obtain ⟨c, hc, ⟨hbit, hfree⟩, hfn⟩ := hany
  exact (h c hc hbit).elim hfree hfn

theorem blobFld_eq (bs : List Byte) (hi lo w : Nat) (hw : hi - lo + 1 = w) : blobFld bs hi lo = ofBytes bs / 2 ^ lo % 2 ^ w := by
  rw [blobFld, bits, Nat.shiftRight_eq_div_pow, hw]

/-- The key pair that a blob wraps (R67). -/
def blobKey (bs : List Byte) : Option (BitVec 512) :=
  let field (lo w : Nat) : Nat := ofBytes bs / 2 ^ lo % 2 ^ w
  Config.unwrapKey (field 0 32) (.ofNat 96 (field 32 96)) (.ofNat 512 (field 128 512)) (.ofNat 128 (ofBytes ((bs.drop 128).take 16)))

/-- The measurement that a blob's policy names for its list of digests (R67). -/
def blobMeasure (bs : List Byte) : BitVec 384 := .ofNat 384 (ofBytes bs / 2 ^ 640 % 2 ^ 384)

/-- The slot that an IMPORTKEY loads. -/
def loadedSlot (fn : Nat) (p : Packet) (n : Nat) (ds : List Byte) (y : BitVec 512) : KeySlot :=
  { state := .loaded, fn := fn, ctxmask := p.extractLsb' 384 64, key := y,
    approved := (List.range n).map fun i => .ofNat 384 (ofBytes ((ds.drop (48 * i)).take 48)) }

/-- The number of digests in a blob's list. -/
def blobCount (bs : List Byte) : Nat := ofBytes ((bs.drop 144).take 4)

/-- What an IMPORTKEY answers once its blob and its list have been read. -/
def State.importRes (v : State) (fn : Nat) (p : Packet) (bs ds : List Byte) : Adm :=
  match blobKey bs with
  | none => .refused v 5
  | some y =>
    if sha384 ((bs.drop 144).take 4 ++ ds) ≠ blobMeasure bs then .refused v 5
    else .done (v.setKey (fieldOf p 378 6) (loadedSlot fn p (blobCount bs) ds y))

theorem exec_importkey (s : State) (fn : Nat) (p : Packet) : exec (.importkey fn p) s = execImportkey fn p s := rfl

theorem importkey_occupied (h : (s.key (fieldOf p 378 6)).state ≠ .empty) : exec (.importkey fn p) s = .next (s.complete fn 1) := by
  rw [exec_importkey]
  unfold execImportkey
  rw [pkt_eq_fieldOf p 383 378]
  exact congrArg (fun r => Host.Outcome.next (s.finishAdm fn r)) (if_pos h)

section
variable (hempty : (s.key (fieldOf p 378 6)).state = .empty) (hbind : s.mayBind fn p)
include hempty hbind

theorem importkey_bad (hbad : p.extractLsb' 384 64 = 0 ∨ fieldOf p 448 64 % 16 ≠ 0) : exec (.importkey fn p) s = .next (s.complete fn 3) := by
  rw [exec_importkey]
  unfold execImportkey
  rw [pkt_eq_fieldOf p 383 378, pkt_mask, pkt_eq_fieldOf p 511 448]
  refine congrArg (fun r => Host.Outcome.next (s.finishAdm fn r)) (a₂ := .refuse 3) ((if_neg (not_not.mpr hempty)).trans ?_)
  by_cases hmask : p.extractLsb' 384 64 = 0
  · exact if_pos hmask
  · exact (if_neg hmask).trans ((if_neg (no_foreign hbind)).trans (if_pos (hbad.resolve_left hmask)))

variable (hmask : p.extractLsb' 384 64 ≠ 0) (hblob : fieldOf p 448 64 % 16 = 0) {bs : List Byte}
  (hread : s.cmdRd 0x3F (fieldOf p 448 64) 148 = (u, some bs))
include hmask hblob hread

theorem importkey_runs {res : Adm} (hres : (if blobCount bs = 0 ∨ 16 < blobCount bs then .refused u 3
      else match u.cmdRd 0x3F (fieldOf p 448 64 + 148) (48 * blobCount bs) with
        | (v, none) => .refused v 3
        | (v, some ds) => v.importRes fn p bs ds) = res) : exec (.importkey fn p) s = .next (s.finishAdm fn res) := by
  rw [exec_importkey]
  unfold execImportkey
  rw [pkt_eq_fieldOf p 383 378, pkt_mask, pkt_eq_fieldOf p 511 448]
  refine congrArg (fun r => Host.Outcome.next (s.finishAdm fn r)) ((if_neg (not_not.mpr hempty)).trans ((if_neg hmask).trans ((if_neg (no_foreign hbind)).trans
    ((if_neg (not_not.mpr hblob)).trans ?_))))
  rw [← hres]
  rw [show s.cmdRd 0x3F (fieldOf p 448 (511 - 448 + 1)) 148 = _ from hread]
  unfold State.importRes blobKey blobMeasure loadedSlot
  simp only [blobFld_eq bs 31 0 32 rfl, blobFld_eq bs 127 32 96 rfl, blobFld_eq bs 639 128 512 rfl, blobFld_eq bs 1023 640 384 rfl, entries_eq, List.map_map]
  rfl

theorem importkey_unlisted (hn : blobCount bs = 0 ∨ 16 < blobCount bs) : EndsOn s fn (.importkey fn p) u 3 :=
  endsOn_refused (importkey_runs hempty hbind hmask hblob hread (if_pos hn))

variable (h1 : 1 ≤ blobCount bs) (h16 : blobCount bs ≤ 16) {ds : List Byte}
  (hlist : u.cmdRd 0x3F (fieldOf p 448 64 + 148) (48 * blobCount bs) = (v, some ds))
include h1 h16 hlist

theorem importkey_answers : exec (.importkey fn p) s = .next (s.finishAdm fn (v.importRes fn p bs ds)) := by
  refine importkey_runs hempty hbind hmask hblob hread ((if_neg (by omega)).trans ?_)
  rw [hlist]

theorem importkey_untrusted (hbad : blobKey bs = none ∨ sha384 ((bs.drop 144).take 4 ++ ds) ≠ blobMeasure bs) : EndsOn s fn (.importkey fn p) v 5 := by
  refine endsOn_refused ((importkey_answers hempty hbind hmask hblob hread h1 h16 hlist).trans ?_)
  unfold State.importRes
  cases hkey : blobKey bs with
  | none => rfl
  | some y =>
    have hsha := hbad.resolve_left (by rw [hkey]; nofun)
    dsimp only
    rw [if_pos hsha]

theorem importkey_loads {y : BitVec 512} (hkey : blobKey bs = some y) (hsha : sha384 ((bs.drop 144).take 4 ++ ds) = blobMeasure bs) :
    EndsOn s fn (.importkey fn p) (v.setKey (fieldOf p 378 6) (loadedSlot fn p (blobCount bs) ds y)) 0 := by
  refine endsOn_done ((importkey_answers hempty hbind hmask hblob hread h1 h16 hlist).trans ?_)
  unfold State.importRes
  rw [hkey]
  dsimp only
  rw [if_neg (not_not.mpr hsha)]

end

/-! ## DROPKEY and KEY_ZEROIZE_COMPLETE (R62, R66) -/

/-- A context that a slot is bound to uses its key. -/
def State.keyBusy (s : State) (k : KeySlot) (fn : Nat) : Prop :=
  ∃ c < 64, k.ctxmask.getLsbD c = true ∧ (s.ctx c).fn = fn ∧ (s.ctx c).state ∈ [CtxState.active, .quiescing, .suspended]

theorem hasBound_iff {k : KeySlot} (hfn : k.fn = fn) :
    (s.hasBound k fun st => decide (st = .active) || decide (st = .quiescing) || decide (st = .suspended)) = true ↔ s.keyBusy k fn := by
  simp only [State.hasBound, State.keyBusy, List.any_eq_true, List.mem_range, Bool.and_eq_true, Bool.or_eq_true, decide_eq_true_eq, hfn, List.mem_cons,
    List.not_mem_nil, or_false]
  refine exists_congr fun c => and_congr_right fun _ => ?_
  constructor
  · rintro ⟨⟨⟨hbit, -⟩, hown⟩, hst⟩
    exact ⟨hbit, hown, or_assoc.mp hst⟩
  · rintro ⟨hbit, hown, hst⟩
    refine ⟨⟨⟨hbit, fun hfree => ?_⟩, hown⟩, or_assoc.mpr hst⟩
    rw [hfree] at hst
    exact hst.elim nofun (Or.elim · nofun nofun)

theorem exec_dropkey (s : State) (fn : Nat) (p : Packet) : exec (.dropkey fn p) s = execDropkey fn p s := rfl

/-- What a DROPKEY answers. -/
def State.dropkeyRes (s : State) (fn d : Nat) : Adm :=
  let k := s.key d
  if k.state ≠ .empty ∧ k.fn ≠ fn then .refuse 2
  else if k.state ≠ .loaded then .refuse 1
  else if s.hasBound k fun st => st = .active || st = .quiescing || st = .suspended then .refuse 4
  else .done (s.setKey d { k with state := .zeroizing })

theorem dropkey_runs {res : Adm} (hres : s.dropkeyRes fn (fieldOf p 256 6) = res) : exec (.dropkey fn p) s = .next (s.finishAdm fn res) := by
  rw [exec_dropkey]
  unfold execDropkey
  rw [pkt_eq_fieldOf p 261 256, ← hres]
  rfl

theorem dropkey_foreign (hst : (s.key (fieldOf p 256 6)).state ≠ .empty) (hfn : (s.key (fieldOf p 256 6)).fn ≠ fn) :
    exec (.dropkey fn p) s = .next (s.complete fn 2) := dropkey_runs (res := .refuse 2) (if_pos ⟨hst, hfn⟩)

theorem dropkey_unloaded (h : (s.key (fieldOf p 256 6)).state = .empty ∨ (s.key (fieldOf p 256 6)).fn = fn ∧ (s.key (fieldOf p 256 6)).state ≠ .loaded) :
    exec (.dropkey fn p) s = .next (s.complete fn 1) := by
  refine dropkey_runs (res := .refuse 1) ((if_neg ?_).trans (if_pos ?_))
  · rintro ⟨hst, hfn⟩
    exact h.elim hst fun h => hfn h.1
  · exact h.elim (fun h => by rw [h]; nofun) And.right

theorem dropkey_loaded (hst : (s.key (fieldOf p 256 6)).state = .loaded) (hfn : (s.key (fieldOf p 256 6)).fn = fn) :
    (s.keyBusy (s.key (fieldOf p 256 6)) fn → exec (.dropkey fn p) s = .next (s.complete fn 4)) ∧
      (¬s.keyBusy (s.key (fieldOf p 256 6)) fn →
        exec (.dropkey fn p) s = .next ((s.setKey (fieldOf p 256 6) { s.key (fieldOf p 256 6) with state := .zeroizing }).complete fn 0)) := by
  have hown {res : Adm} (hres : (if s.hasBound (s.key (fieldOf p 256 6)) fun st => st = .active || st = .quiescing || st = .suspended then .refuse 4
      else .done (s.setKey (fieldOf p 256 6) { s.key (fieldOf p 256 6) with state := .zeroizing })) = res) :
      exec (.dropkey fn p) s = .next (s.finishAdm fn res) :=
    dropkey_runs ((if_neg fun h => h.2 hfn).trans ((if_neg (not_not.mpr hst)).trans hres))
  exact ⟨fun hbusy => hown (res := .refuse 4) (if_pos ((hasBound_iff hfn).mpr hbusy)),
    fun hidle => (endsOn_done (hown (if_neg (mt (hasBound_iff hfn).mp hidle)))).ends rfl⟩

theorem exec_keyZeroize (s : State) (d : Nat) : exec (.keyZeroizeComplete d) s = execKeyZeroizeComplete d s := rfl

theorem keyZeroize_idle {d : Nat} (h : (s.key d).state ≠ .zeroizing) : exec (.keyZeroizeComplete d) s = .next s := by
  rw [exec_keyZeroize]
  unfold execKeyZeroizeComplete
  exact if_pos (.inl h)

theorem keyZeroize_empties {d : Nat} (h : (s.key d).state = .zeroizing) (hidle : ∀ e ∈ s.allEntries, isMarker e.work = true) :
    exec (.keyZeroizeComplete d) s = .next (s.setKey d {}) := by
  rw [exec_keyZeroize]
  unfold execKeyZeroizeComplete
  refine if_neg ?_
  rintro (hn | hn)
  · exact hn h
  · obtain ⟨e, he, hcond⟩ := List.any_eq_true.mp hn
    rw [hidle e he, Bool.not_true, Bool.false_and] at hcond
    cases hcond

end Sys2Proof.Machine
end

section
/-! What the commands on a context do, by command (R58, R59, R61, R62, R330). -/

namespace Sys2Proof.Machine

variable {s : State} {fn : Nat} {p : Packet}

theorem createBad_iff (s : State) (fn : Nat) (p : Packet) : s.createBad fn p ↔
    ¬((s.key (fieldOf p 66 6)).state = .loaded ∧ (s.key (fieldOf p 66 6)).fn = fn ∧ (s.key (fieldOf p 66 6)).ctxmask.getLsbD (fieldOf p 8 8) = true) ∨
      (p.getLsbD 55 = true ∧ p.getLsbD 54 = true) ∨ (p.getLsbD 55 = true ∧ ¬((s.fn fn).keyed = true ∧ (fn = 0 ∨ (s.fn fn).tdi = .run))) := by
  rw [State.createBad, boundTo_iff, mayProtect_iff]

theorem create_acts (hc : fieldOf p 8 8 < 64) (hfree : (s.ctx (fieldOf p 8 8)).state = .free) (hfmt : fieldOf p 256 64 = 0)
    (hgood : ¬(hlogOf (fieldOf p 60 6) = none ∨ s.createBad fn p)) :
    let t := s.tick.setCtx (fieldOf p 8 8) (s.created fn p ((hlogOf (fieldOf p 60 6)).getD 0))
    exec (.create fn p) s = .next (t.complete fn 0) ∧ SameBut [] { s with ctxs := t.ctxs } t ∧ ∀ y, y ≠ fieldOf p 8 8 → t.ctx y = s.ctx y := by
  obtain ⟨hlog, hbad⟩ := not_or.mp hgood
  obtain ⟨n, hn⟩ := Option.ne_none_iff_exists'.mp hlog
  rw [hn]
  exact ⟨create_opens hc hfree hfmt hn hbad, .refl .., fun y hy => ctx_setCtx_ne _ _ hy⟩

section
variable (hc : fieldOf p 8 8 < 64) (hfn : (s.ctx (fieldOf p 8 8)).fn = fn)
include hc hfn

theorem suspend_acts (hst : (s.ctx (fieldOf p 8 8)).state = .active ∨ (s.ctx (fieldOf p 8 8)).state = .quiescing) :
    let c := fieldOf p 8 8
    (s.preempt (s.ctxLive c) = none → EndsOn s fn (.suspend fn p) (s.preemptNote (s.ctxLive c)) 4) ∧
      ∀ u, s.preempt (s.ctxLive c) = some u →
        let t := u.setCtx c { u.ctx c with state := .suspended }
        (t.suspendOver c = true → EndsOn s fn (.suspend fn p) t 0) ∧
          (t.suspendOver c = false → (hubHeld s t → exec (.suspend fn p) s = .next (s.unread fn)) ∧
            (¬hubHeld s t → exec (.suspend fn p) s = .next (t.setFn fn { t.fn fn with pending := some (.suspend c) }))) := by
  intro c
  refine ⟨fun h => endsOn_refused (suspend_runs hc hfn hst ?_), fun u h => ⟨fun hover => endsOn_done (suspend_runs hc hfn hst ?_),
    fun hover => waitsOn_wait (suspend_runs hc hfn hst ?_)⟩⟩
  · rw [State.suspend, h]; rfl
  · rw [State.suspend, h]; exact if_pos hover
  · rw [State.suspend, h]; exact if_neg (Bool.not_eq_true _ ▸ hover)

variable (hst : (s.ctx (fieldOf p 8 8)).state ≠ .free ∧ (s.ctx (fieldOf p 8 8)).state ≠ .closing)
include hst

theorem setheadland_acts : (hlogOf (fieldOf p 256 6) = none → exec (.setheadland fn p) s = .next (s.complete fn 3)) ∧
    ∀ n, hlogOf (fieldOf p 256 6) = some n →
      exec (.setheadland fn p) s = .next ((s.setCtx (fieldOf p 8 8) { s.ctx (fieldOf p 8 8) with hlog := n }).complete fn 0) :=
  ⟨fun hlog => setheadland_runs (res := .refuse 3) hc hfn hst (by rw [hlog]),
    fun n hlog => (endsOn_done (setheadland_runs hc hfn hst (by rw [hlog]))).ends rfl⟩

theorem pagehold_misnamed (hbad : (holdOf p).va % 65536 ≠ 0 ∨ (holdOf p).pages = 0 ∨ 2 ^ 20 < (holdOf p).pages) :
    exec (.pagehold fn p) s = .next (s.complete fn 3) := pagehold_runs (res := .refuse 3) hc hfn hst (if_pos hbad)

variable (hgood : ¬((holdOf p).va % 65536 ≠ 0 ∨ (holdOf p).pages = 0 ∨ 2 ^ 20 < (holdOf p).pages))
include hgood

theorem pagehold_drops (hdrop : p.getLsbD 415 = false) :
    let c := fieldOf p 8 8
    (holdOf p ∈ (s.ctx c).holds →
      exec (.pagehold fn p) s = .next ((s.setCtx c { s.ctx c with holds := (s.ctx c).holds.erase (holdOf p) }).complete fn 0)) ∧
      (holdOf p ∉ (s.ctx c).holds → exec (.pagehold fn p) s = .next (s.complete fn 3)) := by
  intro c
  have hrun {res : Adm} (h : (if holdOf p ∈ (s.ctx c).holds then .done (s.setCtx c { s.ctx c with holds := (s.ctx c).holds.erase (holdOf p) })
      else .refuse 3) = res) : exec (.pagehold fn p) s = .next (s.finishAdm fn res) :=
    pagehold_runs hc hfn hst ((if_neg hgood).trans ((if_pos hdrop).trans h))
  exact ⟨fun hmem => (endsOn_done (hrun (if_pos hmem))).ends rfl, fun hmem => hrun (res := .refuse 3) (if_neg hmem)⟩

theorem pagehold_adds (hadd : p.getLsbD 415 = true) :
    let c := fieldOf p 8 8
    let h := holdOf p
    (64 ≤ (s.ctx c).holds.length → exec (.pagehold fn p) s = .next (s.complete fn 4)) ∧
      ((s.ctx c).holds.length < 64 →
        let t := s.setCtx c { s.ctx c with holds := (s.ctx c).holds ++ [h] }
        (t.pinned c h.va h.pages = false → exec (.pagehold fn p) s = .next (t.complete fn 0)) ∧
          (t.pinned c h.va h.pages = true →
            exec (.pagehold fn p) s = .next (t.setFn fn { t.fn fn with pending := some (.pagehold c h.va h.pages) }))) := by
  intro c h
  let t := s.setCtx c { s.ctx c with holds := (s.ctx c).holds ++ [h] }
  have hrun {res : Adm} (h : (if 64 ≤ (s.ctx c).holds.length then .refuse 4
      else if t.pinned c h.va h.pages then .wait t (.pagehold c h.va h.pages) else .done t) = res) :
      exec (.pagehold fn p) s = .next (s.finishAdm fn res) :=
    pagehold_runs hc hfn hst ((if_neg hgood).trans ((if_neg (by rw [hadd]; nofun)).trans h))
  refine ⟨fun hfull => hrun (res := .refuse 4) (if_pos hfull), fun hroom => ⟨fun hpin => ?_, fun hpin => ?_⟩⟩
  · exact (endsOn_done (hrun ((if_neg (Nat.not_le.mpr hroom)).trans (if_neg (Bool.not_eq_true _ ▸ hpin))))).ends rfl
  · exact (waitsOn_wait (hrun ((if_neg (Nat.not_le.mpr hroom)).trans (if_pos hpin)))).2 (not_hubHeld_of_eq rfl)

end

end Sys2Proof.Machine
end

section
open Sys2Proof Sys2Proof.Machine

/-- Settles O49, command by command: a context's state, its owner and the operands select the branch that the command takes. -/
theorem contextCommandsAct : Obligations.ContextCommandsAct := by
  unfold Obligations.ContextCommandsAct
  refine ⟨fun s fn p hc => ?_, fun s c => ?_, fun s fn p => ?_⟩
  · intro c x refuses ends endsOn waitsOn log
    refine ⟨fun hfree hfmt => ?_, fun hfn => ⟨fun hst => ?_, fun hst => activate_acts hc hfn hst, quiesce_ends hc hfn, suspend_acts hc hfn,
      destroy_again hc hfn, destroy_acts hc hfn, fun hfree hclosing => ?_, fun hst => ?_, fun hst => ?_⟩⟩
    · have hbad := createBad_iff s fn p
      refine ⟨fun h => create_refuses hc hfree hfmt (h.imp_right hbad.mpr), fun h => ?_⟩
      obtain ⟨hends, hsame, hctxs⟩ := create_acts hc hfree hfmt (mt (Or.imp_right hbad.mp) h)
      exact ⟨_, s.fresh, hends, hsame, hctxs, ctx_setCtx ..⟩
    · refine ⟨loadkernel_misaligned hc hfn hst, fun hd hr hn => ⟨loadkernel_unread hc hfn hst hd hr hn, fun u bs h =>
        ⟨fun hfull => loadkernel_full hc hfn hst hd hr hn h hfull.1 hfull.2, fun hroom => ?_⟩⟩, snappool_long hc hfn hst, snappool_empties hc hfn hst,
        fun u h0 hn h => snappool_unread hc hfn hst h0 hn h, fun u bs h0 hn h => snappool_reads hc hfn hst h0 hn h⟩
      intro m ks hnew hdup
      have henters := loadkernel_enters hc hfn hst hd hr hn h hroom
      rwa [enter_eq _ _ hnew hdup] at henters
    · have hst : x.state ≠ .free ∧ x.state ≠ .closing := ⟨hfree, hclosing⟩
      obtain ⟨hnone, hsome⟩ := setheadland_acts hc hfn hst
      exact ⟨clearerr_ends hc hfn hst, hnone, hsome, pagehold_misnamed hc hfn hst, pagehold_drops hc hfn hst, pagehold_adds hc hfn hst,
        queueCommands_refuse hc hfn hst, fun hopen hown => ⟨qstop_running hc hfn hst hopen hown, qstart_stopped hc hfn hst hopen hown,
          fun hbusy => qclose_busy hc hfn hst hopen hown ((queueBusy_iff ..).mpr hbusy),
          fun hidle => qclose_closes hc hfn hst hopen hown (mt (queueBusy_iff ..).mp hidle)⟩⟩
    · refine ⟨fun hused => handlearea_runs (res := .refuse 1) hc hfn hst (if_pos hused), fun hnew hbad => handlearea_runs (res := .refuse 3) hc hfn hst ?_,
        fun hnew halign hsome => ⟨s.withArea p, endsOn_done (handlearea_runs hc hfn hst ?_), withArea_leaves s p⟩⟩
      · exact (if_neg (Bool.not_eq_true _ ▸ hnew)).trans (if_pos hbad)
      · exact (if_neg (Bool.not_eq_true _ ▸ hnew)).trans (if_neg (not_or.mpr ⟨not_not.mpr halign, hsome⟩))
    · exact ⟨fun hbad => qopen_runs (res := .refuse 3) hc hfn hst (if_pos hbad),
        fun hgood hfull => qopen_runs (res := .refuse 4) hc hfn hst ((if_neg hgood).trans (if_pos hfull)),
        fun hgood hroom => ⟨endsOn_done (qopen_runs hc hfn hst ((if_neg hgood).trans (if_neg hroom))), qopened_queues s p⟩⟩
  · exact ⟨teardown_idle, fun hst htorn => ⟨teardown_owing, teardown_frees hst htorn⟩⟩
  · intro k blob mask d endsOn
    refine ⟨importkey_occupied, fun hempty hbad hbind => importkey_bad hempty hbind hbad, ?_, ?_, dropkey_foreign, dropkey_unloaded, dropkey_loaded,
      keyZeroize_idle, keyZeroize_empties⟩
    · rintro u bs v ds n hempty hmask hblob hbind hread rfl h1 h16 hlist
      exact ⟨importkey_untrusted hempty hbind hmask hblob hread h1 h16 hlist,
        fun y hkey hsha => importkey_loads hempty hbind hmask hblob hread h1 h16 hlist hkey hsha⟩
    · exact fun u bs hempty hmask hblob hbind hread hn => importkey_unlisted hempty hbind hmask hblob hread hn

end

section
/-! What relocks and the steps on a die's clusters leave unchanged, and what a fold over clusters does to each (R348 to R350). -/

namespace Sys2Proof.Machine

variable {s t u : State} {d : Nat}

/-! ## Steps that update one cluster after another -/

/-- The second state differs from the first in nothing but its clusters. -/
def OnlyClusters (u s : State) : Prop := s = { u with clusters := s.clusters }

theorem OnlyClusters.refl (s : State) : OnlyClusters s s := rfl

theorem OnlyClusters.setCluster {c : Nat} {x : Cluster} (h : OnlyClusters u s) : OnlyClusters u (s.setCluster c x) := by
  unfold OnlyClusters at h ⊢
  rw [State.setCluster, h]

/-- A step on cluster c that leaves the others and whatever is not a cluster, and makes of c what val says. -/
def ClusterStep (u : State) (val : Nat → Cluster → Cluster) (f : State → Nat → State) : Prop :=
  ∀ s c, OnlyClusters u s → OnlyClusters u (f s c) ∧ ∀ k, (f s c).cluster k = if k = c then val c (s.cluster c) else s.cluster k

theorem foldl_onlyClusters {val : Nat → Cluster → Cluster} {f : State → Nat → State} (hf : ClusterStep u val f) {l : List Nat} (h : OnlyClusters u s) :
    OnlyClusters u (l.foldl f s) := foldl_keeps h fun t c ht => (hf t c ht).1

theorem foldl_cluster {val : Nat → Cluster → Cluster} {f : State → Nat → State} (hf : ClusterStep u val f) {l : List Nat} (hl : l.Nodup)
    (h : OnlyClusters u s) (k : Nat) : (l.foldl f s).cluster k = if k ∈ l then val k (s.cluster k) else s.cluster k := by
  induction l generalizing s with
  | nil => rfl
  | cons c l ih =>
    obtain ⟨hc, hl⟩ := List.nodup_cons.mp hl
    obtain ⟨honly, hval⟩ := hf s c h
    rw [List.foldl_cons, ih hl honly, hval]
    by_cases hk : k = c
    · subst hk
      rw [if_neg hc, if_pos rfl, if_pos (List.mem_cons_self ..)]
    · rw [if_neg hk]
      exact if_congr (by rw [List.mem_cons, or_iff_right hk]) rfl rfl

theorem setCluster_cluster (s : State) (c : Nat) (x : Cluster) (k : Nat) : (s.setCluster c x).cluster k = if k = c then x else s.cluster k := by
  split
  · next h => rw [h, cluster_setCluster]
  · next h => exact cluster_setCluster_ne s x h

/-- A step that writes a cluster where it changes. -/
theorem clusterStep_of_write {val : Nat → Cluster → Cluster} {f : State → Nat → State}
    (hf : ∀ s c, OnlyClusters u s → f s c = if val c (s.cluster c) = s.cluster c then s else s.setCluster c (val c (s.cluster c))) : ClusterStep u val f := by
  intro s c h
  rw [hf s c h]
  split
  · next he => exact ⟨h, fun k => by split <;> [(next hk => rw [hk, he]); rfl]⟩
  · exact ⟨h.setCluster, setCluster_cluster s c _⟩

theorem clusterStep_set {val : Nat → Cluster → Cluster} {f : State → Nat → State}
    (hf : ∀ s c, OnlyClusters u s → f s c = s.setCluster c (val c (s.cluster c))) : ClusterStep u val f := by
  intro s c h
  rw [hf s c h]
  exact ⟨h.setCluster, setCluster_cluster s c _⟩

/-! ## The clusters of a die -/

theorem clustersOf_nodup (d : Nat) : (clustersOf d).Nodup := List.nodup_range.map fun _ _ h => Nat.add_left_cancel h

theorem mem_clustersOf {k : Nat} : k ∈ clustersOf d ↔ ∃ i < 16, k = 16 * d + i := by
  simp only [clustersOf, List.mem_map, List.mem_range, eq_comm]

/-! ## Relocks (R349) -/

/-- A table whose entries are each rewritten under their own key, seen through what that keeps. -/
theorem tget_map_proj {α β : Type} {π : α → β} {e : Nat × α → Nat × α} (hkey : ∀ p, (e p).1 = p.1) (hval : ∀ p, π (e p).2 = π p.2) (d : α)
    (l : List (Nat × α)) (k : Nat) : π (tget d (l.map e) k) = π (tget d l k) := by
  induction l with
  | nil => rfl
  | cons p l ih =>
    obtain ⟨i, x⟩ := p
    have hk := hkey (i, x)
    have hv := hval (i, x)
    generalize he : e (i, x) = q at hk hv
    obtain ⟨j, y⟩ := q
    obtain rfl : j = i := hk
    rw [List.map_cons, he, tget, tget]
    split
    · exact hv
    · exact ih

/-- A die without what the start of a relock sets. -/
def Die.still (x : Die) : Die := { x with pulses := 0, relock := none, goal := (20, []) }

/-- A cluster without what the start of a relock moves. -/
def Cluster.still (x : Cluster) : Cluster := { x with cycBase := 0, fallAt := 0 }

theorem Die.of_still {x y : Die} (h : x.still = y.still) : x.f = y.f ∧ x.raw = y.raw ∧ x.nominal = y.nominal ∧ x.pool = y.pool ∧ x.ceiling = y.ceiling ∧
    x.ceilingNext = y.ceilingNext ∧ x.lastBoundary = y.lastBoundary :=
  ⟨(congrArg Die.f h :), (congrArg Die.raw h :), (congrArg Die.nominal h :), (congrArg Die.pool h :), (congrArg Die.ceiling h :), (congrArg Die.ceilingNext h :),
    (congrArg Die.lastBoundary h :)⟩

theorem setDie_still {k : Nat} {x : Die} (h : x.still = (s.die d).still) : ((s.setDie d x).die k).still = (s.die k).still := by
  by_cases hk : k = d
  · rw [hk, die_setDie, h]
  · rw [die_setDie_ne _ _ hk]

theorem relockIf_parts (s : State) (d : Nat) :
    s.relockIf d = { s with dies := (s.relockIf d).dies, clusters := (s.relockIf d).clusters, cores := (s.relockIf d).cores } := by
  unfold State.relockIf
  split <;> rfl

theorem relockIf_die (s : State) (d k : Nat) : ((s.relockIf d).die k).still = (s.die k).still := by
  unfold State.relockIf
  split
  · rfl
  · have hfold : (((s.foldPulses d).holdFalls d).die k).still = (s.die k).still := setDie_still (s := s) (x := { s.die d with pulses := 0 }) rfl
    extract_lets goal v
    exact (setDie_still (s := v) (x := { v.die d with relock := some (s.refTimer + 2500), goal := goal }) rfl).trans hfold

theorem relockIf_relock (s : State) (d : Nat) :
    ((s.relockIf d).die d).relock = (s.die d).relock ∨ (s.die d).relock = none ∧ ((s.relockIf d).die d).relock = some (s.refTimer + 2500) := by
  unfold State.relockIf
  split
  · exact .inl rfl
  · next h =>
    refine .inr ⟨Option.not_isSome_iff_eq_none.mp (not_or.mp h).1, ?_⟩
    dsimp only
    rw [die_setDie]
    rfl

theorem relockIf_cluster (s : State) (d k : Nat) : ((s.relockIf d).cluster k).still = (s.cluster k).still := by
  unfold State.relockIf
  split
  · rfl
  · refine (tget_map_proj (π := Cluster.still) (fun p => ?_) (fun p => ?_) {} _ k).trans (tget_map_proj (π := Cluster.still) (fun p => ?_) (fun p => ?_) {} s.clusters k)
    · split <;> rfl
    · split <;> rfl
    · split <;> rfl
    · split <;> rfl

/-! ## Falls (R350) -/

/-- A cluster without what concerns its fall. -/
def Cluster.steady (x : Cluster) : Cluster := { x with cycBase := 0, fall := 0, fallAt := 0 }

theorem Cluster.of_steady {x y : Cluster} {b : Bool} (h : x.steady = { y with boost := b }.steady) : x.cls = y.cls ∧ x.mhz = y.mhz ∧ x.boost = b :=
  ⟨(congrArg Cluster.cls h :), (congrArg Cluster.mhz h :), (congrArg Cluster.boost h :)⟩

theorem Cluster.steady_of_still {x y : Cluster} (h : x.still = y.still) : x.steady = y.steady := (congrArg (fun z : Cluster => { z with fall := 0 }) h :)

theorem settleFalls_only (s : State) (d : Nat) : OnlyClusters s (s.settleFalls d) := by
  refine foldl_keeps (.refl s) fun t c ht => ?_
  exact ite_keeps ht.setCluster (ite_keeps ht.setCluster ht)

theorem setCluster_steady {c k : Nat} {x : Cluster} (h : x.steady = (s.cluster c).steady) : ((s.setCluster c x).cluster k).steady = (s.cluster k).steady := by
  rw [setCluster_cluster]
  split
  · next hk => rw [hk, h]
  · rfl

theorem settleFalls_cluster (s : State) (d k : Nat) : ((s.settleFalls d).cluster k).steady = (s.cluster k).steady := by
  refine foldl_keeps (P := fun t : State => (t.cluster k).steady = (s.cluster k).steady) rfl fun t c ht => ?_
  dsimp only
  split
  · exact (setCluster_steady (x := { t.cluster c with fall := 2, fallAt := t.refTimer + 1000 }) rfl).trans ht
  · split
    · exact (setCluster_steady (x := { t.cluster c with fall := 0 }) rfl).trans ht
    · exact ht

end Sys2Proof.Machine
end

section
/-! CLOCK_BOUNDARY (R348 to R350): ceilings and classes are latched, permits charged, and no frequency changes. -/

namespace Sys2Proof.Machine

variable {s t u : State} {d : Nat}

/-! ## Classes (R348, R355) -/

/-- The class of a list of groups: the highest of theirs, and class 1 of none. -/
def topClass (f : Nat → Nat) (gs : List Nat) : Nat := if gs.isEmpty then 1 else gs.foldl (fun m g => max m (f g)) 0

theorem foldl_max_ge (f : Nat → Nat) (gs : List Nat) (m : Nat) :
    m ≤ gs.foldl (fun m g => max m (f g)) m ∧ ∀ g ∈ gs, f g ≤ gs.foldl (fun m g => max m (f g)) m := by
  induction gs generalizing m with
  | nil => exact ⟨Nat.le_refl m, fun _ h => nomatch h⟩
  | cons a gs ih =>
    obtain ⟨hm, hgs⟩ := ih (max m (f a))
    exact ⟨(Nat.le_max_left ..).trans hm, List.forall_mem_cons.mpr ⟨(Nat.le_max_right ..).trans hm, hgs⟩⟩

theorem foldl_max_attained (f : Nat → Nat) (gs : List Nat) (m : Nat) :
    gs.foldl (fun m g => max m (f g)) m = m ∨ ∃ g ∈ gs, f g = gs.foldl (fun m g => max m (f g)) m := by
  induction gs generalizing m with
  | nil => exact .inl rfl
  | cons a gs ih =>
    rw [List.foldl_cons]
    rcases ih (max m (f a)) with h | ⟨g, hg, h⟩
    · rw [h]
      rcases max_choice m (f a) with hm | hm
      · exact .inl hm
      · exact .inr ⟨a, List.mem_cons_self .., hm.symm⟩
    · exact .inr ⟨g, List.mem_cons_of_mem _ hg, h⟩

theorem le_topClass (f : Nat → Nat) {gs : List Nat} {g : Nat} (hg : g ∈ gs) : f g ≤ topClass f gs := by
  rw [topClass, if_neg (by rw [List.isEmpty_iff]; exact List.ne_nil_of_mem hg)]
  exact (foldl_max_ge f gs 0).2 g hg

theorem topClass_attained (f : Nat → Nat) {gs : List Nat} {a : Nat} (ha : a ∈ gs) : ∃ g ∈ gs, f g = topClass f gs := by
  have hle := le_topClass f ha
  rw [topClass, if_neg (by rw [List.isEmpty_iff]; exact List.ne_nil_of_mem ha)] at hle ⊢
  rcases foldl_max_attained f gs 0 with h | h
  · exact ⟨a, ha, by omega⟩
  · exact h

/-- A cluster as it latches its class and the time of its claim. -/
def State.latched (s : State) (cl : Nat) (c : Cluster) : Cluster :=
  let gs := s.onCluster cl
  let cls := topClass (fun g => (s.group g).cls) gs
  { c with cls := cls, held := !gs.isEmpty, claimAt := if cls = 2 then some (c.claimAt.getD s.refTimer) else none }

theorem latchClass_step (u : State) : ClusterStep u u.latched State.latchClass := by
  refine clusterStep_of_write fun s c h => ?_
  unfold OnlyClusters at h
  generalize s.clusters = cs at h
  subst h
  rfl

theorem mem_onCluster {cl g : Nat} : g ∈ s.onCluster cl ↔ g < s.groups.length ∧ (s.group g).state = .resident ∧ (s.group g).core / 6 = cl := by
  simp only [State.onCluster, List.mem_filter, List.mem_range, Bool.and_eq_true, decide_eq_true_eq]
  exact Iff.rfl

/-! ## Permits (R350) -/

/-- A cluster that is charged a permit or not. -/
def State.chargedAs (s : State) (d : Nat) (charged : List Nat) (cl : Nat) (c : Cluster) : Cluster :=
  let c' : Cluster := { c with boost := charged.contains cl }
  if c.boost ∧ !c'.boost ∧ min (classFreq c' (s.die d).ceiling) (s.die d).ceiling < 22 then { c' with fall := 1 } else c'

theorem chargeCluster_step (u : State) (d : Nat) (charged : List Nat) :
    ClusterStep u (u.chargedAs d charged) fun s cl => s.chargeCluster d charged cl := by
  refine clusterStep_of_write fun s c h => ?_
  unfold OnlyClusters at h
  generalize s.clusters = cs at h
  subst h
  rfl

theorem chargedAs_steady (s : State) (d : Nat) (charged : List Nat) (cl : Nat) (c : Cluster) :
    (s.chargedAs d charged cl c).steady = { c with boost := charged.contains cl }.steady := by
  unfold State.chargedAs
  extract_lets c'
  split <;> rfl

theorem insertBy_perm {α : Type} (le : α → α → Bool) (x : α) (l : List α) : (insertBy le x l).Perm (x :: l) := by
  induction l with
  | nil => exact .refl _
  | cons y l ih =>
    unfold insertBy
    split
    · exact .refl _
    · exact (ih.cons y).trans (.swap x y l)

theorem sortBy_perm {α : Type} (le : α → α → Bool) (l : List α) : (sortBy le l).Perm l := by
  induction l with
  | nil => exact .refl _
  | cons x l ih => exact (insertBy_perm le x _).trans (ih.cons x)

/-- The clusters that a boundary charges. -/
def State.charges (s : State) (d : Nat) : List Nat := (s.claimants d).take (s.die d).pool

theorem claimants_nodup (s : State) (d : Nat) : (s.claimants d).Nodup := by
  unfold State.claimants
  split
  · exact List.nodup_nil
  · exact (sortBy_perm ..).nodup_iff.mpr ((clustersOf_nodup d).filter _)

theorem mem_charges {k : Nat} (h : k ∈ s.charges d) : 24 ≤ (s.die d).ceiling ∧ k ∈ clustersOf d ∧ (s.cluster k).cls = 2 := by
  have hk := List.mem_of_mem_take h
  unfold State.claimants at hk
  split at hk
  · cases hk
  · next hceil =>
    extract_lets t at hk
    obtain ⟨hmem, hcond⟩ := List.mem_filter.mp (mem_sortBy.mp hk)
    simp only [Bool.and_eq_true, decide_eq_true_eq] at hcond
    exact ⟨Nat.not_lt.mp hceil, hmem, hcond.1.2⟩

theorem charges_count (s : State) (d : Nat) : ((List.range 16).filter fun i => (s.charges d).contains (16 * d + i)).length = (s.charges d).length := by
  have hnodup : (s.charges d).Nodup := (claimants_nodup s d).sublist (List.take_sublist ..)
  have hinj : Function.Injective (16 * d + ·) := fun _ _ h => Nat.add_left_cancel h
  have hperm : (((List.range 16).filter fun i => (s.charges d).contains (16 * d + i)).map (16 * d + ·)).Perm (s.charges d) := by
    refine (List.perm_ext_iff_of_nodup ((List.nodup_range.filter _).map hinj) hnodup).mpr fun k => ?_
    simp only [List.mem_map, List.mem_filter, List.mem_range, List.contains_iff_mem]
    constructor
    · rintro ⟨i, ⟨-, h⟩, rfl⟩
      exact h
    · intro h
      obtain ⟨i, hi, rfl⟩ := mem_clustersOf.mp (mem_charges h).2.1
      exact ⟨i, ⟨hi, h⟩, rfl⟩
  rw [← hperm.length_eq, List.length_map]

/-! ## The boundary (R349) -/

/-- A die after it latches its ceiling. -/
def State.latchCeiling (s : State) (d : Nat) : State :=
  let di := s.die d
  s.setDie d { di with lastBoundary := s.refTimer, ceiling := di.ceilingNext.getD di.ceiling, ceilingNext := none }

/-- A die and its clusters after they latch. -/
def State.latchDie (s : State) (d : Nat) : State := (clustersOf d).foldl (fun s cl => s.latchClass cl) (s.latchCeiling d)

/-- The permits of a die after they are charged. -/
def State.payPermits (s : State) (d : Nat) : State := s.setDie d { s.die d with pool := (s.die d).pool - (s.charges d).length }

/-- A die and its clusters after they are charged. -/
def State.chargeDie (s : State) (d : Nat) : State := (clustersOf d).foldl (fun t cl => t.chargeCluster d (s.charges d) cl) (s.payPermits d)

/-- The frequencies that change are to be installed by a relock; without one the falls are settled. -/
def State.moveClock (s : State) (d : Nat) : State := if ((s.relockIf d).die d).relock.isSome then s.relockIf d else (s.relockIf d).settleFalls d

theorem boundary_waits (h : s.refTimer % 5000 ≠ 0 ∨ s.refTimer ≤ (s.die d).lastBoundary) : exec (.clockBoundary d) s = .next s := by
  change execClockBoundary d s = _
  unfold execClockBoundary
  exact if_pos h

theorem boundary_due (h : s.refTimer % 5000 = 0) (hlast : (s.die d).lastBoundary < s.refTimer) :
    exec (.clockBoundary d) s = .next (((s.latchDie d).chargeDie d).moveClock d) := by
  change execClockBoundary d s = _
  unfold execClockBoundary
  exact if_neg (by omega)

theorem moveClock_parts (s : State) (d : Nat) : s.moveClock d =
    { s with dies := (s.moveClock d).dies, clusters := (s.moveClock d).clusters, cores := (s.moveClock d).cores } := by
  have hrelock := relockIf_parts s d
  have hfalls : (s.relockIf d).settleFalls d = { s.relockIf d with clusters := ((s.relockIf d).settleFalls d).clusters } := settleFalls_only ..
  unfold State.moveClock
  split
  · exact hrelock
  · rw [hfalls, hrelock]

theorem moveClock_dies (s : State) (d : Nat) : (s.moveClock d).dies = (s.relockIf d).dies := by
  have hfalls : (s.relockIf d).settleFalls d = { s.relockIf d with clusters := ((s.relockIf d).settleFalls d).clusters } := settleFalls_only ..
  unfold State.moveClock
  split
  · rfl
  · rw [hfalls]

theorem moveClock_die (s : State) (d k : Nat) : (s.moveClock d).die k = (s.relockIf d).die k := by rw [State.die, moveClock_dies, State.die]

theorem moveClock_cluster (s : State) (d k : Nat) : ((s.moveClock d).cluster k).steady = (s.cluster k).steady := by
  have hrelock : ((s.relockIf d).cluster k).steady = (s.cluster k).steady := Cluster.steady_of_still (relockIf_cluster s d k)
  unfold State.moveClock
  split
  · exact hrelock
  · exact (settleFalls_cluster _ d k).trans hrelock

theorem latchDie_only (s : State) (d : Nat) :
    OnlyClusters (s.latchCeiling d) (s.latchDie d) := foldl_onlyClusters (latchClass_step _) (.refl _)

theorem OnlyClusters.die (h : OnlyClusters u s) (k : Nat) : s.die k = u.die k := by
  rw [h]
  rfl

theorem OnlyClusters.refTimer (h : OnlyClusters u s) : s.refTimer = u.refTimer := by
  rw [h]

theorem OnlyClusters.mem (h : OnlyClusters u s) : s.mem = u.mem := by
  rw [h]

theorem latched_latchCeiling (s : State) (d k : Nat) (c : Cluster) : (s.latchCeiling d).latched k c = s.latched k c := rfl

theorem latchDie_cluster (s : State) {k : Nat} (hk : k ∈ clustersOf d) : (s.latchDie d).cluster k = s.latched k (s.cluster k) := by
  have hfold := foldl_cluster (latchClass_step (s.latchCeiling d)) (clustersOf_nodup d) (.refl _) k
  rw [if_pos hk, latched_latchCeiling] at hfold
  exact hfold

theorem chargeDie_only (s : State) (d : Nat) : OnlyClusters (s.payPermits d) (s.chargeDie d) := foldl_onlyClusters (chargeCluster_step _ _ _) (.refl _)

theorem chargeDie_cluster (s : State) {k : Nat} (hk : k ∈ clustersOf d) :
    (s.chargeDie d).cluster k = (s.payPermits d).chargedAs d (s.charges d) k (s.cluster k) :=
  (foldl_cluster (chargeCluster_step _ _ _) (clustersOf_nodup d) (.refl _) k).trans (if_pos hk)

/-! ## What a boundary leaves -/

/-- The state after a boundary. -/
def State.atBoundary (s : State) (d : Nat) : State := ((s.latchDie d).chargeDie d).moveClock d

theorem atBoundary_mem (s : State) (d : Nat) : (s.atBoundary d).mem = s.mem := by
  have hmove : (s.atBoundary d).mem = ((s.latchDie d).chargeDie d).mem := by
    unfold State.atBoundary
    rw [moveClock_parts]
  rw [hmove, (chargeDie_only (s.latchDie d) d).mem, State.payPermits, State.setDie_mem, (latchDie_only s d).mem, State.latchCeiling, State.setDie_mem]

theorem latchDie_die (s : State) (d : Nat) : (s.latchDie d).die d =
    { s.die d with lastBoundary := s.refTimer, ceiling := (s.die d).ceilingNext.getD (s.die d).ceiling, ceilingNext := none } := by
  rw [(latchDie_only s d).die]
  exact die_setDie ..

theorem chargeDie_die (s : State) (d : Nat) : (s.chargeDie d).die d = { s.die d with pool := (s.die d).pool - (s.charges d).length } := by
  rw [(chargeDie_only s d).die]
  exact die_setDie ..

theorem chargeDie_refTimer (s : State) (d : Nat) : ((s.latchDie d).chargeDie d).refTimer = s.refTimer := by
  rw [(chargeDie_only (s.latchDie d) d).refTimer, State.payPermits, State.setDie_refTimer, (latchDie_only s d).refTimer, State.latchCeiling,
    State.setDie_refTimer]

theorem atBoundary_still (s : State) (d : Nat) : ((s.atBoundary d).die d).still =
    { s.die d with lastBoundary := s.refTimer, ceiling := (s.die d).ceilingNext.getD (s.die d).ceiling, ceilingNext := none,
                   pool := (s.die d).pool - ((s.latchDie d).charges d).length }.still := by
  unfold State.atBoundary
  rw [moveClock_die, relockIf_die, chargeDie_die, latchDie_die]

theorem atBoundary_relock (s : State) (d : Nat) : ((s.atBoundary d).die d).relock = (s.die d).relock ∨
    (s.die d).relock = none ∧ ((s.atBoundary d).die d).relock = some (s.refTimer + 2500) := by
  have h := relockIf_relock ((s.latchDie d).chargeDie d) d
  rw [chargeDie_die, latchDie_die, chargeDie_refTimer] at h
  unfold State.atBoundary
  rw [moveClock_die]
  exact h

theorem atBoundary_cluster (s : State) {k : Nat} (hk : k ∈ clustersOf d) : ((s.atBoundary d).cluster k).steady =
    { s.latched k (s.cluster k) with boost := ((s.latchDie d).charges d).contains k }.steady := by
  unfold State.atBoundary
  rw [moveClock_cluster, chargeDie_cluster _ hk, chargedAs_steady, latchDie_cluster s hk]

theorem latched_cls (s : State) (cl : Nat) (c : Cluster) : (s.latched cl c).cls = topClass (fun g => (s.group g).cls) (s.onCluster cl) := rfl
theorem latched_mhz (s : State) (cl : Nat) (c : Cluster) : (s.latched cl c).mhz = c.mhz := rfl

theorem atBoundary_class (s : State) {k : Nat} (hk : k ∈ clustersOf d) :
    ((s.atBoundary d).cluster k).cls = topClass (fun g => (s.group g).cls) (s.onCluster k) ∧ ((s.atBoundary d).cluster k).mhz = (s.cluster k).mhz ∧
      ((s.atBoundary d).cluster k).boost = ((s.latchDie d).charges d).contains k := by
  obtain ⟨hcls, hmhz, hboost⟩ := Cluster.of_steady (atBoundary_cluster s hk)
  rw [latched_cls] at hcls
  rw [latched_mhz] at hmhz
  exact ⟨hcls, hmhz, hboost⟩

theorem charges_latched {k : Nat} (h : k ∈ (s.latchDie d).charges d) :
    topClass (fun g => (s.group g).cls) (s.onCluster k) = 2 ∧ 24 ≤ (s.die d).ceilingNext.getD (s.die d).ceiling := by
  obtain ⟨hceil, hin, hcls⟩ := mem_charges h
  rw [latchDie_cluster s hin, latched_cls] at hcls
  rw [latchDie_die] at hceil
  exact ⟨hcls, hceil⟩

theorem charges_le (s : State) (d : Nat) : ((s.latchDie d).charges d).length ≤ (s.die d).pool := by
  have hpool : ((s.latchDie d).die d).pool = (s.die d).pool := by rw [latchDie_die]
  rw [State.charges, hpool]
  exact List.length_take_le ..

theorem atBoundary_pool (s : State) (d : Nat) :
    ((s.atBoundary d).die d).pool + ((List.range 16).filter fun i => ((s.atBoundary d).cluster (16 * d + i)).boost).length = (s.die d).pool := by
  obtain ⟨-, -, -, hpool, -⟩ := Die.of_still (atBoundary_still s d)
  have hboost (i : Nat) (hi : i < 16) := (atBoundary_class s (d := d) (mem_clustersOf.mpr ⟨i, hi, rfl⟩)).2.2
  rw [List.filter_congr fun i hi => hboost i (List.mem_range.mp hi), charges_count, hpool]
  exact Nat.sub_add_cancel (charges_le s d)

theorem boundary_acts (h : s.refTimer % 5000 = 0) (hlast : (s.die d).lastBoundary < s.refTimer) :
    ∃ t, exec (.clockBoundary d) s = .next t ∧ t.mem = s.mem ∧ (t.die d).lastBoundary = s.refTimer ∧
      (t.die d).ceiling = (s.die d).ceilingNext.getD (s.die d).ceiling ∧ (t.die d).ceilingNext = none ∧ (t.die d).f = (s.die d).f ∧
      ((t.die d).relock = (s.die d).relock ∨ (s.die d).relock = none ∧ (t.die d).relock = some (s.refTimer + 2500)) ∧
      (t.die d).pool + ((List.range 16).filter fun i => (t.cluster (16 * d + i)).boost).length = (s.die d).pool ∧
      ∀ i < 16, let cl := 16 * d + i
        let on (g : Nat) : Prop := g < s.groups.length ∧ (s.group g).state = .resident ∧ (s.group g).core / 6 = cl
        (t.cluster cl).mhz = (s.cluster cl).mhz ∧ ((t.cluster cl).boost = true → (t.cluster cl).cls = 2 ∧ 24 ≤ (t.die d).ceiling) ∧
        ((∀ g, ¬on g) → (t.cluster cl).cls = 1) ∧ (∀ g, on g → (s.group g).cls ≤ (t.cluster cl).cls) ∧
        ((∃ g, on g) → ∃ g, on g ∧ (s.group g).cls = (t.cluster cl).cls) := by
  obtain ⟨hf, -, -, -, hceil, hnext, hlatched⟩ := Die.of_still (atBoundary_still s d)
  have hrelock := atBoundary_relock s d
  have hpool := atBoundary_pool s d
  have hclass (i : Nat) (hi : i < 16) := atBoundary_class s (d := d) (mem_clustersOf.mpr ⟨i, hi, rfl⟩)
  have hmem := atBoundary_mem s d
  have hrun : exec (.clockBoundary d) s = .next (s.atBoundary d) := boundary_due h hlast
  generalize s.atBoundary d = t at hf hceil hnext hlatched hrelock hpool hclass hmem hrun
  refine ⟨t, hrun, hmem, hlatched, hceil, hnext, hf, hrelock, hpool, fun i hi => ?_⟩
  intro cl on
  obtain ⟨hcls, hmhz, hboost⟩ := hclass i hi
  refine ⟨hmhz, fun hb => ?_, fun hno => ?_, fun g hg => ?_, ?_⟩
  · obtain ⟨htop, hceiling⟩ := charges_latched (List.contains_iff_mem.mp (hboost.symm.trans hb))
    exact ⟨hcls.trans htop, hceiling.trans_eq hceil.symm⟩
  · have hnil : s.onCluster cl = [] := List.eq_nil_iff_forall_not_mem.mpr fun g hg => hno g (mem_onCluster.mp hg)
    exact hcls.trans (by rw [hnil]; rfl)
  · exact (le_topClass _ (mem_onCluster.mpr hg)).trans_eq hcls.symm
  · rintro ⟨g, hg⟩
    obtain ⟨a, ha, he⟩ := topClass_attained (fun g => (s.group g).cls) (mem_onCluster.mpr hg)
    exact ⟨a, mem_onCluster.mp ha, he.trans hcls.symm⟩

end Sys2Proof.Machine
end

section
/-! What goes on after a relock leaves the clocks as they are (R248, R251, R349): grants, what the hub owes, and waiters at channels. -/

namespace Sys2Proof.Machine

variable {s t u : State} {r : TRef}

/-! ## Clocks that stay -/

/-- What a die's clock shows. -/
def Die.clock (x : Die) : Nat × Option Nat × Nat × Nat := (x.f, x.relock, x.raw, x.nominal)

/-- Two states show the same clocks of dies and the same frequencies of clusters. -/
def SameClock (u s : State) : Prop := (∀ d, (s.die d).clock = (u.die d).clock) ∧ ∀ k, (s.cluster k).mhz = (u.cluster k).mhz

namespace SameClock

theorem refl (s : State) : SameClock s s := ⟨fun _ => rfl, fun _ => rfl⟩

theorem upd (h : SameClock u s) (hd : t.dies = s.dies) (hc : t.clusters = s.clusters) : SameClock u t := by
  unfold SameClock State.die State.cluster
  rw [hd, hc]
  exact h

theorem setDie {d : Nat} {x : Die} (h : SameClock u s) (hx : x.clock = (s.die d).clock) : SameClock u (s.setDie d x) := by
  refine ⟨fun k => ?_, h.2⟩
  by_cases hk : k = d
  · rw [hk, die_setDie, hx, h.1]
  · rw [die_setDie_ne _ _ hk, h.1]

theorem setCluster {c : Nat} {x : Cluster} (h : SameClock u s) (hx : x.mhz = (s.cluster c).mhz) : SameClock u (s.setCluster c x) := by
  refine ⟨h.1, fun k => ?_⟩
  rw [setCluster_cluster]
  split
  · next hk => rw [hx, hk, h.2]
  · exact h.2 k

theorem viewed (h : SameClock u s) (hv : Viewed r s t) : SameClock u t := by
  obtain ⟨⟨f, hparts, -⟩, -, hdie⟩ := hv
  have hclusters : t.clusters = s.clusters := by rw [hparts]; rfl
  refine ⟨fun d => ?_, fun k => ?_⟩
  · rw [hdie]
    exact h.1 d
  · rw [cluster_of_clusters hclusters, h.2]

end SameClock

theorem overwrite_dies (s : State) (pa n : Nat) : (s.overwrite pa n).dies = s.dies := rfl
theorem overwrite_clusters (s : State) (pa n : Nat) : (s.overwrite pa n).clusters = s.clusters := rfl

theorem queueKeeps_clock (u : State) : QueueKeeps (SameClock u) where
  access := accessKeeps_self
    (fun h e => h.upd (congrArg State.dies e :) (congrArg State.clusters e :))
    (fun h => h.upd (by rw [meet_parts]) (by rw [meet_parts]))
    (fun h => h.setDie rfl)
    (fun h => h.upd (overwrite_dies ..) (overwrite_clusters ..))
  waits h := h.upd rfl rfl
  sticky h := h.upd rfl rfl
  queue h := h.upd rfl rfl

theorem stopKeeps_clock (u : State) (g : Nat) : StopKeeps g (SameClock u) where
  units h := h.upd rfl rfl
  thread h _ := h.upd rfl rfl
  headland h := h.upd rfl rfl
  free h := saveFree_keeps (queueKeeps_clock u).access (queueKeeps_clock u).waits h
  own h := h.upd rfl rfl
  drain h := ite_keeps (h.upd rfl rfl) h

namespace SameClock

/-! ## Faults -/

theorem modThread {f : Thread → Thread} (h : SameClock u s) : SameClock u (s.modThread r f) := h.upd rfl rfl
theorem modLaunch {l : Nat} {f : Launch → Launch} (h : SameClock u s) : SameClock u (s.modLaunch l f) := h.upd rfl rfl
theorem tick (h : SameClock u s) : SameClock u s.tick := h.upd rfl rfl
theorem record {c : Nat} {f : FaultInfo} {action : Nat} {ring : Option (Nat × Nat)} (h : SameClock u s) : SameClock u (s.record c f action ring) :=
  (queueKeeps_clock u).record h

theorem stopGroups {l : List Nat} (h : SameClock u s) : SameClock u (s.stopGroups l) := stopGroups_keeps (fun g _ => stopKeeps_clock u g) h

theorem stopAll {l k : Nat} {gs : List Nat} {f : Launch → Launch} {replay : Bool} (h : SameClock u s) :
    SameClock u (((s.modLaunch l f).stopGroups gs).dispose k replay) := (stopKeeps_clock u 0).dispose h.modLaunch.stopGroups

theorem endLaunch {l : Nat} (h : SameClock u s) : SameClock u (s.endLaunch l) := ite_keeps h h.stopAll
theorem rollback {l : Nat} {sector : Option Nat} (h : SameClock u s) : SameClock u (s.rollback l sector) := h.stopAll

theorem takeFault {c : Nat} {f : FaultInfo} (h : SameClock u s) : SameClock u (s.takeFault c f) := by
  unfold State.takeFault
  split
  · exact h.record
  · refine ite_keeps h.modLaunch.rollback (ite_keeps h.record (ite_keeps ?_ (ite_keeps h.record (ite_keeps h.record.endLaunch h.record.rollback))))
    split
    · exact (stopKeeps_clock u _).stopGroup h.record
    · exact h.record

theorem raiseFaults {all es : List LaneFault} {done : List Nat} (h : SameClock u s) : SameClock u (Machine.raiseFaults all es done s) := by
  induction es generalizing done s with
  | nil => exact h
  | cons e es ih => exact ite_keeps (ih h) (ih h.takeFault)

/-! ## Views of memory (R213 to R220) -/

theorem wakeAt {n : Nat} (h : SameClock u s) : SameClock u (s.wakeAt n r) := h.upd rfl rfl
theorem wake (h : SameClock u s) : SameClock u (s.wake r) := h.tick.wakeAt

theorem publish {scope : Nat} (h : SameClock u s) : SameClock u (s.publish r scope) := by
  have hdrop {d : Nat} {p : Nat → Bool} : SameClock u (s.dropCopies d p) := ite_keeps h (h.setDie rfl)
  exact modThread (ite_keeps h (ite_keeps hdrop.modThread h))

theorem refresh {scope : Nat} {needs : List Need} (h : SameClock u s) : SameClock u (s.refresh r scope needs) := by
  have hview {c : Nat} : SameClock u (s.refreshView c scope) := ite_keeps h (h.upd rfl rfl)
  exact ite_keeps (ite_keeps hview hview.modThread) h.modThread

theorem monwRead {n : Nat} (h : SameClock u s) : SameClock u (s.monwRead n r) := by
  unfold State.monwRead
  split
  · exact ite_keeps (refresh (modThread h.wakeAt)) h
  · exact h

theorem monwGo {n : Nat} {l : List TRef} (h : SameClock u s) : SameClock u (s.monwGo n l) := by
  induction l generalizing s with
  | nil => exact h
  | cons a l ih => exact ih h.monwRead

theorem homeWr {a : Nat} {bs : List Byte} (h : SameClock u s) : SameClock u (s.homeWr a bs) := by
  have hwr : SameClock u (s.wrs a bs) := h.upd rfl rfl
  have hreads {l : List TRef} : SameClock u ((s.wrs a bs).monwReads l) := by
    unfold State.monwReads
    split
    · exact hwr
    · exact hwr.tick.monwGo
  exact hreads

theorem storeBytes {c a : Nat} {bs : List Byte} (h : SameClock u s) : SameClock u (s.storeBytes c r a bs) := by
  induction bs generalizing s a with
  | nil => exact h
  | cons b bs ih => exact ih (ite_keeps h.homeWr (h.upd rfl rfl))

theorem storeSpans {c : Nat} {l : List (Nat × Nat)} {bs : List Byte} (h : SameClock u s) : SameClock u (s.storeSpans c r l bs) := by
  induction l generalizing s bs with
  | nil => exact h
  | cons a l ih => exact ih h.storeBytes

theorem storeSpan {p : Place} {bs : List Byte} (h : SameClock u s) : SameClock u (s.storeSpan r p bs) := by
  unfold State.storeSpan
  split
  · exact h.storeSpans
  · unfold State.storeAt
    split
    · exact h.storeBytes
    · exact h.upd rfl rfl
    · exact h

theorem viewBytes {c a n : Nat} (h : SameClock u s) : SameClock u (s.viewBytes c r a n).1 := h.viewed (viewBytes_viewed ..)

theorem viewSpans {c : Nat} {l : List (Nat × Nat)} (h : SameClock u s) : SameClock u (s.viewSpans c r l).1 := by
  induction l generalizing s with
  | nil => exact h
  | cons a l ih => exact ih h.viewBytes

theorem loadAt {p : Place} {n : Nat} (h : SameClock u s) : SameClock u (s.loadAt r p n).1 := by
  unfold State.loadAt
  extract_lets -underBinder
  split
  · exact h.viewBytes
  · exact h
  · exact h
  · exact h

theorem copyBytes {src dst : DWord} {n : Nat} (h : SameClock u s) : SameClock u (s.copyBytes r src dst n) := by
  unfold State.copyBytes
  split
  · refine storeSpan ?_
    split
    · exact h.viewSpans
    · exact h.loadAt
  · exact h

/-! ## Waiters at channels (R251, R261) -/

theorem monitor {core ctx source v : Nat} (h : SameClock u s) : SameClock u (s.monitor core ctx source v) := ite_keeps (h.setCluster rfl) h
theorem issueVal {v : BitVec 7} {n val : Nat} (h : SameClock u s) : SameClock u (s.issueVal r v n val) := h.upd rfl rfl
theorem setChan {g ch : Nat} {c : Chan} (h : SameClock u s) : SameClock u (s.setChan g ch c) := h.upd rfl rfl
theorem reserve {ch : Nat} (h : SameClock u s) : SameClock u (s.reserve r ch) := h.setChan.monitor

theorem doPop {ch : Nat} {dst : DWord} {d : BitVec 7} {v : Nat} {dc : ChanDecl} (h : SameClock u s) : SameClock u (s.doPop r ch dst d v dc) :=
  h.refresh.copyBytes.setChan.issueVal

theorem doPush {ch : Nat} {src : DWord} {dc : ChanDecl} (h : SameClock u s) : SameClock u (s.doPush r ch src dc) :=
  h.reserve.copyBytes.publish.setChan

theorem copyServed {src p : DWord} {n : Nat} (h : SameClock u s) (ht : SameClock u t) : OptOk (SameClock u) (s.copyServed r src p n t) := by
  unfold State.copyServed
  split
  · exact raiseFaults h.modThread
  · exact ite_keeps trivial ht.wake

theorem serveOne {g ch : Nat} (h : SameClock u s) : OptOk (SameClock u) (s.serveOne g ch) := by
  unfold State.serveOne
  split
  · exact trivial
  · extract_lets -underBinder c a b
    clear_value a b
    split
    · split
      · exact h.copyServed h.doPop
      · exact trivial
    · split
      · exact wake (issueVal h.reserve)
      · exact h.copyServed h.doPush
      · exact trivial
    · exact trivial

theorem serve {g ch n : Nat} (h : SameClock u s) : SameClock u (s.serve g ch n) := by
  induction n generalizing s with
  | zero => exact h
  | succ n ih =>
    refine ite_keeps h ?_
    split
    · next e => exact ih (h.serveOne.some e)
    · exact h

theorem serveAll (h : SameClock u s) : SameClock u s.serveAll := foldl_keeps h fun _ _ ht => foldl_keeps ht fun _ _ hv => hv.serve

/-! ## Grants, and what the hub owes (R248, R349) -/

theorem leaveAt {n scope : Nat} (h : SameClock u s) : SameClock u (s.leaveAt n r scope) :=
  refresh (ite_keeps (modThread h.wakeAt.monitor) h.wakeAt.monitor)

theorem leaveAll {n scope : Nat} {l : List TRef} (h : SameClock u s) : SameClock u (s.leaveAll n scope l) := by
  induction l generalizing s with
  | nil => exact h
  | cons a l ih => exact ih h.leaveAt

theorem freeGrants {l : List Grant} (h : SameClock u s) : SameClock u (s.freeGrants l) := by
  induction l generalizing s with
  | nil => exact h
  | cons g l ih => exact ih (ite_keeps h h.tick.leaveAll)

theorem ringDoor {fn q v : Nat} (h : SameClock u s) : SameClock u (s.ringDoor fn q v) := by
  have hQ := queueKeeps_clock u
  exact ite_keeps h (hQ.settleQueue (hQ.rereadAll (ite_keeps (hQ.updQueue h) (hQ.updQueue h))))

theorem doOwed {o : Owed} (h : SameClock u s) : SameClock u (s.doOwed o) := by
  have hQ := queueKeeps_clock u
  unfold State.doOwed
  split
  · exact toRing_keeps hQ.access hQ.sticky h
  · exact hQ.access.areaFree_self h
  · exact hQ.access.post_self h
  · exact h.ringDoor

theorem payOwed {l : List Owed} (h : SameClock u s) : SameClock u (s.payOwed l) := by
  induction l generalizing s with
  | nil => exact h
  | cons o l ih => exact ih (orOwe_keeps (queueKeeps_clock u).access (queueKeeps_clock u).waits h fun _ ht => ht.doOwed)

theorem afterRelock {d : Nat} (h : SameClock u s) : SameClock u (s.afterRelock d) := by
  have hfree {gs rest : List Grant} : SameClock u (State.freeGrants { s with granted := rest } gs) := freeGrants (h.upd rfl rfl)
  exact serveAll (payOwed (hfree.upd rfl rfl))

end SameClock
end Sys2Proof.Machine
end

section
/-! RELOCK_END, BOOST_FALL_STEP and PERMIT_REFILL (R349, R350). -/

namespace Sys2Proof.Machine

variable {s t u : State} {d : Nat}

/-! ## The end of a relock (R349) -/

/-- A cluster runs at a frequency. -/
def State.runAt (s : State) (p : Nat × Nat) : State := if (s.cluster p.1).mhz = p.2 then s else s.setCluster p.1 { s.cluster p.1 with mhz := p.2 }

/-- The clusters of a die run at the frequencies of its goal. -/
def State.installMhz (s : State) (d : Nat) : State := ((clustersOf d).zip (s.die d).goal.2).foldl State.runAt s

theorem runAt_same (s : State) (p : Nat × Nat) : ((s.runAt p).cluster p.1).mhz = p.2 := by
  unfold State.runAt
  split
  · next h => exact h
  · rw [cluster_setCluster]

theorem runAt_ne (s : State) (p : Nat × Nat) {k : Nat} (hk : k ≠ p.1) : (s.runAt p).cluster k = s.cluster k := by
  unfold State.runAt
  split
  · rfl
  · exact cluster_setCluster_ne _ _ hk

theorem foldl_runAt_ne {l : List (Nat × Nat)} {k : Nat} (hk : k ∉ l.map Prod.fst) : (l.foldl State.runAt s).cluster k = s.cluster k := by
  induction l generalizing s with
  | nil => rfl
  | cons p l ih =>
    obtain ⟨hp, hl⟩ := not_or.mp (mt List.mem_cons.mpr hk)
    rw [List.foldl_cons, ih hl, runAt_ne s p hp]

theorem foldl_runAt {l : List (Nat × Nat)} (hl : (l.map Prod.fst).Nodup) {p : Nat × Nat} (hp : p ∈ l) : ((l.foldl State.runAt s).cluster p.1).mhz = p.2 := by
  induction l generalizing s with
  | nil => cases hp
  | cons q l ih =>
    obtain ⟨hq, hl⟩ := List.nodup_cons.mp hl
    rw [List.foldl_cons]
    rcases List.mem_cons.mp hp with rfl | hp
    · rw [foldl_runAt_ne hq, runAt_same]
    · exact ih hl hp

theorem installMhz_only (s : State) (d : Nat) : OnlyClusters s (s.installMhz d) := foldl_keeps (.refl s) fun _ _ ht => ite_keeps ht ht.setCluster

theorem installMhz_mhz (s : State) (hgoal : (s.die d).goal.2.length = 16) {i : Nat} (hi : i < 16) :
    ((s.installMhz d).cluster (16 * d + i)).mhz = (s.die d).goal.2.getD i 0 := by
  unfold State.installMhz
  generalize (s.die d).goal.2 = g at hgoal ⊢
  have hlen : (clustersOf d).length = 16 := by simp [clustersOf]
  have hkeys : ((clustersOf d).zip g).map Prod.fst = clustersOf d := List.map_fst_zip (by rw [hlen, hgoal])
  have hmem : (16 * d + i, g.getD i 0) ∈ (clustersOf d).zip g := by
    refine List.mem_iff_getElem.mpr ⟨i, by rw [List.length_zip, hlen, hgoal]; exact hi, ?_⟩
    simp [clustersOf, List.getD_eq_getElem?_getD, List.getElem?_eq_getElem (hgoal.symm ▸ hi)]
  exact foldl_runAt (hkeys.symm ▸ clustersOf_nodup d) hmem

/-- The die once a relock has ended. -/
def State.relockedDie (s : State) (d : Nat) : Die :=
  let di := s.die d
  let fast (s : State) : Bool := (clustersOf d).any fun cl => decide (20 < (s.cluster cl).mhz)
  { di with f := di.goal.1, relock := none, rawFrac := 0, nominal := di.nominal + 5000 * 65536,
            refillAt := if fast s && !fast (s.installMhz d) then (s.installMhz d).refTimer else di.refillAt }

/-- The state once a relock has ended: falls are settled, and a further relock may start. -/
def State.relocked (s : State) (d : Nat) : State := (((s.installMhz d).setDie d (s.relockedDie d)).settleFalls d).relockIf d

theorem relockEnd_early (h : (s.die d).relock = none ∨ ∃ x, (s.die d).relock = some x ∧ s.refTimer < x) : exec (.relockEnd d) s = .next s := by
  change execRelockEnd d s = _
  unfold execRelockEnd
  refine if_pos ?_
  rcases h with h | ⟨x, h, hx⟩
  · rw [h]; rfl
  · rw [h]; exact decide_eq_true hx

theorem relockEnd_due {x : Nat} (h : (s.die d).relock = some x) (hx : x ≤ s.refTimer) :
    exec (.relockEnd d) s = .next (if (s.relocked d).runs d then (s.relocked d).afterRelock d else s.relocked d) := by
  change execRelockEnd d s = _
  unfold execRelockEnd
  refine if_neg ?_
  rw [h, Option.map_some, Option.getD_some, decide_eq_true_eq]
  exact Nat.not_lt.mpr hx

/-- The second state differs from the first in nothing but dies, clusters and cores. -/
def OnlyClocks (u s : State) : Prop := s = { u with dies := s.dies, clusters := s.clusters, cores := s.cores }

theorem OnlyClocks.trans {v : State} (h : OnlyClocks u s) (h' : OnlyClocks s v) : OnlyClocks u v := by
  unfold OnlyClocks at h h' ⊢
  generalize v.dies = a, v.clusters = b, v.cores = c at h' ⊢
  generalize s.dies = a', s.clusters = b', s.cores = c' at h
  rw [h', h]

theorem OnlyClusters.clocks (h : OnlyClusters u s) : OnlyClocks u s := by
  unfold OnlyClusters at h
  generalize s.clusters = b at h
  rw [h]
  rfl

theorem onlyClocks_setDie (s : State) (d : Nat) (x : Die) : OnlyClocks s (s.setDie d x) := rfl

theorem relocked_parts (s : State) (d : Nat) : OnlyClocks s (s.relocked d) :=
  (((installMhz_only s d).clocks.trans (onlyClocks_setDie ..)).trans (settleFalls_only ..).clocks).trans (relockIf_parts ..)

theorem OnlyClocks.parts (h : OnlyClocks u s) : s.mem = u.mem ∧ s.groups = u.groups ∧ s.launches = u.launches ∧ s.owed = u.owed ∧ s.granted = u.granted := by
  rw [h]
  exact ⟨rfl, rfl, rfl, rfl, rfl⟩

theorem relocked_still (s : State) (d : Nat) : ((s.relocked d).die d).still = (s.relockedDie d).still := by
  unfold State.relocked
  rw [relockIf_die, (settleFalls_only _ d).die, die_setDie]

theorem relocked_relock (s : State) (d : Nat) : ((s.relocked d).die d).relock = none ∨ ((s.relocked d).die d).relock = some (s.refTimer + 2500) := by
  have hfalls := settleFalls_only ((s.installMhz d).setDie d (s.relockedDie d)) d
  have hnone : ((((s.installMhz d).setDie d (s.relockedDie d)).settleFalls d).die d).relock = none := by
    rw [hfalls.die, die_setDie]
    rfl
  have htime : (((s.installMhz d).setDie d (s.relockedDie d)).settleFalls d).refTimer = s.refTimer := by
    rw [hfalls.refTimer, State.setDie_refTimer, (installMhz_only s d).refTimer]
  have h := relockIf_relock (((s.installMhz d).setDie d (s.relockedDie d)).settleFalls d) d
  rw [hnone, htime] at h
  exact h.imp_right And.right

theorem Cluster.mhz_of_steady {x y : Cluster} (h : x.steady = y.steady) : x.mhz = y.mhz := (congrArg Cluster.mhz h :)

theorem relocked_mhz (s : State) (hgoal : (s.die d).goal.2.length = 16) {i : Nat} (hi : i < 16) :
    ((s.relocked d).cluster (16 * d + i)).mhz = (s.die d).goal.2.getD i 0 := by
  have hsteady : ((s.relocked d).cluster (16 * d + i)).steady = (((s.installMhz d).setDie d (s.relockedDie d)).cluster (16 * d + i)).steady :=
    (Cluster.steady_of_still (relockIf_cluster ..)).trans (settleFalls_cluster ..)
  rw [Cluster.mhz_of_steady hsteady]
  exact installMhz_mhz s hgoal hi

theorem relockedDie_clock (s : State) (d : Nat) : (s.relockedDie d).f = (s.die d).goal.1 ∧ (s.relockedDie d).raw = (s.die d).raw ∧
    (s.relockedDie d).nominal = (s.die d).nominal + 2 * 2500 * 65536 := ⟨rfl, rfl, rfl⟩

/-- What follows a relock leaves its clocks. -/
theorem resumed_clock (u : State) (d : Nat) : SameClock u (if u.runs d = true then u.afterRelock d else u) :=
  ite_keeps (SameClock.refl u).afterRelock (.refl u)

theorem Die.of_clock {x y : Die} (h : x.clock = y.clock) : x.f = y.f ∧ x.relock = y.relock ∧ x.raw = y.raw ∧ x.nominal = y.nominal :=
  ⟨(congrArg (·.1) h :), (congrArg (·.2.1) h :), (congrArg (·.2.2.1) h :), (congrArg (·.2.2.2) h :)⟩

theorem relockEnd_acts {x : Nat} (h : (s.die d).relock = some x) (hx : x ≤ s.refTimer) (hgoal : (s.die d).goal.2.length = 16) :
    ∃ u t, exec (.relockEnd d) s = .next t ∧ u.mem = s.mem ∧ u.groups = s.groups ∧ u.launches = s.launches ∧ u.owed = s.owed ∧ u.granted = s.granted ∧
      t = (if u.runs d = true then u.afterRelock d else u) ∧ (t.die d).f = (s.die d).goal.1 ∧
      (t.die d).nominal = (s.die d).nominal + 2 * 2500 * 65536 ∧ (t.die d).raw = (s.die d).raw ∧
      ((t.die d).relock = none ∨ (t.die d).relock = some (s.refTimer + 2500)) ∧ ∀ i < 16, (t.cluster (16 * d + i)).mhz = (s.die d).goal.2.getD i 0 := by
  obtain ⟨hmem, hgroups, hlaunches, howed, hgranted⟩ := (relocked_parts s d).parts
  have hrelock := relocked_relock s d
  have hmhz (i : Nat) (hi : i < 16) := relocked_mhz s hgoal hi
  obtain ⟨hf, hraw, hnominal, -⟩ := Die.of_still (relocked_still s d)
  obtain ⟨hf', hraw', hnominal'⟩ := relockedDie_clock s d
  have hrun := relockEnd_due h hx
  generalize s.relocked d = u at hmem hgroups hlaunches howed hgranted hrelock hmhz hf hraw hnominal hrun
  obtain ⟨hdie, hcluster⟩ := resumed_clock u d
  obtain ⟨cf, crelock, craw, cnominal⟩ := Die.of_clock (hdie d)
  refine ⟨u, _, hrun, hmem, hgroups, hlaunches, howed, hgranted, rfl, cf.trans (hf.trans hf'),
    cnominal.trans (hnominal.trans hnominal'), craw.trans (hraw.trans hraw'), ?_, fun i hi => (hcluster _).trans (hmhz i hi)⟩
  rw [crelock]
  exact hrelock

/-! ## A fall's first step (R350) -/

/-- The clusters of a die whose fall's first step ends. -/
def State.fallsDue (s : State) (d : Nat) : List Nat :=
  (clustersOf d).filter fun cl => (s.cluster cl).fall = 2 && decide ((s.cluster cl).fallAt ≤ s.refTimer)

/-- Clusters whose falls are set. -/
def State.setFalls (s : State) (l : List Nat) (v : Nat) : State := l.foldl (fun s cl => s.setCluster cl { s.cluster cl with fall := v }) s

/-- The state after the first steps of falls end. -/
def State.fallen (s : State) (d : Nat) : State :=
  let t := (s.setFalls (s.fallsDue d) 3).relockIf d
  if (t.die d).relock.isSome then t else t.setFalls (s.fallsDue d) 0

theorem mem_fallsDue {i : Nat} (hi : i < 16) :
    16 * d + i ∈ s.fallsDue d ↔ (s.cluster (16 * d + i)).fall = 2 ∧ (s.cluster (16 * d + i)).fallAt ≤ s.refTimer := by
  simp only [State.fallsDue, List.mem_filter, Bool.and_eq_true, decide_eq_true_eq, and_iff_right_iff_imp]
  exact fun _ => mem_clustersOf.mpr ⟨i, hi, rfl⟩

theorem fallsDue_nil_iff : s.fallsDue d = [] ↔ ∀ i < 16, ¬((s.cluster (16 * d + i)).fall = 2 ∧ (s.cluster (16 * d + i)).fallAt ≤ s.refTimer) := by
  rw [List.eq_nil_iff_forall_not_mem]
  refine ⟨fun h i hi hfall => h _ ((mem_fallsDue hi).mpr hfall), fun h k hk => ?_⟩
  obtain ⟨i, hi, rfl⟩ := mem_clustersOf.mp (List.mem_filter.mp hk).1
  exact h i hi ((mem_fallsDue hi).mp hk)

theorem fallsDue_nodup (s : State) (d : Nat) : (s.fallsDue d).Nodup := (clustersOf_nodup d).filter _

theorem setFalls_step (u : State) (v : Nat) :
    ClusterStep u (fun _ c => { c with fall := v }) fun s cl => s.setCluster cl { s.cluster cl with fall := v } := clusterStep_set fun _ _ _ => rfl

theorem setFalls_only (s : State) (l : List Nat) (v : Nat) : OnlyClusters s (s.setFalls l v) := foldl_onlyClusters (setFalls_step s v) (.refl s)

theorem setFalls_cluster (s : State) {l : List Nat} (hl : l.Nodup) (v k : Nat) :
    (s.setFalls l v).cluster k = if k ∈ l then { s.cluster k with fall := v } else s.cluster k := foldl_cluster (setFalls_step s v) hl (.refl s) k

theorem boostFall_waits (h : s.fallsDue d = [] ∨ s.runs d = false) : exec (.boostFallStep d) s = .next s := by
  change execBoostFallStep d s = _
  unfold execBoostFallStep
  refine if_pos ?_
  rw [Bool.or_eq_true, List.isEmpty_iff, Bool.not_eq_true']
  exact h

theorem boostFall_due (h : s.fallsDue d ≠ []) (hruns : s.runs d = true) : exec (.boostFallStep d) s = .next (s.fallen d) := by
  change execBoostFallStep d s = _
  unfold execBoostFallStep
  refine if_neg ?_
  rw [Bool.or_eq_true, List.isEmpty_iff, Bool.not_eq_true', hruns]
  exact fun hor => hor.elim h nofun

theorem Cluster.of_still {x y : Cluster} (h : x.still = y.still) : x.mhz = y.mhz ∧ x.fall = y.fall :=
  ⟨(congrArg Cluster.mhz h :), (congrArg Cluster.fall h :)⟩

/-- Clusters whose falls were set, once a relock may have started. -/
theorem setFalls_relockIf (s : State) {l : List Nat} (hl : l.Nodup) (v k : Nat) :
    (((s.setFalls l v).relockIf d).cluster k).mhz = (s.cluster k).mhz ∧
      (((s.setFalls l v).relockIf d).cluster k).fall = if k ∈ l then v else (s.cluster k).fall := by
  have hstill := relockIf_cluster (s.setFalls l v) d k
  rw [setFalls_cluster s hl] at hstill
  obtain ⟨hmhz, hfall⟩ := Cluster.of_still hstill
  rw [hmhz, hfall]
  split <;> exact ⟨rfl, rfl⟩

theorem fallen_mem (s : State) (d : Nat) : (s.fallen d).mem = s.mem := by
  have hrelock : ((s.setFalls (s.fallsDue d) 3).relockIf d).mem = s.mem := by
    rw [relockIf_parts]
    exact (setFalls_only ..).mem
  unfold State.fallen
  exact ite_keeps (P := fun t : State => t.mem = s.mem) hrelock ((setFalls_only ..).mem.trans hrelock)

theorem fallen_eq (s : State) (d : Nat) : s.fallen d = if (((s.setFalls (s.fallsDue d) 3).relockIf d).die d).relock.isSome
    then (s.setFalls (s.fallsDue d) 3).relockIf d else ((s.setFalls (s.fallsDue d) 3).relockIf d).setFalls (s.fallsDue d) 0 := rfl

theorem fallen_cluster (s : State) (d k : Nat) : ((s.fallen d).cluster k).mhz = (s.cluster k).mhz ∧
    (k ∈ s.fallsDue d → ((s.fallen d).cluster k).fall = if ((s.fallen d).die d).relock.isSome then 3 else 0) ∧
    (k ∉ s.fallsDue d → ((s.fallen d).cluster k).fall = (s.cluster k).fall) := by
  have hnodup := fallsDue_nodup s d
  obtain ⟨hmhz, hfall⟩ := setFalls_relockIf (d := d) s hnodup 3 k
  have hset := setFalls_cluster ((s.setFalls (s.fallsDue d) 3).relockIf d) hnodup 0 k
  have hdie := (setFalls_only ((s.setFalls (s.fallsDue d) 3).relockIf d) (s.fallsDue d) 0).die d
  rw [fallen_eq]
  generalize (s.setFalls (s.fallsDue d) 3).relockIf d = t at hmhz hfall hset hdie ⊢
  by_cases hsome : (t.die d).relock.isSome = true
  · rw [if_pos hsome, if_pos hsome, hmhz, hfall]
    exact ⟨rfl, fun hk => if_pos hk, fun hk => if_neg hk⟩
  · rw [if_neg hsome, hdie, hset, if_neg hsome]
    exact ⟨by split <;> exact hmhz, fun hk => by rw [if_pos hk], fun hk => by rw [if_neg hk, hfall, if_neg hk]⟩

/-! ## Permits that come back (R350) -/

theorem permit_waits (h : (∃ i < 16, 20 < (s.cluster (16 * d + i)).mhz) ∨ s.refTimer < (s.die d).refillAt + 25000) :
    exec (.permitRefill d) s = .next s := by
  change execPermitRefill d s = _
  unfold execPermitRefill
  refine if_pos (h.imp_left ?_)
  rintro ⟨i, hi, hfast⟩
  exact List.any_eq_true.mpr ⟨_, mem_clustersOf.mpr ⟨i, hi, rfl⟩, decide_eq_true hfast⟩

theorem permit_refills (hslow : ¬∃ i < 16, 20 < (s.cluster (16 * d + i)).mhz) (h : (s.die d).refillAt + 25000 ≤ s.refTimer) :
    exec (.permitRefill d) s = .next (s.setDie d { s.die d with pool := min 64 ((s.die d).pool + 1), refillAt := (s.die d).refillAt + 25000 }) := by
  change execPermitRefill d s = _
  unfold execPermitRefill
  refine if_neg ?_
  rintro (hany | hearly)
  · obtain ⟨k, hk, hfast⟩ := List.any_eq_true.mp hany
    obtain ⟨i, hi, rfl⟩ := mem_clustersOf.mp hk
    exact hslow ⟨i, hi, of_decide_eq_true hfast⟩
  · omega

end Sys2Proof.Machine
end

section
/-! Power, the rack cap, samples of the mid-rail, and HANG (R74, R75, R82, R351, R352, R355). -/

namespace Sys2Proof.Machine

variable {s t u : State} {c : Nat}

/-! ## Power (R351) -/

theorem powerPeriod_early {watts : Nat} (h : s.refTimer < s.powerAt + 10000) : exec (.powerPeriod watts) s = .next s := by
  change execPowerPeriod watts s = _
  unfold execPowerPeriod
  exact if_pos h

theorem powerPeriod_acts {watts : Nat} (h : s.powerAt + 10000 ≤ s.refTimer) : exec (.powerPeriod watts) s = .next { s with
    powerAt := s.powerAt + 10000
    copyLimit := if 10000 * s.budget < 10000 * watts + s.burnPower then max (64 * 1024) (s.copyLimit - s.copyLimit / 8)
      else if 100 * (10000 * watts + s.burnPower) < 95 * (10000 * s.budget) then min (4 * 1024 * 1024) (s.copyLimit + s.copyLimit / 8) else s.copyLimit } := by
  change execPowerPeriod watts s = _
  unfold execPowerPeriod
  rw [if_neg (Nat.not_lt.mpr h), Nat.mul_comm 100]

/-! ## The rack cap (R352) -/

theorem bits_eq_extract (msg : BitVec 64) (hi lo w : Nat) (hw : hi - lo + 1 = w) : bits msg.toNat hi lo = (msg.extractLsb' lo w).toNat := by
  rw [BitVec.extractLsb'_toNat, bits, hw]

/-- A message is newer than the last that was taken. -/
def State.newerCap (s : State) (msg : BitVec 64) : Prop :=
  let seq := msg.extractLsb' 0 32
  s.cap.stage = 0 ∨ 1 ≤ (seq - .ofNat 32 s.cap.seq).toNat ∧ (seq - .ofNat 32 s.cap.seq).toNat ≤ 2 ^ 31 - 1

theorem seqGap_eq (seq : BitVec 32) (n : Nat) : (seq - .ofNat 32 n).toNat = (seq.toNat + (2 ^ 32 - n % 2 ^ 32)) % 2 ^ 32 := by
  rw [BitVec.toNat_sub, BitVec.toNat_ofNat, Nat.add_comm]

/-- A message newer than the last, as the step asks for it. -/
theorem newerCap_iff (s : State) (msg : BitVec 64) : (decide (s.cap.stage = 0) ||
    (decide (1 ≤ ((msg.extractLsb' 0 32).toNat + (2 ^ 32 - s.cap.seq % 2 ^ 32)) % 2 ^ 32) &&
      decide (((msg.extractLsb' 0 32).toNat + (2 ^ 32 - s.cap.seq % 2 ^ 32)) % 2 ^ 32 ≤ 2 ^ 31 - 1))) = true ↔ s.newerCap msg := by
  rw [State.newerCap, seqGap_eq, Bool.or_eq_true, Bool.and_eq_true, decide_eq_true_eq, decide_eq_true_eq, decide_eq_true_eq]

theorem rackCap_runs (s : State) (msg : BitVec 64) : exec (.rackCapMessage msg) s =
    if (msg.extractLsb' 48 16).toNat = 0 ∨ (!(decide (s.cap.stage = 0) ||
        (decide (1 ≤ ((msg.extractLsb' 0 32).toNat + (2 ^ 32 - s.cap.seq % 2 ^ 32)) % 2 ^ 32) &&
          decide (((msg.extractLsb' 0 32).toNat + (2 ^ 32 - s.cap.seq % 2 ^ 32)) % 2 ^ 32 ≤ 2 ^ 31 - 1)))) = true then .next s
    else .next { s with
      cap := { stage := 1, cap := min 2400 (max 600 (msg.extractLsb' 32 16).toNat), seq := (msg.extractLsb' 0 32).toNat,
               due := s.refTimer + 1000000 * (msg.extractLsb' 48 16).toNat }
      budget := min 2400 (max 600 (msg.extractLsb' 32 16).toNat) } := by
  change execRackCapMessage msg s = _
  unfold execRackCapMessage
  simp only [bits_eq_extract msg 63 48 16 rfl, bits_eq_extract msg 47 32 16 rfl, bits_eq_extract msg 31 0 32 rfl]

theorem rackCap_stale {msg : BitVec 64} (h : ¬s.newerCap msg) : exec (.rackCapMessage msg) s = .next s := by
  rw [rackCap_runs]
  refine if_pos (.inr ?_)
  rw [Bool.not_eq_true', ← Bool.not_eq_true]
  exact mt (newerCap_iff s msg).mp h

theorem rackCap_taken {msg : BitVec 64} (hexpiry : (msg.extractLsb' 48 16).toNat ≠ 0) (h : s.newerCap msg) : exec (.rackCapMessage msg) s = .next { s with
    budget := max 600 (min 2400 (msg.extractLsb' 32 16).toNat)
    cap := { stage := 1, cap := max 600 (min 2400 (msg.extractLsb' 32 16).toNat), seq := (msg.extractLsb' 0 32).toNat,
             due := s.refTimer + 1000000 * (msg.extractLsb' 48 16).toNat } } := by
  have hclamp (n : Nat) : max 600 (min 2400 n) = min 2400 (max 600 n) := by omega
  rw [rackCap_runs, if_neg, hclamp]
  rw [(newerCap_iff s msg).mpr h]
  exact fun hor => hor.elim hexpiry nofun

theorem capExpiry_idle (h : s.cap.stage ≠ 1 ∨ s.refTimer < s.cap.due) : exec .capExpiry s = .next s := by
  change execCapExpiry s = _
  unfold execCapExpiry
  exact if_pos h

theorem capExpiry_acts (hstage : s.cap.stage = 1) (hdue : s.cap.due ≤ s.refTimer) : exec .capExpiry s = .next { s with
    budget := (s.cap.cap + s.floor) / 2
    cap := { s.cap with stage := 2, due := s.cap.due + 1000000 } } := by
  change execCapExpiry s = _
  unfold execCapExpiry
  exact if_neg (by omega)

theorem capFloor_idle (h : s.cap.stage ≠ 2 ∨ s.refTimer < s.cap.due) : exec .capFloorStep s = .next s := by
  change execCapFloorStep s = _
  unfold execCapFloorStep
  exact if_pos h

theorem capFloor_acts (hstage : s.cap.stage = 2) (hdue : s.cap.due ≤ s.refTimer) :
    exec .capFloorStep s = .next { s with budget := s.floor, cap := { s.cap with stage := 3 } } := by
  change execCapFloorStep s = _
  unfold execCapFloorStep
  exact if_neg (by omega)

/-! ## Samples of the mid-rail (R82) -/

/-- A stack holds a group of a context. -/
def State.stackHolds (s : State) (c k : Nat) : Prop :=
  ∃ g < s.groups.length, ((s.group g).state = .resident ∨ (s.group g).state = .halting) ∧ (s.group g).core / 2 = k ∧ s.ctxOf g = c

theorem mem_coreLive {g k : Nat} : g ∈ s.coreLive k ↔
    g < s.groups.length ∧ ((s.group g).state = .resident ∨ (s.group g).state = .halting) ∧ (s.group g).core = k := by
  simp only [State.coreLive, State.live, List.mem_filter, List.mem_range, Bool.and_eq_true, Bool.or_eq_true, decide_eq_true_eq]

theorem stackLive_any (s : State) (c k : Nat) : ((s.stackLive k).any fun g => s.ctxOf g = c) = true ↔ s.stackHolds c k := by
  have hcore (n : Nat) : n / 2 = k ↔ n = lowerOf k ∨ n = upperOf k := by
    unfold lowerOf upperOf
    omega
  simp only [State.stackLive, List.any_eq_true, List.mem_append, mem_coreLive, decide_eq_true_eq, State.stackHolds, hcore]
  refine exists_congr fun g => ⟨?_, ?_⟩
  · rintro ⟨⟨hg, hlive, hc⟩ | ⟨hg, hlive, hc⟩, hctx⟩
    · exact ⟨hg, hlive, .inl hc, hctx⟩
    · exact ⟨hg, hlive, .inr hc, hctx⟩
  · rintro ⟨hg, hlive, hc | hc, hctx⟩
    · exact ⟨.inl ⟨hg, hlive, hc⟩, hctx⟩
    · exact ⟨.inr ⟨hg, hlive, hc⟩, hctx⟩

theorem exec_monitorSample (s : State) (cl n : Nat) : exec (.monitorSample cl n) s = execMonitorSample cl n s := rfl

theorem sample_idle {cl n : Nat} (hm : ((s.cluster cl).monitors.getD n {}).ctx = some c)
    (h : ((s.cluster cl).monitors.getD n {}).enable = false ∨ ((s.cluster cl).monitors.getD n {}).source ≠ 5 ∨
      s.cycles cl < ((s.cluster cl).monitors.getD n {}).sampledAt + 64) : exec (.monitorSample cl n) s = .next s := by
  rw [exec_monitorSample]
  unfold execMonitorSample
  dsimp only
  rw [hm]
  exact if_pos (h.imp_left not_eq_true_of)

theorem sample_acts {cl n : Nat} (hm : ((s.cluster cl).monitors.getD n {}).ctx = some c) (hen : ((s.cluster cl).monitors.getD n {}).enable = true)
    (hsrc : ((s.cluster cl).monitors.getD n {}).source = 5) (hdue : ((s.cluster cl).monitors.getD n {}).sampledAt + 64 ≤ s.cycles cl) :
    let m := (s.cluster cl).monitors.getD n {}
    exec (.monitorSample cl n) s = .next (s.setCluster cl { s.cluster cl with
      monitors := (s.cluster cl).monitors.set n (((s.sampledStacks cl c m.cores).map fun k => (s.stack k).abs).foldl Monitor.count1
        { m with sampledAt := m.sampledAt + 64 }) }) := by
  intro m
  rw [exec_monitorSample, List.foldl_map]
  unfold execMonitorSample
  dsimp only
  rw [hm]
  refine if_neg ?_
  rintro (h | h | h)
  · exact not_not_of hen h
  · exact h hsrc
  · omega

theorem sampledStacks_eq (s : State) (cl c cores : Nat) (holds : Nat → Bool) (hholds : ∀ k, holds k = true ↔ s.stackHolds c k) :
    s.sampledStacks cl c cores = ((List.range 3).map (3 * cl + ·)).filter fun k =>
      holds k && (cores = 0 || cores.testBit (2 * k % 6) || cores.testBit ((2 * k + 1) % 6)) := by
  unfold State.sampledStacks
  refine List.filter_congr fun k _ => ?_
  have hk : ((s.stackLive k).any fun g => s.ctxOf g = c) = holds k := by rw [Bool.eq_iff_iff, stackLive_any, hholds]
  rw [hk]
  rfl

/-! ## HANG (R74, R75) -/

/-- The record of HANG. -/
def State.hangInfo (s : State) (c : Nat) : FaultInfo :=
  { code := 0x1A, kind := 4, d0 := (s.ctx c).hangbuf, d1 := if (s.ctx c).hangbuf = 0 then 0 else (s.graph c).length }

/-- The state with the record of HANG. -/
def State.hangRecord (s : State) (c : Nat) : State :=
  s.record c (s.hangInfo c) (((s.hung c).map fun l => actionOf (s.launch l) 0x1A).foldl max 0) none

/-- The state with the graph, too. -/
def State.hangGraph (s : State) (c : Nat) : State :=
  if (s.ctx c).hangbuf = 0 then s.hangRecord c else (s.hangRecord c).virtPut c (s.ctx c).hangbuf ((s.graph c).flatMap (bytesOf 16))

/-- The counter starts again. -/
def State.hangNoted (s : State) (c : Nat) : State := (s.hangGraph c).tick.setCtx c { (s.hangGraph c).ctx c with headland := 0 }

theorem graph_length_le (s : State) (c : Nat) : (s.graph c).length ≤ 4096 := List.length_take_le ..

theorem hang_idle (h : (s.ctx c).state = .free ∨ (s.ctx c).headland < 2 ^ (s.ctx c).hlog) : exec (.hang c) s = .next s := by
  change execHang c s = _
  unfold execHang
  exact if_pos h

theorem hubStep_congr {f f' : State → State} (h : f s = f' s) : hubStep f s = hubStep f' s := by
  unfold hubStep
  rw [h]

theorem hang_runs (hfree : (s.ctx c).state ≠ .free) (hcount : 2 ^ (s.ctx c).hlog ≤ (s.ctx c).headland) :
    exec (.hang c) s = .next (hubStep (fun _ => (s.hung c).foldl State.hangAct (s.hangNoted c)) s) := by
  change execHang c s = _
  unfold execHang
  refine (if_neg (not_or.mpr ⟨hfree, Nat.not_lt.mpr hcount⟩)).trans (congrArg Host.Outcome.next (hubStep_congr ?_))
  unfold State.hangNoted State.hangGraph State.hangRecord State.hangInfo
  rw [List.foldl_map]

theorem hangGraph_hub (s : State) (c : Nat) : HubOnly s (s.hangGraph c) :=
  ite_keeps (hubOnly_record (.refl s)) (hubOnly_virtPut (hubOnly_record (.refl s)))

theorem Ctx.sticky_of_outer {x y : Ctx} (h : x.outer = y.outer) : x.sticky = y.sticky := (congrArg Ctx.sticky h :)

theorem virtPut_sticky (s : State) (c d va : Nat) (bs : List Byte) : ((s.virtPut d va bs).ctx c).sticky = (s.ctx c).sticky :=
  Ctx.sticky_of_outer ((accessKeeps_outer c (s.ctx c).outer).virtPut_self rfl)

theorem hangGraph_sticky (s : State) (c : Nat) : ((s.hangGraph c).ctx c).sticky = ((s.hangRecord c).ctx c).sticky := by
  unfold State.hangGraph
  split
  · rfl
  · exact virtPut_sticky ..

theorem hangGraph_mem (s : State) (c : Nat) : (s.hangGraph c).mem =
    if (s.ctx c).hangbuf = 0 then (s.hangRecord c).mem else ((s.hangRecord c).virtPut c (s.ctx c).hangbuf ((s.graph c).flatMap (bytesOf 16))).mem := by
  unfold State.hangGraph
  split <;> rfl

theorem hangNoted_parts (s : State) (c : Nat) : ((s.hangNoted c).ctx c).headland = 0 ∧ ((s.hangNoted c).ctx c).sticky = ((s.hangRecord c).ctx c).sticky ∧
    (s.hangNoted c).groups = s.groups ∧ (s.hangNoted c).launches = s.launches ∧ (s.hangNoted c).mem = (s.hangGraph c).mem := by
  have hhub := hangGraph_hub s c
  have hsticky := hangGraph_sticky s c
  unfold State.hangNoted
  generalize s.hangGraph c = w at hhub hsticky ⊢
  refine ⟨by rw [ctx_setCtx], ?_, hhub.groups, hhub.launches, rfl⟩
  rw [ctx_setCtx]
  exact hsticky

/-- HANG acts as a step of the hub does: on all the launches of its context, or on none while a home that it writes relocks. -/
theorem hang_acts (hfree : (s.ctx c).state ≠ .free) (hcount : 2 ^ (s.ctx c).hlog ≤ (s.ctx c).headland) :
    let v := (s.hung c).foldl State.hangAct (s.hangNoted c)
    (hubHeld s v → exec (.hang c) s = .next s) ∧ (¬hubHeld s v → exec (.hang c) s = .next v) := by
  intro v
  have hrun : exec (.hang c) s = .next (hubStep (fun _ => v) s) := hang_runs hfree hcount
  exact ⟨fun h => hrun.trans (congrArg Host.Outcome.next (hubStep_held (f := fun _ => v) h.1 h.2)),
    fun h => hrun.trans (congrArg Host.Outcome.next (if_neg (mt (hubHeld_iff s v).mp h)))⟩

theorem hangAct_report {l : Nat} (h : actionOf (s.launch l) 0x1A = 0) : s.hangAct l = s := by
  simp only [State.hangAct, h]

theorem hangAct_end {l : Nat} (h : actionOf (s.launch l) 0x1A = 2) : s.hangAct l = s.endLaunch l := by
  simp only [State.hangAct, h]

theorem hangAct_replay {l : Nat} (h : actionOf (s.launch l) 0x1A = 3) : s.hangAct l = s.rollback l none := by
  simp only [State.hangAct, h]

end Sys2Proof.Machine
end

section
open Sys2Proof Sys2Proof.Machine

/-- Settles O47, event by event: a boundary and the end of a relock by what each part of the step leaves of the clocks, the others from their definitions. -/
theorem clocksAndPower : Obligations.ClocksAndPower := by
  unfold Obligations.ClocksAndPower
  refine ⟨fun s d => ⟨boundary_waits, boundary_acts⟩, fun s d => ⟨relockEnd_early, fun x => relockEnd_acts, ?_, ?_, permit_waits, ?_⟩, fun s watts msg => ?_,
    fun s cl u c hm => ⟨sample_idle hm, fun hen hsrc hdue => ?_⟩, fun s c => ⟨hang_idle, fun hfree hcount => ?_, fun l => ⟨hangAct_report, hangAct_end, hangAct_replay⟩⟩⟩
  · exact fun h => boostFall_waits (h.imp_left fallsDue_nil_iff.mpr)
  · rintro ⟨i, hi, hfall⟩ hruns
    refine ⟨s.fallen d, boostFall_due (fun hnil => fallsDue_nil_iff.mp hnil i hi hfall) hruns, fallen_mem s d, fun i hi => ?_⟩
    obtain ⟨hmhz, hdue, hnot⟩ := fallen_cluster s d (16 * d + i)
    exact ⟨hmhz, fun h => hdue ((mem_fallsDue hi).mpr h), fun h => hnot (mt (mem_fallsDue hi).mp h)⟩
  · exact fun hslow hdue => ⟨_, permit_refills hslow hdue, .refl .., fun x hx => die_setDie_ne _ _ hx, die_setDie ..⟩
  · exact ⟨powerPeriod_early, powerPeriod_acts, ⟨rackCap_taken, rackCap_stale⟩, capExpiry_idle, capExpiry_acts, capFloor_idle, capFloor_acts⟩
  · intro holdsOne ks
    have hks := sampledStacks_eq s cl c ((s.cluster cl).monitors.getD u {}).cores holdsOne fun k => decide_eq_true_iff
    have hrun := sample_acts hm hen hsrc hdue
    dsimp only at hrun
    rw [hks] at hrun
    exact ⟨_, hrun, .refl .., fun x hx => cluster_setCluster_ne _ _ hx, cluster_setCluster ..⟩
  · intro es hung info w
    obtain ⟨hheadland, hsticky, hgroups, hlaunches, hmem⟩ := hangNoted_parts s c
    exact ⟨graph_length_le s c, s.hangNoted c, hheadland, hsticky, hgroups, hlaunches, hmem.trans (hangGraph_mem s c), hang_acts hfree hcount⟩

end
